-- ==== Sys2Proof/Word.lean ====
section
/-! DEFINITION. The word types of the WNX architecture (R2, R30, R49). -/

namespace Sys2Proof

/-- One byte of memory (R2). -/
abbrev Byte := BitVec 8
/-- A vector register's value on one lane (R10, R138). -/
abbrev W32 := BitVec 32
/-- A uniform register, a CSR or an address (R49, R182). -/
abbrev W64 := BitVec 64
/-- A 7-bit register field code (R49). -/
abbrev Reg := BitVec 7
/-- A lane mask: bit j is lane `lid` j (R121, R123). -/
abbrev Mask := BitVec 128

end Sys2Proof
end

