-- ==== Sys2Proof/Syntax.lean ====
section
/-! DEFINITION. Every instruction of the opcode map (R52) and every step of the device that
spec/opcode_table.json lists without an encoding, one constructor a row. -/

namespace Sys2Proof

/-- The compute-class fields of a word that stands before an instruction (R44, R45, R46). -/
structure PfxC where
  g : BitVec 3
  gn : Bool
  saf : BitVec 3
  sap : BitVec 3
  sbf : BitVec 3
  sbp : BitVec 3
  dnf : BitVec 3
  dnp : BitVec 3
  rm : BitVec 3
  deriving DecidableEq, Repr

/-- The memory-class fields (R44, R47). -/
structure PfxM where
  g : BitVec 3
  gn : Bool
  offx : BitVec 8
  scope : BitVec 3
  order : BitVec 2
  hint : BitVec 3
  deriving DecidableEq, Repr

/-- The matrix-class fields (R44, R48). -/
structure PfxX where
  g : BitVec 3
  gn : Bool
  scale : Reg
  sb : BitVec 3
  deriving DecidableEq, Repr

/-- The guard-only fields (R44). -/
structure PfxG where
  g : BitVec 3
  gn : Bool
  deriving DecidableEq, Repr

/-- The prefix word that stands before an instruction, by the class that its opcode gives (R43, R44). -/
inductive Pfx where
  | none
  | c (p : PfxC)
  | m (p : PfxM)
  | x (p : PfxX)
  | g (p : PfxG)
  deriving DecidableEq, Repr

/-- The prefix class of an instruction (R52). -/
inductive PClass where
  | none
  | c
  | m
  | x
  | g
  deriving DecidableEq, Repr

/-- A warp, named by its global core number and its hardware context slot (R9, R23, R320). -/
structure WRef where
  core : Nat
  slot : Nat
  deriving DecidableEq, Repr

/-- The two views of a register block: the physical function's BAR0 and the supervisor MMIO aperture (R75). -/
inductive View where
  | bar0
  | mmio
  deriving DecidableEq, Repr

/-- A register that has no step of its own and that the host, the supervisor or the firmware writes
(R75, R351, R359, R370, R374). -/
inductive RegAddr where
  /-- the register at byte offset `off` of queue `q`'s block (R75) -/
  | queue (q off : Nat)
  /-- CSR `n` through the CSR window (R374) -/
  | csr (n : Nat)
  /-- machine CSR `n` of quarter `q`, written by firmware (R359) -/
  | machine (q n : Nat)
  /-- the 8-byte word at offset `off` of peer entry `p` (R351) -/
  | peer (p off : Nat)
  /-- the consumer count of the partition error log (R370) -/
  | errHead
  deriving DecidableEq, Repr

/-- What the host reads (R75, R351, R370, R374). -/
inductive HostRead where
  /-- `n` bytes through the memory window -/
  | mem (pa n : Nat)
  /-- a register -/
  | reg (r : RegAddr)
  /-- the register at an offset of the error log's own block -/
  | log (off : Nat)
  /-- an event counter (R78) -/
  | event (e : Nat)
  /-- RDY (R353, R359) -/
  | rdy
  deriving DecidableEq, Repr

/-- The outcome of the self-test product that a tun runs after each product (R250). -/
inductive TunCheck where
  | pass
  | oneGroup
  | twoGroups
  deriving DecidableEq, Repr

/-- A unit: by its number where its RDY bit is set (R359, R368), by its physical number where it holds a site (R8, R369). -/
inductive UnitId where
  | stack (s : Nat)
  | cluster (c : Nat)
  | port (p : Nat)
  /-- core `k` of cluster `c`, both by their physical numbers -/
  | core (c k : Nat)
  deriving DecidableEq, Repr

/-- The kinds of site that the health monitors count (R369). -/
inductive SiteKind where
  | hbmRow
  | sramRow
  | linkLane
  | routerBuffer
  deriving DecidableEq, Repr

/-- A site of R369: its kind, the 64-bit name that the error log gives it (R370), and the unit that holds it. -/
structure Site where
  kind : SiteKind
  name : Nat
  unit : UnitId
  deriving DecidableEq, Repr

/-- A firmware stage image as the boot ROM reads it (R366). -/
structure BootImage where
  bytes : List Byte
  signature : List Byte
  version : Nat
  last : Bool
  deriving DecidableEq, Repr

/-- A collective frame: the 32-byte header of R352 and its data, with the peer it came from or goes to. -/
structure Frame where
  peer : Nat
  kind : Nat
  handle : Nat
  epoch : Nat
  inst : Nat
  src : Nat
  dst : Nat
  stepNo : Nat
  seq : Nat
  offset : Nat
  ack : Nat
  sack : BitVec 32
  data : List Byte
  deriving DecidableEq, Repr

/-- The device's steps that have no instruction word, with what each acts on. The host, the network and the firmware
put theirs into the state's inbox; the device's own are found by the step (95_what_each_step_holds.md). -/
inductive Event where
  | commit (w : WRef)
  | qtail (q : Nat) (v : BitVec 32) (view : View)
  | resume (q : Nat) (view : View)
  | skip (q : Nat) (view : View)
  | register_write (r : RegAddr) (v : BitVec 64) (view : View)
  | event_counter_write (e : Nat) (v : BitVec 64)
  | record_accept (q : Nat)
  | grid_start (g : Nat)
  | placement_pass
  | head_gang_reserve
  | donation (g cluster : Nat)
  | reserved_inject (w : WRef)
  | carveout_interval
  | warp_retire (w : WRef)
  | block_retire (g bid : Nat)
  | grid_complete (g : Nat)
  | parked_placement
  | copy_unit (cluster : Nat)
  | copy_completion (cluster : Nat)
  | product_start (gcore strip : Nat)
  | product_land (gcore strip : Nat) (check : TunCheck)
  | lock_release_arrive
  | lock_grant
  | lock_timeout (w : WRef)
  | inherit_hop (w : WRef)
  | racq_timeout (w : WRef)
  | split_timeout (w : WRef)
  | fuse_timeout (w : WRef)
  | sleep_expiry (w : WRef)
  | safepoint_force (w : WRef)
  | swap_image_write (u : Nat)
  | restore
  | unit_kill (u : Nat)
  | tlbi_complete
  | record_post
  | aged (w : WRef)
  | coll_instance_end (handle gcore : Nat)
  | coll_timeout (handle gcore : Nat)
  | data (f : Frame)
  | counts (f : Frame)
  | ack (f : Frame)
  | abort_frame (f : Frame)
  | retransmit (peer : Nat)
  | pause (port : Nat) (on : Bool)
  | host_write (pa : Nat) (bytes : List Byte)
  | host_read (r : HostRead)
  | merge_request (q : Nat)
  | divide_request (q : Nat)
  | device_reset
  | boot_stage (die : Nat) (image : BootImage)
  | partition_reset (q : Nat)
  | attestation_report (nonce : List Byte)
  | unit_ready (u : UnitId)
  | corrected_error (site : Site) (spare : Bool)
  | kiln_replan (cluster margin : Nat)
  | thermal_stop
  | thermal_resume
  | power_throttle (pct : Nat)
  deriving DecidableEq, Repr

/-- The instructions, and one constructor for each step of the device (its operands stand in `Event`). Register fields are
codes of R49; the fields are those of spec/opcode_table.json in its order, less the bung, which every word carries (R30). -/
inductive Instr where
  | iadd (d a b : Reg)
  | isub (d a b : Reg)
  | imin (d a b : Reg)
  | imax (d a b : Reg)
  | umin (d a b : Reg)
  | umax (d a b : Reg)
  | iabsd (d a b : Reg)
  | iavg (d a b : Reg)
  | iadds (d a b : Reg)
  | isubs (d a b : Reg)
  | uadds (d a b : Reg)
  | usubs (d a b : Reg)
  | imul (d a b : Reg)
  | imulh (d a b : Reg)
  | umulh (d a b : Reg)
  | imad (d a b : Reg)
  | and (d a b : Reg)
  | or (d a b : Reg)
  | xor (d a b : Reg)
  | andn (d a b : Reg)
  | orn (d a b : Reg)
  | xnor (d a b : Reg)
  | shl (d a b : Reg)
  | shr (d a b : Reg)
  | sar (d a b : Reg)
  | rol (d a b : Reg)
  | popc (d a : Reg)
  | clz (d a : Reg)
  | brev (d a : Reg)
  | bfx (d a b : Reg)
  | bfi (d a b : Reg)
  | prmb (d a b : Reg)
  | iaddi (d a : Reg) (i : BitVec 7)
  | andi (d a : Reg) (i : BitVec 7)
  | ori (d a : Reg) (i : BitVec 7)
  | xori (d a : Reg) (i : BitVec 7)
  | shli (d a : Reg) (i : BitVec 5)
  | shri (d a : Reg) (i : BitVec 5)
  | sari (d a : Reg) (i : BitVec 5)
  | roli (d a : Reg) (i : BitVec 5)
  | imini (d a : Reg) (i : BitVec 7)
  | imaxi (d a : Reg) (i : BitVec 7)
  | movl (d : Reg) (i : BitVec 18)
  | movhi (d : Reg) (i : BitVec 18)
  | icmp (c : BitVec 4) (d : BitVec 3) (a b : Reg)
  | icmpi (c : BitVec 4) (d : BitVec 3) (a : Reg) (i : BitVec 7)
  | mov (d a : Reg)
  | sel (n : BitVec 3) (d a b : Reg)
  | pand (d a b : BitVec 3)
  | por (d a b : BitVec 3)
  | pxor (d a b : BitVec 3)
  | pnot (d a : BitVec 3)
  | ptov (d : Reg)
  | vtop (a b : Reg)
  | qand (d a b : BitVec 3)
  | qor (d a b : BitVec 3)
  | qxor (d a b : BitVec 3)
  | qnot (d a : BitVec 3)
  | sadd (d a b : Reg)
  | ssub (d a b : Reg)
  | smul (d a b : Reg)
  | smulhu (d a b : Reg)
  | smin (d a b : Reg)
  | smax (d a b : Reg)
  | sminu (d a b : Reg)
  | smaxu (d a b : Reg)
  | sand (d a b : Reg)
  | sor (d a b : Reg)
  | sxor (d a b : Reg)
  | sshl (d a b : Reg)
  | sshr (d a b : Reg)
  | ssar (d a b : Reg)
  | spopc (d a : Reg)
  | sclz (d a : Reg)
  | saddi (d a : Reg) (i : BitVec 7)
  | sandi (d a : Reg) (i : BitVec 7)
  | sori (d a : Reg) (i : BitVec 7)
  | sxori (d a : Reg) (i : BitVec 7)
  | sshli (d a : Reg) (i : BitVec 6)
  | sshri (d a : Reg) (i : BitVec 6)
  | ssari (d a : Reg) (i : BitVec 6)
  | scmp (c : BitVec 4) (d : BitVec 3) (a b : Reg)
  | scmpi (c : BitVec 4) (d : BitVec 3) (a : Reg) (i : BitVec 7)
  | vany (d a : BitVec 3)
  | vall (d a : BitVec 3)
  | ballot (d : Reg) (a : BitVec 3)
  | vcnt (d : Reg) (a : BitVec 3)
  | vfirst (d : Reg) (a : BitVec 3)
  | rdlane (d a b : Reg)
  | wrlane (d a b : Reg)
  | lget_idx (d a b : Reg)
  | lget_up (d a : Reg) (k : BitVec 7)
  | lget_dn (d a : Reg) (k : BitVec 7)
  | lget_xor (d a b : Reg)
  | lget_wxor (d a : Reg) (k : BitVec 3)
  | lget_wrot (d a : Reg) (k : BitVec 3)
  | radd (d a : Reg)
  | rmin (d a : Reg)
  | rmax (d a : Reg)
  | rumin (d a : Reg)
  | rumax (d a : Reg)
  | rfadd (d a : Reg)
  | rfmin (d a : Reg)
  | rfmax (d a : Reg)
  | scan_add (d a : Reg)
  | scan_fadd (d a : Reg)
  | rstep_add (d a b : Reg)
  | rstep_fadd (d a b : Reg)
  | rstep_fmax (d a b : Reg)
  | fadd (d a b : Reg)
  | fsub (d a b : Reg)
  | fmul (d a b : Reg)
  | fma (d a b : Reg)
  | fnma (d a b : Reg)
  | fmin (d a b : Reg)
  | fmax (d a b : Reg)
  | fabs (d a : Reg)
  | fneg (d a : Reg)
  | fcpys (d a b : Reg)
  | fmov (d a : Reg)
  | frnd (d a : Reg)
  | fclass (d a : Reg)
  | fscale (d a b : Reg)
  | frcp (d a : Reg)
  | frsq (d a : Reg)
  | fsqrt (d a : Reg)
  | fex2 (d a : Reg)
  | flg2 (d a : Reg)
  | fsin (d a : Reg)
  | fcos (d a : Reg)
  | ftanh (d a : Reg)
  | hadd2 (d a b : Reg)
  | hmul2 (d a b : Reg)
  | hfma2 (d a b : Reg)
  | hmin2 (d a b : Reg)
  | hmax2 (d a b : Reg)
  | hadd2_bf (d a b : Reg)
  | hmul2_bf (d a b : Reg)
  | hfma2_bf (d a b : Reg)
  | hmin2_bf (d a b : Reg)
  | hmax2_bf (d a b : Reg)
  | fcmp (c d : BitVec 3) (a b : Reg)
  | f2i (d a : Reg)
  | f2z (d a : Reg)
  | i2f (d a : Reg)
  | z2f (d a : Reg)
  | pkh2 (d a b : Reg)
  | pkbf2 (d a b : Reg)
  | f2l (d a : Reg)
  | l2f (d a : Reg)
  | bexp (d a : Reg)
  | bq_8 (d a b : Reg)
  | bq_6 (d a b : Reg)
  | bq_4 (d a b : Reg)
  | bq_2 (d a b : Reg)
  | bdq_8 (d a b : Reg)
  | bdq_6 (d a b : Reg)
  | bdq_4 (d a b : Reg)
  | bdq_2 (d a b : Reg)
  | ld (s : BitVec 3) (i : BitVec 1) (d a b : Reg)
  | st (s : BitVec 3) (i : BitVec 1) (d a b : Reg)
  | ldf6 (d a b : Reg)
  | ldloc_w (d a b : Reg)
  | ldloc_d (d a b : Reg)
  | ldloc_q (d a b : Reg)
  | stp (s : BitVec 3) (d a b : Reg)
  | rsdef (d a b : Reg)
  | rsadd (d a b : Reg)
  | rsdel (d a b : Reg)
  | rsqry (d a b : Reg)
  | unpark (a : Reg)
  | atom_add (d a b : Reg)
  | atom_min (d a b : Reg)
  | atom_max (d a b : Reg)
  | atom_umin (d a b : Reg)
  | atom_umax (d a b : Reg)
  | atom_and (d a b : Reg)
  | atom_or (d a b : Reg)
  | atom_xor (d a b : Reg)
  | atom_xchg (d a b : Reg)
  | atom_cas (d a b : Reg)
  | atom_fadd (d a b : Reg)
  | atom_bfadd2 (d a b : Reg)
  | atom_inc (d a b : Reg)
  | atom_add64 (d a b : Reg)
  | atom_cas64 (d a b : Reg)
  | llock (d a b : Reg)
  | ltry (d a : Reg)
  | lunlk (d a : Reg)
  | lqry (d a : Reg)
  | labnd (d a : Reg)
  | nbwait (i : BitVec 4) (b : Reg)
  | nbarv (i : BitVec 4) (b : Reg)
  | gbwait (b : Reg)
  | abinit (a b : Reg)
  | abarv (d a b : Reg)
  | abwait (a b : Reg)
  | abtest (d a b : Reg)
  | fence (k : BitVec 2) (s : BitVec 3) (f t : BitVec 4)
  | pref (a b : Reg)
  | cwb (a b : Reg)
  | cinv (a b : Reg)
  | cpy (t : BitVec 6) (a b : Reg)
  | cpy2d (t : BitVec 6) (a b : Reg)
  | cpybs (t : BitVec 6) (a b : Reg)
  | bsz (t : BitVec 6) (a b : Reg)
  | mcrd (t : BitVec 6) (a b : Reg)
  | twall (a : Reg)
  | twany (a : Reg)
  | tff (d a : Reg)
  | tclr (a : Reg)
  | trd (d : Reg)
  | mma (z : BitVec 1) (x : BitVec 2) (y : BitVec 1) (d a b : Reg)
  | mxst (d : Reg)
  | bra (n : BitVec 1) (p : BitVec 3) (o : BitVec 20)
  | brv (n : BitVec 1) (p : BitVec 3) (o : BitVec 20)
  | call (n : BitVec 1) (p : BitVec 3) (o : BitVec 20)
  | brx (a b : Reg)
  | loop (e : BitVec 7) (a : Reg) (e2 : BitVec 7)
  | brxv (a b : Reg)
  | split (d a : Reg)
  | fuse (d a : Reg)
  | fuse_r (d a : Reg)
  | sleep (a : Reg)
  | iqry (d : Reg)
  | racq (d a b : Reg)
  | rrel (d a : Reg)
  | wbase (a : Reg)
  | launch (d a b : Reg)
  | lwait (d a b : Reg)
  | safept (i : BitVec 18)
  | trap (a : Reg)
  | csrr (d : Reg) (c : BitVec 14)
  | csrw (d : Reg) (c : BitVec 14)
  | csrs (d : Reg) (c : BitVec 14)
  | csrc (d : Reg) (c : BitVec 14)
  | clock (d : Reg)
  | tlbi (a b : Reg)
  | bswap (d a b : Reg)
  | bresume (d a b : Reg)
  | coll (d a b : Reg)
  | cinit (d a b : Reg)
  | cqry (d a : Reg)
  | seed (a : Reg)
  | ret
  | join
  | nop
  | yield
  | exit
  | refill
  | exitw
  | trig
  | eret
  | tlbsync
  | commit
  | qtail
  | resume
  | skip
  | register_write
  | event_counter_write
  | record_accept
  | grid_start
  | placement_pass
  | head_gang_reserve
  | donation
  | reserved_inject
  | carveout_interval
  | warp_retire
  | block_retire
  | grid_complete
  | parked_placement
  | copy_unit
  | copy_completion
  | product_start
  | product_land
  | lock_release_arrive
  | lock_grant
  | lock_timeout
  | inherit_hop
  | racq_timeout
  | split_timeout
  | fuse_timeout
  | sleep_expiry
  | safepoint_force
  | swap_image_write
  | restore
  | unit_kill
  | tlbi_complete
  | record_post
  | aged
  | coll_instance_end
  | coll_timeout
  | data
  | counts
  | ack
  | abort_frame
  | retransmit
  | pause
  | host_write
  | host_read
  | merge_request
  | divide_request
  | device_reset
  | boot_stage
  | partition_reset
  | attestation_report
  | unit_ready
  | corrected_error
  | kiln_replan
  | thermal_stop
  | thermal_resume
  | power_throttle
  deriving DecidableEq, Repr

/-- The step that an event is. -/
def Event.instr (e : Event) : Instr :=
  match e with
  | .commit .. => .commit
  | .qtail .. => .qtail
  | .resume .. => .resume
  | .skip .. => .skip
  | .register_write .. => .register_write
  | .event_counter_write .. => .event_counter_write
  | .record_accept .. => .record_accept
  | .grid_start .. => .grid_start
  | .placement_pass => .placement_pass
  | .head_gang_reserve => .head_gang_reserve
  | .donation .. => .donation
  | .reserved_inject .. => .reserved_inject
  | .carveout_interval => .carveout_interval
  | .warp_retire .. => .warp_retire
  | .block_retire .. => .block_retire
  | .grid_complete .. => .grid_complete
  | .parked_placement => .parked_placement
  | .copy_unit .. => .copy_unit
  | .copy_completion .. => .copy_completion
  | .product_start .. => .product_start
  | .product_land .. => .product_land
  | .lock_release_arrive => .lock_release_arrive
  | .lock_grant => .lock_grant
  | .lock_timeout .. => .lock_timeout
  | .inherit_hop .. => .inherit_hop
  | .racq_timeout .. => .racq_timeout
  | .split_timeout .. => .split_timeout
  | .fuse_timeout .. => .fuse_timeout
  | .sleep_expiry .. => .sleep_expiry
  | .safepoint_force .. => .safepoint_force
  | .swap_image_write .. => .swap_image_write
  | .restore => .restore
  | .unit_kill .. => .unit_kill
  | .tlbi_complete => .tlbi_complete
  | .record_post => .record_post
  | .aged .. => .aged
  | .coll_instance_end .. => .coll_instance_end
  | .coll_timeout .. => .coll_timeout
  | .data .. => .data
  | .counts .. => .counts
  | .ack .. => .ack
  | .abort_frame .. => .abort_frame
  | .retransmit .. => .retransmit
  | .pause .. => .pause
  | .host_write .. => .host_write
  | .host_read .. => .host_read
  | .merge_request .. => .merge_request
  | .divide_request .. => .divide_request
  | .device_reset => .device_reset
  | .boot_stage .. => .boot_stage
  | .partition_reset .. => .partition_reset
  | .attestation_report .. => .attestation_report
  | .unit_ready .. => .unit_ready
  | .corrected_error .. => .corrected_error
  | .kiln_replan .. => .kiln_replan
  | .thermal_stop => .thermal_stop
  | .thermal_resume => .thermal_resume
  | .power_throttle .. => .power_throttle

/-- The prefix class that the opcode map gives each instruction (R52). -/
def Instr.pclass (i : Instr) : PClass :=
  match i with
  | .iadd .. | .isub .. | .imin .. | .imax .. | .umin .. | .umax .. | .iabsd .. | .iavg .. | .iadds .. | .isubs ..
  | .uadds .. | .usubs .. | .imul .. | .imulh .. | .umulh .. | .imad .. | .and .. | .or .. | .xor .. | .andn ..
  | .orn .. | .xnor .. | .shl .. | .shr .. | .sar .. | .rol .. | .popc .. | .clz .. | .brev .. | .bfx .. | .bfi ..
  | .prmb .. | .iaddi .. | .andi .. | .ori .. | .xori .. | .shli .. | .shri .. | .sari .. | .roli .. | .imini ..
  | .imaxi .. | .icmp .. | .icmpi .. | .mov .. | .sel .. | .radd .. | .rmin .. | .rmax .. | .rumin .. | .rumax ..
  | .rfadd .. | .rfmin .. | .rfmax .. | .scan_add .. | .scan_fadd .. | .rstep_add .. | .rstep_fadd .. | .rstep_fmax ..
  | .fadd .. | .fsub .. | .fmul .. | .fma .. | .fnma .. | .fmin .. | .fmax .. | .fabs .. | .fneg .. | .fcpys ..
  | .fmov .. | .frnd .. | .fclass .. | .fscale .. | .frcp .. | .frsq .. | .fsqrt .. | .fex2 .. | .flg2 .. | .fsin ..
  | .fcos .. | .ftanh .. | .hadd2 .. | .hmul2 .. | .hfma2 .. | .hmin2 .. | .hmax2 .. | .hadd2_bf .. | .hmul2_bf ..
  | .hfma2_bf .. | .hmin2_bf .. | .hmax2_bf .. | .fcmp .. | .f2i .. | .f2z .. | .i2f .. | .z2f .. | .pkh2 .. | .pkbf2 ..
  | .f2l .. | .l2f .. | .bexp .. | .bq_8 .. | .bq_6 .. | .bq_4 .. | .bq_2 .. | .bdq_8 .. | .bdq_6 .. | .bdq_4 ..
  | .bdq_2 .. => .c
  | .ld .. | .st .. | .ldf6 .. | .ldloc_w .. | .ldloc_d .. | .ldloc_q .. | .stp .. | .atom_add .. | .atom_min ..
  | .atom_max .. | .atom_umin .. | .atom_umax .. | .atom_and .. | .atom_or .. | .atom_xor .. | .atom_xchg ..
  | .atom_cas .. | .atom_fadd .. | .atom_bfadd2 .. | .atom_inc .. | .atom_add64 .. | .atom_cas64 .. | .pref .. | .cwb ..
  | .cinv .. => .m
  | .mma .. => .x
  | .movl .. | .movhi .. | .pand .. | .por .. | .pxor .. | .pnot .. | .ptov .. | .vtop .. | .vany .. | .vall ..
  | .ballot .. | .vcnt .. | .vfirst .. | .rdlane .. | .wrlane .. | .lget_idx .. | .lget_up .. | .lget_dn ..
  | .lget_xor .. | .lget_wxor .. | .lget_wrot .. | .exit => .g
  | .qand .. | .qor .. | .qxor .. | .qnot .. | .sadd .. | .ssub .. | .smul .. | .smulhu .. | .smin .. | .smax ..
  | .sminu .. | .smaxu .. | .sand .. | .sor .. | .sxor .. | .sshl .. | .sshr .. | .ssar .. | .spopc .. | .sclz ..
  | .saddi .. | .sandi .. | .sori .. | .sxori .. | .sshli .. | .sshri .. | .ssari .. | .scmp .. | .scmpi .. | .rsdef ..
  | .rsadd .. | .rsdel .. | .rsqry .. | .unpark .. | .llock .. | .ltry .. | .lunlk .. | .lqry .. | .labnd ..
  | .nbwait .. | .nbarv .. | .gbwait .. | .abinit .. | .abarv .. | .abwait .. | .abtest .. | .fence .. | .cpy ..
  | .cpy2d .. | .cpybs .. | .bsz .. | .mcrd .. | .twall .. | .twany .. | .tff .. | .tclr .. | .trd .. | .mxst ..
  | .bra .. | .brv .. | .call .. | .ret | .join | .brx .. | .loop .. | .nop | .brxv .. | .split .. | .fuse ..
  | .fuse_r .. | .yield | .sleep .. | .refill | .iqry .. | .exitw | .racq .. | .rrel .. | .wbase .. | .launch ..
  | .lwait .. | .trig | .safept .. | .trap .. | .csrr .. | .csrw .. | .csrs .. | .csrc .. | .eret | .clock .. | .tlbi ..
  | .tlbsync | .bswap .. | .bresume .. | .coll .. | .cinit .. | .cqry .. | .seed .. | .commit | .qtail | .resume | .skip
  | .register_write | .event_counter_write | .record_accept | .grid_start | .placement_pass | .head_gang_reserve
  | .donation | .reserved_inject | .carveout_interval | .warp_retire | .block_retire | .grid_complete
  | .parked_placement | .copy_unit | .copy_completion | .product_start | .product_land | .lock_release_arrive
  | .lock_grant | .lock_timeout | .inherit_hop | .racq_timeout | .split_timeout | .fuse_timeout | .sleep_expiry
  | .safepoint_force | .swap_image_write | .restore | .unit_kill | .tlbi_complete | .record_post | .aged
  | .coll_instance_end | .coll_timeout | .data | .counts | .ack | .abort_frame | .retransmit | .pause | .host_write
  | .host_read | .merge_request | .divide_request | .device_reset | .boot_stage | .partition_reset | .attestation_report
  | .unit_ready | .corrected_error | .kiln_replan | .thermal_stop | .thermal_resume | .power_throttle => .none

/-- The run-terminal instructions (R38), which must carry the bung. -/
def Instr.terminal (i : Instr) : Bool :=
  match i with
  | .atom_add .. | .atom_min .. | .atom_max .. | .atom_umin .. | .atom_umax .. | .atom_and .. | .atom_or ..
  | .atom_xor .. | .atom_xchg .. | .atom_cas .. | .atom_fadd .. | .atom_bfadd2 .. | .atom_inc .. | .atom_add64 ..
  | .atom_cas64 .. | .llock .. | .ltry .. | .lunlk .. | .lqry .. | .labnd .. | .nbwait .. | .nbarv .. | .gbwait ..
  | .abinit .. | .abarv .. | .abwait .. | .abtest .. | .fence .. | .cpy .. | .cpy2d .. | .cpybs .. | .bsz .. | .mcrd ..
  | .mma .. | .bra .. | .brv .. | .call .. | .ret | .join | .brx .. | .loop .. | .nop | .brxv .. | .split .. | .fuse ..
  | .fuse_r .. | .yield | .sleep .. | .exit | .refill | .iqry .. | .exitw | .launch .. | .lwait .. | .trig | .trap ..
  | .csrw .. | .csrs .. | .csrc .. | .eret | .coll .. | .cinit .. | .cqry .. => true
  | .iadd .. | .isub .. | .imin .. | .imax .. | .umin .. | .umax .. | .iabsd .. | .iavg .. | .iadds .. | .isubs ..
  | .uadds .. | .usubs .. | .imul .. | .imulh .. | .umulh .. | .imad .. | .and .. | .or .. | .xor .. | .andn ..
  | .orn .. | .xnor .. | .shl .. | .shr .. | .sar .. | .rol .. | .popc .. | .clz .. | .brev .. | .bfx .. | .bfi ..
  | .prmb .. | .iaddi .. | .andi .. | .ori .. | .xori .. | .shli .. | .shri .. | .sari .. | .roli .. | .imini ..
  | .imaxi .. | .movl .. | .movhi .. | .icmp .. | .icmpi .. | .mov .. | .sel .. | .pand .. | .por .. | .pxor ..
  | .pnot .. | .ptov .. | .vtop .. | .qand .. | .qor .. | .qxor .. | .qnot .. | .sadd .. | .ssub .. | .smul ..
  | .smulhu .. | .smin .. | .smax .. | .sminu .. | .smaxu .. | .sand .. | .sor .. | .sxor .. | .sshl .. | .sshr ..
  | .ssar .. | .spopc .. | .sclz .. | .saddi .. | .sandi .. | .sori .. | .sxori .. | .sshli .. | .sshri .. | .ssari ..
  | .scmp .. | .scmpi .. | .vany .. | .vall .. | .ballot .. | .vcnt .. | .vfirst .. | .rdlane .. | .wrlane ..
  | .lget_idx .. | .lget_up .. | .lget_dn .. | .lget_xor .. | .lget_wxor .. | .lget_wrot .. | .radd .. | .rmin ..
  | .rmax .. | .rumin .. | .rumax .. | .rfadd .. | .rfmin .. | .rfmax .. | .scan_add .. | .scan_fadd .. | .rstep_add ..
  | .rstep_fadd .. | .rstep_fmax .. | .fadd .. | .fsub .. | .fmul .. | .fma .. | .fnma .. | .fmin .. | .fmax ..
  | .fabs .. | .fneg .. | .fcpys .. | .fmov .. | .frnd .. | .fclass .. | .fscale .. | .frcp .. | .frsq .. | .fsqrt ..
  | .fex2 .. | .flg2 .. | .fsin .. | .fcos .. | .ftanh .. | .hadd2 .. | .hmul2 .. | .hfma2 .. | .hmin2 .. | .hmax2 ..
  | .hadd2_bf .. | .hmul2_bf .. | .hfma2_bf .. | .hmin2_bf .. | .hmax2_bf .. | .fcmp .. | .f2i .. | .f2z .. | .i2f ..
  | .z2f .. | .pkh2 .. | .pkbf2 .. | .f2l .. | .l2f .. | .bexp .. | .bq_8 .. | .bq_6 .. | .bq_4 .. | .bq_2 ..
  | .bdq_8 .. | .bdq_6 .. | .bdq_4 .. | .bdq_2 .. | .ld .. | .st .. | .ldf6 .. | .ldloc_w .. | .ldloc_d .. | .ldloc_q ..
  | .stp .. | .rsdef .. | .rsadd .. | .rsdel .. | .rsqry .. | .unpark .. | .pref .. | .cwb .. | .cinv .. | .twall ..
  | .twany .. | .tff .. | .tclr .. | .trd .. | .mxst .. | .racq .. | .rrel .. | .wbase .. | .safept .. | .csrr ..
  | .clock .. | .tlbi .. | .tlbsync | .bswap .. | .bresume .. | .seed .. | .commit | .qtail | .resume | .skip
  | .register_write | .event_counter_write | .record_accept | .grid_start | .placement_pass | .head_gang_reserve
  | .donation | .reserved_inject | .carveout_interval | .warp_retire | .block_retire | .grid_complete
  | .parked_placement | .copy_unit | .copy_completion | .product_start | .product_land | .lock_release_arrive
  | .lock_grant | .lock_timeout | .inherit_hop | .racq_timeout | .split_timeout | .fuse_timeout | .sleep_expiry
  | .safepoint_force | .swap_image_write | .restore | .unit_kill | .tlbi_complete | .record_post | .aged
  | .coll_instance_end | .coll_timeout | .data | .counts | .ack | .abort_frame | .retransmit | .pause | .host_write
  | .host_read | .merge_request | .divide_request | .device_reset | .boot_stage | .partition_reset | .attestation_report
  | .unit_ready | .corrected_error | .kiln_replan | .thermal_stop | .thermal_resume | .power_throttle => false

end Sys2Proof
end

