-- ==== Sys2Proof/WellFormed.lean ====
section
/-! DEFINITION. What R53 makes ILLEGAL in a word beyond its fixed bits: register classes, alignments, narrow formats,
rounding codes, memory orders, scopes and hints, run-terminal and level rules aside. The decoder answers well-formed
instructions only. -/

namespace Sys2Proof

/-! ### Register classes (R49, R50) -/

/-- A vector code, 0-95. -/
def Reg.isV (c : Reg) : Bool := c.toNat < 96
/-- A uniform code, 96-119. -/
def Reg.isS (c : Reg) : Bool := 96 ≤ c.toNat && c.toNat < 120
/-- The zero register. -/
def Reg.isZ (c : Reg) : Bool := c.toNat == 120
/-- A vector code or z. -/
def Reg.isVz (c : Reg) : Bool := c.isV || c.isZ
/-- A vector code, a uniform code or z. -/
def Reg.isVu (c : Reg) : Bool := c.toNat ≤ 120
/-- A uniform code or z. -/
def Reg.isSz (c : Reg) : Bool := c.isS || c.isZ
/-- What a uniform instruction reads: a uniform code, z or the specials 123-126 (R150). -/
def Reg.isSu (c : Reg) : Bool := c.isSz || (123 ≤ c.toNat && c.toNat ≤ 126)
/-- A uniform code, z or any special 121-126 (R180). -/
def Reg.isSs (c : Reg) : Bool := 96 ≤ c.toNat && c.toNat ≤ 126
/-- What a vector instruction reads: every code but 127. -/
def Reg.isSrc (c : Reg) : Bool := c.toNat ≤ 126
/-- An even uniform register, s0 to s22, naming a pair. -/
def Reg.isSPair (c : Reg) : Bool := 96 ≤ c.toNat && c.toNat ≤ 118 && c.toNat % 2 == 0
/-- The base of an M-format word: a uniform code or an even vector code (R42). -/
def Reg.isBase (c : Reg) : Bool := c.isS || (c.toNat ≤ 94 && c.toNat % 2 == 0)
/-- An aligned vector group of `n` registers within 0-95, or one led by z (R50). -/
def Reg.isVGroup (c : Reg) (n : Nat) : Bool := c.isZ || (c.toNat % n == 0 && c.toNat + n ≤ 96)
/-- An aligned uniform group of `n` registers within s0-s23 (R215). -/
def Reg.isSGroup (c : Reg) (n : Nat) : Bool := 96 ≤ c.toNat && (c.toNat - 96) % n == 0 && c.toNat + n ≤ 120

/-! ### Narrow operands (R45) -/

/-- The class of a narrow field: the operand is never narrow, an integer, or a float. -/
inductive NClass where
  | none
  | int
  | flt
  deriving DecidableEq, Repr

/-- Whether format `f` at position `p` is a legal narrow field of class `c` (R45). -/
def NClass.ok (c : NClass) (f p : BitVec 3) : Bool :=
  match c with
  | .none => f == 0 && p == 0
  | .int =>
    if f.toNat == 0 then p == 0
    else if f.toNat ≤ 2 then p.toNat < 2
    else if f.toNat ≤ 4 then p.toNat < 4
    else f.toNat ≤ 6
  | .flt =>
    if f.toNat == 0 then p == 0
    else if f.toNat ≤ 2 then p.toNat < 2
    else if f.toNat ≤ 6 then p.toNat < 4
    else true

/-- A class C prefix word's fields fit the instruction: the narrow classes and whether it takes RM (R45, R46, R52). -/
def Pfx.okC (p : Pfx) (sa sb dn : NClass) (rm : Bool) : Bool :=
  match p with
  | .c p => sa.ok p.saf p.sap && sb.ok p.sbf p.sbp && dn.ok p.dnf p.dnp && p.rm.toNat < 7 && (rm || p.rm == 0)
  | _ => true

/-- Scope and hint codes that R47 allows. -/
def PfxM.codesOk (p : PfxM) : Bool := p.scope.toNat ≤ 5 && p.hint.toNat ≤ 4

/-- A class M prefix word's fields fit a load (`acq`), a store (`rel`) with or without an immediate offset (R47). -/
def Pfx.okM (p : Pfx) (acq rel imm : Bool) : Bool :=
  match p with
  | .m p => p.codesOk && (imm || p.offx == 0) && (p.order == 0 || (acq && p.order == 1) || (rel && p.order == 2))
  | _ => true

/-- A class M prefix word's fields fit an atomic: no offset, no hint, any order (R227). -/
def Pfx.okAtom (p : Pfx) : Bool :=
  match p with
  | .m p => p.scope.toNat ≤ 5 && p.hint == 0 && p.offx == 0
  | _ => true

/-- A class M prefix word's fields fit the CACHE group: plain, warp scope, no offset, a hint on `pref` only (R230). -/
def Pfx.okCache (p : Pfx) (hint : Bool) : Bool :=
  match p with
  | .m p => p.scope == 0 && p.order == 0 && p.offx == 0 && p.hint.toNat ≤ 4 && (hint || p.hint == 0)
  | _ => true

/-- A class X prefix word: no guard and a vector scale register (R48). -/
def Pfx.okX (p : Pfx) : Bool :=
  match p with
  | .x p => p.g.toNat == 7 && !p.gn && p.scale.isV
  | _ => true

/-! ### Memory operand groups (R214, R215, R216) -/

/-- How many vector registers an access of size code `s` takes. -/
def vecRegs (s : BitVec 3) : Nat := if s.toNat ≤ 4 then 1 else if s.toNat == 5 then 2 else if s.toNat == 6 then 4 else 8
/-- How many uniform registers a uniform load of size code `s` takes. -/
def uniRegs (s : BitVec 3) : Nat := if s.toNat ≤ 5 then 1 else if s.toNat == 6 then 2 else 4

/-- `ld` (R214, R215): a vector group or z, or a uniform group with uniform address operands and no guard. -/
def wfLd (x : Pfx) (s : BitVec 3) (i : BitVec 1) (d a b : Reg) : Bool :=
  x.okM true false (i == 1) && a.isBase &&
  (if d.isS then
    d.isSGroup (uniRegs s) && a.isS && (i == 1 || b.isSz) &&
      (match x with | .m p => p.g.toNat == 7 | _ => true)
   else d.isVGroup (vecRegs s) && (i == 1 || b.isSrc))

/-- `st` (R216): sizes b, h, w, d, q and o; a vector group, z, or a uniform register for b to d. -/
def wfStData (s : BitVec 3) (d : Reg) : Bool :=
  s.toNat != 1 && s.toNat != 3 && (if d.isS then s.toNat ≤ 5 else d.isVGroup (vecRegs s))

/-- The CSR numbers that R330 and R359 list. -/
def csrNumbers : List Nat :=
  [0x000, 0x001, 0x002, 0x003, 0x008, 0x009, 0x00A, 0x00B, 0x010, 0x011,
   0x018, 0x019, 0x01A, 0x01B, 0x01C, 0x01D, 0x020, 0x021, 0x022, 0x023, 0x024, 0x030, 0x040, 0x041, 0x042] ++
  [0x100, 0x101, 0x102, 0x103, 0x104, 0x105, 0x160, 0x161, 0x162] ++
  (List.range 16).map (0x140 + ·) ++
  [0x200, 0x201, 0x202, 0x203, 0x204, 0x205]

/-- Whether `n` names a CSR (R51). -/
def isCsr (n : Nat) : Bool := csrNumbers.contains n

/-- A guard-only prefix word before a word with a uniform destination is illegal (R146). -/
def wfMovl (x : Pfx) (d : Reg) : Bool := d.isVu && (!d.isS || x == .none)

/-- A prefix word of the instruction's class, or none (R43). -/
def Pfx.fits (p : Pfx) (c : PClass) : Bool :=
  match p, c with
  | .none, _ => true
  | .c _, .c => true
  | .m _, .m => true
  | .x _, .x => true
  | .g _, .g => true
  | _, _ => false

/-- Well-formed: every check of R53 that depends on the word and its prefix word alone. -/
def Instr.wf (i : Instr) (x : Pfx) : Bool :=
  match i with
  -- IARITH, LOGIC (R138)
  | .iadd d a b | .isub d a b | .imin d a b | .imax d a b | .umin d a b | .umax d a b
  | .iabsd d a b | .iavg d a b | .iadds d a b | .isubs d a b | .uadds d a b | .usubs d a b
  | .imul d a b | .imulh d a b | .umulh d a b | .imad d a b
  | .and d a b | .or d a b | .xor d a b | .andn d a b | .orn d a b | .xnor d a b
  | .shl d a b | .shr d a b | .sar d a b | .rol d a b | .bfx d a b | .bfi d a b | .prmb d a b =>
    x.okC .int .int .int false && d.isVz && a.isSrc && b.isSrc
  | .popc d a | .clz d a | .brev d a => x.okC .int .none .int false && d.isVz && a.isSrc
  -- IARITHI (R145)
  | .iaddi d a _ | .andi d a _ | .ori d a _ | .xori d a _ | .imini d a _ | .imaxi d a _ =>
    x.okC .int .none .int false && d.isVz && a.isSrc
  | .shli d a _ | .shri d a _ | .sari d a _ | .roli d a _ => x.okC .int .none .int false && d.isVz && a.isSrc
  | .movl d _ | .movhi d _ => wfMovl x d
  | .icmp c _ a b => x.okC .int .int .none false && c.toNat ≤ 9 && a.isSrc && b.isSrc
  | .icmpi c _ a _ => x.okC .int .none .none false && c.toNat ≤ 9 && a.isSrc
  | .mov d a => x.okC .int .none .int false && d.isVz && a.isSrc
  | .sel n d a b => x.okC .int .int .int false && n.toNat ≤ 6 && d.isVz && a.isSrc && b.isSrc
  -- PRED (R149)
  | .pand .. | .por .. | .pxor .. | .pnot .. | .qand .. | .qor .. | .qxor .. | .qnot .. => true
  | .ptov d => d.isVz
  | .vtop a b => a.isSrc && b.isSz
  -- uniform families (R150)
  | .sadd d a b | .ssub d a b | .smul d a b | .smulhu d a b | .smin d a b | .smax d a b
  | .sminu d a b | .smaxu d a b | .sand d a b | .sor d a b | .sxor d a b | .sshl d a b
  | .sshr d a b | .ssar d a b => d.isSz && a.isSu && b.isSu
  | .spopc d a | .sclz d a => d.isSz && a.isSu
  | .saddi d a _ | .sandi d a _ | .sori d a _ | .sxori d a _ => d.isSz && a.isSu
  | .sshli d a _ | .sshri d a _ | .ssari d a _ => d.isSz && a.isSu
  | .scmp c _ a b => c.toNat ≤ 9 && a.isSu && b.isSu
  | .scmpi c _ a _ => c.toNat ≤ 9 && a.isSu
  -- WARPQ (R154-R156)
  | .vany .. | .vall .. => true
  | .ballot d _ | .vcnt d _ | .vfirst d _ => d.isSz
  | .rdlane d a b => d.isSz && a.isV && b.isSz
  | .wrlane d a b => d.isVz && a.isSz && b.isSz
  -- lane gets (R176)
  | .lget_idx d a b | .lget_xor d a b => d.isVz && a.isV && b.isSrc
  | .lget_up d a _ | .lget_dn d a _ => d.isVz && a.isV
  | .lget_wxor d a _ | .lget_wrot d a _ => d.isVz && a.isV
  -- reductions (R177, R180)
  | .radd d a | .rmin d a | .rmax d a | .rumin d a | .rumax d a | .rfmin d a | .rfmax d a =>
    x.okC .none .none .none false && d.isVu && a.isV
  | .rfadd d a => x.okC .none .none .none true && d.isVu && a.isV
  | .scan_add d a => x.okC .none .none .none false && d.isVz && a.isV
  | .scan_fadd d a => x.okC .none .none .none true && d.isVz && a.isV
  | .rstep_add d a b | .rstep_fmax d a b => x.okC .none .none .none false && d.isVz && a.isV && b.isSs
  | .rstep_fadd d a b => x.okC .none .none .none true && d.isVz && a.isV && b.isSs
  -- FARITH (R159)
  | .fadd d a b | .fsub d a b | .fmul d a b | .fma d a b | .fnma d a b | .fscale d a b =>
    x.okC .flt .flt .flt true && d.isVz && a.isSrc && b.isSrc
  | .fmin d a b | .fmax d a b | .fcpys d a b => x.okC .flt .flt .flt false && d.isVz && a.isSrc && b.isSrc
  | .fabs d a | .fneg d a | .fclass d a => x.okC .flt .none .flt false && d.isVz && a.isSrc
  | .fmov d a | .frnd d a => x.okC .flt .none .flt true && d.isVz && a.isSrc
  -- FSFU (R164)
  | .fsqrt d a => x.okC .flt .none .flt true && d.isVz && a.isSrc
  | .frcp d a | .frsq d a | .fex2 d a | .flg2 d a | .fsin d a | .fcos d a | .ftanh d a =>
    x.okC .flt .none .flt false && d.isVz && a.isSrc
  -- HARITH (R167)
  | .hadd2 d a b | .hmul2 d a b | .hfma2 d a b | .hadd2_bf d a b | .hmul2_bf d a b | .hfma2_bf d a b =>
    x.okC .none .none .none true && d.isVz && a.isSrc && b.isSrc
  | .hmin2 d a b | .hmax2 d a b | .hmin2_bf d a b | .hmax2_bf d a b =>
    x.okC .none .none .none false && d.isVz && a.isSrc && b.isSrc
  | .fcmp _ _ a b => x.okC .flt .flt .none false && a.isSrc && b.isSrc
  -- CVT (R169, R170)
  | .f2i d a | .f2z d a => x.okC .flt .none .int true && d.isVz && a.isSrc
  | .i2f d a | .z2f d a => x.okC .int .none .flt true && d.isVz && a.isSrc
  | .pkh2 d a b | .pkbf2 d a b => x.okC .flt .flt .none true && d.isVz && a.isSrc && b.isSrc
  | .f2l d a => x.okC .flt .none .none true && d.isVGroup 2 && a.isSrc
  | .l2f d a => x.okC .none .none .flt true && d.isVz && (a.isVGroup 2 || a.isS)
  -- BLOCK (R171)
  | .bexp d a => x.okC .flt .none .none false && d.isVz && a.isV
  | .bq_8 d a b | .bq_6 d a b | .bq_4 d a b | .bq_2 d a b =>
    x.okC .flt .none .none true && d.isVz && a.isV && b.isVu
  | .bdq_8 d a b | .bdq_6 d a b | .bdq_4 d a b | .bdq_2 d a b =>
    x.okC .none .none .flt false && d.isVz && a.isV && b.isVu
  -- memory (R214-R221)
  | .ld s i d a b => wfLd x s i d a b
  | .st s i d a b => x.okM false true (i == 1) && wfStData s d && a.isBase && (i == 1 || b.isSrc)
  | .ldf6 d a b | .ldloc_w d a b => x.okM true false false && d.isVz && a.isBase && b.isSrc
  | .ldloc_d d a b => x.okM true false false && d.isVGroup 2 && a.isBase && b.isSrc
  | .ldloc_q d a b => x.okM true false false && d.isVGroup 4 && a.isBase && b.isSrc
  | .stp s d a b => x.okM false true false && wfStData s d && a.isBase && b.isSz
  -- reader sets (R222-R226)
  | .rsdef d a b => d.isSz && a.isSz && b.isSPair
  | .rsadd d a b | .rsdel d a b | .rsqry d a b => d.isSz && a.isSz && b.isSz
  | .unpark a => a.isSz
  -- atomics (R227, R228)
  | .atom_add d a b | .atom_min d a b | .atom_max d a b | .atom_umin d a b | .atom_umax d a b
  | .atom_and d a b | .atom_or d a b | .atom_xor d a b | .atom_xchg d a b | .atom_fadd d a b
  | .atom_bfadd2 d a b | .atom_inc d a b => x.okAtom && d.isVz && a.isBase && b.isSrc
  | .atom_cas d a b | .atom_add64 d a b => x.okAtom && d.isVGroup 2 && a.isBase && b.isSrc
  | .atom_cas64 d a b => x.okAtom && d.isVGroup 4 && a.isBase && b.isSrc
  -- locks (R266)
  | .llock d a b => d.isSz && a.isSz && b.isSz
  | .ltry d a | .lunlk d a | .lqry d a | .labnd d a => d.isSz && a.isSz
  -- barriers (R254)
  | .nbwait _ b | .nbarv _ b => b.isSz
  | .gbwait b => b.isSz
  | .abinit a b | .abwait a b => a.isSz && b.isSz
  | .abarv d a b | .abtest d a b => d.isSz && a.isSz && b.isSz
  | .fence _ s f t => s.toNat ≤ 5 && f != 0 && t != 0
  -- CACHE (R230)
  | .pref a b => x.okCache true && a.isBase && b.isSrc
  | .cwb a b | .cinv a b => x.okCache false && a.isBase && b.isSrc
  -- ASYNC, TAG (R238, R243)
  | .cpy t a b | .cpybs t a b | .mcrd t a b => t.toNat ≤ 59 && a.isSPair && b.isSz
  | .cpy2d t a b => t.toNat ≤ 59 && a.isSPair && b.isSPair
  | .bsz t a b => t.toNat ≤ 59 && a.isS && b.isSz
  | .twall a | .twany a | .tclr a => a.isSz
  | .tff d a => d.isSz && a.isSz
  | .trd d => d.isSz
  | .mma _ _ _ d a b => x.okX && d.isV && a.isV && b.isSz
  | .mxst d => d.isSz
  -- control (R41, R126-R134)
  | .bra n p _ | .call n p _ => !(p.toNat == 7 && n == 1)
  | .brv _ p _ => p.toNat != 7
  | .ret | .join | .nop => true
  | .brx a b => a.isS && b.isSz
  | .brxv a b => a.isS && b.isVu
  | .loop e a e2 => 1 ≤ e.toNat * 128 + e2.toNat && e.toNat * 128 + e2.toNat ≤ 256 && a.isSu
  -- WARP, ITEM, REGS, LAUNCH (R103-R113, R99-R102, R90-R92)
  | .split d a | .fuse d a | .fuse_r d a => d.isSz && a.isSz
  | .yield | .exit | .refill | .exitw | .trig => true
  | .sleep a => a.isSz
  | .iqry d => d.isSz
  | .racq d a b => d.isSz && a.isSz && b.isSz
  | .rrel d a => d.isSz && a.isSz
  | .wbase a => a.isSz
  | .launch d a b | .lwait d a b => d.isSz && a.isS && b.isS
  | .safept _ => true
  -- SYS, SYSM, COLL, MISC (R328, R329, R315, R319-R327, R340, R175)
  | .trap a => a.isSu
  | .csrr d c => d.isSz && isCsr c.toNat
  | .csrw d c | .csrs d c | .csrc d c => d.isSu && isCsr c.toNat
  | .eret | .tlbsync => true
  | .clock d => d.isSz
  | .tlbi a b => a.isSz && b.isSz
  | .bswap d a b | .bresume d a b => d.isSz && a.isSz && b.isSz
  | .coll d a b => d.isSz && a.isSz && b.isSPair
  | .cinit d a b => d.isSz && a.isSz && b.isSz
  | .cqry d a => d.isSz && a.isSz
  | .seed a => a.isSrc
  -- the device's steps carry no word
  | .commit | .qtail | .resume | .skip | .register_write | .event_counter_write | .record_accept
  | .grid_start | .placement_pass | .head_gang_reserve | .donation | .reserved_inject | .carveout_interval
  | .warp_retire | .block_retire | .grid_complete | .parked_placement | .copy_unit | .copy_completion
  | .product_start | .product_land | .lock_release_arrive | .lock_grant | .lock_timeout | .inherit_hop
  | .racq_timeout | .split_timeout | .fuse_timeout | .sleep_expiry | .safepoint_force | .swap_image_write
  | .restore | .unit_kill | .tlbi_complete | .record_post | .aged | .coll_instance_end | .coll_timeout
  | .data | .counts | .ack | .abort_frame | .retransmit | .pause | .host_write | .host_read
  | .merge_request | .divide_request | .device_reset | .boot_stage | .partition_reset | .attestation_report
  | .unit_ready | .corrected_error | .kiln_replan | .thermal_stop | .thermal_resume | .power_throttle => true

end Sys2Proof
end

