-- ==== Sys2Proof/Decode.lean ====
section
/-! DEFINITION. Instruction words: the decoder, total on any bytes, and the encoder (R30, R41-R53). -/

namespace Sys2Proof

/-! ### Fields -/

/-- Bits [lo+n-1 : lo] of a word as a number. -/
def nat (w : BitVec 32) (lo n : Nat) : Nat := w.toNat / 2 ^ lo % 2 ^ n
/-- Bits [lo+n-1 : lo] of a word. -/
def fld (w : BitVec 32) (lo n : Nat) : BitVec n := BitVec.ofNat n (w.toNat / 2 ^ lo)

/-- A word from its bung and its other 31 bits (R30). -/
def word (bg : Bool) (x : Nat) : BitVec 32 := BitVec.ofNat 32 ((if bg then 2 ^ 31 else 0) + x)

/-- The bung, bit 31 (R30). -/
def bungOf (w : BitVec 32) : Bool := nat w 31 1 == 1

/-- The major opcode 0x3F of a prefix word (R43). -/
def isPfx (w : BitVec 32) : Bool := nat w 25 6 == 0x3F

/-! ### The prefix word's fields, bits [24:0] (R44) -/

def PfxC.bits (p : PfxC) : BitVec 25 := p.g ++ BitVec.ofBool p.gn ++ p.saf ++ p.sap ++ p.sbf ++ p.sbp ++ p.dnf ++ p.dnp ++ p.rm
def PfxM.bits (p : PfxM) : BitVec 25 := p.g ++ BitVec.ofBool p.gn ++ p.offx ++ p.scope ++ p.order ++ p.hint ++ 0#5
def PfxX.bits (p : PfxX) : BitVec 25 := p.g ++ BitVec.ofBool p.gn ++ p.scale ++ p.sb ++ 0#11
def PfxG.bits (p : PfxG) : BitVec 25 := p.g ++ BitVec.ofBool p.gn ++ 0#21

/-- The fields of a prefix word, if there is one. -/
def Pfx.bits : Pfx → Option (BitVec 25)
  | .none => Option.none
  | .c p => some p.bits
  | .m p => some p.bits
  | .x p => some p.bits
  | .g p => some p.bits

/-- Class C (R44). -/
def pfxC (x : BitVec 25) : PfxC :=
  ⟨x.extractLsb' 22 3, x.getLsbD 21, x.extractLsb' 18 3, x.extractLsb' 15 3, x.extractLsb' 12 3, x.extractLsb' 9 3,
   x.extractLsb' 6 3, x.extractLsb' 3 3, x.extractLsb' 0 3⟩
/-- Class M (R44): bits [4:0] are zero. -/
def pfxM (x : BitVec 25) : Option PfxM :=
  if x.extractLsb' 0 5 = 0 then
    some ⟨x.extractLsb' 22 3, x.getLsbD 21, x.extractLsb' 13 8, x.extractLsb' 10 3, x.extractLsb' 8 2, x.extractLsb' 5 3⟩
  else none
/-- Class X (R44): bits [10:0] are zero. -/
def pfxX (x : BitVec 25) : Option PfxX :=
  if x.extractLsb' 0 11 = 0 then some ⟨x.extractLsb' 22 3, x.getLsbD 21, x.extractLsb' 14 7, x.extractLsb' 11 3⟩ else none
/-- Class G (R44): bits [20:0] are zero. -/
def pfxG (x : BitVec 25) : Option PfxG :=
  if x.extractLsb' 0 21 = 0 then some ⟨x.extractLsb' 22 3, x.getLsbD 21⟩ else none

/-- The prefix word's fields under the class of the next word; a prefix word before a word of class none is illegal (R43). -/
def parsePfx (cl : PClass) (x : Option (BitVec 25)) : Option Pfx :=
  match x with
  | none => some .none
  | some x =>
    match cl with
    | .none => none
    | .c => some (.c (pfxC x))
    | .m => (pfxM x).map .m
    | .x => (pfxX x).map .x
    | .g => (pfxG x).map .g

/-! ### The opcode map (R52) -/

/-- Major opcode 0x01 (R52): FN selects the word. -/
def decodeOp01 (w : BitVec 32) : Option Instr :=
  match nat w 21 4 with
  | 0 => some (.iadd (fld w 14 7) (fld w 7 7) (fld w 0 7))
  | 1 => some (.isub (fld w 14 7) (fld w 7 7) (fld w 0 7))
  | 2 => some (.imin (fld w 14 7) (fld w 7 7) (fld w 0 7))
  | 3 => some (.imax (fld w 14 7) (fld w 7 7) (fld w 0 7))
  | 4 => some (.umin (fld w 14 7) (fld w 7 7) (fld w 0 7))
  | 5 => some (.umax (fld w 14 7) (fld w 7 7) (fld w 0 7))
  | 6 => some (.iabsd (fld w 14 7) (fld w 7 7) (fld w 0 7))
  | 7 => some (.iavg (fld w 14 7) (fld w 7 7) (fld w 0 7))
  | 8 => some (.iadds (fld w 14 7) (fld w 7 7) (fld w 0 7))
  | 9 => some (.isubs (fld w 14 7) (fld w 7 7) (fld w 0 7))
  | 10 => some (.uadds (fld w 14 7) (fld w 7 7) (fld w 0 7))
  | 11 => some (.usubs (fld w 14 7) (fld w 7 7) (fld w 0 7))
  | 12 => some (.imul (fld w 14 7) (fld w 7 7) (fld w 0 7))
  | 13 => some (.imulh (fld w 14 7) (fld w 7 7) (fld w 0 7))
  | 14 => some (.umulh (fld w 14 7) (fld w 7 7) (fld w 0 7))
  | 15 => some (.imad (fld w 14 7) (fld w 7 7) (fld w 0 7))
  | _ => none

/-- Major opcode 0x02 (R52): FN selects the word. -/
def decodeOp02 (w : BitVec 32) : Option Instr :=
  match nat w 21 4 with
  | 0 => some (.and (fld w 14 7) (fld w 7 7) (fld w 0 7))
  | 1 => some (.or (fld w 14 7) (fld w 7 7) (fld w 0 7))
  | 2 => some (.xor (fld w 14 7) (fld w 7 7) (fld w 0 7))
  | 3 => some (.andn (fld w 14 7) (fld w 7 7) (fld w 0 7))
  | 4 => some (.orn (fld w 14 7) (fld w 7 7) (fld w 0 7))
  | 5 => some (.xnor (fld w 14 7) (fld w 7 7) (fld w 0 7))
  | 6 => some (.shl (fld w 14 7) (fld w 7 7) (fld w 0 7))
  | 7 => some (.shr (fld w 14 7) (fld w 7 7) (fld w 0 7))
  | 8 => some (.sar (fld w 14 7) (fld w 7 7) (fld w 0 7))
  | 9 => some (.rol (fld w 14 7) (fld w 7 7) (fld w 0 7))
  | 10 => if nat w 0 7 = 0 then some (.popc (fld w 14 7) (fld w 7 7)) else none
  | 11 => if nat w 0 7 = 0 then some (.clz (fld w 14 7) (fld w 7 7)) else none
  | 12 => if nat w 0 7 = 0 then some (.brev (fld w 14 7) (fld w 7 7)) else none
  | 13 => some (.bfx (fld w 14 7) (fld w 7 7) (fld w 0 7))
  | 14 => some (.bfi (fld w 14 7) (fld w 7 7) (fld w 0 7))
  | 15 => some (.prmb (fld w 14 7) (fld w 7 7) (fld w 0 7))
  | _ => none

/-- Major opcode 0x03 (R52): FN selects the word. -/
def decodeOp03 (w : BitVec 32) : Option Instr :=
  match nat w 21 4 with
  | 0 => some (.iaddi (fld w 14 7) (fld w 7 7) (fld w 0 7))
  | 1 => some (.andi (fld w 14 7) (fld w 7 7) (fld w 0 7))
  | 2 => some (.ori (fld w 14 7) (fld w 7 7) (fld w 0 7))
  | 3 => some (.xori (fld w 14 7) (fld w 7 7) (fld w 0 7))
  | 4 => if nat w 5 2 = 0 then some (.shli (fld w 14 7) (fld w 7 7) (fld w 0 5)) else none
  | 5 => if nat w 5 2 = 0 then some (.shri (fld w 14 7) (fld w 7 7) (fld w 0 5)) else none
  | 6 => if nat w 5 2 = 0 then some (.sari (fld w 14 7) (fld w 7 7) (fld w 0 5)) else none
  | 7 => if nat w 5 2 = 0 then some (.roli (fld w 14 7) (fld w 7 7) (fld w 0 5)) else none
  | 8 => some (.imini (fld w 14 7) (fld w 7 7) (fld w 0 7))
  | 9 => some (.imaxi (fld w 14 7) (fld w 7 7) (fld w 0 7))
  | _ => none

/-- Major opcode 0x04 (R52). -/
def decodeOp04 (w : BitVec 32) : Option Instr :=
  some (.movl (fld w 18 7) (fld w 0 18))

/-- Major opcode 0x05 (R52). -/
def decodeOp05 (w : BitVec 32) : Option Instr :=
  some (.movhi (fld w 18 7) (fld w 0 18))

/-- Major opcode 0x06 (R52). -/
def decodeOp06 (w : BitVec 32) : Option Instr :=
  if nat w 17 4 = 0 then some (.icmp (fld w 21 4) (fld w 14 3) (fld w 7 7) (fld w 0 7)) else none

/-- Major opcode 0x07 (R52). -/
def decodeOp07 (w : BitVec 32) : Option Instr :=
  if nat w 17 4 = 0 then some (.icmpi (fld w 21 4) (fld w 14 3) (fld w 7 7) (fld w 0 7)) else none

/-- Major opcode 0x08 (R52): FN selects the word. -/
def decodeOp08 (w : BitVec 32) : Option Instr :=
  match nat w 21 4 with
  | 0 => if nat w 0 7 = 0 then some (.mov (fld w 14 7) (fld w 7 7)) else none
  | 8 | 9 | 10 | 11 | 12 | 13 | 14 => some (.sel (fld w 21 3) (fld w 14 7) (fld w 7 7) (fld w 0 7))
  | _ => none

/-- Major opcode 0x09 (R52): FN selects the word. -/
def decodeOp09 (w : BitVec 32) : Option Instr :=
  match nat w 21 4 with
  | 0 => if nat w 3 4 = 0 ∧ nat w 10 4 = 0 ∧ nat w 17 4 = 0 then some (.pand (fld w 14 3) (fld w 7 3) (fld w 0 3)) else none
  | 1 => if nat w 3 4 = 0 ∧ nat w 10 4 = 0 ∧ nat w 17 4 = 0 then some (.por (fld w 14 3) (fld w 7 3) (fld w 0 3)) else none
  | 2 => if nat w 3 4 = 0 ∧ nat w 10 4 = 0 ∧ nat w 17 4 = 0 then some (.pxor (fld w 14 3) (fld w 7 3) (fld w 0 3)) else none
  | 3 => if nat w 0 7 = 0 ∧ nat w 10 4 = 0 ∧ nat w 17 4 = 0 then some (.pnot (fld w 14 3) (fld w 7 3)) else none
  | 4 => if nat w 0 14 = 0 then some (.ptov (fld w 14 7)) else none
  | 5 => if nat w 14 7 = 0 then some (.vtop (fld w 7 7) (fld w 0 7)) else none
  | 6 => if nat w 3 4 = 0 ∧ nat w 10 4 = 0 ∧ nat w 17 4 = 0 then some (.qand (fld w 14 3) (fld w 7 3) (fld w 0 3)) else none
  | 7 => if nat w 3 4 = 0 ∧ nat w 10 4 = 0 ∧ nat w 17 4 = 0 then some (.qor (fld w 14 3) (fld w 7 3) (fld w 0 3)) else none
  | 8 => if nat w 3 4 = 0 ∧ nat w 10 4 = 0 ∧ nat w 17 4 = 0 then some (.qxor (fld w 14 3) (fld w 7 3) (fld w 0 3)) else none
  | 9 => if nat w 0 7 = 0 ∧ nat w 10 4 = 0 ∧ nat w 17 4 = 0 then some (.qnot (fld w 14 3) (fld w 7 3)) else none
  | _ => none

/-- Major opcode 0x0A (R52): FN selects the word. -/
def decodeOp0A (w : BitVec 32) : Option Instr :=
  match nat w 21 4 with
  | 0 => some (.sadd (fld w 14 7) (fld w 7 7) (fld w 0 7))
  | 1 => some (.ssub (fld w 14 7) (fld w 7 7) (fld w 0 7))
  | 2 => some (.smul (fld w 14 7) (fld w 7 7) (fld w 0 7))
  | 3 => some (.smulhu (fld w 14 7) (fld w 7 7) (fld w 0 7))
  | 4 => some (.smin (fld w 14 7) (fld w 7 7) (fld w 0 7))
  | 5 => some (.smax (fld w 14 7) (fld w 7 7) (fld w 0 7))
  | 6 => some (.sminu (fld w 14 7) (fld w 7 7) (fld w 0 7))
  | 7 => some (.smaxu (fld w 14 7) (fld w 7 7) (fld w 0 7))
  | 8 => some (.sand (fld w 14 7) (fld w 7 7) (fld w 0 7))
  | 9 => some (.sor (fld w 14 7) (fld w 7 7) (fld w 0 7))
  | 10 => some (.sxor (fld w 14 7) (fld w 7 7) (fld w 0 7))
  | 11 => some (.sshl (fld w 14 7) (fld w 7 7) (fld w 0 7))
  | 12 => some (.sshr (fld w 14 7) (fld w 7 7) (fld w 0 7))
  | 13 => some (.ssar (fld w 14 7) (fld w 7 7) (fld w 0 7))
  | 14 => if nat w 0 7 = 0 then some (.spopc (fld w 14 7) (fld w 7 7)) else none
  | 15 => if nat w 0 7 = 0 then some (.sclz (fld w 14 7) (fld w 7 7)) else none
  | _ => none

/-- Major opcode 0x0B (R52): FN selects the word. -/
def decodeOp0B (w : BitVec 32) : Option Instr :=
  match nat w 21 4 with
  | 0 => some (.saddi (fld w 14 7) (fld w 7 7) (fld w 0 7))
  | 1 => some (.sandi (fld w 14 7) (fld w 7 7) (fld w 0 7))
  | 2 => some (.sori (fld w 14 7) (fld w 7 7) (fld w 0 7))
  | 3 => some (.sxori (fld w 14 7) (fld w 7 7) (fld w 0 7))
  | 4 => if nat w 6 1 = 0 then some (.sshli (fld w 14 7) (fld w 7 7) (fld w 0 6)) else none
  | 5 => if nat w 6 1 = 0 then some (.sshri (fld w 14 7) (fld w 7 7) (fld w 0 6)) else none
  | 6 => if nat w 6 1 = 0 then some (.ssari (fld w 14 7) (fld w 7 7) (fld w 0 6)) else none
  | _ => none

/-- Major opcode 0x0C (R52). -/
def decodeOp0C (w : BitVec 32) : Option Instr :=
  if nat w 17 4 = 0 then some (.scmp (fld w 21 4) (fld w 14 3) (fld w 7 7) (fld w 0 7)) else none

/-- Major opcode 0x0D (R52). -/
def decodeOp0D (w : BitVec 32) : Option Instr :=
  if nat w 17 4 = 0 then some (.scmpi (fld w 21 4) (fld w 14 3) (fld w 7 7) (fld w 0 7)) else none

/-- Major opcode 0x0E (R52): FN selects the word. -/
def decodeOp0E (w : BitVec 32) : Option Instr :=
  match nat w 21 4 with
  | 0 => if nat w 0 7 = 0 ∧ nat w 10 4 = 0 ∧ nat w 17 4 = 0 then some (.vany (fld w 14 3) (fld w 7 3)) else none
  | 1 => if nat w 0 7 = 0 ∧ nat w 10 4 = 0 ∧ nat w 17 4 = 0 then some (.vall (fld w 14 3) (fld w 7 3)) else none
  | 2 => if nat w 0 7 = 0 ∧ nat w 10 4 = 0 then some (.ballot (fld w 14 7) (fld w 7 3)) else none
  | 3 => if nat w 0 7 = 0 ∧ nat w 10 4 = 0 then some (.vcnt (fld w 14 7) (fld w 7 3)) else none
  | 4 => if nat w 0 7 = 0 ∧ nat w 10 4 = 0 then some (.vfirst (fld w 14 7) (fld w 7 3)) else none
  | 5 => some (.rdlane (fld w 14 7) (fld w 7 7) (fld w 0 7))
  | 6 => some (.wrlane (fld w 14 7) (fld w 7 7) (fld w 0 7))
  | _ => none

/-- Major opcode 0x0F (R52): FN selects the word. -/
def decodeOp0F (w : BitVec 32) : Option Instr :=
  match nat w 21 4 with
  | 0 => some (.lget_idx (fld w 14 7) (fld w 7 7) (fld w 0 7))
  | 1 => some (.lget_up (fld w 14 7) (fld w 7 7) (fld w 0 7))
  | 2 => some (.lget_dn (fld w 14 7) (fld w 7 7) (fld w 0 7))
  | 3 => some (.lget_xor (fld w 14 7) (fld w 7 7) (fld w 0 7))
  | 4 => if nat w 3 4 = 0 then some (.lget_wxor (fld w 14 7) (fld w 7 7) (fld w 0 3)) else none
  | 5 => if nat w 3 4 = 0 then some (.lget_wrot (fld w 14 7) (fld w 7 7) (fld w 0 3)) else none
  | _ => none

/-- Major opcode 0x10 (R52): FN selects the word. -/
def decodeOp10 (w : BitVec 32) : Option Instr :=
  match nat w 21 4 with
  | 0 => if nat w 0 7 = 0 then some (.radd (fld w 14 7) (fld w 7 7)) else none
  | 1 => if nat w 0 7 = 0 then some (.rmin (fld w 14 7) (fld w 7 7)) else none
  | 2 => if nat w 0 7 = 0 then some (.rmax (fld w 14 7) (fld w 7 7)) else none
  | 3 => if nat w 0 7 = 0 then some (.rumin (fld w 14 7) (fld w 7 7)) else none
  | 4 => if nat w 0 7 = 0 then some (.rumax (fld w 14 7) (fld w 7 7)) else none
  | 5 => if nat w 0 7 = 0 then some (.rfadd (fld w 14 7) (fld w 7 7)) else none
  | 6 => if nat w 0 7 = 0 then some (.rfmin (fld w 14 7) (fld w 7 7)) else none
  | 7 => if nat w 0 7 = 0 then some (.rfmax (fld w 14 7) (fld w 7 7)) else none
  | 8 => if nat w 0 7 = 0 then some (.scan_add (fld w 14 7) (fld w 7 7)) else none
  | 9 => if nat w 0 7 = 0 then some (.scan_fadd (fld w 14 7) (fld w 7 7)) else none
  | 10 => some (.rstep_add (fld w 14 7) (fld w 7 7) (fld w 0 7))
  | 11 => some (.rstep_fadd (fld w 14 7) (fld w 7 7) (fld w 0 7))
  | 12 => some (.rstep_fmax (fld w 14 7) (fld w 7 7) (fld w 0 7))
  | _ => none

/-- Major opcode 0x11 (R52): FN selects the word. -/
def decodeOp11 (w : BitVec 32) : Option Instr :=
  match nat w 21 4 with
  | 0 => some (.fadd (fld w 14 7) (fld w 7 7) (fld w 0 7))
  | 1 => some (.fsub (fld w 14 7) (fld w 7 7) (fld w 0 7))
  | 2 => some (.fmul (fld w 14 7) (fld w 7 7) (fld w 0 7))
  | 3 => some (.fma (fld w 14 7) (fld w 7 7) (fld w 0 7))
  | 4 => some (.fnma (fld w 14 7) (fld w 7 7) (fld w 0 7))
  | 5 => some (.fmin (fld w 14 7) (fld w 7 7) (fld w 0 7))
  | 6 => some (.fmax (fld w 14 7) (fld w 7 7) (fld w 0 7))
  | 7 => if nat w 0 7 = 0 then some (.fabs (fld w 14 7) (fld w 7 7)) else none
  | 8 => if nat w 0 7 = 0 then some (.fneg (fld w 14 7) (fld w 7 7)) else none
  | 9 => some (.fcpys (fld w 14 7) (fld w 7 7) (fld w 0 7))
  | 10 => if nat w 0 7 = 0 then some (.fmov (fld w 14 7) (fld w 7 7)) else none
  | 11 => if nat w 0 7 = 0 then some (.frnd (fld w 14 7) (fld w 7 7)) else none
  | 12 => if nat w 0 7 = 0 then some (.fclass (fld w 14 7) (fld w 7 7)) else none
  | 13 => some (.fscale (fld w 14 7) (fld w 7 7) (fld w 0 7))
  | _ => none

/-- Major opcode 0x12 (R52): FN selects the word. -/
def decodeOp12 (w : BitVec 32) : Option Instr :=
  match nat w 21 4 with
  | 0 => if nat w 0 7 = 0 then some (.frcp (fld w 14 7) (fld w 7 7)) else none
  | 1 => if nat w 0 7 = 0 then some (.frsq (fld w 14 7) (fld w 7 7)) else none
  | 2 => if nat w 0 7 = 0 then some (.fsqrt (fld w 14 7) (fld w 7 7)) else none
  | 3 => if nat w 0 7 = 0 then some (.fex2 (fld w 14 7) (fld w 7 7)) else none
  | 4 => if nat w 0 7 = 0 then some (.flg2 (fld w 14 7) (fld w 7 7)) else none
  | 5 => if nat w 0 7 = 0 then some (.fsin (fld w 14 7) (fld w 7 7)) else none
  | 6 => if nat w 0 7 = 0 then some (.fcos (fld w 14 7) (fld w 7 7)) else none
  | 7 => if nat w 0 7 = 0 then some (.ftanh (fld w 14 7) (fld w 7 7)) else none
  | _ => none

/-- Major opcode 0x13 (R52): FN selects the word. -/
def decodeOp13 (w : BitVec 32) : Option Instr :=
  match nat w 21 4 with
  | 0 => some (.hadd2 (fld w 14 7) (fld w 7 7) (fld w 0 7))
  | 1 => some (.hmul2 (fld w 14 7) (fld w 7 7) (fld w 0 7))
  | 2 => some (.hfma2 (fld w 14 7) (fld w 7 7) (fld w 0 7))
  | 3 => some (.hmin2 (fld w 14 7) (fld w 7 7) (fld w 0 7))
  | 4 => some (.hmax2 (fld w 14 7) (fld w 7 7) (fld w 0 7))
  | 8 => some (.hadd2_bf (fld w 14 7) (fld w 7 7) (fld w 0 7))
  | 9 => some (.hmul2_bf (fld w 14 7) (fld w 7 7) (fld w 0 7))
  | 10 => some (.hfma2_bf (fld w 14 7) (fld w 7 7) (fld w 0 7))
  | 11 => some (.hmin2_bf (fld w 14 7) (fld w 7 7) (fld w 0 7))
  | 12 => some (.hmax2_bf (fld w 14 7) (fld w 7 7) (fld w 0 7))
  | _ => none

/-- Major opcode 0x14 (R52). -/
def decodeOp14 (w : BitVec 32) : Option Instr :=
  if nat w 24 1 = 0 ∧ nat w 17 4 = 0 then some (.fcmp (fld w 21 3) (fld w 14 3) (fld w 7 7) (fld w 0 7)) else none

/-- Major opcode 0x15 (R52): FN selects the word. -/
def decodeOp15 (w : BitVec 32) : Option Instr :=
  match nat w 21 4 with
  | 0 => if nat w 0 7 = 0 then some (.f2i (fld w 14 7) (fld w 7 7)) else none
  | 1 => if nat w 0 7 = 0 then some (.f2z (fld w 14 7) (fld w 7 7)) else none
  | 2 => if nat w 0 7 = 0 then some (.i2f (fld w 14 7) (fld w 7 7)) else none
  | 3 => if nat w 0 7 = 0 then some (.z2f (fld w 14 7) (fld w 7 7)) else none
  | 4 => some (.pkh2 (fld w 14 7) (fld w 7 7) (fld w 0 7))
  | 5 => some (.pkbf2 (fld w 14 7) (fld w 7 7) (fld w 0 7))
  | 6 => if nat w 0 7 = 0 then some (.f2l (fld w 14 7) (fld w 7 7)) else none
  | 7 => if nat w 0 7 = 0 then some (.l2f (fld w 14 7) (fld w 7 7)) else none
  | _ => none

/-- Major opcode 0x16 (R52): FN selects the word. -/
def decodeOp16 (w : BitVec 32) : Option Instr :=
  match nat w 21 4 with
  | 0 => if nat w 0 7 = 0 then some (.bexp (fld w 14 7) (fld w 7 7)) else none
  | 1 => some (.bq_8 (fld w 14 7) (fld w 7 7) (fld w 0 7))
  | 2 => some (.bq_6 (fld w 14 7) (fld w 7 7) (fld w 0 7))
  | 3 => some (.bq_4 (fld w 14 7) (fld w 7 7) (fld w 0 7))
  | 4 => some (.bq_2 (fld w 14 7) (fld w 7 7) (fld w 0 7))
  | 5 => some (.bdq_8 (fld w 14 7) (fld w 7 7) (fld w 0 7))
  | 6 => some (.bdq_6 (fld w 14 7) (fld w 7 7) (fld w 0 7))
  | 7 => some (.bdq_4 (fld w 14 7) (fld w 7 7) (fld w 0 7))
  | 8 => some (.bdq_2 (fld w 14 7) (fld w 7 7) (fld w 0 7))
  | _ => none

/-- Major opcode 0x18 (R52). -/
def decodeOp18 (w : BitVec 32) : Option Instr :=
  some (.ld (fld w 22 3) (fld w 21 1) (fld w 14 7) (fld w 7 7) (fld w 0 7))

/-- Major opcode 0x19 (R52). -/
def decodeOp19 (w : BitVec 32) : Option Instr :=
  some (.st (fld w 22 3) (fld w 21 1) (fld w 14 7) (fld w 7 7) (fld w 0 7))

/-- Major opcode 0x1A (R52): FN selects the word. -/
def decodeOp1A (w : BitVec 32) : Option Instr :=
  match nat w 21 4 with
  | 0 => some (.ldf6 (fld w 14 7) (fld w 7 7) (fld w 0 7))
  | 1 => some (.ldloc_w (fld w 14 7) (fld w 7 7) (fld w 0 7))
  | 2 => some (.ldloc_d (fld w 14 7) (fld w 7 7) (fld w 0 7))
  | 3 => some (.ldloc_q (fld w 14 7) (fld w 7 7) (fld w 0 7))
  | _ => none

/-- Major opcode 0x1B (R52): FN[21] is 0. -/
def decodeOp1B (w : BitVec 32) : Option Instr :=
  if nat w 21 1 = 0 then some (.stp (fld w 22 3) (fld w 14 7) (fld w 7 7) (fld w 0 7)) else none

/-- Major opcode 0x1C (R52): FN selects the word. -/
def decodeOp1C (w : BitVec 32) : Option Instr :=
  match nat w 21 4 with
  | 0 => some (.rsdef (fld w 14 7) (fld w 7 7) (fld w 0 7))
  | 1 => some (.rsadd (fld w 14 7) (fld w 7 7) (fld w 0 7))
  | 2 => some (.rsdel (fld w 14 7) (fld w 7 7) (fld w 0 7))
  | 3 => some (.rsqry (fld w 14 7) (fld w 7 7) (fld w 0 7))
  | 4 => if nat w 0 7 = 0 ∧ nat w 14 7 = 0 then some (.unpark (fld w 7 7)) else none
  | _ => none

/-- Major opcode 0x1D (R52): FN selects the word. -/
def decodeOp1D (w : BitVec 32) : Option Instr :=
  match nat w 21 4 with
  | 0 => some (.atom_add (fld w 14 7) (fld w 7 7) (fld w 0 7))
  | 1 => some (.atom_min (fld w 14 7) (fld w 7 7) (fld w 0 7))
  | 2 => some (.atom_max (fld w 14 7) (fld w 7 7) (fld w 0 7))
  | 3 => some (.atom_umin (fld w 14 7) (fld w 7 7) (fld w 0 7))
  | 4 => some (.atom_umax (fld w 14 7) (fld w 7 7) (fld w 0 7))
  | 5 => some (.atom_and (fld w 14 7) (fld w 7 7) (fld w 0 7))
  | 6 => some (.atom_or (fld w 14 7) (fld w 7 7) (fld w 0 7))
  | 7 => some (.atom_xor (fld w 14 7) (fld w 7 7) (fld w 0 7))
  | 8 => some (.atom_xchg (fld w 14 7) (fld w 7 7) (fld w 0 7))
  | 9 => some (.atom_cas (fld w 14 7) (fld w 7 7) (fld w 0 7))
  | 10 => some (.atom_fadd (fld w 14 7) (fld w 7 7) (fld w 0 7))
  | 11 => some (.atom_bfadd2 (fld w 14 7) (fld w 7 7) (fld w 0 7))
  | 12 => some (.atom_inc (fld w 14 7) (fld w 7 7) (fld w 0 7))
  | 13 => some (.atom_add64 (fld w 14 7) (fld w 7 7) (fld w 0 7))
  | 14 => some (.atom_cas64 (fld w 14 7) (fld w 7 7) (fld w 0 7))
  | _ => none

/-- Major opcode 0x1E (R52): FN selects the word. -/
def decodeOp1E (w : BitVec 32) : Option Instr :=
  match nat w 21 4 with
  | 0 => some (.llock (fld w 14 7) (fld w 7 7) (fld w 0 7))
  | 1 => if nat w 0 7 = 0 then some (.ltry (fld w 14 7) (fld w 7 7)) else none
  | 2 => if nat w 0 7 = 0 then some (.lunlk (fld w 14 7) (fld w 7 7)) else none
  | 3 => if nat w 0 7 = 0 then some (.lqry (fld w 14 7) (fld w 7 7)) else none
  | 4 => if nat w 0 7 = 0 then some (.labnd (fld w 14 7) (fld w 7 7)) else none
  | _ => none

/-- Major opcode 0x1F (R52): FN selects the word. -/
def decodeOp1F (w : BitVec 32) : Option Instr :=
  match nat w 21 4 with
  | 0 => if nat w 11 10 = 0 then some (.nbwait (fld w 7 4) (fld w 0 7)) else none
  | 1 => if nat w 11 10 = 0 then some (.nbarv (fld w 7 4) (fld w 0 7)) else none
  | 2 => if nat w 7 14 = 0 then some (.gbwait (fld w 0 7)) else none
  | 3 => if nat w 14 7 = 0 then some (.abinit (fld w 7 7) (fld w 0 7)) else none
  | 4 => some (.abarv (fld w 14 7) (fld w 7 7) (fld w 0 7))
  | 5 => if nat w 14 7 = 0 then some (.abwait (fld w 7 7) (fld w 0 7)) else none
  | 6 => some (.abtest (fld w 14 7) (fld w 7 7) (fld w 0 7))
  | _ => none

/-- Major opcode 0x20 (R52): FN selects the word. -/
def decodeOp20 (w : BitVec 32) : Option Instr :=
  match nat w 21 4 with
  | 0 => if nat w 4 3 = 0 ∧ nat w 11 3 = 0 ∧ nat w 19 2 = 0 then some (.fence (fld w 17 2) (fld w 14 3) (fld w 7 4) (fld w 0 4)) else none
  | _ => none

/-- Major opcode 0x21 (R52): FN selects the word. -/
def decodeOp21 (w : BitVec 32) : Option Instr :=
  match nat w 21 4 with
  | 0 => if nat w 14 7 = 0 then some (.pref (fld w 7 7) (fld w 0 7)) else none
  | 1 => if nat w 14 7 = 0 then some (.cwb (fld w 7 7) (fld w 0 7)) else none
  | 2 => if nat w 14 7 = 0 then some (.cinv (fld w 7 7) (fld w 0 7)) else none
  | _ => none

/-- Major opcode 0x22 (R52): FN selects the word. -/
def decodeOp22 (w : BitVec 32) : Option Instr :=
  match nat w 21 4 with
  | 0 => if nat w 20 1 = 0 then some (.cpy (fld w 14 6) (fld w 7 7) (fld w 0 7)) else none
  | 1 => if nat w 20 1 = 0 then some (.cpy2d (fld w 14 6) (fld w 7 7) (fld w 0 7)) else none
  | 2 => if nat w 20 1 = 0 then some (.cpybs (fld w 14 6) (fld w 7 7) (fld w 0 7)) else none
  | 3 => if nat w 20 1 = 0 then some (.bsz (fld w 14 6) (fld w 7 7) (fld w 0 7)) else none
  | 4 => if nat w 20 1 = 0 then some (.mcrd (fld w 14 6) (fld w 7 7) (fld w 0 7)) else none
  | _ => none

/-- Major opcode 0x23 (R52): FN selects the word. -/
def decodeOp23 (w : BitVec 32) : Option Instr :=
  match nat w 21 4 with
  | 0 => if nat w 0 7 = 0 ∧ nat w 14 7 = 0 then some (.twall (fld w 7 7)) else none
  | 1 => if nat w 0 7 = 0 ∧ nat w 14 7 = 0 then some (.twany (fld w 7 7)) else none
  | 2 => if nat w 0 7 = 0 then some (.tff (fld w 14 7) (fld w 7 7)) else none
  | 3 => if nat w 0 7 = 0 ∧ nat w 14 7 = 0 then some (.tclr (fld w 7 7)) else none
  | 4 => if nat w 0 14 = 0 then some (.trd (fld w 14 7)) else none
  | _ => none

/-- Major opcode 0x24 (R52). -/
def decodeOp24 (w : BitVec 32) : Option Instr :=
  some (.mma (fld w 24 1) (fld w 22 2) (fld w 21 1) (fld w 14 7) (fld w 7 7) (fld w 0 7))

/-- Major opcode 0x25 (R52): FN selects the word. -/
def decodeOp25 (w : BitVec 32) : Option Instr :=
  match nat w 21 4 with
  | 0 => if nat w 0 14 = 0 then some (.mxst (fld w 14 7)) else none
  | _ => none

/-- Major opcode 0x28 (R52): V selects the word. -/
def decodeOp28 (w : BitVec 32) : Option Instr :=
  match nat w 24 1 with
  | 0 => some (.bra (fld w 23 1) (fld w 20 3) (fld w 0 20))
  | 1 => some (.brv (fld w 23 1) (fld w 20 3) (fld w 0 20))
  | _ => none

/-- Major opcode 0x29 (R52): V selects the word. -/
def decodeOp29 (w : BitVec 32) : Option Instr :=
  match nat w 24 1 with
  | 0 => some (.call (fld w 23 1) (fld w 20 3) (fld w 0 20))
  | _ => none

/-- Major opcode 0x2A (R52): FN selects the word. -/
def decodeOp2A (w : BitVec 32) : Option Instr :=
  match nat w 21 4 with
  | 0 => if nat w 0 21 = 0 then some .ret else none
  | 1 => if nat w 0 21 = 0 then some .join else none
  | 2 => if nat w 14 7 = 0 then some (.brx (fld w 7 7) (fld w 0 7)) else none
  | 3 => some (.loop (fld w 14 7) (fld w 7 7) (fld w 0 7))
  | 4 => if nat w 0 21 = 0 then some .nop else none
  | 5 => if nat w 14 7 = 0 then some (.brxv (fld w 7 7) (fld w 0 7)) else none
  | _ => none

/-- Major opcode 0x2B (R52): FN selects the word. -/
def decodeOp2B (w : BitVec 32) : Option Instr :=
  match nat w 21 4 with
  | 0 => if nat w 0 7 = 0 then some (.split (fld w 14 7) (fld w 7 7)) else none
  | 1 => if nat w 0 7 = 0 then some (.fuse (fld w 14 7) (fld w 7 7)) else none
  | 2 => if nat w 0 7 = 0 then some (.fuse_r (fld w 14 7) (fld w 7 7)) else none
  | 3 => if nat w 0 21 = 0 then some .yield else none
  | 4 => if nat w 0 7 = 0 ∧ nat w 14 7 = 0 then some (.sleep (fld w 7 7)) else none
  | _ => none

/-- Major opcode 0x2C (R52): FN selects the word. -/
def decodeOp2C (w : BitVec 32) : Option Instr :=
  match nat w 21 4 with
  | 0 => if nat w 0 21 = 0 then some .exit else none
  | 1 => if nat w 0 21 = 0 then some .refill else none
  | 2 => if nat w 0 14 = 0 then some (.iqry (fld w 14 7)) else none
  | 3 => if nat w 0 21 = 0 then some .exitw else none
  | _ => none

/-- Major opcode 0x2D (R52): FN selects the word. -/
def decodeOp2D (w : BitVec 32) : Option Instr :=
  match nat w 21 4 with
  | 0 => some (.racq (fld w 14 7) (fld w 7 7) (fld w 0 7))
  | 1 => if nat w 0 7 = 0 then some (.rrel (fld w 14 7) (fld w 7 7)) else none
  | 2 => if nat w 0 7 = 0 ∧ nat w 14 7 = 0 then some (.wbase (fld w 7 7)) else none
  | _ => none

/-- Major opcode 0x2E (R52): FN selects the word. -/
def decodeOp2E (w : BitVec 32) : Option Instr :=
  match nat w 21 4 with
  | 0 => some (.launch (fld w 14 7) (fld w 7 7) (fld w 0 7))
  | 1 => some (.lwait (fld w 14 7) (fld w 7 7) (fld w 0 7))
  | 2 => if nat w 0 21 = 0 then some .trig else none
  | _ => none

/-- Major opcode 0x2F (R52). -/
def decodeOp2F (w : BitVec 32) : Option Instr :=
  if nat w 18 7 = 0 then some (.safept (fld w 0 18)) else none

/-- Major opcode 0x30 (R52): FN selects the word. -/
def decodeOp30 (w : BitVec 32) : Option Instr :=
  match nat w 21 4 with
  | 0 => if nat w 0 7 = 0 ∧ nat w 14 7 = 0 then some (.trap (fld w 7 7)) else none
  | 1 => some (.csrr (fld w 14 7) (fld w 0 14))
  | 2 => some (.csrw (fld w 14 7) (fld w 0 14))
  | 3 => some (.csrs (fld w 14 7) (fld w 0 14))
  | 4 => some (.csrc (fld w 14 7) (fld w 0 14))
  | 5 => if nat w 0 21 = 0 then some .eret else none
  | 6 => if nat w 0 14 = 0 then some (.clock (fld w 14 7)) else none
  | _ => none

/-- Major opcode 0x31 (R52): FN selects the word. -/
def decodeOp31 (w : BitVec 32) : Option Instr :=
  match nat w 21 4 with
  | 0 => if nat w 14 7 = 0 then some (.tlbi (fld w 7 7) (fld w 0 7)) else none
  | 1 => if nat w 0 21 = 0 then some .tlbsync else none
  | 2 => some (.bswap (fld w 14 7) (fld w 7 7) (fld w 0 7))
  | 3 => some (.bresume (fld w 14 7) (fld w 7 7) (fld w 0 7))
  | _ => none

/-- Major opcode 0x32 (R52): FN selects the word. -/
def decodeOp32 (w : BitVec 32) : Option Instr :=
  match nat w 21 4 with
  | 0 => some (.coll (fld w 14 7) (fld w 7 7) (fld w 0 7))
  | 1 => some (.cinit (fld w 14 7) (fld w 7 7) (fld w 0 7))
  | 2 => if nat w 0 7 = 0 then some (.cqry (fld w 14 7) (fld w 7 7)) else none
  | _ => none

/-- Major opcode 0x33 (R52): FN selects the word. -/
def decodeOp33 (w : BitVec 32) : Option Instr :=
  match nat w 21 4 with
  | 0 => if nat w 0 7 = 0 ∧ nat w 14 7 = 0 then some (.seed (fld w 7 7)) else none
  | _ => none

/-- The instruction that a word lays out, before the checks of `Instr.wf`. -/
def decodeFields (w : BitVec 32) : Option Instr :=
  match nat w 25 6 with
  | 0x01 => decodeOp01 w
  | 0x02 => decodeOp02 w
  | 0x03 => decodeOp03 w
  | 0x04 => decodeOp04 w
  | 0x05 => decodeOp05 w
  | 0x06 => decodeOp06 w
  | 0x07 => decodeOp07 w
  | 0x08 => decodeOp08 w
  | 0x09 => decodeOp09 w
  | 0x0A => decodeOp0A w
  | 0x0B => decodeOp0B w
  | 0x0C => decodeOp0C w
  | 0x0D => decodeOp0D w
  | 0x0E => decodeOp0E w
  | 0x0F => decodeOp0F w
  | 0x10 => decodeOp10 w
  | 0x11 => decodeOp11 w
  | 0x12 => decodeOp12 w
  | 0x13 => decodeOp13 w
  | 0x14 => decodeOp14 w
  | 0x15 => decodeOp15 w
  | 0x16 => decodeOp16 w
  | 0x18 => decodeOp18 w
  | 0x19 => decodeOp19 w
  | 0x1A => decodeOp1A w
  | 0x1B => decodeOp1B w
  | 0x1C => decodeOp1C w
  | 0x1D => decodeOp1D w
  | 0x1E => decodeOp1E w
  | 0x1F => decodeOp1F w
  | 0x20 => decodeOp20 w
  | 0x21 => decodeOp21 w
  | 0x22 => decodeOp22 w
  | 0x23 => decodeOp23 w
  | 0x24 => decodeOp24 w
  | 0x25 => decodeOp25 w
  | 0x28 => decodeOp28 w
  | 0x29 => decodeOp29 w
  | 0x2A => decodeOp2A w
  | 0x2B => decodeOp2B w
  | 0x2C => decodeOp2C w
  | 0x2D => decodeOp2D w
  | 0x2E => decodeOp2E w
  | 0x2F => decodeOp2F w
  | 0x30 => decodeOp30 w
  | 0x31 => decodeOp31 w
  | 0x32 => decodeOp32 w
  | 0x33 => decodeOp33 w
  | _ => none

/-- A decoded word: the instruction, its bung and its prefix word. -/
structure Decoded where
  i : Instr
  bung : Bool
  pfx : Pfx
  deriving DecidableEq, Repr

/-- Well-formed: a prefix word of its class, the instruction under it, with the bung where it is run-terminal (R38, R53). -/
def Decoded.wf (x : Decoded) : Bool := x.pfx.fits x.i.pclass && x.i.wf x.pfx && (!x.i.terminal || x.bung)

/-- The instruction of a word and its prefix word; none is the condition ILLEGAL (R53). -/
def decode (p : Option (BitVec 25)) (w : BitVec 32) : Option Decoded :=
  match decodeFields w with
  | none => none
  | some i =>
    match parsePfx i.pclass p with
    | none => none
    | some x => if Decoded.wf ⟨i, bungOf w, x⟩ then some ⟨i, bungOf w, x⟩ else none

/-! ### Fetching: bytes to words (R30, R43) -/

/-- A word from its four bytes, little-endian. -/
def wordOfBytes (b0 b1 b2 b3 : Byte) : BitVec 32 := b3 ++ b2 ++ b1 ++ b0

/-- What an instruction's bytes decode to: the instruction and its length in bytes, or the reason why not. -/
inductive Fetched where
  /-- a well-formed instruction: its word, the prefix word before it or 0, and their length -/
  | ok (x : Decoded) (w pfx : BitVec 32) (len : Nat)
  /-- an illegal word, with the prefix word before it or 0, and their length (R53, R317) -/
  | illegal (w pfx : BitVec 32) (len : Nat)
  /-- fewer bytes than a word, or than a prefix word and the word it stands before -/
  | short
  deriving DecidableEq, Repr

/-- One word without a prefix word. -/
def decodeOne (w : BitVec 32) : Fetched :=
  match decode none w with
  | some x => .ok x w 0 4
  | none => .illegal w 0 4

/-- A prefix word and the word after it. A prefix word with the bung, or before a prefix word, is illegal (R43). -/
def decodePair (p w : BitVec 32) : Fetched :=
  if bungOf p || isPfx w then .illegal w p 8
  else
    match decode (some (p.setWidth 25)) w with
    | some x => .ok x w p 8
    | none => .illegal w p 8

/-- Decode the bytes at an instruction's address: total on any bytes. A prefix word that ends its run is ILLEGAL by itself (R43). -/
def decodeBytes : List Byte → Fetched
  | b0 :: b1 :: b2 :: b3 :: rest =>
    let w := wordOfBytes b0 b1 b2 b3
    if isPfx w && bungOf w then .illegal w 0 4
    else if isPfx w then
      match rest with
      | c0 :: c1 :: c2 :: c3 :: _ => decodePair w (wordOfBytes c0 c1 c2 c3)
      | _ => .short
    else decodeOne w
  | _ => .short

/-! ### The encoder -/

/-- The low 31 bits of a word: its fixed bits and the fields at bits 14, 7 and 0 (R41). -/
def fields (x d a b : Nat) : Nat := x + d * 2 ^ 14 + a * 2 ^ 7 + b

/-- The low 31 bits of an instruction's word (R41, R52); none for a step of the device, which has no word. -/
def encodeFields (i : Instr) : Option Nat :=
  match i with
  | .iadd d a b => some (fields 0x02000000 d.toNat a.toNat b.toNat)
  | .isub d a b => some (fields 0x02200000 d.toNat a.toNat b.toNat)
  | .imin d a b => some (fields 0x02400000 d.toNat a.toNat b.toNat)
  | .imax d a b => some (fields 0x02600000 d.toNat a.toNat b.toNat)
  | .umin d a b => some (fields 0x02800000 d.toNat a.toNat b.toNat)
  | .umax d a b => some (fields 0x02A00000 d.toNat a.toNat b.toNat)
  | .iabsd d a b => some (fields 0x02C00000 d.toNat a.toNat b.toNat)
  | .iavg d a b => some (fields 0x02E00000 d.toNat a.toNat b.toNat)
  | .iadds d a b => some (fields 0x03000000 d.toNat a.toNat b.toNat)
  | .isubs d a b => some (fields 0x03200000 d.toNat a.toNat b.toNat)
  | .uadds d a b => some (fields 0x03400000 d.toNat a.toNat b.toNat)
  | .usubs d a b => some (fields 0x03600000 d.toNat a.toNat b.toNat)
  | .imul d a b => some (fields 0x03800000 d.toNat a.toNat b.toNat)
  | .imulh d a b => some (fields 0x03A00000 d.toNat a.toNat b.toNat)
  | .umulh d a b => some (fields 0x03C00000 d.toNat a.toNat b.toNat)
  | .imad d a b => some (fields 0x03E00000 d.toNat a.toNat b.toNat)
  | .and d a b => some (fields 0x04000000 d.toNat a.toNat b.toNat)
  | .or d a b => some (fields 0x04200000 d.toNat a.toNat b.toNat)
  | .xor d a b => some (fields 0x04400000 d.toNat a.toNat b.toNat)
  | .andn d a b => some (fields 0x04600000 d.toNat a.toNat b.toNat)
  | .orn d a b => some (fields 0x04800000 d.toNat a.toNat b.toNat)
  | .xnor d a b => some (fields 0x04A00000 d.toNat a.toNat b.toNat)
  | .shl d a b => some (fields 0x04C00000 d.toNat a.toNat b.toNat)
  | .shr d a b => some (fields 0x04E00000 d.toNat a.toNat b.toNat)
  | .sar d a b => some (fields 0x05000000 d.toNat a.toNat b.toNat)
  | .rol d a b => some (fields 0x05200000 d.toNat a.toNat b.toNat)
  | .popc d a => some (fields 0x05400000 d.toNat a.toNat 0)
  | .clz d a => some (fields 0x05600000 d.toNat a.toNat 0)
  | .brev d a => some (fields 0x05800000 d.toNat a.toNat 0)
  | .bfx d a b => some (fields 0x05A00000 d.toNat a.toNat b.toNat)
  | .bfi d a b => some (fields 0x05C00000 d.toNat a.toNat b.toNat)
  | .prmb d a b => some (fields 0x05E00000 d.toNat a.toNat b.toNat)
  | .iaddi d a i => some (fields 0x06000000 d.toNat a.toNat i.toNat)
  | .andi d a i => some (fields 0x06200000 d.toNat a.toNat i.toNat)
  | .ori d a i => some (fields 0x06400000 d.toNat a.toNat i.toNat)
  | .xori d a i => some (fields 0x06600000 d.toNat a.toNat i.toNat)
  | .shli d a i => some (fields 0x06800000 d.toNat a.toNat i.toNat)
  | .shri d a i => some (fields 0x06A00000 d.toNat a.toNat i.toNat)
  | .sari d a i => some (fields 0x06C00000 d.toNat a.toNat i.toNat)
  | .roli d a i => some (fields 0x06E00000 d.toNat a.toNat i.toNat)
  | .imini d a i => some (fields 0x07000000 d.toNat a.toNat i.toNat)
  | .imaxi d a i => some (fields 0x07200000 d.toNat a.toNat i.toNat)
  | .movl d i => some (fields (0x08000000 + d.toNat * 2^18) 0 0 i.toNat)
  | .movhi d i => some (fields (0x0A000000 + d.toNat * 2^18) 0 0 i.toNat)
  | .icmp c d a b => some (fields (0x0C000000 + c.toNat * 2^21) d.toNat a.toNat b.toNat)
  | .icmpi c d a i => some (fields (0x0E000000 + c.toNat * 2^21) d.toNat a.toNat i.toNat)
  | .mov d a => some (fields 0x10000000 d.toNat a.toNat 0)
  | .sel n d a b => some (fields (0x11000000 + n.toNat * 2^21) d.toNat a.toNat b.toNat)
  | .pand d a b => some (fields 0x12000000 d.toNat a.toNat b.toNat)
  | .por d a b => some (fields 0x12200000 d.toNat a.toNat b.toNat)
  | .pxor d a b => some (fields 0x12400000 d.toNat a.toNat b.toNat)
  | .pnot d a => some (fields 0x12600000 d.toNat a.toNat 0)
  | .ptov d => some (fields 0x12800000 d.toNat 0 0)
  | .vtop a b => some (fields 0x12A00000 0 a.toNat b.toNat)
  | .qand d a b => some (fields 0x12C00000 d.toNat a.toNat b.toNat)
  | .qor d a b => some (fields 0x12E00000 d.toNat a.toNat b.toNat)
  | .qxor d a b => some (fields 0x13000000 d.toNat a.toNat b.toNat)
  | .qnot d a => some (fields 0x13200000 d.toNat a.toNat 0)
  | .sadd d a b => some (fields 0x14000000 d.toNat a.toNat b.toNat)
  | .ssub d a b => some (fields 0x14200000 d.toNat a.toNat b.toNat)
  | .smul d a b => some (fields 0x14400000 d.toNat a.toNat b.toNat)
  | .smulhu d a b => some (fields 0x14600000 d.toNat a.toNat b.toNat)
  | .smin d a b => some (fields 0x14800000 d.toNat a.toNat b.toNat)
  | .smax d a b => some (fields 0x14A00000 d.toNat a.toNat b.toNat)
  | .sminu d a b => some (fields 0x14C00000 d.toNat a.toNat b.toNat)
  | .smaxu d a b => some (fields 0x14E00000 d.toNat a.toNat b.toNat)
  | .sand d a b => some (fields 0x15000000 d.toNat a.toNat b.toNat)
  | .sor d a b => some (fields 0x15200000 d.toNat a.toNat b.toNat)
  | .sxor d a b => some (fields 0x15400000 d.toNat a.toNat b.toNat)
  | .sshl d a b => some (fields 0x15600000 d.toNat a.toNat b.toNat)
  | .sshr d a b => some (fields 0x15800000 d.toNat a.toNat b.toNat)
  | .ssar d a b => some (fields 0x15A00000 d.toNat a.toNat b.toNat)
  | .spopc d a => some (fields 0x15C00000 d.toNat a.toNat 0)
  | .sclz d a => some (fields 0x15E00000 d.toNat a.toNat 0)
  | .saddi d a i => some (fields 0x16000000 d.toNat a.toNat i.toNat)
  | .sandi d a i => some (fields 0x16200000 d.toNat a.toNat i.toNat)
  | .sori d a i => some (fields 0x16400000 d.toNat a.toNat i.toNat)
  | .sxori d a i => some (fields 0x16600000 d.toNat a.toNat i.toNat)
  | .sshli d a i => some (fields 0x16800000 d.toNat a.toNat i.toNat)
  | .sshri d a i => some (fields 0x16A00000 d.toNat a.toNat i.toNat)
  | .ssari d a i => some (fields 0x16C00000 d.toNat a.toNat i.toNat)
  | .scmp c d a b => some (fields (0x18000000 + c.toNat * 2^21) d.toNat a.toNat b.toNat)
  | .scmpi c d a i => some (fields (0x1A000000 + c.toNat * 2^21) d.toNat a.toNat i.toNat)
  | .vany d a => some (fields 0x1C000000 d.toNat a.toNat 0)
  | .vall d a => some (fields 0x1C200000 d.toNat a.toNat 0)
  | .ballot d a => some (fields 0x1C400000 d.toNat a.toNat 0)
  | .vcnt d a => some (fields 0x1C600000 d.toNat a.toNat 0)
  | .vfirst d a => some (fields 0x1C800000 d.toNat a.toNat 0)
  | .rdlane d a b => some (fields 0x1CA00000 d.toNat a.toNat b.toNat)
  | .wrlane d a b => some (fields 0x1CC00000 d.toNat a.toNat b.toNat)
  | .lget_idx d a b => some (fields 0x1E000000 d.toNat a.toNat b.toNat)
  | .lget_up d a k => some (fields 0x1E200000 d.toNat a.toNat k.toNat)
  | .lget_dn d a k => some (fields 0x1E400000 d.toNat a.toNat k.toNat)
  | .lget_xor d a b => some (fields 0x1E600000 d.toNat a.toNat b.toNat)
  | .lget_wxor d a k => some (fields 0x1E800000 d.toNat a.toNat k.toNat)
  | .lget_wrot d a k => some (fields 0x1EA00000 d.toNat a.toNat k.toNat)
  | .radd d a => some (fields 0x20000000 d.toNat a.toNat 0)
  | .rmin d a => some (fields 0x20200000 d.toNat a.toNat 0)
  | .rmax d a => some (fields 0x20400000 d.toNat a.toNat 0)
  | .rumin d a => some (fields 0x20600000 d.toNat a.toNat 0)
  | .rumax d a => some (fields 0x20800000 d.toNat a.toNat 0)
  | .rfadd d a => some (fields 0x20A00000 d.toNat a.toNat 0)
  | .rfmin d a => some (fields 0x20C00000 d.toNat a.toNat 0)
  | .rfmax d a => some (fields 0x20E00000 d.toNat a.toNat 0)
  | .scan_add d a => some (fields 0x21000000 d.toNat a.toNat 0)
  | .scan_fadd d a => some (fields 0x21200000 d.toNat a.toNat 0)
  | .rstep_add d a b => some (fields 0x21400000 d.toNat a.toNat b.toNat)
  | .rstep_fadd d a b => some (fields 0x21600000 d.toNat a.toNat b.toNat)
  | .rstep_fmax d a b => some (fields 0x21800000 d.toNat a.toNat b.toNat)
  | .fadd d a b => some (fields 0x22000000 d.toNat a.toNat b.toNat)
  | .fsub d a b => some (fields 0x22200000 d.toNat a.toNat b.toNat)
  | .fmul d a b => some (fields 0x22400000 d.toNat a.toNat b.toNat)
  | .fma d a b => some (fields 0x22600000 d.toNat a.toNat b.toNat)
  | .fnma d a b => some (fields 0x22800000 d.toNat a.toNat b.toNat)
  | .fmin d a b => some (fields 0x22A00000 d.toNat a.toNat b.toNat)
  | .fmax d a b => some (fields 0x22C00000 d.toNat a.toNat b.toNat)
  | .fabs d a => some (fields 0x22E00000 d.toNat a.toNat 0)
  | .fneg d a => some (fields 0x23000000 d.toNat a.toNat 0)
  | .fcpys d a b => some (fields 0x23200000 d.toNat a.toNat b.toNat)
  | .fmov d a => some (fields 0x23400000 d.toNat a.toNat 0)
  | .frnd d a => some (fields 0x23600000 d.toNat a.toNat 0)
  | .fclass d a => some (fields 0x23800000 d.toNat a.toNat 0)
  | .fscale d a b => some (fields 0x23A00000 d.toNat a.toNat b.toNat)
  | .frcp d a => some (fields 0x24000000 d.toNat a.toNat 0)
  | .frsq d a => some (fields 0x24200000 d.toNat a.toNat 0)
  | .fsqrt d a => some (fields 0x24400000 d.toNat a.toNat 0)
  | .fex2 d a => some (fields 0x24600000 d.toNat a.toNat 0)
  | .flg2 d a => some (fields 0x24800000 d.toNat a.toNat 0)
  | .fsin d a => some (fields 0x24A00000 d.toNat a.toNat 0)
  | .fcos d a => some (fields 0x24C00000 d.toNat a.toNat 0)
  | .ftanh d a => some (fields 0x24E00000 d.toNat a.toNat 0)
  | .hadd2 d a b => some (fields 0x26000000 d.toNat a.toNat b.toNat)
  | .hmul2 d a b => some (fields 0x26200000 d.toNat a.toNat b.toNat)
  | .hfma2 d a b => some (fields 0x26400000 d.toNat a.toNat b.toNat)
  | .hmin2 d a b => some (fields 0x26600000 d.toNat a.toNat b.toNat)
  | .hmax2 d a b => some (fields 0x26800000 d.toNat a.toNat b.toNat)
  | .hadd2_bf d a b => some (fields 0x27000000 d.toNat a.toNat b.toNat)
  | .hmul2_bf d a b => some (fields 0x27200000 d.toNat a.toNat b.toNat)
  | .hfma2_bf d a b => some (fields 0x27400000 d.toNat a.toNat b.toNat)
  | .hmin2_bf d a b => some (fields 0x27600000 d.toNat a.toNat b.toNat)
  | .hmax2_bf d a b => some (fields 0x27800000 d.toNat a.toNat b.toNat)
  | .fcmp c d a b => some (fields (0x28000000 + c.toNat * 2^21) d.toNat a.toNat b.toNat)
  | .f2i d a => some (fields 0x2A000000 d.toNat a.toNat 0)
  | .f2z d a => some (fields 0x2A200000 d.toNat a.toNat 0)
  | .i2f d a => some (fields 0x2A400000 d.toNat a.toNat 0)
  | .z2f d a => some (fields 0x2A600000 d.toNat a.toNat 0)
  | .pkh2 d a b => some (fields 0x2A800000 d.toNat a.toNat b.toNat)
  | .pkbf2 d a b => some (fields 0x2AA00000 d.toNat a.toNat b.toNat)
  | .f2l d a => some (fields 0x2AC00000 d.toNat a.toNat 0)
  | .l2f d a => some (fields 0x2AE00000 d.toNat a.toNat 0)
  | .bexp d a => some (fields 0x2C000000 d.toNat a.toNat 0)
  | .bq_8 d a b => some (fields 0x2C200000 d.toNat a.toNat b.toNat)
  | .bq_6 d a b => some (fields 0x2C400000 d.toNat a.toNat b.toNat)
  | .bq_4 d a b => some (fields 0x2C600000 d.toNat a.toNat b.toNat)
  | .bq_2 d a b => some (fields 0x2C800000 d.toNat a.toNat b.toNat)
  | .bdq_8 d a b => some (fields 0x2CA00000 d.toNat a.toNat b.toNat)
  | .bdq_6 d a b => some (fields 0x2CC00000 d.toNat a.toNat b.toNat)
  | .bdq_4 d a b => some (fields 0x2CE00000 d.toNat a.toNat b.toNat)
  | .bdq_2 d a b => some (fields 0x2D000000 d.toNat a.toNat b.toNat)
  | .ld s i d a b => some (fields (0x30000000 + s.toNat * 2^22 + i.toNat * 2^21) d.toNat a.toNat b.toNat)
  | .st s i d a b => some (fields (0x32000000 + s.toNat * 2^22 + i.toNat * 2^21) d.toNat a.toNat b.toNat)
  | .ldf6 d a b => some (fields 0x34000000 d.toNat a.toNat b.toNat)
  | .ldloc_w d a b => some (fields 0x34200000 d.toNat a.toNat b.toNat)
  | .ldloc_d d a b => some (fields 0x34400000 d.toNat a.toNat b.toNat)
  | .ldloc_q d a b => some (fields 0x34600000 d.toNat a.toNat b.toNat)
  | .stp s d a b => some (fields (0x36000000 + s.toNat * 2^22) d.toNat a.toNat b.toNat)
  | .rsdef d a b => some (fields 0x38000000 d.toNat a.toNat b.toNat)
  | .rsadd d a b => some (fields 0x38200000 d.toNat a.toNat b.toNat)
  | .rsdel d a b => some (fields 0x38400000 d.toNat a.toNat b.toNat)
  | .rsqry d a b => some (fields 0x38600000 d.toNat a.toNat b.toNat)
  | .unpark a => some (fields 0x38800000 0 a.toNat 0)
  | .atom_add d a b => some (fields 0x3A000000 d.toNat a.toNat b.toNat)
  | .atom_min d a b => some (fields 0x3A200000 d.toNat a.toNat b.toNat)
  | .atom_max d a b => some (fields 0x3A400000 d.toNat a.toNat b.toNat)
  | .atom_umin d a b => some (fields 0x3A600000 d.toNat a.toNat b.toNat)
  | .atom_umax d a b => some (fields 0x3A800000 d.toNat a.toNat b.toNat)
  | .atom_and d a b => some (fields 0x3AA00000 d.toNat a.toNat b.toNat)
  | .atom_or d a b => some (fields 0x3AC00000 d.toNat a.toNat b.toNat)
  | .atom_xor d a b => some (fields 0x3AE00000 d.toNat a.toNat b.toNat)
  | .atom_xchg d a b => some (fields 0x3B000000 d.toNat a.toNat b.toNat)
  | .atom_cas d a b => some (fields 0x3B200000 d.toNat a.toNat b.toNat)
  | .atom_fadd d a b => some (fields 0x3B400000 d.toNat a.toNat b.toNat)
  | .atom_bfadd2 d a b => some (fields 0x3B600000 d.toNat a.toNat b.toNat)
  | .atom_inc d a b => some (fields 0x3B800000 d.toNat a.toNat b.toNat)
  | .atom_add64 d a b => some (fields 0x3BA00000 d.toNat a.toNat b.toNat)
  | .atom_cas64 d a b => some (fields 0x3BC00000 d.toNat a.toNat b.toNat)
  | .llock d a b => some (fields 0x3C000000 d.toNat a.toNat b.toNat)
  | .ltry d a => some (fields 0x3C200000 d.toNat a.toNat 0)
  | .lunlk d a => some (fields 0x3C400000 d.toNat a.toNat 0)
  | .lqry d a => some (fields 0x3C600000 d.toNat a.toNat 0)
  | .labnd d a => some (fields 0x3C800000 d.toNat a.toNat 0)
  | .nbwait i b => some (fields 0x3E000000 0 i.toNat b.toNat)
  | .nbarv i b => some (fields 0x3E200000 0 i.toNat b.toNat)
  | .gbwait b => some (fields 0x3E400000 0 0 b.toNat)
  | .abinit a b => some (fields 0x3E600000 0 a.toNat b.toNat)
  | .abarv d a b => some (fields 0x3E800000 d.toNat a.toNat b.toNat)
  | .abwait a b => some (fields 0x3EA00000 0 a.toNat b.toNat)
  | .abtest d a b => some (fields 0x3EC00000 d.toNat a.toNat b.toNat)
  | .fence k s f t => some (fields (0x40000000 + k.toNat * 2^17) s.toNat f.toNat t.toNat)
  | .pref a b => some (fields 0x42000000 0 a.toNat b.toNat)
  | .cwb a b => some (fields 0x42200000 0 a.toNat b.toNat)
  | .cinv a b => some (fields 0x42400000 0 a.toNat b.toNat)
  | .cpy t a b => some (fields 0x44000000 t.toNat a.toNat b.toNat)
  | .cpy2d t a b => some (fields 0x44200000 t.toNat a.toNat b.toNat)
  | .cpybs t a b => some (fields 0x44400000 t.toNat a.toNat b.toNat)
  | .bsz t a b => some (fields 0x44600000 t.toNat a.toNat b.toNat)
  | .mcrd t a b => some (fields 0x44800000 t.toNat a.toNat b.toNat)
  | .twall a => some (fields 0x46000000 0 a.toNat 0)
  | .twany a => some (fields 0x46200000 0 a.toNat 0)
  | .tff d a => some (fields 0x46400000 d.toNat a.toNat 0)
  | .tclr a => some (fields 0x46600000 0 a.toNat 0)
  | .trd d => some (fields 0x46800000 d.toNat 0 0)
  | .mma z x y d a b => some (fields (0x48000000 + z.toNat * 2^24 + x.toNat * 2^22 + y.toNat * 2^21) d.toNat a.toNat b.toNat)
  | .mxst d => some (fields 0x4A000000 d.toNat 0 0)
  | .bra n p o => some (fields (0x50000000 + n.toNat * 2^23 + p.toNat * 2^20) 0 0 o.toNat)
  | .brv n p o => some (fields (0x51000000 + n.toNat * 2^23 + p.toNat * 2^20) 0 0 o.toNat)
  | .call n p o => some (fields (0x52000000 + n.toNat * 2^23 + p.toNat * 2^20) 0 0 o.toNat)
  | .ret => some (fields 0x54000000 0 0 0)
  | .join => some (fields 0x54200000 0 0 0)
  | .brx a b => some (fields 0x54400000 0 a.toNat b.toNat)
  | .loop e a e2 => some (fields 0x54600000 e.toNat a.toNat e2.toNat)
  | .nop => some (fields 0x54800000 0 0 0)
  | .brxv a b => some (fields 0x54A00000 0 a.toNat b.toNat)
  | .split d a => some (fields 0x56000000 d.toNat a.toNat 0)
  | .fuse d a => some (fields 0x56200000 d.toNat a.toNat 0)
  | .fuse_r d a => some (fields 0x56400000 d.toNat a.toNat 0)
  | .yield => some (fields 0x56600000 0 0 0)
  | .sleep a => some (fields 0x56800000 0 a.toNat 0)
  | .exit => some (fields 0x58000000 0 0 0)
  | .refill => some (fields 0x58200000 0 0 0)
  | .iqry d => some (fields 0x58400000 d.toNat 0 0)
  | .exitw => some (fields 0x58600000 0 0 0)
  | .racq d a b => some (fields 0x5A000000 d.toNat a.toNat b.toNat)
  | .rrel d a => some (fields 0x5A200000 d.toNat a.toNat 0)
  | .wbase a => some (fields 0x5A400000 0 a.toNat 0)
  | .launch d a b => some (fields 0x5C000000 d.toNat a.toNat b.toNat)
  | .lwait d a b => some (fields 0x5C200000 d.toNat a.toNat b.toNat)
  | .trig => some (fields 0x5C400000 0 0 0)
  | .safept i => some (fields 0x5E000000 0 0 i.toNat)
  | .trap a => some (fields 0x60000000 0 a.toNat 0)
  | .csrr d c => some (fields 0x60200000 d.toNat 0 c.toNat)
  | .csrw d c => some (fields 0x60400000 d.toNat 0 c.toNat)
  | .csrs d c => some (fields 0x60600000 d.toNat 0 c.toNat)
  | .csrc d c => some (fields 0x60800000 d.toNat 0 c.toNat)
  | .eret => some (fields 0x60A00000 0 0 0)
  | .clock d => some (fields 0x60C00000 d.toNat 0 0)
  | .tlbi a b => some (fields 0x62000000 0 a.toNat b.toNat)
  | .tlbsync => some (fields 0x62200000 0 0 0)
  | .bswap d a b => some (fields 0x62400000 d.toNat a.toNat b.toNat)
  | .bresume d a b => some (fields 0x62600000 d.toNat a.toNat b.toNat)
  | .coll d a b => some (fields 0x64000000 d.toNat a.toNat b.toNat)
  | .cinit d a b => some (fields 0x64200000 d.toNat a.toNat b.toNat)
  | .cqry d a => some (fields 0x64400000 d.toNat a.toNat 0)
  | .seed a => some (fields 0x66000000 0 a.toNat 0)
  | .commit | .qtail | .resume | .skip | .register_write | .event_counter_write | .record_accept | .grid_start
  | .placement_pass | .head_gang_reserve | .donation | .reserved_inject | .carveout_interval | .warp_retire
  | .block_retire | .grid_complete | .parked_placement | .copy_unit | .copy_completion | .product_start | .product_land
  | .lock_release_arrive | .lock_grant | .lock_timeout | .inherit_hop | .racq_timeout | .split_timeout | .fuse_timeout
  | .sleep_expiry | .safepoint_force | .swap_image_write | .restore | .unit_kill | .tlbi_complete | .record_post | .aged
  | .coll_instance_end | .coll_timeout | .data | .counts | .ack | .abort_frame | .retransmit | .pause | .host_write
  | .host_read | .merge_request | .divide_request | .device_reset | .boot_stage | .partition_reset | .attestation_report
  | .unit_ready | .corrected_error | .kiln_replan | .thermal_stop | .thermal_resume | .power_throttle => none

/-- The prefix word of given fields: OP 0x3F and no bung (R43). -/
def pfxWord (x : BitVec 25) : BitVec 32 := 0b0111111#7 ++ x

/-- The words of an instruction: its prefix word, if it has one, and its word (R41, R44). -/
def encode (x : Decoded) : Option (List (BitVec 32)) :=
  match encodeFields x.i with
  | none => none
  | some f =>
    match x.pfx.bits with
    | none => some [word x.bung f]
    | some p => some [pfxWord p, word x.bung f]

/-- The four bytes of a word, lowest address first. -/
def bytesOfWord (w : BitVec 32) : List Byte :=
  [w.extractLsb' 0 8, w.extractLsb' 8 8, w.extractLsb' 16 8, w.extractLsb' 24 8]

/-- The first `k` bytes of an instruction whose bits, numbered as the opcode table numbers them, are `w`. -/
def tableBytes : Nat → Nat → List Byte
  | 0, _ => []
  | k + 1, w => BitVec.ofNat 8 w :: tableBytes k (w / 256)

/-- The instruction the decoder reads from the bits `w` of a row of the opcode table; the bits above `nbits`, up to a
prefix word and the word it stands before, are zero. -/
def decodeTableWord (nbits w : Nat) : Option Instr :=
  match decodeBytes (tableBytes 8 (w % 2 ^ nbits)) with
  | .ok x _ _ _ => some x.i
  | _ => none

end Sys2Proof
end

