-- ==== Sys2Proof/Machine/State.lean ====
section
/-! DEFINITION. The state of the device, as plain data, and its value after reset. Every structure names the rule of spec/
that gives its parts. Lists keyed by a number stand for maps whose absent keys hold the reset value. -/

namespace Sys2Proof.Machine

/-! ### Memory and maps -/

/-- Keys strictly rising. -/
def rising {α : Type} : List (Nat × α) → Bool
  | [] => true
  | [_] => true
  | x :: y :: l => decide (x.1 < y.1) && rising (y :: l)

/-- A map from numbers to words whose absent keys read 0. -/
abbrev Sparse (n : Nat) := List (Nat × BitVec n)

/-- The canonical form: keys strictly rising, no entry 0. -/
def Sparse.wf {n : Nat} (m : Sparse n) : Bool := rising m && m.all (fun x => x.2 != 0)

/-- Bytes by address; an unlisted address reads 0 (log 5). -/
abbrev Memory := List Host.Cell

/-- The canonical form of a memory. -/
def Memory.wf (m : Memory) : Bool := Sparse.wf m

/-- A map from numbers whose absent keys hold a default. -/
abbrev AMap (α : Type) := List (Nat × α)

/-- One value for each quarter or die (R7, R359). -/
structure Quad (α : Type) where
  a : α
  b : α
  c : α
  d : α
  deriving DecidableEq, Repr

/-! ### Small vocabularies -/

/-- The two grades (R1). -/
inductive Grade where
  | hx24
  | hx20
  deriving DecidableEq, Repr

/-- Memory scopes (R47). -/
inductive Scope where
  | wrp
  | blk
  | gng
  | clu
  | dev
  | sys
  deriving DecidableEq, Repr

/-- Memory orders (R47). -/
inductive Order where
  | plain
  | acq
  | rel
  | ar
  deriving DecidableEq, Repr

/-- Fence kinds (R277). -/
inductive FenceKind where
  | acq
  | rel
  | ar
  | sc
  deriving DecidableEq, Repr

/-- Lane states (R94). -/
inductive LaneSt where
  | live
  | vacant
  | drained
  deriving DecidableEq, Repr

/-- The causes of user traps (R309) and supervisor faults (R310). -/
inductive Cause where
  | trap
  | locate
  | race
  | locked
  | width
  | brxrange
  | align
  | xlate
  | prot
  | illegal
  | operand
  | priv
  | memue
  | regbound
  | runlen
  | stackovf
  | handler
  deriving DecidableEq, Repr

/-- The kind of an access in a fault record (R317). -/
inductive Acc where
  | read
  | write
  | fetch
  | rmw
  deriving DecidableEq, Repr

/-- The operations of `atom` (R227). -/
inductive AtomOp where
  | add
  | min
  | max
  | umin
  | umax
  | and
  | or
  | xor
  | xchg
  | cas
  | fadd
  | bfadd2
  | inc
  | add64
  | cas64
  deriving DecidableEq, Repr

/-- The operations of the LOCK group (R266). -/
inductive LockOp where
  | llock
  | ltry
  | lunlk
  | lqry
  | labnd
  deriving DecidableEq, Repr

/-- The CSR writes (R328). -/
inductive CsrOp where
  | write
  | set
  | clear
  deriving DecidableEq, Repr

/-- The revisions of a reader-set entry (R223, R224). -/
inductive RsOp where
  | define
  | add
  | del
  | query
  deriving DecidableEq, Repr

/-- The CACHE group (R230). -/
inductive CacheOp where
  | pref
  | cwb
  | cinv
  deriving DecidableEq, Repr

/-! ### Addresses and pages -/

/-- Where an access lands: byte `off` of a core's scratchpad, a physical address of device memory, or one of the host. -/
inductive Loc where
  | scratch (core off : Nat)
  | dev (pa : Nat)
  | host (pa : Nat)
  deriving DecidableEq, Repr

/-- A leaf of the page tables with the page it maps (R185). -/
structure Leaf where
  va : Nat
  size : Nat
  pa : Nat
  r : Bool
  w : Bool
  x : Bool
  host : Bool
  cls : Nat
  grain : Nat
  park : Nat
  lockable : Bool
  race : Bool
  deriving DecidableEq, Repr

/-- One lane's access, by `lid`: its address, where it lands, its page and its bytes (read or to be written). -/
structure Piece where
  lane : Nat
  va : W64
  loc : Loc
  leaf : Option Leaf
  bytes : List Byte
  deriving DecidableEq, Repr

/-- The memory-class attributes of a word (R47), and its position in its run. -/
structure MAttr where
  pos : Nat
  scope : Scope
  order : Order
  hint : Nat
  deriving DecidableEq, Repr

/-! ### Work: descriptors, grids, gangs, blocks -/

/-- A kernel descriptor (R23): `width` in lanes, `scr` in 128-byte units, `bregs` and `xregs` in 16s. -/
structure KDesc where
  addr : W64
  entry : W64
  refill : W64
  thnd : W64
  bregs : Nat
  xregs : Nat
  width : Nat
  bwarps : Nat
  gangm1 : Nat
  oct : Bool
  race : Bool
  scr : Nat
  cvlo : Nat
  cvhi : Nat
  spill : Nat
  spillBase : W64
  safegap : Nat
  codeBase : W64
  codeSz : Nat
  deriving DecidableEq, Repr

/-- A launch record (R24): `deps` holds the enabled dependences, event and value. -/
structure Launch where
  kdesc : W64
  items : Nat
  gangm1 : Nat
  maxblk : Nat
  argp : W64
  deps : List (Nat × Nat)
  cev : Option Nat
  tev : Option Nat
  prio : Nat
  rcls : Nat
  nosteal : Bool
  irq : Bool
  deriving DecidableEq, Repr

/-- A cluster's range [lo, hi) of a grid's items (R85). -/
structure Range where
  clu : Nat
  lo : Nat
  hi : Nat
  deriving DecidableEq, Repr

/-- An accepted grid (R76, R79, R85): `seq` is GRIDH.SEQ, `held` the dependences that have held once (R80),
`pooled` that the supply is still one pool before the first placement pass (R82). -/
structure Grid where
  seq : Nat
  queue : Nat
  k : KDesc
  l : Launch
  prio : Nat
  held : List Bool
  started : Bool
  pooled : Bool
  ranges : List Range
  gangs : Nat
  triggered : Bool
  deriving DecidableEq, Repr

/-- A barrier's phase state: expected, arrived, retired (R255). -/
structure Bar where
  n : Nat
  a : Nat
  r : Nat
  deriving DecidableEq, Repr

/-- A resident gang (R81, R93) with its gang barrier (R255), the cores that held its blocks, and its size at its first placement (R323). -/
structure Gang where
  id : Nat
  grid : Nat
  cores : List Nat
  bar : Bar
  size : Nat
  deriving DecidableEq, Repr

/-- A resident block (R93): its grid, gang, core, scratchpad allocation (R183, R184), named barriers (R255) and whether
every warp of it that has gone had triggered (R79). -/
structure Block where
  id : Nat
  grid : Nat
  gang : Nat
  bid : Nat
  gcx : Nat
  core : Nat
  scrOff : Nat
  scrLen : Nat
  bars : List Bar
  triggered : Bool
  deriving DecidableEq, Repr

/-! ### A warp -/

/-- One lane of a warp: state, item, stochastic-rounding register (R64) and p0-p6 in bits 0-6 (R50). -/
structure Lane where
  st : LaneSt
  iid : W32
  lfsr : W32
  p : BitVec 8
  deriving DecidableEq, Repr

/-- A reconvergence record (R122): `brxv` is KIND 1. -/
structure Rec where
  brxv : Bool
  rmask : Mask
  pmask : Mask
  tpc : W64
  jv : Bool
  jpc : W64
  deriving DecidableEq, Repr

/-- A loop level (R133): body start, body end and RD0. -/
structure Level where
  start : W64
  stop : W64
  rd0 : Nat
  deriving DecidableEq, Repr

/-- The trap registers (R312) and the hidden SAVEDM (R311). -/
structure TrapRegs where
  thnd : W64
  cause : BitVec 8
  addr : W64
  info : W64
  epc : W64
  inh : Bool
  rd0 : Nat
  count : Nat
  savedM : Mask
  deriving DecidableEq, Repr

/-- A condition of a run (R37, R54): the word's position in the run, its cause, the lanes, and what the trap registers (R313)
and the fault record (R317) hold of it. -/
structure Cond where
  pos : Nat
  cause : Cause
  mask : Mask
  addr : W64
  acc : Acc
  info : W64
  detail : W64
  deriving DecidableEq, Repr

/-- A command of the copy engine (R235, R238-R242). -/
inductive CopyKind where
  | cpy (dst src : W64) (n : Nat)
  | cpy2d (dst src : W64) (pd ps l r : Nat)
  | cpybs (off smask : Nat) (src : W64) (n : Nat)
  | bsz (off smask : Nat) (n : Nat)
  | mcrd (src : W64) (off mask lines : Nat)
  deriving DecidableEq, Repr

/-- The failure that stopped a command: its cause, address, DETAIL and kind of access (R236, R317). -/
structure CopyFail where
  cause : Cause
  addr : W64
  detail : W64
  acc : Acc
  deriving DecidableEq, Repr

/-- A copy command with its issuer, tag, priority, the units still to do, the failure that stopped it and the number of its record (R235, R236, R319); `cov` says
that a `trig` of its warp came after it, so that the trigger waits for it (R290), `lost` that a router has dropped a packet of it, so that it never ends (R338, R361). -/
structure CopyCmd where
  w : WRef
  block : Nat
  gang : Nat
  tag : Nat
  prio : Nat
  kind : CopyKind
  left : List Nat
  fail : Option CopyFail
  record : Nat
  cov : Bool
  lost : Bool
  deriving DecidableEq, Repr

/-- A product on a tun (R248, R249): the strip, the issuing warp and word, file entries of D, A and the byte address of the
scales, formats, tile offset, the rows (physical lanes) to write, the run-start values of D and the activation and scale registers read at its start, both keyed
lane·512 + entry. -/
structure Product where
  w : WRef
  word : Nat
  strip : Nat
  d : Nat
  a : Nat
  sc : Nat
  na : Nat
  nb : Nat
  z : Bool
  tile : Nat
  rows : List Nat
  acc : List (Nat × W32)
  ops : List (Nat × W32)
  deriving DecidableEq, Repr

/-- An `mma` word in flight (R36, R248): the registers it writes and reads, products that have not landed, and not started; `cov` as for a copy command. -/
structure MmaWord where
  id : Nat
  cov : Bool
  d : Nat
  a : Nat
  na : Nat
  sc : Nat
  unlanded : Nat
  unread : Nat
  deriving DecidableEq, Repr

/-- The pair of `coll` (R342). -/
structure Tile where
  src : Nat
  dst : Nat
  n : Nat
  obj : Nat
  deriving DecidableEq, Repr

/-- What a run does at its commit, in program order (R33, R35): register writes, memory operations and the operations of words that are
not run-terminal. -/
inductive Act where
  /-- bits `mask` of file entry `entry` of physical lane `lane` -/
  | v (lane entry : Nat) (mask val : W32)
  | s (i : Nat) (val : W64)
  /-- predicate `i` of lane `lid` -/
  | p (lid i : Nat) (b : Bool)
  | q (i : Nat) (b : Bool)
  | lfsr (lid : Nat) (val : W32)
  | flags (f : BitVec 6)
  /-- a translation used by the run enters the TLBs (R187) -/
  | tlb (l : Leaf)
  /-- fetches of a table's words that a router drops, by the addresses of their packets (R338, R361) -/
  | lost (pas : List Nat)
  /-- what loads leave behind: L1 fills, stale re-placement, LOCMISS, reader entries (R188, R201, R202, R302) -/
  | load (ps : List Piece) (m : MAttr) (loc : Bool)
  | store (ps : List Piece) (m : MAttr)
  | stp (rsid : Nat) (ps : List Piece) (m : MAttr)
  | rset (op : RsOp) (d : Reg) (a : W64) (b0 b1 : W64)
  | unpark (loc : Loc)
  | cache (op : CacheOp) (ps : List Piece) (m : MAttr)
  | tclr (m : W64)
  | mxclr (m : BitVec 4)
  | racq (d : Reg) (a : Nat) (now : Bool)
  | rrel (d : Reg) (a : Nat)
  | wbase (v : Nat)
  | tlbi (all : Bool) (va : W64)
  | bswap (d : Reg) (a b : W64)
  | bresume (d : Reg) (a b : W64)
  deriving DecidableEq, Repr

/-- The run-terminal operation of a run (R38), with its operands as read at run start. -/
inductive Term where
  | none
  | nop
  | atom (op : AtomOp) (d : Reg) (ps : List Piece) (x y : List (Nat × W64)) (m : MAttr)
  | lock (op : LockOp) (d : Reg) (line : Option Loc) (a b : W64)
  | nb (wait : Bool) (id : Nat) (c : Nat)
  | gb (c : Nat)
  | abinit (l : Loc) (e : Nat)
  | abarv (d : Reg) (l : Loc) (glob : Bool) (b : W64)
  | abwait (l : Loc) (glob : Bool) (tok : Nat)
  | abtest (d : Reg) (l : Loc) (glob : Bool) (tok : Nat)
  | fence (k : FenceKind) (s : Scope) (f t : BitVec 4)
  | copy (tag : Nat) (k : CopyKind)
  | mma (z : Bool) (na nb : Nat) (d a sc : Nat) (tile : Nat) (act : Mask)
  /-- a taken uniform transfer: `bra`, `brx`, `ret` -/
  | jump (t : W64)
  | call (t : W64)
  | brv (t : W64) (taken : Mask)
  | join
  /-- `brxv`: the lanes of the lowest index, their target and the join's address -/
  | brxv (g : Mask) (t j : W64)
  | loop (n : W32) (e : Nat)
  | split (d : Reg) (w : W64)
  | fuse (d : Reg) (w : W64) (r : Bool)
  | yield
  | sleep (n : Nat)
  | exit (m : Mask)
  | exitw
  | refill
  | iqry (d : Reg)
  | launch (d : Reg) (q : W64) (bytes : List Byte)
  | lwait (d : Reg) (e : Nat) (v : W64)
  | trig
  | trap (a : W64)
  | eret
  | csr (op : CsrOp) (n : Nat) (v : W64)
  | coll (d : Reg) (h : Nat) (a : W64) (b : W64 × W64)
  | cinit (d : Reg) (h : Nat) (desc : List Byte) (ranks : List Byte)
  | cqry (d : Reg) (h : Nat)
  deriving DecidableEq, Repr

/-- What holds a run's park besides its checks (R244, R327, R87). -/
inductive ParkWait where
  | twall (m : W64)
  | twany (m : W64)
  | tlbsync
  /-- requests of a CAP class that wait for tokens, in order: bytes for the HBM and the fabric bucket, and of the reply's flits -/
  | inject (reqs : List (Nat × Nat × Nat))
  /-- a request that a router has dropped: its reply never comes (R338, R361) -/
  | dropped
  deriving DecidableEq, Repr

/-- The partition-wide CSRs (R330): user, supervisor; RESVk by k. -/
structure PCsr where
  rsbase : W64
  racedrop : W64
  locmiss : W64
  pkfall : W64
  fqbase : W64
  fqhead : W64
  fqtail : W64
  fqstat : W64
  sqmask : W64
  fltto : W64
  resv : Sparse 64
  ptbase : W64
  ccquota : W64
  pkquota : W64
  deriving DecidableEq, Repr

/-- An open run (R31-R39): its first word, the words so far, what it will do at its commit, its first condition, what holds its park,
its safepoint mask (R326), and what async agents may change, as it stood at run start (R32); `done` holds the tags on which a completion has landed since (R245). -/
structure Run where
  start : W64
  words : Nat
  acts : List Act
  term : Term
  cond : Option Cond
  waits : List ParkWait
  closed : Bool
  safept : Option (BitVec 18)
  next : W64
  since : Nat
  trdy0 : W64
  terr0 : W64
  ifc0 : Nat
  mx0 : W64
  linh0 : Nat
  binh0 : Nat
  clk0 : Nat
  csr0 : PCsr
  done : W64
  deriving DecidableEq, Repr

/-- What a warp waits for between runs (R118, R324); `addr` is the resume address that a fault record gives. -/
inductive Wait where
  | none
  | nbar (id c : Nat)
  | gbar (c : Nat)
  | lwait (d : Reg) (e : Nat) (v : W64)
  /-- the line, and A and B of the word -/
  | llock (d : Reg) (line : Nat) (a b : W64)
  | sleep (left : Nat)
  | abwait (l : Loc) (glob : Bool) (tok : Nat)
  /-- the width, whether `fuse.r`, since when, and the address of the word (R110) -/
  | fuse (d : Reg) (w : Nat) (r : Bool) (since : Nat) (at_ : W64)
  /-- the width, since when, and the address of the word, at which the warp stands until it divides (R108) -/
  | split (d : Reg) (w : Nat) (since : Nat) (at_ : W64)
  | coll (d : Reg) (h : Nat) (a : W64) (b : W64 × W64)
  | retire
  /-- fault-parked (R316): the TEPC to restore, since when, whether AGED has been posted, and the condition that its records give -/
  | fault (epc : W64) (since : Nat) (aged : Bool) (k : Cond)
  deriving DecidableEq, Repr

/-- A warp context (R24, R25, R94, R103, R109, R121, R122, R133, R234, R253, R312). `uid` is the warp's identity, kept across swaps;
`stack` holds the on-chip records, newest first, `spilled` counts those in memory; `levels` is innermost first;
`last` is when it last issued (R119); `arr` its arrivals by barrier (16 is the gang's); `stopped` the live mask with which it
has stopped for a swap (R321). -/
structure Warp where
  uid : Nat
  block : Nat
  base : Nat
  width : Nat
  wid : Nat
  pc : W64
  m : Mask
  refillRun : Bool
  resuming : Bool
  stack : List Rec
  spilled : Nat
  s : Sparse 64
  q : BitVec 8
  lanes : List Lane
  fileBase : Nat
  n : Nat
  wb : Nat
  fflags : BitVec 6
  trdy : W64
  terr : W64
  ifc : Nat
  mx : BitVec 4
  lc0 : W32
  lc1 : W32
  lc2 : W32
  levels : List Level
  trap : TrapRegs
  prio : Nat
  linh : Nat
  binh : Nat
  last : Nat
  triggered : Bool
  region : Nat
  mmas : List MmaWord
  arr : List (Nat × Nat)
  run : Option Run
  wait : Wait
  stopped : Option (BitVec 18)
  deriving DecidableEq, Repr

/-! ### A core and a cluster -/

/-- One 32-byte sector in a core's L1 (R188, R191, R208): its physical sector (host sectors apart), bytes, whether kept, the GRAIN code of its page, and whether this
copy holds an uncorrectable code. -/
structure L1Sector where
  host : Bool
  sector : Nat
  bytes : List Byte
  kept : Bool
  grain : Nat
  bad : Bool
  deriving DecidableEq, Repr

/-- A tun (R249, R250): fenced, spare used, the products in commit order, when the running one lands, and the products that ended in error, with the numbers of
their records (R319). -/
structure Tun where
  fenced : Bool
  spare : Bool
  queue : List Product
  landing : Option Nat
  failed : List (Product × Nat)
  deriving DecidableEq, Repr

/-- The token buckets of a reservation class at a core (R87, R88), in sevenths of a byte, and when they were last filled. -/
structure Bucket where
  cls : Nat
  hbm : Int
  fab : Int
  upd : Nat
  deriving DecidableEq, Repr

/-- A core (R10, R84, R188, R189, R235, R241): register file keyed lane·512 + entry, scratchpad and B-stores keyed by byte
(strip·2^20 + offset), carve-out boundary, sampling counters G and S with the shadow tags of the sampling sets, L1 (least recently used first), TLB, tuns, copy queue, buckets, and the words of
mma issued so far. -/
structure Core where
  bnd : Nat
  g : Nat
  sc : Nat
  shadow : List (Bool × Nat)
  rf : Sparse 32
  scratch : Memory
  bstore : Memory
  tuns : Quad Tun
  l1 : List L1Sector
  tlb : List Leaf
  copyQ : List CopyCmd
  buckets : List Bucket
  mmaSeq : Nat
  deriving DecidableEq, Repr

/-- A line in a cluster cache (R190, R191, R208): line number, class, the GRAIN code of its page, kept, valid and dirty sectors, and those of this copy with an
uncorrectable code; the list holds the least recently used first. -/
structure CcLine where
  host : Bool
  line : Nat
  cls : Nat
  grain : Nat
  kept : Bool
  valid : BitVec 4
  dirty : BitVec 4
  bad : BitVec 4
  deriving DecidableEq, Repr

/-- A cluster (R187, R190, R235): cache tags, second-level TLB, commands the copy engine has taken up, the core it serves next. -/
structure Cluster where
  cc : List CcLine
  tlb : List Leaf
  active : List CopyCmd
  rot : Nat
  deriving DecidableEq, Repr

/-! ### Partition-wide units -/

/-- A hardware queue's registers (R75). -/
structure Queue where
  qbase : W64
  qlog : Nat
  qtail : BitVec 32
  qhead : BitVec 32
  pmax : Nat
  rcls : Nat
  dlaunch : Bool
  en : Bool
  halt : Bool
  err : Nat
  hidx : BitVec 32
  deriving DecidableEq, Repr

/-- A Reader Set Descriptor as its two words (R193). -/
structure RDesc where
  lo : W64
  hi : W64
  deriving DecidableEq, Repr

/-- A park-directory entry (R197) with its line's bytes: level 0 L1 park area of core `unit`, 1 cluster cache of cluster `unit`, 2 home;
`replicas` the clusters with a replica; `readers` the gang's cores for KIND 4; `fell` that it stands farther out than the level computed; `time` the
order of placement; `cls` the class of its page (R190). -/
structure Parked where
  line : Nat
  rsid : Nat
  gen : Nat
  level : Nat
  unit : Nat
  replicas : List Nat
  readers : List Nat
  fell : Bool
  time : Nat
  cls : Nat
  data : List Byte
  deriving DecidableEq, Repr

/-- A parked store on its way to the home slice (R196, R197): the line, its RSID and the descriptor it stores under, the core that stores and the class that pays
(R88), the storing warp's gang, whose cores become the readers of KIND 4 (R194), the class of its page, and the bytes by offset. -/
structure Placement where
  line : Nat
  rsid : Nat
  desc : RDesc
  core : Nat
  rcls : Nat
  gang : Nat
  cls : Nat
  bytes : List (Nat × Byte)
  deriving DecidableEq, Repr

/-- A waiter entry of a line lock (R265, R268, R271): the warp, its stamp, queue mode, when its wait expires (while it is absent, the fc that were
left), and, once it has come back from absence, the number of that return. -/
structure Waiter where
  uid : Nat
  stamp : Nat
  queue : Bool
  left : Option Nat
  back : Nat
  deriving DecidableEq, Repr

/-- A line lock's state at its home slice (R265-R273). `rel` says that a hand-off is due, because a release is on its way to the slice or a waiter has come back to
a free lock, `grant` that the lock is on its way to a waiter with a status. -/
structure Lock where
  line : Nat
  holder : Option Nat
  broken : Bool
  waiters : List Waiter
  rel : Bool
  grant : Option (Nat × Nat)
  deriving DecidableEq, Repr

/-- An entry of a race record: warp, region, strong (R301). -/
structure RaceEnt where
  uid : Nat
  region : Nat
  strong : Bool
  deriving DecidableEq, Repr

/-- The race record of a 32-byte sector and the table that holds it, home slice number or 128 + cluster·16 + slice (R301, R303). -/
structure RaceRec where
  sector : Nat
  table : Nat
  write : Option RaceEnt
  reads : List RaceEnt
  deriving DecidableEq, Repr

/-- Regions of a warp up to `upTo` are closed for the warps of a scope set (R301). -/
structure Closed where
  uid : Nat
  upTo : Nat
  scope : Scope
  block : Nat
  gang : Nat
  clu : Nat
  deriving DecidableEq, Repr

/-- A fault record (R317). -/
structure FaultRec where
  cause : Nat
  kind : Nat
  gcore : Nat
  slot : Nat
  tag : Nat
  acc : Nat
  grp : Nat
  pc : W64
  addr : W64
  mask : BitVec 32
  gridh : W64
  detail : W64
  time : Nat
  deriving DecidableEq, Repr

/-- A record of the partition error log (R370). -/
structure ErrRec where
  kind : Nat
  site : Nat
  detail : W64
  time : Nat
  deriving DecidableEq, Repr

/-- What is under way for a unit: a swap or a kill of a gang, named by a target (R320, R321, R325); `record` numbers its record while that waits for a place
(R319). -/
structure Swap where
  gang : Nat
  target : WRef
  gridh : W64
  kill : Bool
  mode : Nat
  bst : Bool
  area : W64
  since : Nat
  record : Option Nat
  deriving DecidableEq, Repr

/-- A queued restoration (R325): image, the grid and blocks that it names, cluster if named, order, the highest PRIO of the image's warps, and the number of its record
while that waits for a place (R319). -/
structure Restoration where
  area : W64
  grid : Nat
  bids : List Nat
  clu : Option Nat
  order : Nat
  prio : Nat
  record : Option Nat
  deriving DecidableEq, Repr

/-- A warp that stands in an image: who it is, where it stood, its block and gang, its priorities (R253, R321), and what the image has no place for: its spilled
records, that it resumes a `brxv`, its arrivals, and its wait. -/
structure Away where
  uid : Nat
  grid : Nat
  bid : Nat
  wid : Nat
  block : Nat
  gang : Nat
  at_ : WRef
  prio : Nat
  binh : Nat
  region : Nat
  triggered : Bool
  recs : List Rec
  resuming : Bool
  arr : List (Nat × Nat)
  wait : Wait
  deriving DecidableEq, Repr

/-- A `tlbi` in flight (R327): who committed it, and the runs, by warp and start, that hold stores translated with a removed translation. -/
structure Shootdown where
  uid : Nat
  pend : List (Nat × Nat)
  deriving DecidableEq, Repr

/-- A rank of a collective (R339): remote peer, or local cluster and core. -/
inductive Rank where
  | loc (clu core : Nat)
  | remote (peer : Nat)
  deriving DecidableEq, Repr

/-- An instance in flight at a local rank (R343, R347); `own` says that this rank raised its error, `record` numbers its ASYNC record (R349, R319). -/
structure Inst where
  gcore : Nat
  num : Nat
  w : WRef
  block : Nat
  tile : Tile
  start : Nat
  status : Nat
  own : Bool
  record : Nat
  cov : Bool
  deriving DecidableEq, Repr

/-- The source of rank `rank` in instance `num` (R344): its bytes, for dispatch its destination ranks and that its tokens have been sent (R346), and the local ranks to
which a router drops its packets (R338, R361). -/
structure Source where
  num : Nat
  rank : Nat
  bytes : List Byte
  dests : List Nat
  moved : Bool
  lost : List Nat
  deriving DecidableEq, Repr

/-- Bytes of a remote rank's source, or of its sum at a tree step, that have arrived (R345, R352), by offset. -/
structure Rx where
  num : Nat
  src : Nat
  dst : Nat
  counts : Bool
  stepNo : Nat
  offset : Nat
  data : List Byte
  deriving DecidableEq, Repr

/-- What a byte of a place held before a write that not every path is ordered after yet (R232, R237, R292): the path of the write, the copy command that made it, and the
paths whose reads may still miss it. -/
structure Lag where
  loc : Loc
  old : Byte
  by_ : Nat
  cmd : Option (WRef × Nat)
  free : BitVec 4
  deriving DecidableEq, Repr

/-- A collective handle (R339, R343, R349): its descriptor, instance numbers by core, instances in flight, sources, arrivals from
other devices, the cores at which it is broken, and the instances that another rank has ended in error, with their status. -/
structure Handle where
  conf : Bool
  opc : Nat
  root : Nat
  policy : Bool
  weight : Nat
  tmo : Nat
  tb : Nat
  cap : Nat
  epoch : Nat
  ranks : List Rank
  inst : AMap Nat
  flight : List Inst
  sources : List Source
  rx : List Rx
  broken : List Nat
  aborted : List (Nat × Nat)
  deriving DecidableEq, Repr

/-- A frame sent and not acknowledged (R352): the frame, when it was last sent, how often it was resent, that its port holds it
(R368), and that a later frame has been received without it. -/
structure Sent where
  frame : Frame
  at_ : Nat
  tries : Nat
  held : Bool
  gap : Bool
  deriving DecidableEq, Repr

/-- A peer-table entry (R351) and the transport's state for it (R352); `heldAcks` are ACK frames that a port which is not ready holds (R368). -/
structure Peer where
  w0 : W64
  w1 : W64
  w2 : W64
  w3 : W64
  w4 : W64
  sndSeq : Nat
  rcvNext : Nat
  rcvSeen : List Nat
  unacked : List Sent
  pendingTx : List Frame
  heldAcks : List Frame
  deriving DecidableEq, Repr

/-- A partition (R12-R14): its CSRs, when it was reset, the carve-out intervals that have ended (R189), queues, events, grids, gangs, blocks and warps (keyed core·64 +
slot), cores and clusters, and its units. `rset` holds the device's copies of the Reader Set Table (R192), `merged` the warp into which a fuse has taken a warp
(R111, R301), `postSeq` counts the fault records whose events have arisen (R319), `errlog` holds the error records that are not yet in the ring (R370), and `lag` the
writes that some path may still miss (R237). -/
structure Part where
  csr : PCsr
  t0 : Nat
  carved : Nat
  queues : AMap Queue
  events : Sparse 64
  grids : List Grid
  gridSeq : Nat
  gangs : List Gang
  gangSeq : Nat
  blocks : List Block
  blockSeq : Nat
  warps : AMap Warp
  warpSeq : Nat
  cores : AMap Core
  clusters : AMap Cluster
  headGang : Option (Nat × Nat)
  reserved : List Nat
  rset : AMap RDesc
  dir : List Parked
  placeQ : List Placement
  placeSeq : Nat
  locks : List Lock
  stampSeq : Nat
  races : List RaceRec
  closed : List Closed
  merged : AMap Nat
  posts : List FaultRec
  postSeq : Nat
  seq : Nat
  errlog : List ErrRec
  errHead : BitVec 32
  errTail : BitVec 32
  swaps : List Swap
  restores : List Restoration
  restoreSeq : Nat
  away : List Away
  shoot : List Shootdown
  handles : AMap Handle
  peers : AMap Peer
  lag : List Lag
  deriving DecidableEq, Repr

/-! ### The device -/

/-- A quarter's partition registers (R359), and whether PMERGE holds a request. -/
structure QRegs where
  pmemil : W64
  pnetb : W64
  pqmask : W64
  state : Nat
  quarters : BitVec 4
  mst : Nat
  pmerge : Nat
  deriving DecidableEq, Repr

/-- A die's Maltster (R366, R367, R369): the measurement register, stages run, whether firmware is up, whether it is in recovery, the security
versions of the stages run, the corrected errors by site with their times, the lasting sites, and the link lanes that have been removed. -/
structure Maltster where
  m : List Byte
  stages : Nat
  up : Bool
  recovery : Bool
  versions : List Nat
  errors : List (Site × Nat)
  lasting : List Site
  narrow : List Site
  deriving DecidableEq, Repr

/-- The word being issued: the partition, the warp, its address and length in bytes, the bung, the fields before it and its words. -/
structure Issue where
  q : Nat
  w : WRef
  addr : W64
  len : Nat
  bung : Bool
  pfx : Pfx
  word : BitVec 32
  pfxWord : BitVec 32
  deriving DecidableEq, Repr

/-- What leaves the device: interrupts, answers to the host, frames, reports, refused writes. -/
inductive Out where
  /-- MSI-X vector of queue `q` of partition `p` (R353, R358) -/
  | irq (p q : Nat)
  /-- the fault-queue vector of partition `p` (R318, R363) -/
  | faultIrq (p : Nat)
  /-- the bytes of a host read through a window of partition `p` (R374) -/
  | data (p : Nat) (bytes : List Byte)
  /-- a write through the supervisor aperture that raised OPERAND (R75) -/
  | operand (p : Nat)
  /-- a frame on a port (R352) -/
  | frame (p : Nat) (f : Frame)
  /-- an attestation report through the function of partition `p`: nonce, the four M values, grade, harvest map, each die's versions, signature (R367) -/
  | report (p : Nat) (nonce : List Byte) (ms : List (List Byte)) (grade : Nat) (map : List Byte) (versions : List (List Nat)) (sig : List Byte)
  deriving DecidableEq, Repr

/-- The device. `now` counts fc (R3), `tick` is the model's counter for free values, `cur` the word being issued and `ev` the device
step being executed, with its partition; `inbox` and `outbox` stand for the outside world; `ue` holds the sectors of DRAM and scratchpads with an uncorrectable code
(R208), those of cached copies standing in the copies; `ports` the RDY.PORT bits and those paused;
`thermal` the times of the thermal stops (R372), `clkPct` the clock setting in percent (R3, R372); `harvested` the units that harvesting has excluded (R369). -/
structure State where
  grade : Grade
  now : Nat
  tick : Nat
  cur : Option Issue
  ev : Option (Nat × Event)
  inbox : List (Nat × Event)
  outbox : List Out
  dram : Memory
  hostMem : Memory
  ue : List Nat
  regs : Quad QRegs
  rdyHbm : BitVec 8
  rdyClu : BitVec 24
  rdyPort : BitVec 8
  rdyPart : BitVec 4
  paused : BitVec 8
  parts : Quad Part
  dies : Quad Maltster
  margins : AMap Nat
  stopped : Bool
  thermal : List Nat
  clkPct : Nat
  harvested : List UnitId
  deriving DecidableEq, Repr

/-! ### How a step can stop -/

/-- Faults: a step of the machine that has nothing to act on. -/
inductive Fault where
  /-- Raised by every meaning of a word when no word is being issued (`cur` is none or names no warp). Safe: the machine never executes a word
  without a warp. -/
  | noWarp
  /-- Raised by every meaning of a device step when `ev` does not hold that step's operands. Safe: a device step always acts on something. -/
  | noEvent
  deriving DecidableEq, Repr

/-- Refusals. -/
inductive Refusal where
  /-- Raised by an arm of `exec` that has no meaning yet. Safe. -/
  | notModelled (mnemonic : String)
  deriving DecidableEq, Repr

/-! ### Reset -/

/-- The same value in each quarter. -/
def Quad.all {α : Type} (x : α) : Quad α := ⟨x, x, x, x⟩

/-- Partition-wide CSRs after partition reset (R86, R186, R190, R192, R199, R205, R303, R318). -/
def PCsr.reset : PCsr where
  rsbase := 0
  racedrop := 0
  locmiss := 0
  pkfall := 0
  fqbase := 0
  fqhead := 0
  fqtail := 0
  fqstat := 0
  sqmask := 0
  fltto := 140000
  resv := []
  ptbase := 0
  ccquota := 0x84210
  pkquota := 0x200008000

/-- A queue after partition reset (R75). -/
def Queue.reset : Queue := ⟨0, 0, 0, 0, 0, 0, false, false, false, 0, 0⟩

/-- A tun after partition reset (R249, R250). -/
def Tun.reset : Tun := ⟨false, false, [], none, []⟩

/-- A core after partition reset (R84, R189, R241; log 8). -/
def Core.reset : Core where
  bnd := 4
  g := 0
  sc := 0
  shadow := []
  rf := []
  scratch := []
  bstore := []
  tuns := .all Tun.reset
  l1 := []
  tlb := []
  copyQ := []
  buckets := []
  mmaSeq := 0

/-- A cluster after partition reset. -/
def Cluster.reset : Cluster := ⟨[], [], [], 0⟩

/-- A Reader Set Descriptor after partition reset (R222): KIND 0. -/
def RDesc.reset : RDesc := ⟨0, 0⟩

/-- A handle after partition reset (R341, R350): unconfigured. -/
def Handle.reset : Handle := ⟨false, 0, 0, false, 0, 0, 0, 0, 0, [], [], [], [], [], [], []⟩

/-- A peer entry after partition reset (R351): UDPP 19,543. -/
def Peer.reset : Peer := ⟨0, 0x4C57000000000000, 0, 0, 0, 0, 0, [], [], [], []⟩

/-- A partition after partition reset. -/
def Part.reset : Part where
  csr := PCsr.reset
  t0 := 0
  carved := 0
  queues := []
  events := []
  grids := []
  gridSeq := 0
  gangs := []
  gangSeq := 0
  blocks := []
  blockSeq := 0
  warps := []
  warpSeq := 0
  cores := []
  clusters := []
  headGang := none
  reserved := []
  rset := []
  dir := []
  placeQ := []
  placeSeq := 0
  locks := []
  stampSeq := 0
  races := []
  closed := []
  merged := []
  posts := []
  postSeq := 0
  seq := 0
  errlog := []
  errHead := 0
  errTail := 0
  swaps := []
  restores := []
  restoreSeq := 0
  away := []
  shoot := []
  handles := []
  peers := []
  lag := []

/-- Quarter `q`'s partition registers after reset (R359). -/
def QRegs.reset (q : Nat) : QRegs where
  pmemil := BitVec.ofNat 64 (3 * 4 ^ q)
  pnetb := 0
  pqmask := BitVec.allOnes 64
  state := 1
  quarters := BitVec.ofNat 4 (2 ^ q)
  mst := 0
  pmerge := 0

/-- A Maltster after device reset (R366, R367): M is 64 zero bytes and no stage has run. -/
def Maltster.reset : Maltster := ⟨List.replicate 64 0, 0, false, false, [], [], [], []⟩

/-- The device after reset: an HX24 (log 1) whose four quarters are booting. -/
def State.reset : State where
  grade := .hx24
  now := 0
  tick := 0
  cur := none
  ev := none
  inbox := []
  outbox := []
  dram := []
  hostMem := []
  ue := []
  regs := ⟨QRegs.reset 0, QRegs.reset 1, QRegs.reset 2, QRegs.reset 3⟩
  rdyHbm := 0
  rdyClu := 0
  rdyPort := 0
  rdyPart := 0
  paused := 0
  parts := .all Part.reset
  dies := .all Maltster.reset
  margins := []
  stopped := false
  thermal := []
  clkPct := 100
  harvested := []

end Sys2Proof.Machine
end

