-- ==== Sys2Proof/Machine/Util.lean ====
section
/-! DEFINITION. Maps, masks and byte order: the plain operations on the state's data. -/

namespace Sys2Proof.Machine

/-! ### Maps from numbers to words -/

/-- Read a map: an absent key reads 0. -/
def Sparse.rd {n : Nat} : Sparse n → Nat → BitVec n
  | [], _ => 0
  | x :: l, k => if x.1 = k then x.2 else Sparse.rd l k

/-- Put an entry at its place in a map without its key. -/
def Sparse.put {n : Nat} : Sparse n → Nat → BitVec n → Sparse n
  | [], k, v => [(k, v)]
  | x :: l, k, v => if k < x.1 then (k, v) :: x :: l else x :: Sparse.put l k v

/-- Write a map, keeping its canonical form: writing 0 leaves no entry. -/
def Sparse.wr {n : Nat} (m : Sparse n) (k : Nat) (v : BitVec n) : Sparse n :=
  if v = 0 then m.filter (fun x => x.1 != k) else Sparse.put (m.filter (fun x => x.1 != k)) k v

/-- The value at a key of a map of records, or the default. -/
def AMap.rd {α : Type} (d : α) : AMap α → Nat → α
  | [], _ => d
  | x :: l, k => if x.1 = k then x.2 else AMap.rd d l k

/-- The value at a key, if present. -/
def AMap.find {α : Type} : AMap α → Nat → Option α
  | [], _ => none
  | x :: l, k => if x.1 = k then some x.2 else AMap.find l k

/-- Set a key, keys staying in rising order. -/
def AMap.wr {α : Type} : AMap α → Nat → α → AMap α
  | [], k, v => [(k, v)]
  | x :: l, k, v =>
    if k < x.1 then (k, v) :: x :: l
    else if k = x.1 then (k, v) :: l
    else x :: AMap.wr l k v

/-- Remove a key. -/
def AMap.del {α : Type} : AMap α → Nat → AMap α
  | [], _ => []
  | x :: l, k => if x.1 = k then l else x :: AMap.del l k

/-- One of the four, by number; numbers above 3 name the last. -/
def Quad.rd {α : Type} (x : Quad α) (i : Nat) : α :=
  match i with
  | 0 => x.a
  | 1 => x.b
  | 2 => x.c
  | _ => x.d

/-- Replace one of the four. -/
def Quad.wr {α : Type} (x : Quad α) (i : Nat) (v : α) : Quad α :=
  match i with
  | 0 => { x with a := v }
  | 1 => { x with b := v }
  | 2 => { x with c := v }
  | _ => { x with d := v }

/-! ### Bits and bytes -/

/-- Bits [hi:lo] of a number. -/
def bits (x hi lo : Nat) : Nat := x / 2 ^ lo % 2 ^ (hi + 1 - lo)

/-- Bit `i` of a number. -/
def bitN (x i : Nat) : Bool := x / 2 ^ i % 2 == 1

/-- A Bool as 0 or 1. -/
def b2n (b : Bool) : Nat := if b then 1 else 0

/-- `n` bytes of a number, lowest first (R2). -/
def leBytes : Nat → Nat → List Byte
  | 0, _ => []
  | n + 1, v => BitVec.ofNat 8 v :: leBytes n (v / 256)

/-- The number that bytes hold, lowest first (R2). -/
def leNat : List Byte → Nat
  | [] => 0
  | b :: l => b.toNat + 256 * leNat l

/-- Number of bits set. -/
def popNat : Nat → Nat → Nat
  | 0, _ => 0
  | n + 1, x => x % 2 + popNat n (x / 2)

/-- The lowest set bit among bits `i` … of `n` bits, if any. -/
def lowBit : Nat → Nat → Nat → Option Nat
  | 0, _, _ => none
  | n + 1, i, x => if bitN x i then some i else lowBit n (i + 1) x

/-- The lowest lane of a mask. -/
def Mask.low (m : Mask) : Option Nat := lowBit 128 0 m.toNat

/-- The lanes of a mask, ascending. -/
def Mask.lanes (m : Mask) : List Nat := (List.range 128).filter (fun i => m.getLsbD i)

/-- The mask of the lanes that satisfy a test, among the first `w`. -/
def maskOf (w : Nat) (f : Nat → Bool) : Mask :=
  (List.range w).foldl (fun m i => if f i then m ||| BitVec.ofNat 128 (2 ^ i) else m) 0

/-- The mask of the first `w` lanes. -/
def fullMask (w : Nat) : Mask := BitVec.ofNat 128 (2 ^ w - 1)

/-- Sign-extend the low `n` bits of a number into an integer. -/
def sxt (n x : Nat) : Int := let y := x % 2 ^ n; if y < 2 ^ (n - 1) then (y : Int) else (y : Int) - 2 ^ n

/-- Replace bytes of a list from offset `o`. -/
def patch : List Byte → Nat → List Byte → List Byte
  | [], _, _ => []
  | l, _, [] => l
  | _ :: l, 0, b :: bs => b :: patch l 0 bs
  | x :: l, o + 1, bs => x :: patch l o bs

/-- Drop entries of a list that satisfy a test, after replacing them: update the entries that satisfy `c`. -/
def updIf {α : Type} (c : α → Bool) (f : α → α) (l : List α) : List α := l.map (fun x => if c x then f x else x)

/-- Steps that may fail, one after another; the first failure stops. -/
def tryAll {ε α β : Type} (f : α → β → Except ε α) : α → List β → Except ε α
  | s, [] => .ok s
  | s, x :: l => match f s x with
    | .error e => .error e
    | .ok s => tryAll f s l

/-- Replace the element at an index. -/
def setAt {α : Type} : List α → Nat → α → List α
  | [], _, _ => []
  | _ :: l, 0, v => v :: l
  | x :: l, i + 1, v => x :: setAt l i v

/-- Update the element at an index. -/
def modAt {α : Type} : List α → Nat → (α → α) → List α
  | [], _, _ => []
  | x :: l, 0, f => f x :: l
  | x :: l, i + 1, f => x :: modAt l i f

end Sys2Proof.Machine
end

