-- ==== Sys2Proof/Machine/Shake.lean ====
section
/-! DEFINITION. SHAKE256 (FIPS 202), by which images are measured (R366, R367). -/

namespace Sys2Proof.Machine

/-! ### Keccak-f[1600]: 25 lanes, lane (x, y) at place x + 5y -/

/-- The round constants. -/
def keccakRc : List W64 :=
  [0x0000000000000001, 0x0000000000008082, 0x800000000000808A, 0x8000000080008000, 0x000000000000808B, 0x0000000080000001] ++
  [0x8000000080008081, 0x8000000000008009, 0x000000000000008A, 0x0000000000000088, 0x0000000080008009, 0x000000008000000A] ++
  [0x000000008000808B, 0x800000000000008B, 0x8000000000008089, 0x8000000000008003, 0x8000000000008002, 0x8000000000000080] ++
  [0x000000000000800A, 0x800000008000000A, 0x8000000080008081, 0x8000000000008080, 0x0000000080000001, 0x8000000080008008]

/-- The rotation of each lane. -/
def keccakRot : List Nat := [0, 1, 62, 28, 27] ++ [36, 44, 6, 55, 20] ++ [3, 10, 43, 25, 39] ++ [41, 45, 15, 21, 8] ++ [18, 2, 61, 56, 14]

/-- One round: θ, ρ and π, χ, ι. -/
def keccakRound (a : List W64) (rc : W64) : List W64 :=
  let l (x y : Nat) : W64 := a.getD (x % 5 + 5 * (y % 5)) 0
  let c := (List.range 5).map (fun x => l x 0 ^^^ l x 1 ^^^ l x 2 ^^^ l x 3 ^^^ l x 4)
  let d (x : Nat) : W64 := c.getD ((x + 4) % 5) 0 ^^^ (c.getD ((x + 1) % 5) 0).rotateLeft 1
  let t := (List.range 25).map (fun i => (a.getD i 0 ^^^ d (i % 5)).rotateLeft (keccakRot.getD i 0))
  let b := (List.range 25).map (fun i => let x := i % 5; let y := i / 5; t.getD ((x + 3 * y) % 5 + 5 * x) 0)
  (List.range 25).map (fun i =>
    let x := i % 5
    let y := i / 5
    b.getD i 0 ^^^ (~~~(b.getD ((x + 1) % 5 + 5 * y) 0) &&& b.getD ((x + 2) % 5 + 5 * y) 0) ^^^ (if i = 0 then rc else 0))

def keccakF (a : List W64) : List W64 := keccakRc.foldl keccakRound a

/-! ### The sponge: a rate of 136 bytes -/

/-- Bytes as lanes. -/
def lanesOf (bs : List Byte) : List W64 := (List.range 25).map (fun i => BitVec.ofNat 64 (leNat ((bs.drop (8 * i)).take 8)))

/-- A message padded to whole blocks, with the suffix of SHAKE: 0x1F, zeros, and the last bit set. -/
def shakePad (bs : List Byte) : List Byte :=
  let n := 136 - bs.length % 136
  bs ++ (if n = 1 then [0x9F] else [0x1F] ++ List.replicate (n - 2) 0 ++ [0x80])

/-- The first 64 bytes of SHAKE256. -/
def shake256 (bs : List Byte) : List Byte :=
  let m := shakePad bs
  let a := (List.range (m.length / 136)).foldl (fun (a : List W64) i =>
    keccakF ((List.range 25).map (fun j => a.getD j 0 ^^^ (lanesOf ((m.drop (136 * i)).take 136)).getD j 0))) (List.replicate 25 0)
  (a.take 8).flatMap (fun x => leBytes 8 x.toNat)

end Sys2Proof.Machine
end

