-- ==== Sys2Proof/Machine/Flags.lean ====
section
/-! DEFINITION. The flags of floating and saturating operations and the sticky bits of landed products (R72, R73, R251). Which operation raises which flag
stands with the operation: rounding in Float.lean, saturation in Operands.lean, products in Engine.lean. -/

namespace Sys2Proof.Machine

/-- A set of raised flags (R72). -/
abbrev Flags := BitVec 6
def fNV : Flags := 1
def fDZ : Flags := 2
def fOF : Flags := 4
def fUF : Flags := 8
def fNX : Flags := 16
def fSAT : Flags := 32

/-- A flag raised on a condition. -/
def flagIf (b : Bool) (f : Flags) : Flags := if b then f else 0

/-- Raised flags join FFLAGS, which is sticky (R73). -/
def Warp.raise (x : Warp) (f : Flags) : Warp := { x with fflags := x.fflags ||| f }

/-- The sticky bits that a landed product raises (R251): NV where a result is a NaN, OF, UF. -/
def mxBits (nan : Bool) (f : Flags) : BitVec 4 := BitVec.ofNat 4 ((if nan then 1 else 0) + (if f &&& fOF != 0 then 2 else 0) + (if f &&& fUF != 0 then 4 else 0))

end Sys2Proof.Machine
end

