-- ==== Sys2Proof/Machine/Float.lean ====
section
/-! DEFINITION. Number formats, exact values, rounding (R56-R69, R72). -/

namespace Sys2Proof.Machine

/-! ### Formats (R56) -/

/-- A floating format: exponent and mantissa widths, bias, whether it has infinities, whether it has NaNs. -/
structure Fmt where
  e : Nat
  m : Nat
  bias : Nat
  inf : Bool
  nan : Bool
  deriving DecidableEq, Repr

def fp32 : Fmt := ⟨8, 23, 127, true, true⟩
def bf16 : Fmt := ⟨8, 7, 127, true, true⟩
def fp16 : Fmt := ⟨5, 10, 15, true, true⟩
def e5m2 : Fmt := ⟨5, 2, 15, true, true⟩
def e4m3 : Fmt := ⟨4, 3, 7, false, true⟩
def e3m2 : Fmt := ⟨3, 2, 3, false, false⟩
def e2m3 : Fmt := ⟨2, 3, 1, false, false⟩
def e2m1 : Fmt := ⟨2, 1, 1, false, false⟩

/-- Bits of a code. -/
def Fmt.w (f : Fmt) : Nat := 1 + f.e + f.m

/-- Exponent of the smallest normal. -/
def Fmt.emin (f : Fmt) : Int := 1 - (f.bias : Int)

/-- The largest finite value: its significand and the exponent of its last place. -/
def Fmt.maxSig (f : Fmt) : Nat := if f.nan ∧ !f.inf then 2 ^ (f.m + 1) - 2 else 2 ^ (f.m + 1) - 1
def Fmt.maxExp (f : Fmt) : Int := ((2 ^ f.e : Nat) : Int) - (if f.inf then 2 else 1) - f.bias - f.m

/-- The float format of a narrow code (R45). -/
def fmtOf (c : Nat) : Fmt :=
  match c with
  | 0 => fp32
  | 1 => bf16
  | 2 => fp16
  | 3 => e4m3
  | 4 => e5m2
  | 5 => e2m3
  | 6 => e3m2
  | _ => e2m1

/-! ### Values (R57, R58) -/

/-- A value: a NaN (signalling or not), an infinity or (−1)^neg · m · 2^e. -/
inductive Num where
  | nan (sig : Bool)
  | inf (neg : Bool)
  | fin (neg : Bool) (m : Nat) (e : Int)
  deriving DecidableEq, Repr

/-- The value of a code (R56-R58). -/
def Fmt.decode (f : Fmt) (c : Nat) : Num :=
  let neg := bitN c (f.w - 1)
  let e := bits c (f.w - 2) f.m
  let m := c % 2 ^ f.m
  if f.inf ∧ e = 2 ^ f.e - 1 then (if m = 0 then .inf neg else .nan (decide (m < 2 ^ (f.m - 1))))
  else if !f.inf ∧ f.nan ∧ e = 2 ^ f.e - 1 ∧ m = 2 ^ f.m - 1 then .nan false
  else if e = 0 then .fin neg m (f.emin - f.m)
  else .fin neg (2 ^ f.m + m) ((e : Int) - f.bias - f.m)

/-- The canonical NaN; the largest positive value in a format without NaN (R58, R63). -/
def Fmt.canon (f : Fmt) : Nat :=
  if f.inf then (2 ^ f.e - 1) * 2 ^ f.m + 2 ^ (f.m - 1) else 2 ^ (f.w - 1) - 1

/-- The code of infinity. -/
def Fmt.infCode (f : Fmt) : Nat := (2 ^ f.e - 1) * 2 ^ f.m

/-- The code of the largest finite value. -/
def Fmt.maxCode (f : Fmt) : Nat := if f.inf then f.infCode - 1 else if f.nan then 2 ^ (f.w - 1) - 2 else 2 ^ (f.w - 1) - 1

/-- A code with a sign. -/
def Fmt.signed (f : Fmt) (neg : Bool) (c : Nat) : Nat := c + b2n neg * 2 ^ (f.w - 1)

def Num.isSig : Num → Bool
  | .nan s => s
  | _ => false
def Num.isNan : Num → Bool
  | .nan _ => true
  | _ => false
def Num.neg? : Num → Bool
  | .nan _ => false
  | .inf n => n
  | .fin n _ _ => n
def Num.zero : Num := .fin false 0 0

/-! ### Rounding (R61-R64) -/

/-- One step of a lane's LFSR (R64). -/
def lfsrStep (s : W32) : W32 :=
  let b := s.getLsbD 31 ^^ s.getLsbD 21 ^^ s.getLsbD 1 ^^ s.getLsbD 0
  (s <<< 1) ||| (if b then 1 else 0)

/-- The state that a zero seed gives, and the base of the initial states (R64, R175). -/
def lfsrBase : W32 := 0x2545F491

/-- Whether the magnitude m·2^−s (m mod 2^s ≠ 0) goes up to floor + 1 under a mode, with SR's draw (R62, R64). -/
def roundsUp (rm : Nat) (neg : Bool) (m s draw : Nat) : Bool :=
  let k := m / 2 ^ s
  let r := m % 2 ^ s
  match rm with
  | 1 => false
  | 2 => !neg
  | 3 => neg
  | 4 => decide (2 ^ s ≤ 2 * r)
  | 5 => decide (draw < r * 2 ^ 24 / 2 ^ s)
  | _ => decide (2 ^ s < 2 * r) || (decide (2 * r = 2 ^ s) && k % 2 == 1)

/-- m·2^e rounded to a multiple of 2^q: the multiple, and whether exact. -/
def roundQ (rm : Nat) (neg : Bool) (m : Nat) (e q : Int) (draw : Nat) : Nat × Bool :=
  if q ≤ e then (m * 2 ^ (e - q).toNat, true)
  else
    let s := (q - e).toNat
    if m % 2 ^ s = 0 then (m / 2 ^ s, true)
    else (m / 2 ^ s + b2n (roundsUp rm neg m s draw), false)

/-- The result of an overflow and its flags (R63). -/
def Fmt.overflow (f : Fmt) (rm : Nat) (neg : Bool) : Nat × Flags :=
  if f.inf then
    let finite := rm == 1 || rm == 6 || (rm == 2 && neg) || (rm == 3 && !neg)
    (f.signed neg (if finite then f.maxCode else f.infCode), fOF ||| fNX)
  else if f.nan then
    if rm = 6 then (f.signed neg f.maxCode, fOF ||| fNX ||| fSAT) else (f.canon, fOF ||| fNX)
  else (f.signed neg f.maxCode, fOF ||| fNX ||| fSAT)

/-- A finite value rounded into a format: the code and the flags (R61-R63). -/
def Fmt.roundFin (f : Fmt) (rm : Nat) (neg : Bool) (m : Nat) (e : Int) (draw : Nat) : Nat × Flags :=
  if m = 0 then (f.signed neg 0, 0)
  else
    let top : Int := (Nat.log2 m : Int) + e
    let qn := top - f.m
    let q := max qn (f.emin - f.m)
    let r := roundQ rm neg m e q draw
    if decide (f.maxExp ≤ q ∧ f.maxSig < r.1 * 2 ^ (q - f.maxExp).toNat) then f.overflow rm neg
    else
      let u := (roundQ rm neg m e qn draw).1
      let tiny := decide (top < f.emin) && !(decide (top + 1 = f.emin) && u == 2 ^ (f.m + 1))
      let fl := if r.2 then 0 else fNX ||| flagIf tiny fUF
      let kq := if r.1 = 2 ^ (f.m + 1) then (2 ^ f.m, q + 1) else (r.1, q)
      let code := if kq.1 < 2 ^ f.m then kq.1 else (kq.2 + f.m + f.bias).toNat * 2 ^ f.m + (kq.1 - 2 ^ f.m)
      (f.signed neg code, fl)

/-- A value rounded into a format (R58, R61-R63). -/
def Fmt.encode (f : Fmt) (rm : Nat) (x : Num) (draw : Nat) : Nat × Flags :=
  match x with
  | .nan _ => if f.nan then (f.canon, 0) else (f.maxCode, fNV)
  | .inf n =>
    if f.inf then (f.signed n f.infCode, 0)
    else if f.nan then (if rm = 6 then (f.signed n f.maxCode, fSAT) else (f.canon, fNV))
    else (f.signed n f.maxCode, fSAT)
  | .fin n m e => f.roundFin rm n m e draw

/-- One rounding of a word: under SR the lane's LFSR steps first and gives the draw (R64). -/
def Fmt.round (f : Fmt) (rm : Nat) (x : Num) (s : W32) : Nat × Flags × W32 :=
  let s := if rm = 5 then lfsrStep s else s
  let r := f.encode rm x (s.toNat % 2 ^ 24)
  (r.1, r.2, s)

/-- Rounding under a mode other than SR. -/
def Fmt.near (f : Fmt) (x : Num) : Nat × Flags := f.encode 0 x 0

/-- A finite value rounded to an integer: its magnitude, and whether exact. -/
def roundInt (rm : Nat) (neg : Bool) (m : Nat) (e : Int) (draw : Nat) : Nat × Bool := roundQ rm neg m e 0 draw

/-! ### Exact arithmetic (R159) -/

/-- A finite value from an integer multiple of 2^e, with the sign that a zero takes. -/
def numOfInt (v : Int) (e : Int) (zneg : Bool) : Num :=
  if v = 0 then .fin zneg 0 e else .fin (decide (v < 0)) v.natAbs e

/-- Signed integer of a sign and magnitude. -/
def sgn (neg : Bool) (m : Nat) : Int := if neg then -(m : Int) else m

/-- The exact sum, and NV (R159): an exact zero sum of opposite signs is +0, −0 under RD. -/
def Num.add (a b : Num) (rm : Nat) : Num × Flags :=
  match a, b with
  | .nan s, y => (.nan false, flagIf (s || y.isSig) fNV)
  | x, .nan s => (.nan false, flagIf (s || x.isSig) fNV)
  | .inf n, .inf k => if n = k then (.inf n, 0) else (.nan false, fNV)
  | .inf n, .fin .. => (.inf n, 0)
  | .fin .., .inf k => (.inf k, 0)
  | .fin n m e, .fin k l d =>
    let q := min e d
    let v := sgn n (m * 2 ^ (e - q).toNat) + sgn k (l * 2 ^ (d - q).toNat)
    (numOfInt v q (if n = k ∧ m = 0 ∧ l = 0 then n else rm == 3), 0)

/-- The exact product, and NV. -/
def Num.mul (a b : Num) : Num × Flags :=
  match a, b with
  | .nan s, y => (.nan false, flagIf (s || y.isSig) fNV)
  | x, .nan s => (.nan false, flagIf (s || x.isSig) fNV)
  | .inf n, .inf k => (.inf (n != k), 0)
  | .inf n, .fin k l _ => if l = 0 then (.nan false, fNV) else (.inf (n != k), 0)
  | .fin n m _, .inf k => if m = 0 then (.nan false, fNV) else (.inf (n != k), 0)
  | .fin n m e, .fin k l d => (.fin (n != k) (m * l) (e + d), 0)

def Num.negate : Num → Num
  | .nan s => .nan s
  | .inf n => .inf (!n)
  | .fin n m e => .fin (!n) m e

def Num.withSign (n : Bool) : Num → Num
  | .nan s => .nan s
  | .inf _ => .inf n
  | .fin _ m e => .fin n m e

/-- a·b + d exactly, and NV: ∞ − ∞ and 0·∞ whatever d is (R159). -/
def Num.fma (a b d : Num) (rm : Nat) : Num × Flags :=
  let p := a.mul b
  let r := p.1.add d rm
  (r.1, p.2 ||| r.2)

/-- Numbers that are no NaN, by value: −1, 0 or 1. Zeros compare equal. -/
def Num.cmp (a b : Num) : Int :=
  match a, b with
  | .inf n, .inf k => if n = k then 0 else if n then -1 else 1
  | .inf n, _ => if n then -1 else 1
  | _, .inf k => if k then 1 else -1
  | .fin n m e, .fin k l d =>
    let q := min e d
    (sgn n (m * 2 ^ (e - q).toNat) - sgn k (l * 2 ^ (d - q).toNat)).sign
  | _, _ => 0

/-- IEEE 754-2019 minimum and maximum (R159): −0 lies below +0, and a NaN gives the canonical NaN. -/
def Num.minmax (mx : Bool) (a b : Num) : Num × Flags :=
  if a.isNan ∨ b.isNan then (.nan false, flagIf (a.isSig || b.isSig) fNV)
  else
    let c := a.cmp b
    let first := if c = 0 then (if mx then !a.neg? else a.neg?) else if mx then decide (0 < c) else decide (c < 0)
    (if first then a else b, 0)

/-- The conditions of `fcmp` (R168). -/
def Num.test (c : Nat) (a b : Num) : Bool × Flags :=
  let un := a.isNan || b.isNan
  let o := a.cmp b
  let r := match c with
    | 0 => !un && o == 0
    | 1 => un || o != 0
    | 2 => !un && decide (o < 0)
    | 3 => !un && decide (o ≤ 0)
    | 4 => !un && decide (0 < o)
    | 5 => !un && decide (0 ≤ o)
    | 6 => un
    | _ => !un
  (r, flagIf (if 2 ≤ c ∧ c ≤ 5 then un else a.isSig || b.isSig) fNV)

/-- a·2^n (R163). -/
def Num.scale (a : Num) (n : Int) : Num :=
  match a with
  | .fin s m e => .fin s m (if m = 0 then e else e + n)
  | x => x

/-- The integer part of a value towards zero, clamped to ±65,536 (R163). -/
def Num.exponent (b : Num) : Int :=
  match b with
  | .nan _ => 0
  | .inf n => if n then -65536 else 65536
  | .fin n m e => max (-65536) (min 65536 (sgn n (roundQ 1 n m e 0 0).1))

/-- A value rounded to an integral value, with the sign of the operand (R161). -/
def Num.integral (a : Num) (rm : Nat) (draw : Nat) : Num × Flags :=
  match a with
  | .nan s => (.nan false, flagIf s fNV)
  | .inf n => (.inf n, 0)
  | .fin n m e =>
    let r := roundInt rm n m e draw
    (.fin n r.1 0, flagIf (!r.2) fNX)

/-- A value rounded to an integer and clamped to lo … hi (R65): a NaN gives 0. A clamp raises NV and NX, as R65 and R170 have it, and no SAT, which R72's row of it could be
read to ask for (DESIGN CHOICE, log 60). -/
def Num.toInt (a : Num) (rm : Nat) (draw : Nat) (lo hi : Int) : Int × Flags :=
  match a with
  | .nan _ => (0, fNV)
  | .inf n => (if n then lo else hi, fNV ||| fNX)
  | .fin n m e =>
    let r := roundInt rm n m e draw
    let v := sgn n r.1
    if v < lo then (lo, fNV ||| fNX)
    else if hi < v then (hi, fNV ||| fNX)
    else (v, flagIf (!r.2) fNX)

/-- An integer as a value (R65). -/
def numOf (v : Int) : Num := numOfInt v 0 false

/-! ### Square roots (R164) -/

/-- The integer square root, bit by bit from 2^(n−1) down. -/
def isqrt (x : Nat) : Nat → Nat → Nat
  | 0, r => r
  | n + 1, r => if (r + 2 ^ n) * (r + 2 ^ n) ≤ x then isqrt x n (r + 2 ^ n) else isqrt x n r

/-- The square root of m·2^e: 100 bits and a last bit that stands for everything below them. -/
def sqrtNum (m : Nat) (e : Int) : Num :=
  if m = 0 then .fin false 0 e
  else
    let up := 200 - Nat.log2 m
    let up := if (e - up) % 2 = 0 then up else up + 1
    let x := m * 2 ^ up
    let r := isqrt x 102 0
    let h := (e - up) / 2
    if r * r = x then .fin false r h else .fin false (2 * r + 1) (h - 1)

/-! ### Block formats (R66-R69) -/

/-- floor(log2) of a finite magnitude. -/
def Num.log2 (x : Num) : Option Int :=
  match x with
  | .fin _ m e => if m = 0 then none else some ((Nat.log2 m : Int) + e)
  | _ => none

/-- The scale code of a block of values (R68). -/
def scaleCode (xs : List Num) : Nat :=
  if xs.any (fun x => match x with | .inf _ => true | _ => false) then 255
  else
    match xs.filterMap Num.log2 with
    | [] => 0
    | l :: ls => (max 0 (min 255 (ls.foldl max l + 127))).toNat

/-- A block mantissa of n bits for a value under a scale code (R68): the signed mantissa and the flags. -/
def quantise (x : Num) (c n rm draw : Nat) : Int × Flags :=
  let lo : Int := -((2 ^ (n - 1) : Nat) : Int)
  let hi : Int := ((2 ^ (n - 1) : Nat) : Int) - 1
  match x with
  | .nan _ => (0, fNV)
  | .inf s => (if s then lo else hi, fNX)
  | .fin s m e =>
    let r := roundQ rm s m (e + 127 + (n - 2 : Nat) - c) 0 draw
    let v := sgn s r.1
    if v < lo then (lo, fSAT ||| fNX)
    else if hi < v then (hi, fSAT ||| fNX)
    else (v, flagIf (!r.2) fNX)

/-- The value of a block mantissa (R67). -/
def blockValue (m : Int) (c n : Nat) : Num := numOfInt m ((c : Int) - 127 - ((n - 2 : Nat) : Int)) false

end Sys2Proof.Machine
end

