-- ==== Sys2Proof/Config.lean ====
section
/-! DEFINITION. What an implementation fixes and what the spec leaves free: constants without a body, so that no proof can
see a value of theirs. Each is named in a log entry. -/

namespace Sys2Proof.Config

/-- Which of several agents that could move does so next, by the model's counter (log 3). -/
opaque schedule : Nat → Nat

/-- Which unit of its commands the copy engine does next, by the model's counter (R235; log 10). -/
opaque unitOrder : Nat → Nat

/-- Which of the values that a byte has had a read sees which no fence orders after the last write, by the model's counter and the byte's address (R237; log 54). -/
opaque seen : Nat → Nat → Nat

/-- A byte that the spec leaves undefined, by the model's counter and an index (R348; log 11). -/
opaque freeByte : Nat → Nat → Byte

/-- The results of the special functions where R164-R166 state a bound and no value: function code, operand (log 12). -/
opaque special : Nat → W32 → W32

/-- Whether the home slice serves a request without an HBM access, by the model's counter and the request's place among those that are left (R87; log 34). -/
opaque homeHit : Nat → Nat → Bool

/-- Whether a port honours received PAUSE and priority flow control frames: the spec says that the supervisor enables them and gives no register
(R352; log 20). -/
opaque pauseEnabled : Nat → Bool

/-- Whether an ML-DSA-65 signature verifies against the fused key (FIPS 204; R366; log 13). -/
opaque verifies : List Byte → List Byte → Bool

/-- The ML-DSA-65 signature under the per-device key (R367; log 13). -/
opaque sign : List Byte → List Byte

/-- The fused minimum security version of a die (R366; log 13). -/
opaque minVersion : Nat → Nat

/-- The harvest map that a report holds, by the units that harvesting has excluded since (R367, R369; log 13). -/
opaque harvestMap : List UnitId → List Byte

/-- The place of a partition's error log in its memory, and the log2 of its records: the spec gives neither (R370; log 48). -/
opaque errBase : Nat → Nat
opaque errSize : Nat → Nat

end Sys2Proof.Config
end

