-- ==== Sys2Proof/Machine/Ops.lean ====
section
/-! DEFINITION. The named operations on the device's state: partitions, cores, warps and their registers; fault records;
taking an exception and returning from one. -/

namespace Sys2Proof.Machine

/-- What a meaning answers. -/
abbrev Result := Host.Outcome State Fault Refusal

/-! ### Partitions (R7, R9, R13, R359) -/

/-- Enabled clusters per die (R1). -/
def State.cpd (s : State) : Nat := match s.grade with | .hx24 => 6 | .hx20 => 5

/-- The grade as descriptors, images and RDY give it (R23, R359). -/
def State.gradeNum (s : State) : Nat := match s.grade with | .hx24 => 24 | .hx20 => 20

def State.part (s : State) (q : Nat) : Part := s.parts.rd q
def State.setPart (s : State) (q : Nat) (p : Part) : State := { s with parts := s.parts.wr q p }
def State.reg (s : State) (q : Nat) : QRegs := s.regs.rd q

/-- The quarters of a partition. -/
def State.nq (s : State) (q : Nat) : Nat := popNat 4 (s.reg q).quarters.toNat

/-- Number of clusters of a partition (R16). -/
def State.nclu (s : State) (q : Nat) : Nat := s.nq q * s.cpd

/-- Device cluster number of partition cluster `c` (R7, R9). -/
def State.devClu (s : State) (q c : Nat) : Nat := q * s.cpd + c

/-- The stacks of a partition, ascending (R359, R360). -/
def State.stacks (s : State) (q : Nat) : List Nat := (List.range 8).filter (fun i => (s.reg q).pmemil.getLsbD i)

/-- CLKC of a partition: fc since its reset (R329). -/
def State.clkc (s : State) (q : Nat) : Nat := s.now - (s.part q).t0

/-- A cluster of a partition is ready: it may take blocks (R368). -/
def State.cluReady (s : State) (q c : Nat) : Bool := s.rdyClu.getLsbD (s.devClu q c)

/-- A queue serves its partition; one that does not reads EN = 0 and drops writes (R359). -/
def State.owns (s : State) (q i : Nat) : Bool := (s.reg q).pqmask.getLsbD i

/-- The partition is up (R359). -/
def State.up (s : State) (q : Nat) : Bool := (s.reg q).state == 2

/-! ### Cores and clusters -/

/-- The cluster of a global core number (R9). -/
def cluOf (g : Nat) : Nat := g / 48

def Part.core (p : Part) (g : Nat) : Core := AMap.rd Core.reset p.cores g
def Part.setCore (p : Part) (g : Nat) (c : Core) : Part := { p with cores := AMap.wr p.cores g c }
def Part.clu (p : Part) (c : Nat) : Cluster := AMap.rd Cluster.reset p.clusters c
def Part.setClu (p : Part) (c : Nat) (x : Cluster) : Part := { p with clusters := AMap.wr p.clusters c x }
def Part.queue (p : Part) (i : Nat) : Queue := AMap.rd Queue.reset p.queues i
def Part.setQueue (p : Part) (i : Nat) (x : Queue) : Part := { p with queues := AMap.wr p.queues i x }

/-- Record `e` for the partition error log (R370). -/
def Part.logErr (p : Part) (e : ErrRec) : Part := { p with errlog := p.errlog ++ [e] }

/-! ### Warps -/

/-- The key of a warp context: core·64 + slot. -/
def wkey (w : WRef) : Nat := w.core * 64 + w.slot

/-- The context that a key names. -/
def keyRef (k : Nat) : WRef := ⟨k / 64, k % 64⟩

def Part.warp (p : Part) (w : WRef) : Option Warp := AMap.find p.warps (wkey w)
def Part.setWarp (p : Part) (w : WRef) (x : Warp) : Part := { p with warps := AMap.wr p.warps (wkey w) x }
def Part.delWarp (p : Part) (w : WRef) : Part := { p with warps := AMap.del p.warps (wkey w) }

/-- Update a warp, if it is there. -/
def Part.modWarp (p : Part) (w : WRef) (f : Warp → Warp) : Part :=
  match p.warp w with
  | none => p
  | some x => p.setWarp w (f x)

def Part.block? (p : Part) (id : Nat) : Option Block := p.blocks.find? (fun b => b.id == id)
def Part.gang? (p : Part) (id : Nat) : Option Gang := p.gangs.find? (fun g => g.id == id)
def Part.grid? (p : Part) (seq : Nat) : Option Grid := p.grids.find? (fun g => g.seq == seq)
def Part.modBlock (p : Part) (id : Nat) (f : Block → Block) : Part := { p with blocks := updIf (fun b => b.id == id) f p.blocks }
def Part.modGang (p : Part) (id : Nat) (f : Gang → Gang) : Part := { p with gangs := updIf (fun g => g.id == id) f p.gangs }
def Part.modGrid (p : Part) (seq : Nat) (f : Grid → Grid) : Part := { p with grids := updIf (fun g => g.seq == seq) f p.grids }

/-- A warp with its block, gang and grid. -/
structure Ctx where
  w : WRef
  x : Warp
  blk : Block
  gang : Gang
  grid : Grid
  deriving DecidableEq, Repr

/-- The warp of a context with everything it belongs to. -/
def Part.ctx (p : Part) (w : WRef) : Option Ctx := do
  let x ← p.warp w
  let b ← p.block? x.block
  let g ← p.gang? b.gang
  let r ← p.grid? b.grid
  pure ⟨w, x, b, g, r⟩

/-- The warps of a block, with their contexts, in context order. -/
def Part.warpsOf (p : Part) (blk : Nat) : List (WRef × Warp) :=
  (p.warps.filter (fun x => x.2.block == blk)).map (fun x => (keyRef x.1, x.2))

/-- The blocks of a gang, in `gcx` order of placement. -/
def Part.blocksOf (p : Part) (g : Nat) : List Block := p.blocks.filter (fun b => b.gang == g)

/-- The warps of a gang. -/
def Part.warpsOfGang (p : Part) (g : Nat) : List (WRef × Warp) := (p.blocksOf g).flatMap (fun b => p.warpsOf b.id)

/-- The context that holds the warp of an identity. -/
def Part.byUid (p : Part) (u : Nat) : Option (WRef × Warp) :=
  ((p.warps.find? (fun x => x.2.uid == u)).map (fun x => (keyRef x.1, x.2)))

/-- Whether a grid runs at supervisor level (R318). -/
def Part.isSup (p : Part) (g : Grid) : Bool := p.csr.sqmask.getLsbD g.queue

/-- GRIDH (R329). -/
def Grid.handle (g : Grid) : W64 := BitVec.ofNat 64 (g.queue + g.seq * 2 ^ 16)

/-- Reconvergence records on chip and spilled (R136). -/
def Warp.rd (x : Warp) : Nat := x.stack.length + x.spilled

/-- Live lanes (R94). -/
def Warp.live (x : Warp) : Mask :=
  maskOf x.width (fun i => match x.lanes[i]? with | some l => decide (l.st = .live) | none => false)

/-- Lanes active on the current path (R121). -/
def Warp.path (x : Warp) : Mask := x.m &&& x.live

/-- Effective priority (R253). -/
def Warp.eff (x : Warp) : Nat := max x.prio (max x.linh x.binh)

/-- The strips that a warp's lanes lie in (R10, R11). -/
def Warp.strips (x : Warp) : List Nat := (List.range 4).filter (fun s => decide (x.base < 32 * s + 32 ∧ 32 * s < x.base + x.width))

/-- The slices that a warp's lanes lie in (R10). -/
def Warp.slices (x : Warp) : List Nat := (List.range 16).filter (fun s => decide (x.base < 8 * s + 8 ∧ 8 * s < x.base + x.width))

/-- A control-transfer target that R125 admits. -/
def KDesc.target (k : KDesc) (t : W64) : Bool :=
  t.toNat % 4 == 0 && decide (k.codeBase.toNat ≤ t.toNat ∧ t.toNat < k.codeBase.toNat + k.codeSz)

/-! ### The register file (R49, R103) -/

/-- Entry `e` of lane `l` of a core's register file. -/
def Core.reg (c : Core) (l e : Nat) : W32 := Sparse.rd c.rf (l * 512 + e)
def Core.setReg (c : Core) (l e : Nat) (v : W32) : Core := { c with rf := Sparse.wr c.rf (l * 512 + e) v }

/-- Clear entries `e … e+n−1` of lanes `l … l+w−1`. -/
def Core.clearRegs (c : Core) (l w e n : Nat) : Core :=
  { c with rf := c.rf.filter (fun x => !(decide (l ≤ x.1 / 512 ∧ x.1 / 512 < l + w ∧ e ≤ x.1 % 512 ∧ x.1 % 512 < e + n))) }

/-- The physical register of a vector code (R49). -/
def physReg (wb c : Nat) : Nat := if c < 16 then c else c + wb

/-! ### Causes (R309, R310) -/

/-- The code of a cause. -/
def Cause.code : Cause → Nat
  | .trap => 0x01
  | .locate => 0x02
  | .race => 0x03
  | .locked => 0x04
  | .width => 0x05
  | .brxrange => 0x06
  | .align => 0x08
  | .xlate => 0x20
  | .prot => 0x21
  | .illegal => 0x22
  | .operand => 0x23
  | .priv => 0x24
  | .memue => 0x25
  | .regbound => 0x26
  | .runlen => 0x27
  | .stackovf => 0x28
  | .handler => 0x29

/-- A user trap vectors to the warp's handler (R309). -/
def Cause.isUser (c : Cause) : Bool := decide (c.code < 0x20)

/-- The order in which a word's conditions are reported (R54); `brxrange` and `width` stand among the faults. -/
def Cause.rank : Cause → Nat
  | .runlen => 0
  | .illegal => 1
  | .priv => 2
  | .regbound => 3
  | .operand => 4
  | .stackovf => 5
  | .width => 6
  | .brxrange => 7
  | .xlate => 8
  | .prot => 9
  | .align => 10
  | .locate => 11
  | .locked => 12
  | .race => 13
  | .memue => 14
  | .trap => 15
  | .handler => 16

/-- A condition is reported before another: an earlier word, or the same word and an earlier place in R54's list. -/
def Cond.before (a b : Cond) : Bool := decide (a.pos < b.pos) || (a.pos == b.pos && decide (a.cause.rank < b.cause.rank))

/-- The first of two conditions under R54. -/
def Cond.first (a : Option Cond) (b : Option Cond) : Option Cond :=
  match a, b with
  | none, y => y
  | x, none => x
  | some x, some y => some (if y.before x then y else x)

/-- The 32-lane group of the lowest lane of a mask, and that group's lanes (R313). -/
def maskGroup (m : Mask) : Nat × BitVec 32 :=
  let g := match Mask.low m with | some i => i / 32 | none => 0
  (g, BitVec.ofNat 32 (m.toNat / 2 ^ (32 * g)))

/-- TINFO: MASK, GRP and the cause's own bits [63:34] (R313); for TRAP the operand itself. -/
def Cond.tinfo (c : Cond) : W64 :=
  if c.cause = .trap then c.info
  else
    let g := maskGroup c.mask
    BitVec.ofNat 64 (g.2.toNat + g.1 * 2 ^ 32 + c.info.toNat * 2 ^ 34)

/-! ### Fault records (R317, R319) -/

/-- The ring takes a record: EN is set, and TAIL has not come round to HEAD (R318, R319). -/
def PCsr.ringRoom (c : PCsr) : Bool :=
  let n := 2 ^ bits c.fqbase.toNat 5 1
  c.fqbase.getLsbD 0 && decide ((c.fqtail.toNat + 2 ^ 32 - c.fqhead.toNat % 2 ^ 32) % 2 ^ 32 < n)

/-- FQSTAT.FULL: records are waiting for room (R318). -/
def PCsr.setFull (c : PCsr) (full : Bool) : PCsr := { c with fqstat := (c.fqstat &&& ~~~1) ||| BitVec.ofNat 64 (b2n full) }

/-- Queue a fault record for posting, in the order in which its event arose (R319). -/
def Part.post (p : Part) (r : FaultRec) : Part :=
  { p with posts := p.posts ++ [r], postSeq := p.postSeq + 1, csr := p.csr.setFull (p.csr.fqstat.getLsbD 0 || !p.csr.ringRoom) }

/-- Places in the posting buffer (R319). -/
def postRoom : Nat := 4096

/-- The posting buffer has room (R319). -/
def Part.postFree (p : Part) : Bool := decide (p.posts.length < postRoom)

/-- The record of a number has a place in the posting buffer, or has left it (R319). -/
def Part.hasPlace (p : Part) (n : Nat) : Bool := decide (n < p.postSeq - p.posts.length + postRoom)

/-- The code of an access kind (R317). -/
def Acc.code : Acc → Nat
  | .read => 0
  | .write => 1
  | .fetch => 2
  | .rmw => 3

/-- The FAULT record of a condition: `pc` is the resume address (R317). -/
def faultRec (c : Ctx) (k : Cond) (pc : W64) : FaultRec where
  cause := k.cause.code
  kind := 0
  gcore := c.w.core
  slot := c.w.slot
  tag := 0
  acc := k.acc.code
  grp := (maskGroup k.mask).1
  pc := pc
  addr := k.addr
  mask := (maskGroup k.mask).2
  gridh := c.grid.handle
  detail := k.detail
  time := 0

/-! ### Taking an exception and returning from one (R311-R316) -/

/-- The supervisor fault: the warp stands fault-parked at `pc`, and a FAULT record is posted (R316). `epc` is the TEPC that the warp held before
the fault; the aborted run's first word stands in TEPC until the release. -/
def Part.supFault (p : Part) (c : Ctx) (k : Cond) (pc epc : W64) (now : Nat) : Part :=
  (p.setWarp c.w { c.x with run := none, pc := pc, wait := .fault c.x.trap.epc now false k, trap := { c.x.trap with epc := epc } }).post
    (faultRec c k pc)

/-- A user trap enters the warp's handler between runs (R311): TCAUSE, TADDR and TINFO as R313 gives them, TEPC the word at which `eret`
continues, SAVEDM the path mask, INH set, COUNT raised and sticking, the pc at THND. A trap that cannot be delivered is the
supervisor fault HANDLER, with the warp at `epc`. -/
def Part.userTrap (p : Part) (c : Ctx) (k : Cond) (epc : W64) (now : Nat) : Part :=
  let t := c.x.trap
  if t.thnd = 0 ∨ !c.grid.k.target t.thnd ∨ t.inh then
    p.supFault c { k with cause := .handler, detail := BitVec.ofNat 64 (k.cause.code + 256 * b2n t.inh) } epc
      (if k.cause = .trap then t.epc else epc) now
  else
    p.setWarp c.w { c.x with
      run := none
      pc := t.thnd
      trap := { t with
        cause := BitVec.ofNat 8 k.cause.code
        addr := k.addr
        info := k.tinfo
        epc := epc
        inh := true
        rd0 := c.x.rd
        count := min (t.count + 1) 0xFFFF
        savedM := c.x.m } }

/-- A run aborts on its first condition (R37): nothing of it has been done; a user trap enters the handler, any other cause parks the warp. -/
def Part.takeCond (p : Part) (c : Ctx) (k : Cond) (start : W64) (now : Nat) : Part :=
  if k.cause.isUser then p.userTrap c k start now else p.supFault c k start start now

/-- A run aborts without a fault (R244, R321): the warp stands at its first word. -/
def Part.abortRun (p : Part) (w : WRef) : Part :=
  p.modWarp w (fun x => match x.run with | none => x | some r => { x with run := none, pc := r.start })

/-- The return from a handler (R315), after its checks: the pc from TEPC, the path mask from SAVEDM, INH cleared. -/
def Warp.eret (x : Warp) : Warp :=
  { x with pc := x.trap.epc, m := x.trap.savedM &&& x.live, trap := { x.trap with inh := false } }

/-- What R315 asks before a return: INH set, as many reconvergence records as at entry, and a target that R125 admits. -/
def Warp.eretOk (x : Warp) (k : KDesc) : Bool := x.trap.inh && x.rd == x.trap.rd0 && k.target x.trap.epc

/-- The supervisor releases a fault-parked warp: it issues its run again, with the TEPC it held before (R316). -/
def Warp.release (x : Warp) : Warp :=
  match x.wait with
  | .fault epc _ _ _ => { x with wait := .none, trap := { x.trap with epc := epc } }
  | _ => x

end Sys2Proof.Machine
end

