-- ==== Sys2Proof/Machine/Buckets.lean ====
section
/-! DEFINITION. Reservations: the rates of a class, the token buckets of a core, charges, refunds and debts (R86-R88). -/

namespace Sys2Proof.Machine

/-! ### Rates and division (R86, R87) -/

/-- A class's rates in GB/s: HBM and fabric, and CAP (R86). -/
def PCsr.rate (c : PCsr) (cls : Nat) : Nat × Nat × Bool :=
  let v := (Sparse.rd c.resv cls).toNat
  (bits v 15 0, bits v 31 16, bitN v 32)

/-- The reservation class of a block: its queue's (R86). -/
def Part.blockCls (p : Part) (b : Block) : Nat := match p.grid? b.grid with | some g => (p.queue g.queue).rcls | none => 0

/-- The class that a warp's requests belong to. -/
def Part.warpCls (p : Part) (w : WRef) : Nat :=
  match p.warp w with
  | none => 0
  | some x => match p.block? x.block with
    | some b => p.blockCls b
    | none => 0

/-- The cores that hold a block of a class (R87). -/
def Part.clsCores (p : Part) (cls : Nat) : Nat := (((p.blocks.filter (fun b => p.blockCls b == cls)).map (fun b => b.core)).dedup).length

/-- Sevenths of a byte that a rate of `r` GB/s shared by `n` cores gives in `t` fc (R3, R87): 1 GB/s is 5/7 byte in an fc of 1/1.4 ns. -/
def tokens (r n t : Nat) : Int := ((5 * r * t / max 1 n : Nat) : Int)

/-- A bucket's depth: the tokens of 8,192 fc and at least 4 KiB (R87). -/
def depth (r n : Nat) : Int := max (tokens r n 8192) (7 * 4096)

/-! ### Buckets (R87) -/

/-- A bucket with the tokens that have come since it was last looked at, at the division that holds. -/
def Part.filled (p : Part) (now : Nat) (b : Bucket) : Bucket :=
  let r := p.csr.rate b.cls
  let n := p.clsCores b.cls
  ⟨b.cls, min (depth r.1 n) (b.hbm + tokens r.1 n (now - b.upd)), min (depth r.2.1 n) (b.fab + tokens r.2.1 n (now - b.upd)), now⟩

/-- A core's buckets for a class, brought up to date; one that no placement has made yet is full. -/
def Part.bucket (p : Part) (g cls now : Nat) : Bucket :=
  match (p.core g).buckets.find? (fun b => b.cls == cls) with
  | some b => p.filled now b
  | none => ⟨cls, depth (p.csr.rate cls).1 (p.clsCores cls), depth (p.csr.rate cls).2.1 (p.clsCores cls), now⟩

def Part.setBucket (p : Part) (g : Nat) (b : Bucket) : Part :=
  let c := p.core g
  p.setCore g { c with buckets := c.buckets.filter (fun x => x.cls != b.cls) ++ [b] }

/-- A block of a class has been placed on a core: with the first one there, the class's buckets start full (R87). -/
def Part.freshBucket (p : Part) (g cls now : Nat) : Part :=
  if cls = 0 ∨ (p.blocks.filter (fun b => b.core == g && p.blockCls b == cls)).length ≠ 1 then p
  else p.setBucket g ⟨cls, depth (p.csr.rate cls).1 (p.clsCores cls), depth (p.csr.rate cls).2.1 (p.clsCores cls), now⟩

/-- Every bucket is brought up to date before the division or a rate changes (R87). -/
def Part.settle (p : Part) (now : Nat) : Part :=
  { p with cores := p.cores.map (fun x => (x.1, { x.2 with buckets := x.2.buckets.map (p.filled now) })) }

/-- A class has a reservation (R87). -/
def Part.reserves (p : Part) (cls : Nat) : Bool := (p.csr.rate cls).1 != 0 || (p.csr.rate cls).2.1 != 0

/-- A class that CAP holds to non-zero rates (R87). -/
def Part.capped (p : Part) (cls : Nat) : Bool := cls != 0 && (p.csr.rate cls).2.2 && p.reserves cls

/-- Whether a request with these charges finds both buckets full enough (R87). -/
def Bucket.has (b : Bucket) (hbm fab : Nat) : Bool := decide ((7 * hbm : Nat) ≤ b.hbm) && decide ((7 * fab : Nat) ≤ b.fab)
def Bucket.charge (b : Bucket) (hbm fab : Nat) : Bucket := { b with hbm := b.hbm - (7 * hbm : Nat), fab := b.fab - (7 * fab : Nat) }

/-- Bytes of the flits that carry `n` bytes of data (R206). -/
def dataFlits (n : Nat) : Nat := 64 * ((n + 63) / 64)

/-! ### Debts and refunds (R87, R88) -/

/-- A charge to one bucket as debt: down to minus four times its depth, and dropped beyond (R88). -/
def owed (depth have_ : Int) (n : Nat) : Int := if have_ - (7 * n : Nat) < -4 * depth then have_ else have_ - (7 * n : Nat)

/-- What is never held is charged as debt to the class whose request caused it, at the causing core (R88). -/
def Part.debt (p : Part) (g cls now hbm fab : Nat) : Part :=
  if p.reserves cls then
    let b := p.bucket g cls now
    let n := p.clsCores cls
    p.setBucket g { b with hbm := owed (depth (p.csr.rate cls).1 n) b.hbm hbm, fab := owed (depth (p.csr.rate cls).2.1 n) b.fab fab }
  else p

/-- The credit for a request that its home slice served without the HBM (R87). -/
def Part.refund (p : Part) (g cls now hbm : Nat) : Part :=
  if p.reserves cls then
    let b := p.bucket g cls now
    p.setBucket g { b with hbm := min (depth (p.csr.rate cls).1 (p.clsCores cls)) (b.hbm + (7 * hbm : Nat)) }
  else p

/-- A request as a bucket sees it (R87): HBM bytes, and the bytes of its own flits and of its reply's. -/
def readReq (n : Nat) : Nat × Nat × Nat := (n, 64, dataFlits n)
def writeReq (n : Nat) : Nat × Nat × Nat := (n, dataFlits n, 64)

/-- A request is injected: charged where it is reserved, with its reply as debt, and with the credit of one that its home slice serves without the HBM, which the
spec leaves open (R87, R88; log 34). -/
def Part.injected (p : Part) (g cls now : Nat) (reserved hit : Bool) (r : Nat × Nat × Nat) : Part :=
  let p := if reserved then p.setBucket g ((p.bucket g cls now).charge r.1 r.2.1) else p
  let p := p.debt g cls now 0 r.2.2
  if reserved && hit then p.refund g cls now r.1 else p

end Sys2Proof.Machine
end

