-- ==== Sys2Proof/Machine/Mem.lean ====
section
/-! DEFINITION. Memory: the interleave, bytes at their homes, page walks, address regions, L1 copies, and taking a parked line
out of its park. -/

namespace Sys2Proof.Machine

/-- Update a partition. -/
def State.modPart (s : State) (q : Nat) (f : Part → Part) : State := s.setPart q (f (s.part q))

/-! ### The interleave (R360) -/

/-- Bytes in a stack (R1): 120 GB. -/
def stackBytes : Nat := 120000000000

/-- PA lies in the partition's physical memory (R360). -/
def State.paOk (s : State) (q pa : Nat) : Bool := decide (pa < (s.stacks q).length * stackBytes)

/-- The stack of a physical address (R360). -/
def State.stackOf (s : State) (q pa : Nat) : Nat :=
  let t := s.stacks q
  t.getD (pa / 4096 % max 1 t.length) 0

/-- The home slice number of a physical address (R360). -/
def State.homeOf (s : State) (q pa : Nat) : Nat :=
  let n := max 1 (s.stacks q).length
  16 * s.stackOf q pa + (bits pa 10 7 ^^^ (pa / 4096 / n % 16))

/-- The DRAM location of a physical address: the stack of R360, and within it the 4 KiB pages in order (log 14). -/
def State.dramKey (s : State) (q pa : Nat) : Nat :=
  let n := max 1 (s.stacks q).length
  s.stackOf q pa * stackBytes + (pa / 4096 / n * 4096 + pa % 4096)

/-! ### Routes between dies (R338, R361) -/

/-- The bits of BND for the die boundaries that the route between two dies crosses: by the spanning tree from the partition's first cluster, and the lower next router
where two are equally short (R338, R359, R361). -/
def crossings (a b : Nat) : List Nat :=
  match min a b, max a b with
  | 0, 1 => [0]
  | 0, 2 => [1]
  | 1, 3 => [2]
  | 2, 3 => [3]
  | 0, 3 => [0, 2]
  | 1, 2 => [0, 1]
  | _, _ => []

/-- A router drops a packet between a core and the home slice of an address: its route crosses a boundary that BND does not allow (R338, R361). -/
def State.barred (s : State) (q g pa : Nat) : Bool :=
  (crossings (s.devClu q (cluOf g) / s.cpd) (s.stackOf q pa / 2)).any (fun i => !(s.reg q).pnetb.getLsbD i)

/-! ### Bytes at home -/

/-- The park-directory entry of the line of a physical address (R197). -/
def Part.parked (p : Part) (pa : Nat) : Option Parked := p.dir.find? (fun d => d.line == pa / 128)

/-- One byte of DRAM. -/
def State.rdDram (s : State) (q pa : Nat) : Byte := Sparse.rd s.dram (s.dramKey q pa)
def State.wrDram (s : State) (q pa : Nat) (b : Byte) : State := { s with dram := Sparse.wr s.dram (s.dramKey q pa) b }

/-- Write consecutive bytes of DRAM. -/
def State.wrDramL (s : State) (q pa : Nat) : List Byte → State
  | [] => s
  | b :: l => (s.wrDram q pa b).wrDramL q (pa + 1) l

/-- The current value of a byte of device memory: a parked line holds its own bytes (R196). -/
def State.rdHome (s : State) (q pa : Nat) : Byte :=
  match (s.part q).parked pa with
  | some d => d.data.getD (pa % 128) 0
  | none => s.rdDram q pa

/-- Consecutive bytes of device memory. -/
def State.rdHomeL (s : State) (q pa n : Nat) : List Byte := (List.range n).map (fun i => s.rdHome q (pa + i))

def State.rdHost (s : State) (pa : Nat) : Byte := Sparse.rd s.hostMem pa
def State.wrHost (s : State) (pa : Nat) (b : Byte) : State := { s with hostMem := Sparse.wr s.hostMem pa b }

/-! ### Uncorrectable sectors (R208) -/

/-- The place `i` bytes on. -/
def Loc.add (l : Loc) (i : Nat) : Loc :=
  match l with
  | .scratch c o => .scratch c (o + i)
  | .dev pa => .dev (pa + i)
  | .host pa => .host (pa + i)

/-- The address, physical or in the scratchpad, of a place. -/
def Loc.addr (l : Loc) : Nat :=
  match l with
  | .scratch _ o => o
  | .dev pa => pa
  | .host pa => pa

/-- The first byte of a place's sector. -/
def Loc.sector (l : Loc) : Loc :=
  match l with
  | .scratch c o => .scratch c (o / 32 * 32)
  | .dev pa => .dev (pa / 32 * 32)
  | .host pa => .host (pa / 32 * 32)

/-- The number of a place's sector among those of DRAM, by location, and of the scratchpads, above them; a parked line's sector is marked at its location. -/
def State.ueKey (s : State) (q : Nat) (l : Loc) : Option Nat :=
  match l with
  | .dev pa => some (s.dramKey q pa / 32)
  | .scratch c o => some (2 ^ 60 + (q * 2048 + c) * 2 ^ 20 + o / 32)
  | .host _ => none

/-- The mark of a place's sector in DRAM, at its park level or in its scratchpad. -/
def State.ueHome (s : State) (q : Nat) (l : Loc) : Bool := match s.ueKey q l with | some k => s.ue.contains k | none => false

/-- The sector-valid bit of a physical address. -/
def sectorBit (pa : Nat) : BitVec 4 := BitVec.ofNat 4 (2 ^ (pa / 32 % 4))

/-- The L1 copy of a sector in a core, if any (R188). -/
def Core.l1Find (c : Core) (host : Bool) (sector : Nat) : Option L1Sector := c.l1.find? (fun x => x.host == host && x.sector == sector)

/-- The copy of a sector that a cluster's cache holds. -/
def Cluster.copy (k : Cluster) (host : Bool) (pa : Nat) : Option CcLine :=
  k.cc.find? (fun x => x.host == host && x.line == pa / 128 && x.valid &&& sectorBit pa != 0)

/-- The copy of a sector that is newer than home's: dirty in a cluster's cache. -/
def Part.dirtyCopy (p : Part) (host : Bool) (pa : Nat) : Option CcLine :=
  p.clusters.findSome? (fun k => (k.2.copy host pa).filter (fun x => x.dirty &&& sectorBit pa != 0))

/-- The cluster-cache copy that serves a sector to cluster `c`, or to an agent outside the clusters: its own, else a dirty one. -/
def Part.ccServing (p : Part) (c : Option Nat) (host : Bool) (pa : Nat) : Option CcLine :=
  match c.bind (fun c => (p.clu c).copy host pa) with
  | some x => some x
  | none => p.dirtyCopy host pa

/-- Some sector or copy holds an uncorrectable code. -/
def State.anyBad (s : State) (q : Nat) : Bool :=
  !s.ue.isEmpty || (s.part q).cores.any (fun k => k.2.l1.any (fun x => x.bad)) || (s.part q).clusters.any (fun k => k.2.cc.any (fun x => x.bad != 0))

/-- What is read below the L1s holds an uncorrectable code (R208): the parked line, the copy of a cluster cache that serves cluster `c`, or home. -/
def State.ueBelow (s : State) (q : Nat) (c : Option Nat) (l : Loc) : Bool :=
  let cached (host : Bool) (pa : Nat) : Bool :=
    match (s.part q).ccServing c host pa with
    | some x => x.bad &&& sectorBit pa != 0
    | none => s.ueHome q l
  s.anyBad q && (match l with
    | .scratch .. => s.ueHome q l
    | .dev pa => if ((s.part q).parked pa).isSome then s.ueHome q l else cached false pa
    | .host pa => cached true pa)

/-- The sector's copy in the L1 of core `g` holds an uncorrectable code; a parked line has no such copy. -/
def State.ueL1 (s : State) (q g : Nat) (l : Loc) : Option Bool :=
  match l with
  | .scratch .. => none
  | .dev pa => if ((s.part q).parked pa).isSome then none else (((s.part q).core g).l1Find false (pa / 32)).map (fun x => x.bad)
  | .host pa => (((s.part q).core g).l1Find true (pa / 32)).map (fun x => x.bad)

/-- What core `g`'s load reads at a place holds an uncorrectable code: its L1's copy unless `beyond`, else what stands below. -/
def State.ueLoad (s : State) (q g : Nat) (beyond : Bool) (l : Loc) : Bool :=
  match (if beyond then none else s.ueL1 q g l) with
  | some b => s.anyBad q && b
  | none => s.ueBelow q (some (cluOf g)) l

/-- What core `g`'s partial store merges with holds an uncorrectable code: its L1's copy, or what stands below. -/
def State.ueStore (s : State) (q g : Nat) (l : Loc) : Bool := s.anyBad q && ((s.ueL1 q g l).getD false || s.ueBelow q (some (cluOf g)) l)

/-- A sector of device memory, as an agent outside the clusters reads it, holds an uncorrectable code (R208). -/
def State.isUe (s : State) (q pa : Nat) : Bool := s.ueBelow q none (.dev pa)

/-- The sectors that a set of places covers whole, by their first bytes. -/
def wholeSectors (ls : List Loc) : List Loc := ((ls.map Loc.sector).dedup).filter (fun b => (List.range 32).all (fun i => ls.contains (b.add i)))

/-! ### Page walks (R185) -/

/-- The region of an address by its bits [63:32] (R182). -/
inductive Region where
  | global
  | loc
  | cluster
  | none
  deriving DecidableEq, Repr

def regionOf (va : W64) : Region :=
  let h := va.toNat / 2 ^ 48
  if h = 0 then .global
  else if h = 0xFFFF ∧ bits va.toNat 47 32 = 0 then .loc
  else if h = 0xFFFF ∧ bits va.toNat 47 32 = 1 then .cluster
  else .none

/-- A failed check of an access: its cause and the record's DETAIL (R317). -/
structure Fail where
  cause : Cause
  detail : W64
  deriving DecidableEq, Repr

def xlateFail (level : Nat) : Fail := ⟨.xlate, BitVec.ofNat 64 level⟩

/-- The index of an address at a level, the bytes of that level's table, and those that a leaf maps (R185). -/
def walkIndex (level va : Nat) : Nat :=
  match level with
  | 0 => bits va 47 39
  | 1 => bits va 38 30
  | 2 => bits va 29 21
  | _ => bits va 20 16
def tableAlign (level : Nat) : Nat := if level < 3 then 4096 else 256
def leafSize (level : Nat) : Nat :=
  match level with
  | 1 => 2 ^ 30
  | 2 => 2 ^ 21
  | _ => 2 ^ 16

/-- The leaf that a valid table entry holds, or nothing where R185 makes the walk fail. -/
def leafOf (level va e : Nat) : Option Leaf :=
  let size := leafSize level
  let pa := bits e 51 16 * 2 ^ 16
  let l : Leaf := ⟨va / size * size, size, pa, bitN e 2, bitN e 3, bitN e 4, bitN e 5, bits e 7 6, bits e 9 8, bits e 11 10, bitN e 12, bitN e 13⟩
  if level == 0 || bits e 15 14 != 0 || bits e 63 52 != 0 || l.grain == 3 || l.park == 3 || pa % size != 0 ||
      (l.host && (l.park != 0 || l.lockable)) then none
  else some l

/-- The walk from a table at a level; `fuel` is the number of levels left. Entries are read from their home (R187); a table outside the
partition's memory fails the walk, and so does a leaf that reaches beyond it (R360). -/
def State.walkAt (s : State) (q va : Nat) : Nat → Nat → Nat → Except Fail Leaf
  | 0, level, _ => .error (xlateFail level)
  | fuel + 1, level, table =>
    let ea := table + 8 * walkIndex level va
    if table % tableAlign level != 0 || !s.paOk q (ea + 7) then .error (xlateFail level)
    else if s.isUe q ea then .error ⟨.memue, BitVec.ofNat 64 ea⟩
    else
      let e := leNat (s.rdHomeL q ea 8)
      if !bitN e 0 then .error (xlateFail level)
      else if bitN e 1 then
        match leafOf level va e with
        | some l => if l.host || s.paOk q (l.pa + l.size - 1) then .ok l else .error (xlateFail level)
        | none => .error (xlateFail level)
      else if level == 3 || bits e 63 52 != 0 then .error (xlateFail level)
      else s.walkAt q va fuel (level + 1) (bits e 51 8 * 256)

/-- The walk that PTBASE names (R185, R186). -/
def State.walk (s : State) (q va : Nat) : Except Fail Leaf :=
  let b := (s.part q).csr.ptbase.toNat
  if bitN b 0 then s.walkAt q va 4 0 (bits b 51 12 * 4096) else .error (xlateFail 0)

/-- The physical addresses of the table entries that a walk reads (R185, R187). -/
def State.walkReads (s : State) (q va : Nat) : Nat → Nat → Nat → List Nat
  | 0, _, _ => []
  | fuel + 1, level, table =>
    let ea := table + 8 * walkIndex level va
    if table % tableAlign level != 0 || !s.paOk q (ea + 7) then []
    else
      let e := leNat (s.rdHomeL q ea 8)
      ea :: (if s.isUe q ea || !bitN e 0 || bitN e 1 || level == 3 || bits e 63 52 != 0 then [] else s.walkReads q va fuel (level + 1) (bits e 51 8 * 256))

/-- A cached leaf covers an address. -/
def Leaf.covers (l : Leaf) (va : Nat) : Bool := decide (l.va ≤ va ∧ va < l.va + l.size)

/-- Translation of a global address for a core: its TLB, its cluster's, then a walk (R187). -/
def State.translate (s : State) (q g va : Nat) : Except Fail Leaf :=
  match ((s.part q).core g).tlb.find? (fun l => l.covers va) with
  | some l => .ok l
  | none =>
    match ((s.part q).clu (cluOf g)).tlb.find? (fun l => l.covers va) with
    | some l => .ok l
    | none => s.walk q va

/-- The first table entry that a router keeps from a core's walker, where the core's translation of a global address needs a walk (R338, R361). -/
def State.barredWalk (s : State) (q g : Nat) (va : W64) : List Nat :=
  let b := (s.part q).csr.ptbase.toNat
  let cached (l : List Leaf) : Bool := l.any (fun x => x.covers va.toNat)
  if regionOf va != .global || cached ((s.part q).core g).tlb || cached ((s.part q).clu (cluOf g)).tlb || !bitN b 0 then []
  else ((s.walkReads q va.toNat 4 0 (bits b 51 12 * 4096)).find? (s.barred q g)).toList

/-- Packets that a router drops, by their addresses, are logged (R338, R361, R370). -/
def State.logBarred (s : State) (q : Nat) (l : List Nat) : State := l.foldl (fun s pa => s.modPart q (fun p => p.logErr ⟨6, pa, 0, s.clkc q⟩)) s

/-- Keep the last `n` of a list. -/
def keepLast {α : Type} (n : Nat) (l : List α) : List α := l.drop (l.length - n)

/-- The set of a leaf in a cluster's TLB of 512 sets: its page number, which the spec leaves open (R187; log 15). -/
def Leaf.tlbSet (l : Leaf) : Nat := l.va / max 1 l.size % 512

/-- A leaf enters a cluster's 4,096-entry, 8-way TLB; the oldest entry of its set leaves (R187; log 15). -/
def Part.cluTlbFill (p : Part) (c : Nat) (l : Leaf) : Part :=
  let k := p.clu c
  if k.tlb.contains l then p
  else
    p.setClu c { k with
      tlb := k.tlb.filter (fun x => x.tlbSet != l.tlbSet) ++ keepLast 8 (k.tlb.filter (fun x => x.tlbSet == l.tlbSet) ++ [l]) }

/-- A leaf used by a core enters its 64-entry TLB, whose oldest entry leaves, and its cluster's (R187; log 15). -/
def Part.tlbFill (p : Part) (g : Nat) (l : Leaf) : Part :=
  let c := p.core g
  let p := if c.tlb.contains l then p else p.setCore g { c with tlb := keepLast 64 (c.tlb ++ [l]) }
  p.cluTlbFill (cluOf g) l

/-! ### Regions and permissions (R182-R185) -/

/-- Permissions that an access needs. -/
structure Need where
  r : Bool
  w : Bool
  x : Bool
  deriving DecidableEq, Repr

/-- PROT's DETAIL: permissions needed in [2:0], the leaf's in [6:4] (R317). -/
def protFail (n : Need) (l : Option Leaf) : Fail :=
  let have_ := match l with | some l => b2n l.r + 2 * b2n l.w + 4 * b2n l.x | none => 0
  ⟨.prot, BitVec.ofNat 64 (b2n n.r + 2 * b2n n.w + 4 * b2n n.x + 16 * have_)⟩

/-- The leaf permits the access. -/
def Leaf.permits (l : Leaf) (n : Need) : Bool := (!n.r || l.r) && (!n.w || l.w) && (!n.x || l.x)

/-- Where `n` bytes at an address of a scratchpad aperture stand (R183, R184), for a block. -/
def Part.scratchLoc (p : Part) (b : Block) (cluster : Bool) (va n : Nat) : Option Loc :=
  if cluster then
    let k := bits va 31 19
    let o := va % 2 ^ 19
    match p.blocks.find? (fun x => x.gang == b.gang && x.core == cluOf b.core * 48 + k) with
    | some x => if decide (k < 48) && decide (o + n ≤ x.scrLen) then some (.scratch x.core (x.scrOff + o)) else none
    | none => none
  else
    let o := va % 2 ^ 32
    if o + n ≤ b.scrLen then some (.scratch b.core (b.scrOff + o)) else none

/-- The physical place of a global address under a leaf. -/
def Leaf.place (l : Leaf) (va : Nat) : Loc := if l.host then .host (l.pa + va % l.size) else .dev (l.pa + va % l.size)

/-- Decode, translate and check an access of `n` bytes by a warp's core: where it lands and its page (R182-R187). -/
def State.resolve (s : State) (q : Nat) (b : Block) (va : W64) (n : Nat) (need : Need) : Except Fail (Loc × Option Leaf) :=
  match regionOf va with
  | .none => .error (xlateFail 0)
  | .loc =>
    match (s.part q).scratchLoc b false va.toNat n with
    | some l => .ok (l, none)
    | none => .error (protFail need none)
  | .cluster =>
    match (s.part q).scratchLoc b true va.toNat n with
    | some l => .ok (l, none)
    | none => .error (protFail need none)
  | .global =>
    match s.translate q b.core va.toNat with
    | .error e => .error e
    | .ok l => if l.permits need then .ok (l.place va.toNat, some l) else .error (protFail need (some l))

/-! ### Reading and writing a place -/

/-- One byte as a core's load reads it: scratchpad, an L1 copy unless `beyond`, or home (R188, R196, R296). -/
def State.rdLoc (s : State) (q g : Nat) (beyond : Bool) (l : Loc) : Byte :=
  match l with
  | .scratch c o => Sparse.rd ((s.part q).core c).scratch o
  | .dev pa =>
    if beyond || ((s.part q).parked pa).isSome then s.rdHome q pa
    else
      match ((s.part q).core g).l1Find false (pa / 32) with
      | some x => x.bytes.getD (pa % 32) 0
      | none => s.rdHome q pa
  | .host pa =>
    if beyond then s.rdHost pa
    else
      match ((s.part q).core g).l1Find true (pa / 32) with
      | some x => x.bytes.getD (pa % 32) 0
      | none => s.rdHost pa

/-- Consecutive bytes as a core's load reads them. -/
def State.rdLocL (s : State) (q g : Nat) (beyond : Bool) (l : Loc) (n : Nat) : List Byte :=
  (List.range n).map (fun i => s.rdLoc q g beyond (l.add i))

/-- A committed store updates a matching L1 sector of its own core (R188). -/
def Core.l1Update (c : Core) (host : Bool) (pa : Nat) (b : Byte) : Core :=
  { c with l1 := updIf (fun x => x.host == host && x.sector == pa / 32) (fun x => { x with bytes := setAt x.bytes (pa % 32) b }) c.l1 }

/-- One byte written at its place, parked copies included (R196, R298). -/
def State.wrLoc (s : State) (q g : Nat) (l : Loc) (b : Byte) : State :=
  match l with
  | .scratch c o => s.modPart q (fun p => p.setCore c { p.core c with scratch := Sparse.wr (p.core c).scratch o b })
  | .dev pa =>
    let s := s.modPart q (fun p => p.setCore g ((p.core g).l1Update false pa b))
    match (s.part q).parked pa with
    | some _ => s.modPart q (fun p => { p with dir := updIf (fun d => d.line == pa / 128) (fun d => { d with data := setAt d.data (pa % 128) b }) p.dir })
    | none => s.wrDram q pa b
  | .host pa => (s.modPart q (fun p => p.setCore g ((p.core g).l1Update true pa b))).wrHost pa b

/-- Consecutive bytes written. -/
def State.wrLocL (s : State) (q g : Nat) (l : Loc) : List Byte → State
  | [] => s
  | b :: bs => (s.wrLoc q g l b).wrLocL q g (l.add 1) bs

/-- Drop every L1 copy of a core (R296); copies in the park area live in the directory. The extra way of R189 loses its copies too. -/
def Part.dropL1 (p : Part) (g : Nat) : Part := p.setCore g { p.core g with l1 := [], shadow := [] }

/-- An acquire point of a scope on core `g` (R296, R299): at gang scope or wider every L1 copy goes, at system scope the cluster cache's copies of HOST lines
too. -/
def Part.acquirePoint (p : Part) (g : Nat) (sc : Scope) : Part :=
  match sc with
  | .wrp => p
  | .blk => p
  | .sys =>
    let p := p.dropL1 g
    let k := p.clu (cluOf g)
    p.setClu (cluOf g) { k with cc := k.cc.filter (fun x => !x.host) }
  | _ => p.dropL1 g

/-- Drop a line from the L1 of one core, and from the extra way of R189. -/
def Core.l1DropLine (c : Core) (host : Bool) (line : Nat) : Core :=
  { c with
    l1 := c.l1.filter (fun x => !(x.host == host && x.sector / 4 == line))
    shadow := c.shadow.filter (fun x => !(x.1 == host && x.2 / 4 == line)) }

/-- Drop a sector from the L1 of one core, and from the extra way of R189. -/
def Core.l1DropSector (c : Core) (host : Bool) (sector : Nat) : Core :=
  { c with
    l1 := c.l1.filter (fun x => !(x.host == host && x.sector == sector))
    shadow := c.shadow.filter (fun x => !(x.1 == host && x.2 == sector)) }

/-- The L1's ways at a carve-out boundary (R188). -/
def Core.ways (c : Core) : Nat := 24 - c.bnd

/-- A parked line's sectors in the L1 park area of core `g`. -/
def Part.parkedIn (p : Part) (g : Nat) : List Parked := p.dir.filter (fun d => d.level == 0 && d.unit == g)

/-- Choose a set's victim: the first that is not kept, else the first (R188). -/
def l1Victim (l : List L1Sector) : Option L1Sector :=
  match l.find? (fun x => !x.kept) with
  | some x => some x
  | none => l.head?

/-- Parked sectors of set `set` in the L1 park area of core `g`: one for each parked line whose sectors lie there (R188, R198). -/
def Part.setTaken (p : Part) (g set : Nat) : Nat :=
  ((p.parkedIn g).filter (fun d => (4 * d.line) % 512 ≤ set && set < (4 * d.line) % 512 + 4)).length

/-- Set a sampling set's shadow tag (R189): the sector that left it last. -/
def Core.setShadow (c : Core) (v : L1Sector) : Core :=
  if v.sector % 16 = 0 then
    { c with shadow := c.shadow.filter (fun x => x.2 % 512 != v.sector % 512) ++ [(v.host, v.sector)] }
  else c

/-- Sectors leave a set of a core's L1 until at most `n` are left (R188). -/
def Core.l1Trim (set n : Nat) : Nat → Core → Core
  | 0, c => c
  | fuel + 1, c =>
    let inSet := c.l1.filter (fun y => y.sector % 512 == set)
    if inSet.length ≤ n then c
    else match l1Victim inSet with
      | some v => ({ c with l1 := c.l1.filter (fun y => y != v) }.setShadow v).l1Trim set n fuel
      | none => c

/-- The sectors that a set of core `g`'s L1 has room for beside the parked ones: 24 − B ways less those (R188). -/
def Part.l1Room (p : Part) (g set : Nat) : Nat := (p.core g).ways - p.setTaken g set

/-- Sectors that an L1 gives up are logged where their copies hold an uncorrectable code, and nothing more (R208): `old` is the L1 as it was, `clk` the time. -/
def Part.logGone (p : Part) (g clk : Nat) (old : List L1Sector) : Part :=
  ((old.filter (fun x => x.bad)).filter (fun x => !(p.core g).l1.contains x)).foldl (fun p x => p.logErr ⟨1, x.sector * 32, 0, clk⟩) p

/-- A set of core `g`'s L1 gives up what it has no room for, besides `more` sectors that are to come. -/
def Part.l1Fit (p : Part) (g set more clk : Nat) : Part := (p.setCore g ((p.core g).l1Trim set (p.l1Room g set - more) 32)).logGone g clk (p.core g).l1

/-- A sector enters the L1 of core `g`: set PA[13:5]; the least recently used sector that is not kept leaves (R188). -/
def Part.l1Fill (p : Part) (g clk : Nat) (x : L1Sector) : Part :=
  let p := p.setCore g ((p.core g).l1DropSector x.host x.sector)
  if p.l1Room g (x.sector % 512) = 0 then p
  else
    let p := p.l1Fit g (x.sector % 512) 1 clk
    p.setCore g { p.core g with l1 := (p.core g).l1 ++ [x] }

/-- An access misses a sector in the L1 of core `g`, where the extra way of its sampling set would have hit: G (R189), whether the sector is filled or not. -/
def Part.l1Miss (p : Part) (g : Nat) (host : Bool) (sector : Nat) : Part :=
  let c := p.core g
  if c.shadow.contains (host, sector) then p.setCore g { c with g := c.g + 1 } else p

/-- A load hits a sector in the L1 of core `g`: it becomes the most recently used; in a full sampling set, a hit on the least recently used one counts as S
(R188, R189). -/
def Part.l1Hit (p : Part) (g : Nat) (x : L1Sector) (keep : Bool) : Part :=
  let c := p.core g
  let inSet := c.l1.filter (fun y => y.sector % 512 == x.sector % 512)
  let lru := x.sector % 16 == 0 && inSet.head? == some x && inSet.length == p.l1Room g (x.sector % 512)
  p.setCore g { c with l1 := c.l1.filter (fun y => y != x) ++ [{ x with kept := x.kept || keep }], sc := c.sc + b2n lru }

/-! ### The error log, and what traffic owes (R88, R208) -/

/-- The core and the reservation class that pay for traffic which no bucket holds (R88); class 0 pays nothing. -/
abbrev Payer := Nat × Nat

/-- Traffic that nobody's request caused. -/
def noPayer : Payer := (0, 0)

/-- The payer for what a warp's request causes. -/
def Part.payerOf (p : Part) (w : WRef) : Payer := (w.core, p.warpCls w)

/-- Bytes to or from memory and bytes of flits, as debt (R88). -/
def State.owe (s : State) (q : Nat) (pay : Payer) (hbm fab : Nat) : State := s.modPart q (fun p => p.debt pay.1 pay.2 s.now hbm fab)

/-- An uncorrectable error at a physical address goes into the partition error log (R208, R370). -/
def State.logUe (s : State) (q pa : Nat) : State := s.modPart q (fun p => p.logErr ⟨1, pa, 0, s.clkc q⟩)

/-- The sectors of a line that are among those of a mask are logged as uncorrectable. -/
def State.logBits (s : State) (q line : Nat) (mask : BitVec 4) : State :=
  (List.range 4).foldl (fun s i => if mask.getLsbD i then s.logUe q (line * 128 + 32 * i) else s) s

/-- The uncorrectable sectors of a line, as they stand, are logged and nothing more (R208). -/
def State.logLine (s : State) (q line : Nat) : State :=
  if !s.anyBad q then s
  else (List.range 4).foldl (fun s i => let pa := line * 128 + 32 * i; if s.isUe q pa then s.logUe q pa else s) s

/-- The marks of home's sectors of a line, among those of a mask, become those of `bad`: the sectors are replaced there, with their codes (R208). -/
def State.markHome (s : State) (q line : Nat) (mask bad : BitVec 4) : State :=
  let keys (m : BitVec 4) : List Nat := (List.range 4).filterMap (fun i => if m.getLsbD i then s.ueKey q (.dev (line * 128 + 32 * i)) else none)
  if s.ue.isEmpty && bad == 0 then s else { s with ue := s.ue.filter (fun u => !(keys mask).contains u) ++ keys (mask &&& bad) }

/-! ### Requests (R87) -/

/-- A request that leaves a core (R87): the physical address that it is for, if it goes to a home slice, and what the buckets see of it. -/
structure Req where
  pa : Option Nat
  cost : Nat × Nat × Nat
  deriving DecidableEq, Repr

/-- The sectors and the lines that `n` bytes at a physical address lie in. -/
def sectorsOf (pa n : Nat) : List Nat := (List.range ((pa % 32 + n + 31) / 32)).map (fun i => pa / 32 + i)
def linesOf (pa n : Nat) : List Nat := (List.range ((pa % 128 + n + 127) / 128)).map (fun i => pa / 128 + i)

/-- The sectors of memory that the pieces of a word touch: HOST or not, and the number. -/
def pieceSectors (ps : List Piece) : List (Bool × Nat) :=
  (ps.flatMap (fun x => match x.loc with
    | .scratch .. => []
    | .dev pa => (sectorsOf pa x.bytes.length).map (fun i => (false, i))
    | .host pa => (sectorsOf pa x.bytes.length).map (fun i => (true, i)))).dedup

/-- One request for each line of the sectors, which the HBM bucket charges on HOST pages too, because they are global memory (R87, R182), and one for each piece in another
core's scratchpad, which it does not see. -/
def reqsOf (g : Nat) (ps : List Piece) (secs : List (Bool × Nat)) (cost : Nat → Nat × Nat × Nat) : List Req :=
  ((secs.map (fun x => (x.1, x.2 / 4))).dedup).map (fun y =>
    let k := cost (32 * (secs.filter (fun x => x.1 == y.1 && x.2 / 4 == y.2)).length)
    if y.1 then ⟨none, k⟩ else ⟨some (y.2 * 128), k⟩) ++
  ps.filterMap (fun x => match x.loc with
    | .scratch c _ => if c = g then none else some ⟨none, (0, (cost x.bytes.length).2)⟩
    | _ => none)

/-! ### Cluster-cache tags (R190, R191) -/

/-- The slice and set of a line (R190), as one number. -/
def ccSet (line : Nat) : Nat := (bits line 3 0 ^^^ bits line 7 4) * 512 + bits line 16 8

/-- The quota of a class (R190). -/
def PCsr.quota (c : PCsr) (cls : Nat) : Nat := bits c.ccquota.toNat (5 * cls + 4) (5 * cls)

/-- The least recently used line that is not kept, and then the least recently used (R190). -/
def ccLeast (set : List CcLine) : Option CcLine :=
  match set.find? (fun x => !x.kept) with
  | some x => some x
  | none => set.head?

/-- Parked lines that stand in a cluster's cluster cache: their own level, or a replica of theirs (R195, R198). -/
def Part.ccParked (p : Part) (c : Nat) : List Parked :=
  p.dir.filter (fun d => (d.level == 1 && d.unit == c && d.replicas.isEmpty) || d.replicas.contains c)

/-- The parked lines of a line's set in a cluster's cache. -/
def Part.ccTaken (p : Part) (c line : Nat) : List Parked := (p.ccParked c).filter (fun d => ccSet d.line == ccSet line)

/-- The ordinary lines of a line's set in a cluster's cache. -/
def Part.ccOf (p : Part) (c line : Nat) : List CcLine := (p.clu c).cc.filter (fun x => ccSet x.line == ccSet line)

/-- A class holds its quota of ways in a set: its ordinary lines and its parked lines (R190). -/
def Part.ccFull (p : Part) (c line cls : Nat) : Bool :=
  decide (p.csr.quota cls ≤ ((p.ccOf c line).filter (fun x => x.cls == cls)).length + ((p.ccTaken c line).filter (fun d => d.cls == cls)).length)

/-- A tag's dirty sectors among those of a mask are written back to home or to the host; an uncorrectable one is logged only and keeps its code at home (R208),
and the flits are owed (R88). -/
def State.writeBack (s : State) (q : Nat) (pay : Payer) (x : CcLine) (mask : BitVec 4) : State :=
  let d := x.dirty &&& mask
  let n := 32 * popNat 4 d.toNat
  if n = 0 then s
  else
    let s := if x.bad = 0 then s else s.logBits q x.line (x.bad &&& d)
    (if x.host then s else s.markHome q x.line d x.bad).owe q pay (if x.host then 0 else n) (dataFlits n)

/-- A line leaves a cluster's cache, its dirty sectors having been written back; an uncorrectable sector that was clean is logged only (R208). -/
def State.ccOut (s : State) (q : Nat) (pay : Payer) (c : Nat) (x : CcLine) : State :=
  let s := if x.bad = 0 then s else s.logBits q x.line (x.bad &&& ~~~x.dirty)
  (s.writeBack q pay x 15).modPart q (fun p => let k := p.clu c; p.setClu c { k with cc := k.cc.filter (fun y => y != x) })

/-- A sector that enters or is used in a cluster's cache: its address, the class and GRAIN of its page, whether it is to be kept, and whether it is written. -/
structure Fill where
  host : Bool
  pa : Nat
  cls : Nat
  grain : Nat
  keep : Bool
  dirty : Bool
  deriving DecidableEq, Repr

/-- The tag after a fill. -/
def CcLine.filled (x : CcLine) (f : Fill) : CcLine :=
  { x with
    kept := x.kept || f.keep
    valid := x.valid ||| sectorBit f.pa
    dirty := if f.dirty then x.dirty ||| sectorBit f.pa else x.dirty }

/-- A line's sector enters or is used in a cluster's cache (R190): a class at its quota gives up its own least recently used line, and takes none in while all
of its ways are parked; a full set gives up its least recently used line, kept lines last. -/
def State.ccFill (s : State) (q : Nat) (pay : Payer) (c : Nat) (f : Fill) : State :=
  let p := s.part q
  let line := f.pa / 128
  let enter (s : State) (x : CcLine) : State := s.modPart q (fun p => let k := p.clu c; p.setClu c { k with cc := k.cc ++ [x] })
  let out (s : State) (v : Option CcLine) : State := match v with | some v => s.ccOut q pay c v | none => s
  let new : CcLine := ⟨f.host, line, f.cls, f.grain, f.keep, sectorBit f.pa, if f.dirty then sectorBit f.pa else 0, 0⟩
  match (p.ccOf c line).find? (fun x => x.host == f.host && x.line == line) with
  | some x => enter (s.modPart q (fun p => let k := p.clu c; p.setClu c { k with cc := k.cc.filter (fun y => y != x) })) (x.filled f)
  | none =>
    if p.ccFull c line f.cls then
      match (p.ccOf c line).find? (fun x => x.cls == f.cls) with
      | some v => enter (s.ccOut q pay c v) new
      | none => s
    else if (p.ccOf c line).length + (p.ccTaken c line).length < 16 then enter s new
    else enter (out s (ccLeast (p.ccOf c line))) new

/-- A parked line takes its way in a cluster-cache set: ordinary lines leave until class quota and ways hold again (R190, R196). -/
def State.ccFit (s : State) (q : Nat) (pay : Payer) (c line cls : Nat) : Nat → State
  | 0 => s
  | fuel + 1 =>
    let p := s.part q
    let above := decide (p.csr.quota cls < ((p.ccOf c line).filter (fun x => x.cls == cls)).length + ((p.ccTaken c line).filter (fun d => d.cls == cls)).length)
    let own := if above then (p.ccOf c line).find? (fun x => x.cls == cls) else none
    match own with
    | some v => (s.ccOut q pay c v).ccFit q pay c line cls fuel
    | none =>
      if (p.ccOf c line).length + (p.ccTaken c line).length ≤ 16 then s
      else match ccLeast (p.ccOf c line) with
        | some v => (s.ccOut q pay c v).ccFit q pay c line cls fuel
        | none => s

/-- Whether a store to an address touches the grain that a tag records, and the sectors of the tag that then go (R191). -/
def CcLine.touched (x : CcLine) (host : Bool) (pa : Nat) : BitVec 4 :=
  if x.host != host then 0
  else match x.grain with
    | 0 => if x.line = pa / 128 then sectorBit pa else 0
    | 1 => if x.line = pa / 128 then 15 else 0
    | _ => if x.line / 4 = pa / 128 / 4 then 15 else 0

/-- A tag without some of its sectors; without any it is gone. -/
def CcLine.cut (x : CcLine) (mask : BitVec 4) : Option CcLine :=
  if x.valid &&& ~~~mask = 0 then none else some { x with valid := x.valid &&& ~~~mask, dirty := x.dirty &&& ~~~mask, bad := x.bad &&& ~~~mask }

/-- A store invalidates every other cached copy of the grain that it touches: of every cluster but the one that stores, or of every cluster (R191). -/
def State.grainDrop (s : State) (q : Nat) (pay : Payer) (c : Option Nat) (host : Bool) (pa : Nat) : State :=
  (s.part q).clusters.foldl (fun s k =>
    if c = some k.1 then s
    else
      let hit := k.2.cc.filter (fun x => x.touched host pa != 0)
      let s := hit.foldl (fun s x => s.writeBack q pay x (x.touched host pa)) s
      if hit.isEmpty then s
      else s.modPart q (fun p => let u := p.clu k.1
        p.setClu k.1 { u with cc := u.cc.filterMap (fun x => if x.touched host pa = 0 then some x else x.cut (x.touched host pa)) })) s

/-- `cwb` on a line: the cluster's dirty sectors of it go home, and its copies stay valid (R230). -/
def State.cwbLine (s : State) (q : Nat) (pay : Payer) (c : Nat) (host : Bool) (line : Nat) : State :=
  match ((s.part q).clu c).cc.find? (fun x => x.host == host && x.line == line) with
  | none => s
  | some x => (s.writeBack q pay x 15).modPart q (fun p => let k := p.clu c
      p.setClu c { k with cc := updIf (fun y => y == x) (fun y => { y with dirty := 0 }) k.cc })

/-- A line leaves a cluster's cache; nothing of it is to be written back. -/
def Part.ccDrop (p : Part) (c : Nat) (host : Bool) (line : Nat) : Part :=
  let k := p.clu c
  p.setClu c { k with cc := k.cc.filter (fun x => !(x.host == host && x.line == line)) }

/-! ### Unparking (R204) -/

/-- The tracking table that serialises a line: its home slice, or the cluster-cache slice while it is parked at a core or in a cluster (R303). -/
def State.tableOf (s : State) (q line : Nat) : Nat :=
  let slice := bits line 3 0 ^^^ bits line 7 4
  match (s.part q).dir.find? (fun d => d.line == line) with
  | some d =>
    if d.level == 0 then 128 + cluOf d.unit * 16 + slice
    else if d.level == 1 && d.replicas.isEmpty then 128 + d.unit * 16 + slice
    else s.homeOf q (line * 128)
  | none => s.homeOf q (line * 128)

/-- Add one to a counter that sticks at its largest value. -/
def stick (n : Nat) (x by_ : Nat) : Nat := min (x + by_) (2 ^ n - 1)

/-- Raise PKFALL (R198, R205). -/
def Part.pkfall (p : Part) : Part := { p with csr := { p.csr with pkfall := BitVec.ofNat 64 (stick 64 p.csr.pkfall.toNat 1) } }
/-- Raise LOCMISS (R202, R205). -/
def Part.locmiss (p : Part) (n : Nat) : Part := { p with csr := { p.csr with locmiss := BitVec.ofNat 64 (stick 64 p.csr.locmiss.toNat n) } }
/-- Raise RACEDROP.SECT or RDR (R303). -/
def Part.raceDrop (p : Part) (rdr : Bool) : Part :=
  let v := p.csr.racedrop.toNat
  let sect := if rdr then v % 2 ^ 32 else stick 32 (v % 2 ^ 32) 1
  let r := if rdr then stick 32 (v / 2 ^ 32) 1 else v / 2 ^ 32
  { p with csr := { p.csr with racedrop := BitVec.ofNat 64 (sect + r * 2 ^ 32) } }

/-- A full table of 8,192 records drops its least recently updated one (R303); `races` holds the least recently updated first. -/
def Part.raceRoom (p : Part) (table sector : Nat) : Part :=
  let here (x : RaceRec) : Bool := x.table == table && x.sector != sector
  if (p.races.filter here).length < 8192 then p
  else match p.races.find? here with
    | some v => ({ p with races := p.races.filter (fun x => x.sector != v.sector) }).raceDrop false
    | none => p

/-- Records of a line move to the table that now serialises it; a move is no update, so each keeps its place in the order (R303). -/
def Part.retable (p : Part) (line table : Nat) : Part :=
  (p.races.filter (fun r => r.sector / 4 == line && r.table != table)).foldl (fun p r =>
    let p := p.raceRoom table r.sector
    { p with races := updIf (fun x => x.sector == r.sector) (fun x => { x with table := table }) p.races }) p

/-- Unpark a line (R204): its bytes go home as an ordinary line and its directory entry is freed; an uncorrectable sector is logged only (R208), and the move is
owed (R88). -/
def State.unpark (s : State) (q : Nat) (pay : Payer) (line : Nat) : State :=
  match (s.part q).dir.find? (fun d => d.line == line) with
  | none => s
  | some d =>
    let s := s.modPart q (fun p => { p with dir := p.dir.filter (fun x => x.line != line) })
    let s := (s.wrDramL q (line * 128) d.data).logLine q line
    (s.owe q pay 128 128).modPart q (fun p => p.retable line (s.tableOf q line))

/-- A place in memory is written by the cluster `c`, or from outside: the cached copies of its grains go elsewhere (R191). -/
def State.dropCopies (s : State) (q : Nat) (pay : Payer) (c : Option Nat) (l : Loc) (n : Nat) : State :=
  match l with
  | .scratch .. => s
  | .dev pa => (sectorsOf pa n).foldl (fun s i => s.grainDrop q pay c false (i * 32)) s
  | .host pa => (sectorsOf pa n).foldl (fun s i => s.grainDrop q pay c true (i * 32)) s

/-! ### Writes that a path may still miss (R232, R237, R292) -/

/-- The paths of R232, by number. -/
def pathLS : Nat := 0
def pathCP : Nat := 1
def pathCL : Nat := 3

/-- The paths whose reads a write on a path is not ordered before without a fence (R237, R264). A store is ordered before the reads of collectives, because `coll` orders
scratchpad accesses before them (R344). -/
def lagsOn (by_ : Nat) : BitVec 4 := match by_ with | 0 => 2 | 1 => 9 | _ => 3

/-- Bytes are about to be written at a place on a path: reads on other paths may still see what stands there; older values are over for the path that writes. -/
def State.lagging (s : State) (q by_ : Nat) (cmd : Option (WRef × Nat)) (l : Loc) (bs : List Byte) : State :=
  let own (i : Nat) : Byte := match l.add i with
    | .scratch c o => Sparse.rd ((s.part q).core c).scratch o
    | .dev pa => s.rdHome q pa
    | .host pa => s.rdHost pa
  let new := (List.range bs.length).filterMap (fun i => if own i = bs.getD i 0 then none else some (⟨l.add i, own i, by_, cmd, lagsOn by_⟩ : Lag))
  let hit (x : Lag) : Bool := (List.range bs.length).any (fun i => x.loc == l.add i)
  s.modPart q (fun p =>
    let old := if p.lag.isEmpty then [] else p.lag.map (fun x => if hit x then { x with free := x.free &&& ~~~(BitVec.ofNat 4 (2 ^ by_)) } else x)
    { p with lag := old.filter (fun x => x.free != 0) ++ new })

/-- The command that an entry names has not completed. -/
def Part.underWay (p : Part) (x : Lag) : Bool :=
  match x.cmd with
  | some c => p.clusters.any (fun k => k.2.active.any (fun y => y.w == c.1 && y.tag == c.2))
  | none => false

/-- A fence from paths `f` to paths `t` (R237, R292): the writes on the from-paths are over for the to-paths, but for those of a command under way. It counts for every
warp of the partition (log 54). -/
def Part.orderPaths (p : Part) (f t : BitVec 4) : Part :=
  if p.lag.isEmpty then p
  else { p with lag := (p.lag.map (fun x => if f.getLsbD x.by_ && !p.underWay x then { x with free := x.free &&& ~~~t } else x)).filter (fun x => x.free != 0) }

/-- A byte of a place as a read on a path sees it: the last value, or one that a write not ordered before the read has replaced, which the spec leaves open (R237,
R295; log 54). -/
def State.seenOn (s : State) (q path : Nat) (l : Loc) (b : Byte) : Byte :=
  match (s.part q).lag.filter (fun x => x.loc == l && x.free.getLsbD path) with
  | [] => b
  | old => (b :: old.map (fun x => x.old)).getD (Config.seen s.tick l.addr % (old.length + 1)) b

/-- Bytes of a place as reads on a path see them. -/
def State.seenL (s : State) (q path : Nat) (l : Loc) (bs : List Byte) : List Byte :=
  if (s.part q).lag.isEmpty then bs else (List.range bs.length).map (fun i => s.seenOn q path (l.add i) (bs.getD i 0))

/-- Loads that have seen another value of a byte than an old one see the old one no more (COH, R295). -/
def Part.lagRead (p : Part) (ps : List Piece) : Part :=
  if p.lag.isEmpty then p
  else
    let passed (x : Lag) : Bool := ps.any (fun y => (List.range y.bytes.length).any (fun i => x.loc == y.loc.add i && y.bytes.getD i 0 != x.old))
    { p with lag := (p.lag.map (fun x => if passed x then { x with free := x.free &&& ~~~1 } else x)).filter (fun x => x.free != 0) }

/-- Bytes of a core's scratchpad that a new allocation takes: nothing that stood there before is seen again (R84). -/
def Part.lagScratch (p : Part) (g off len : Nat) : Part :=
  { p with lag := p.lag.filter (fun x => match x.loc with | .scratch c o => !(c == g && decide (off ≤ o ∧ o < off + len)) | _ => true) }

/-! ### Stores -/

/-- Bytes written by a plain store: a parked line is unparked first, and copies of the grain elsewhere go (R191, R204). -/
def State.store (s : State) (q g : Nat) (pay : Payer) (l : Loc) (bs : List Byte) : State :=
  let s := match l with
    | .dev pa => (linesOf pa bs.length).foldl (fun (s : State) n => s.unpark q pay n) s
    | _ => s
  ((s.lagging q pathLS none l bs).wrLocL q g l bs).dropCopies q pay (some (cluOf g)) l bs.length

/-- Sectors that a set of written places covers whole lose their uncorrectable code (R208): at home, and in the copies of the core `g` and the cluster `c` that
write. -/
def State.clearUe (s : State) (q : Nat) (g c : Option Nat) (ls : List Loc) : State :=
  if !s.anyBad q then s
  else
    (wholeSectors ls).foldl (fun s b =>
      let s : State := { s with ue := s.ue.filter (fun u => s.ueKey q b != some u) }
      let host := match b with | .host _ => true | _ => false
      let isMem := match b with | .scratch .. => false | _ => true
      let l1 (k : Core) : Core := { k with l1 := updIf (fun x => x.host == host && x.sector == b.addr / 32) (fun x => { x with bad := false }) k.l1 }
      let cc (k : Cluster) : Cluster := { k with cc := updIf (fun x => x.host == host && x.line == b.addr / 128) (fun x => { x with bad := x.bad &&& ~~~sectorBit b.addr }) k.cc }
      if !isMem then s
      else s.modPart q (fun p =>
        let p := match g with | some g => p.setCore g (l1 (p.core g)) | none => p
        match c with | some c => p.setClu c (cc (p.clu c)) | none => p)) s

/-- The codes of a line's sectors stand at home, whichever cluster's dirty copy held them, before the line is placed (R208). -/
def State.gatherUe (s : State) (q line : Nat) : State :=
  if !s.anyBad q then s
  else
    let bad := (List.range 4).foldl (fun (m : BitVec 4) i => if s.isUe q (line * 128 + 32 * i) then m ||| BitVec.ofNat 4 (2 ^ i) else m) 0
    (s.markHome q line 15 bad).modPart q (fun p => { p with
      clusters := p.clusters.map (fun k => (k.1, { k.2 with cc := updIf (fun x => !x.host && x.line == line) (fun x => { x with bad := 0 }) k.2.cc })) })

end Sys2Proof.Machine
end

