-- ==== Sys2Proof/Machine/Park.lean ====
section
/-! DEFINITION. Reader-directed stores: descriptors, park levels, room, placement, re-placement and moves (R192-R205). -/

namespace Sys2Proof.Machine

/-! ### Descriptors (R193, R194) -/

def RDesc.kind (d : RDesc) : Nat := bits d.lo.toNat 3 0
def RDesc.clu (d : RDesc) : Nat := bits d.lo.toNat 8 4
def RDesc.floor (d : RDesc) : Nat := bits d.lo.toNat 15 12
def RDesc.cores (d : RDesc) : Nat := bits d.lo.toNat 63 16
def RDesc.clusters (d : RDesc) : Nat := bits d.hi.toNat 23 0
def RDesc.gen (d : RDesc) : Nat := bits d.hi.toNat 47 32

/-- A descriptor with its generation replaced. -/
def RDesc.withGen (d : RDesc) (g : Nat) : RDesc := { d with hi := BitVec.ofNat 64 (d.hi.toNat % 2 ^ 32 + g % 2 ^ 16 * 2 ^ 32) }

/-- The check of R194, for a partition of `nclu` clusters. -/
def RDesc.ok (d : RDesc) (nclu : Nat) : Bool :=
  decide (d.kind ≤ 4) && decide (d.floor ≤ 2) && bits d.lo.toNat 11 9 == 0 && bits d.hi.toNat 31 24 == 0 && bits d.hi.toNat 63 48 == 0 &&
  (match d.kind with
   | 1 => decide (d.clu < nclu) && d.cores != 0
   | 2 => d.clusters != 0 && d.clusters / 2 ^ nclu == 0
   | 3 => d.cores == 0 && d.clusters == 0
   | 4 => d.cores == 0 && d.clusters == 0
   | _ => true)

def Part.rdesc (p : Part) (rsid : Nat) : RDesc := AMap.rd RDesc.reset p.rset rsid
def Part.setRdesc (p : Part) (rsid : Nat) (d : RDesc) : Part := { p with rset := AMap.wr p.rset rsid d }

/-- RSBASE.EN (R192). -/
def PCsr.rsEn (c : PCsr) : Bool := c.rsbase.getLsbD 0

/-- Core `g` is a current reader of a descriptor; `readers` are the cores recorded for KIND 4 (R194). -/
def RDesc.reader (d : RDesc) (readers : List Nat) (g : Nat) : Bool :=
  match d.kind with
  | 1 => cluOf g == d.clu && bitN d.cores (g % 48)
  | 2 => bitN d.clusters (cluOf g)
  | 3 => true
  | 4 => readers.contains g
  | _ => false

/-! ### Levels and room (R195, R198) -/

/-- The level of R195 and the core or cluster there: 0 L1 park area, 1 cluster cache, 2 home. -/
def RDesc.level (d : RDesc) (clu : Nat) : Nat × Nat :=
  if d.floor = 2 ∨ d.kind = 3 then (2, 0)
  else if d.kind = 1 then
    if d.floor = 0 ∧ popNat 48 d.cores = 1 then (0, d.clu * 48 + (lowBit 48 0 d.cores).getD 0) else (1, d.clu)
  else (1, clu)

/-- KIND 2 with replicas asked for: clusters named, authority at home (R195). -/
def RDesc.replicated (d : RDesc) : Bool := d.kind == 2 && d.floor != 2

/-- A line has its copy or its authority at home. -/
def Parked.atHome (d : Parked) : Bool := d.level == 2 || !d.replicas.isEmpty

/-- Room at a level, not counting the line itself (R198, R199). -/
def State.parkRoom (s : State) (q line level unit : Nat) : Bool :=
  let p := s.part q
  match level with
  | 0 => decide (((p.parkedIn unit).filter (fun d => d.line != line)).length * 128 + 128 ≤ min 65536 ((p.core unit).ways * 16384 / 2))
  | 1 => decide (((p.ccParked unit).filter (fun d => d.line != line)).length < bits p.csr.pkquota.toNat 15 0)
  | 2 =>
    let st := s.stackOf q (line * 128)
    decide ((p.dir.filter (fun d => d.line != line && d.atHome && s.stackOf q (d.line * 128) == st)).length < bits p.csr.pkquota.toNat 33 16)
  | _ => true

/-- The line's home slice has no free directory entry for it (R197). -/
def State.dirFull (s : State) (q line : Nat) : Bool :=
  let h := s.homeOf q (line * 128)
  decide (24576 ≤ ((s.part q).dir.filter (fun d => d.line != line && s.homeOf q (d.line * 128) == h)).length)

/-- The level where a line finds room, from a level outward (R198). -/
def State.parkChain (s : State) (q line : Nat) : Nat → Nat → Nat → Nat × Nat
  | 0, _, _ => (3, 0)
  | fuel + 1, level, unit =>
    if s.parkRoom q line level unit then (level, unit)
    else s.parkChain q line fuel (level + 1) (if level = 0 then cluOf unit else 0)

/-! ### Moves (R200) -/

/-- The oldest of a list of parked lines by placement time. -/
def oldest : List Parked → Option Parked
  | [] => none
  | d :: l => match oldest l with
    | none => some d
    | some e => some (if d.time ≤ e.time then d else e)

/-- No core's L1 holds a copy of a parked line and, at home, no cluster cache does (R196). -/
def Part.forget (p : Part) (line : Nat) (cc : Bool) : Part :=
  { p with
    cores := p.cores.map (fun x => (x.1, x.2.l1DropLine false line))
    clusters := if cc then p.clusters.map (fun x => (x.1, { x.2 with cc := x.2.cc.filter (fun k => !(!k.host && k.line == line)) })) else p.clusters }

/-- A parked line moves on to home, or becomes ordinary, when it must leave its level (R200); an uncorrectable sector is logged only (R208). -/
def State.moveOut (s : State) (q : Nat) (pay : Payer) (d : Parked) : State :=
  let s := s.modPart q Part.pkfall
  if s.parkRoom q d.line 2 0 then
    let s := s.modPart q (fun p => { p with dir := updIf (fun x => x.line == d.line) (fun x => { x with level := 2, unit := 0, fell := true }) p.dir })
    let s := (s.logLine q d.line).owe q pay 128 128
    s.modPart q (fun p => p.retable d.line (s.tableOf q d.line))
  else s.unpark q pay d.line

/-- A ninth parked line in a cluster-cache set: the oldest of the set moves on; of a replicated line, its replica there is dropped (R200, R198). A line that has moved in from
a shrunk L1 park area keeps its time, and may itself be the oldest and move on at once, which R200 leaves open (DESIGN CHOICE, log 63). -/
def State.ccOverflow (s : State) (q : Nat) (pay : Payer) (c line : Nat) : State :=
  let set := (s.part q).ccTaken c line
  if set.length ≤ 8 then s
  else
    match oldest set with
    | none => s
    | some d =>
      if d.replicas.contains c then
        let reps := d.replicas.filter (fun x => x != c)
        let f (x : Parked) : Parked := { x with replicas := reps, fell := true, level := if reps.isEmpty then 2 else 1, unit := reps.headD 0 }
        (s.modPart q Part.pkfall).modPart q (fun p => { p with dir := updIf (fun x => x.line == d.line) f p.dir })
      else s.moveOut q pay d

/-! ### Placement (R196-R198) -/

/-- A parked line takes its way in a cluster's cache: a ninth line moves the oldest on, and ordinary lines make room (R190, R200). -/
def State.ccAdmit (s : State) (q : Nat) (pay : Payer) (d : Parked) (c : Nat) : State := (s.ccOverflow q pay c d.line).ccFit q pay c d.line d.cls 16

/-- The four sets of a core's L1 that a line's sectors lie in. -/
def setsOf (line : Nat) : List Nat := (List.range 4).map (fun i => (4 * line + i) % 512)

/-- The line stands at a level, with its bytes: nearer copies go, the directory records it, and ordinary sectors and lines make room there (R188, R190,
R196-R198); an uncorrectable sector is logged only (R208). -/
def State.parkAt (s : State) (q : Nat) (pay : Payer) (d : Parked) : State :=
  let s := s.modPart q (fun p =>
    let p := p.forget d.line true
    { p with dir := p.dir.filter (fun x => x.line != d.line) ++ [{ d with time := p.placeSeq }], placeSeq := p.placeSeq + 1 })
  let s := s.modPart q (fun p => p.retable d.line (s.tableOf q d.line))
  let s := (s.logLine q d.line).owe q pay 128 128
  if !d.replicas.isEmpty then d.replicas.foldl (fun s c => s.ccAdmit q pay d c) s
  else if d.level = 1 then s.ccAdmit q pay d d.unit
  else if d.level = 0 then s.modPart q (fun p => (setsOf d.line).foldl (fun p i => p.l1Fit d.unit i 0 (s.clkc q)) p)
  else s

/-- Bytes enter an ordinary line at home, from a core: its own L1 copies take them, and the copies in cluster caches go (R188, R191). -/
def State.storeHome (s : State) (q g : Nat) (pay : Payer) (line : Nat) (data : List Byte) : State :=
  (s.wrLocL q g (.dev (line * 128)) data).dropCopies q pay none (.dev (line * 128)) 128

/-- Place a line under a descriptor (R195, R198): `b` gives the line, its RSID, the recorded cores of KIND 4, its class and its bytes, `g` is the core that
stores it. A line that falls back into a cluster-cache set with 8 parked lines counts in PKFALL for its own fall, besides the line that moves out for it, which R198
leaves open (DESIGN CHOICE, log 63). -/
def State.place (s : State) (q : Nat) (pay : Payer) (g : Nat) (b : Parked) (d : RDesc) : State :=
  let b := { b with gen := d.gen, level := 2, unit := 0, replicas := [], fell := false }
  let s := s.modPart q (fun p => { p with dir := updIf (fun x => x.line == b.line) (fun x => { x with data := b.data }) p.dir })
  let ordinary (s : State) : State :=
    let s := s.modPart q Part.pkfall
    match (s.part q).dir.find? (fun x => x.line == b.line) with
    | some _ => s.unpark q pay b.line
    | none => s.storeHome q g pay b.line b.data
  if s.dirFull q b.line then ordinary s
  else if d.replicated then
    let want := (List.range 24).filter (fun c => bitN d.clusters c)
    if !s.parkRoom q b.line 2 0 then ordinary s
    else
      let reps := want.filter (fun c => s.parkRoom q b.line 1 c)
      let fell := decide (reps.length < want.length)
      let s := if fell then s.modPart q Part.pkfall else s
      s.parkAt q pay { b with level := if reps.isEmpty then 2 else 1, unit := reps.headD 0, replicas := reps, fell := fell }
  else
    let want := d.level (cluOf (b.readers.headD g))
    let got := s.parkChain q b.line 3 want.1 want.2
    if got.1 = 3 then ordinary s
    else
      let fell := decide (want.1 < got.1)
      let s := if fell then s.modPart q Part.pkfall else s
      s.parkAt q pay { b with level := got.1, unit := got.2, fell := fell }

/-- The bytes of a line as they stand. -/
def State.lineBytes (s : State) (q line : Nat) : List Byte := s.rdHomeL q (line * 128) 128

/-- Merge bytes by offset into a line's bytes. -/
def mergeBytes (l : List Byte) (bs : List (Nat × Byte)) : List Byte := bs.foldl (fun l x => setAt l x.1 x.2) l

/-- The cores with a block of a gang: the readers of KIND 4 when the line is placed (R194). -/
def Part.gangCores (p : Part) (gang : Nat) : List Nat := ((p.blocks.filter (fun b => b.gang == gang)).map (fun b => b.core)).dedup

/-- A parked store is performed at its home slice (R196, R197): the rest of the line is fetched, the bytes merge, and the line is placed under the descriptor
of the run's last `stp` to it. -/
def State.performPlacement (s : State) (q : Nat) (x : Placement) : State :=
  let data := mergeBytes (s.lineBytes q x.line) x.bytes
  let s := (s.gatherUe q x.line).clearUe q (some x.core) (some (cluOf x.core)) (x.bytes.map (fun b => .dev (x.line * 128 + b.1)))
  let s := s.lagging q pathLS none (.dev (x.line * 128)) data
  s.place q (x.core, x.rcls) x.core ⟨x.line, x.rsid, 0, 2, 0, [], (s.part q).gangCores x.gang, false, 0, x.cls, data⟩ x.desc

/-- Perform the oldest parked store on its way (R197). -/
def State.drainOne (s : State) (q : Nat) : State :=
  match (s.part q).placeQ with
  | [] => s
  | x :: l => (s.modPart q (fun p => { p with placeQ := l })).performPlacement q x

/-- Every parked store on its way is performed (R197). -/
def State.drainAll (s : State) (q : Nat) : State := (List.range (s.part q).placeQ.length).foldl (fun s _ => s.drainOne q) s

/-- The parked stores on their way to one line are performed. -/
def State.drainLine (s : State) (q line : Nat) : State :=
  let mine := (s.part q).placeQ.filter (fun x => x.line == line)
  mine.foldl (fun s x => s.performPlacement q x) (s.modPart q (fun p => { p with placeQ := p.placeQ.filter (fun x => x.line != line) }))

/-! ### Stale lines and judgements (R201, R202) -/

/-- A stale line is placed anew under its entry's current descriptor, or unparked under KIND 0 (R201). -/
def State.restale (s : State) (q : Nat) (pay : Payer) (line : Nat) : State :=
  match (s.part q).dir.find? (fun d => d.line == line) with
  | none => s
  | some d =>
    let e := (s.part q).rdesc d.rsid
    if d.gen = e.gen then s
    else if e.kind = 0 then s.unpark q pay line
    else s.place q pay pay.1 d e

/-- How an access by core `g` to a parked line on a page with PARK `park` is judged (R201, R202). -/
inductive Judge where
  | serve
  | locmiss
  | locate
  deriving DecidableEq, Repr

def Part.judge (p : Part) (d : Parked) (g park : Nat) : Judge :=
  let e := p.rdesc d.rsid
  if e.reader d.readers g then .serve
  else if e.kind = 0 ∧ d.gen ≠ e.gen then .serve
  else if park = 2 then .locate
  else .locmiss

/-- TINFO's bits [63:34] on LOCATE (R203). -/
def Part.locateInfo (p : Part) (d : Parked) : W64 :=
  BitVec.ofNat 64 (d.level + d.rsid * 4 + (p.rdesc d.rsid).gen * 2 ^ 14)

/-- Unpark every line under an RSID (R223). -/
def State.unparkAll (s : State) (q : Nat) (pay : Payer) (rsid : Nat) : State :=
  ((s.part q).dir.filter (fun d => d.rsid == rsid)).foldl (fun s d => s.unpark q pay d.line) s

/-- Re-place every line under an RSID under its entry as it stands, before its GEN wraps (R201). -/
def State.sweep (s : State) (q : Nat) (pay : Payer) (rsid : Nat) : State :=
  ((s.part q).dir.filter (fun d => d.rsid == rsid)).foldl (fun s d =>
    let e := (s.part q).rdesc rsid
    match (s.part q).dir.find? (fun x => x.line == d.line) with
    | none => s
    | some d => if e.kind = 0 then s.unpark q pay d.line else s.place q pay pay.1 d e) s

/-- The entry after a revision (R223, R224): `init` sets GEN to 0, otherwise GEN rises by 1 modulo 2^16. -/
def RDesc.revised (d : RDesc) (op : RsOp) (b0 b1 : W64) : RDesc :=
  match op with
  | .define =>
    let new : RDesc := ⟨b0, BitVec.ofNat 64 (b1.toNat % 2 ^ 32)⟩
    new.withGen (if b1.getLsbD 48 then 0 else d.gen + 1)
  | .add =>
    let d' := if d.kind = 1 then { d with lo := d.lo ||| BitVec.ofNat 64 (b0.toNat % 2 ^ 48 * 2 ^ 16) } else { d with hi := d.hi ||| BitVec.ofNat 64 (b0.toNat % 2 ^ 24) }
    d'.withGen (d.gen + 1)
  | .del =>
    let d' := if d.kind = 1 then { d with lo := d.lo &&& ~~~(BitVec.ofNat 64 (b0.toNat % 2 ^ 48 * 2 ^ 16)) } else { d with hi := d.hi &&& ~~~(BitVec.ofNat 64 (b0.toNat % 2 ^ 24)) }
    d'.withGen (d.gen + 1)
  | .query => d

/-- The physical address of an entry in the Reader Set Table (R192). -/
def PCsr.rsAddr (c : PCsr) (rsid : Nat) : Nat := bits c.rsbase.toNat 51 14 * 2 ^ 14 + 16 * rsid

/-- An entry changes: the device's copies, and its 16 bytes in partition memory (R192, R193). -/
def State.setEntry (s : State) (q rsid : Nat) (d : RDesc) : State :=
  let a := (s.part q).csr.rsAddr rsid
  let s := s.modPart q (fun p => p.setRdesc rsid d)
  if s.paOk q (a + 15) then s.wrDramL q a (leBytes 8 d.lo.toNat ++ leBytes 8 d.hi.toNat) else s

/-- A revision at its commit (R222-R224): an INIT unparking or a GEN wrap sweep first, then the new entry. -/
def State.revise (s : State) (q : Nat) (pay : Payer) (rsid : Nat) (op : RsOp) (b0 b1 : W64) : State :=
  let old := (s.part q).rdesc rsid
  let init := decide (op = .define) && b1.getLsbD 48
  let wrap := decide (op ≠ .query) && old.gen == 0xFFFF
  let s := if init then (s.drainAll q).unparkAll q pay rsid else if wrap then (s.drainAll q).sweep q pay rsid else s
  s.setEntry q rsid (old.revised op b0 b1)

/-- The checks of a revision (R222-R224). -/
def RDesc.reviseOk (d : RDesc) (op : RsOp) (b0 b1 : W64) (nclu : Nat) : Bool :=
  match op with
  | .define => RDesc.ok ⟨b0, BitVec.ofNat 64 (b1.toNat % 2 ^ 32 + bits b1.toNat 63 49 * 2 ^ 49)⟩ nclu
  | .query => true
  | _ =>
    let n := d.revised op b0 b1
    (d.kind == 1 && b0.toNat / 2 ^ 48 == 0 && n.cores != 0) ||
    (d.kind == 2 && b0.toNat / 2 ^ 24 == 0 && b0.toNat / 2 ^ nclu == 0 && n.clusters != 0)

/-- The line report of `rsqry` (R225). -/
def State.lineReport (s : State) (q pa : Nat) : W64 :=
  let home := s.homeOf q pa
  match (s.part q).parked pa with
  | none => BitVec.ofNat 64 (3 + home * 2 ^ 48)
  | some d =>
    let stale := d.gen != ((s.part q).rdesc d.rsid).gen
    let core := if d.level = 0 then d.unit % 48 else 0
    let clu := if d.level = 0 then cluOf d.unit else if d.level = 1 then d.unit else 0
    BitVec.ofNat 64 (d.level + b2n d.fell * 4 + b2n stale * 8 + d.rsid * 16 + d.gen * 2 ^ 16 + core * 2 ^ 32 + clu * 2 ^ 40 + home * 2 ^ 48)

end Sys2Proof.Machine
end

