-- ==== Sys2Proof/Machine/Grids.lean ====
section
/-! DEFINITION. Event counters, the item supply, triggers and completion of grids, barriers' phases (R78-R80, R85, R97, R255). -/

namespace Sys2Proof.Machine

/-! ### Uniform registers (R49) -/

/-- Write a uniform destination: s0-s23, or z, which discards (R49, R50). -/
def Warp.setS (x : Warp) (d : Reg) (v : W64) : Warp :=
  if 96 ≤ d.toNat ∧ d.toNat < 120 then { x with s := Sparse.wr x.s (d.toNat - 96) v } else x

/-- A uniform register, or 0 for z. -/
def Warp.getS (x : Warp) (r : Reg) : W64 := if 96 ≤ r.toNat ∧ r.toNat < 120 then Sparse.rd x.s (r.toNat - 96) else 0

/-! ### Event counters (R78-R80, R91) -/

/-- Dependences that hold at the counters as they stand keep holding (R80). -/
def Part.evalDeps (p : Part) : Part :=
  { p with grids := p.grids.map (fun g =>
    { g with held := (g.l.deps.zip g.held).map (fun d => d.2 || decide (d.1.2 ≤ (Sparse.rd p.events d.1.1).toNat)) }) }

/-- The wait of a warp in `lwait` ends if its counter has reached its target: the counter's value goes to D (R91), and the end is a system-scope acquire (R290). -/
def Part.endLwait (p : Part) (w : WRef) (x : Warp) : Part :=
  match x.wait with
  | .lwait d e v =>
    let c := Sparse.rd p.events e
    if x.stopped.isNone ∧ v.toNat ≤ c.toNat then (p.acquirePoint w.core .sys).setWarp w { x.setS d c with wait := .none } else p
  | _ => p

/-- Every wait in `lwait` is looked at again. -/
def Part.wakeLwait (p : Part) : Part := p.warps.foldl (fun p kx => p.endLwait (keyRef kx.1) kx.2) p

/-- Set an event counter and act on the change (R80). -/
def Part.setEvent (p : Part) (e : Nat) (v : W64) : Part :=
  (({ p with events := Sparse.wr p.events e v } : Part).evalDeps).wakeLwait

/-- A grid adds 1 to an event counter, which never wraps (R78): a release on every path towards the loads of those that it lets go on (R290). -/
def Part.bumpEvent (p : Part) (e : Nat) : Part := (p.orderPaths 15 1).setEvent e (BitVec.ofNat 64 (stick 64 (Sparse.rd p.events e).toNat 1))

/-! ### The item supply (R85) -/

/-- The range of a cluster; a cluster without one has an empty range. -/
def Grid.range (g : Grid) (c : Nat) : Range := (g.ranges.find? (fun r => r.clu == c)).getD ⟨c, 0, 0⟩
def Range.size (r : Range) : Nat := r.hi - r.lo

/-- Replace the range of its cluster. -/
def Grid.setRange (g : Grid) (r : Range) : Grid :=
  { g with ranges := if g.ranges.any (fun x => x.clu == r.clu) then updIf (fun x => x.clu == r.clu) (fun _ => r) g.ranges else g.ranges ++ [r] }

/-- The supply is exhausted (R85). -/
def Grid.exhausted (g : Grid) : Bool := !g.pooled && g.ranges.all (fun r => r.size == 0)

/-- The largest range, of the lowest cluster on a tie (R85). -/
def largest : List Range → Option Range
  | [] => none
  | r :: l => match largest l with
    | none => some r
    | some m => some (if m.size < r.size ∨ (m.size = r.size ∧ r.clu < m.clu) then r else m)

/-- The range that a donation to a cluster would come from: the largest of the others, of at least 2 items (R85). -/
def Grid.donor (g : Grid) (c : Nat) : Option Range :=
  if g.l.nosteal then none
  else match largest (g.ranges.filter (fun r => r.clu != c)) with
    | some r => if 2 ≤ r.size then some r else none
    | none => none

/-- A donation to a cluster whose range is empty: the upper half of the donor's range (R85). -/
def Grid.donate (g : Grid) (c : Nat) : Grid :=
  if (g.range c).size ≠ 0 then g
  else match g.donor c with
    | none => g
    | some r =>
      let half := r.size / 2
      (g.setRange { r with hi := r.hi - half }).setRange ⟨c, r.hi - half, r.hi⟩

/-- A lane draws the lowest item of its cluster's range, after a donation if the range is empty (R85). -/
def Grid.draw (g : Grid) (c : Nat) : Option Nat × Grid :=
  let g := g.donate c
  let r := g.range c
  if r.lo < r.hi then (some r.lo, g.setRange { r with lo := r.lo + 1 }) else (none, g)

/-- The initial split of ITEMS items among the clusters that received blocks, in ascending order (R85). -/
def splitItems (items : Nat) (clus : List Nat) : List Range :=
  let m := clus.length
  (List.range m).map (fun i => ⟨clus.getD i 0, i * items / m, (i + 1) * items / m⟩)

/-! ### Triggers (R79, R92) -/

/-- Blocks of a grid that are resident. -/
def Part.gridBlocks (p : Part) (seq : Nat) : List Block := p.blocks.filter (fun b => b.grid == seq)

/-- Every block placed for a grid has triggered: its warps that remain have the mark (R79). -/
def Part.allTriggered (p : Part) (seq : Nat) : Bool :=
  (p.gridBlocks seq).all (fun b => (p.warpsOf b.id).all (fun x => x.2.triggered)) && p.away.all (fun a => a.grid != seq || a.triggered)

/-- An engine command that a `trig` of its warp covers has not completed (R290). -/
def Part.coveredWork (p : Part) (seq : Nat) : Bool :=
  let ids := (p.gridBlocks seq).map (fun b => b.id)
  let cov (c : CopyCmd) : Bool := c.cov && ids.contains c.block
  p.cores.any (fun x => x.2.copyQ.any cov) || p.clusters.any (fun x => x.2.active.any cov) ||
    p.warps.any (fun x => ids.contains x.2.block && x.2.mmas.any (fun m => m.cov)) ||
    p.handles.any (fun h => h.2.flight.any (fun i => i.cov && ids.contains i.block))

/-- `trig` covers every engine command that its warp has under way (R290). -/
def Part.coverAll (p : Part) (w : WRef) : Part :=
  let f (c : CopyCmd) : CopyCmd := if c.w == w then { c with cov := true } else c
  let p : Part := { p with
    cores := p.cores.map (fun x => (x.1, { x.2 with copyQ := x.2.copyQ.map f }))
    clusters := p.clusters.map (fun x => (x.1, { x.2 with active := x.2.active.map f }))
    handles := p.handles.map (fun h => (h.1, { h.2 with flight := h.2.flight.map (fun i => if i.w == w then { i with cov := true } else i) })) }
  p.modWarp w (fun x => { x with mmas := x.mmas.map (fun m => { m with cov := true }) })

/-- The grid triggers, once, when its supply is exhausted and its blocks have triggered: TEV rises (R79). -/
def Part.checkTrigger (p : Part) (seq : Nat) : Part :=
  match p.grid? seq with
  | none => p
  | some g =>
    if g.started && !g.triggered && g.exhausted && p.allTriggered seq && !p.coveredWork seq then
      let p := p.modGrid seq (fun g => { g with triggered := true })
      match g.l.tev with
      | some e => p.bumpEvent e
      | none => p
    else p

/-- Every grid is looked at again. -/
def Part.checkTriggers (p : Part) : Part := p.grids.foldl (fun p g => p.checkTrigger g.seq) p

/-! ### Barriers (R255) -/

/-- An arrival with count `c` (R255). -/
def Bar.arrive (b : Bar) (c : Nat) : Bar := { b with n := if b.a = 0 then c else b.n, a := b.a + 1 }

/-- The phase is complete (R255). -/
def Bar.complete (b : Bar) : Bool := decide (1 ≤ b.a ∧ b.n ≤ b.a + b.r)

/-- Arrivals that a warp has made in barrier `id`'s current phase. -/
def Warp.arrivals (x : Warp) (id : Nat) : Nat := ((x.arr.filter (fun a => a.1 == id)).map (fun a => a.2)).foldl (· + ·) 0

/-- Note one more arrival of a warp. -/
def Warp.arrive (x : Warp) (id : Nat) : Warp :=
  { x with arr := x.arr.filter (fun a => a.1 != id) ++ [(id, x.arrivals id + 1)] }

/-- The warp's arrivals at barrier `id` are over; if it waits there it becomes ready. -/
def Warp.released (x : Warp) (id : Nat) (gang : Bool) : Warp :=
  let w := match x.wait with
    | .nbar i _ => if !gang ∧ i = id then Wait.none else x.wait
    | .gbar _ => if gang then Wait.none else x.wait
    | w => w
  { x with arr := x.arr.filter (fun a => a.1 != id), wait := w }

/-- Complete the phase of named barrier `id` of a block if it is due: a := 0 and every waiter becomes ready (R255). -/
def Part.testBar (p : Part) (blk id : Nat) : Part :=
  match p.block? blk with
  | none => p
  | some b =>
    match b.bars[id]? with
    | none => p
    | some r =>
      if r.complete then
        let p := p.modBlock blk (fun b => { b with bars := setAt b.bars id { r with a := 0 } })
        { p with warps := p.warps.map (fun x => if x.2.block == blk then (x.1, x.2.released id false) else x) }
      else p

/-- The same for the gang barrier (R257), whose arrivals warps note under 16; the completion is a gang-scope acquire of the warps that wait (R258). -/
def Part.testGangBar (p : Part) (g : Nat) : Part :=
  match p.gang? g with
  | none => p
  | some x =>
    if x.bar.complete then
      let p := p.modGang g (fun x => { x with bar := { x.bar with a := 0 } })
      (p.warpsOfGang g).foldl (fun p y =>
        let p := match y.2.wait with | .gbar _ => p.acquirePoint y.1.core .gng | _ => p
        p.setWarp y.1 (y.2.released 16 true)) p
    else p

/-- A warp's retirement at its barriers: its arrivals are removed, r rises, and the tests are made (R255, R97). -/
def Part.retireAtBars (p : Part) (x : Warp) (blk : Block) : Part :=
  let p := p.modBlock blk.id (fun b => { b with
    bars := (List.range b.bars.length).map (fun i => let r := b.bars.getD i ⟨0, 0, 0⟩; { r with a := r.a - x.arrivals i, r := r.r + 1 }) })
  let p := p.modGang blk.gang (fun g => { g with bar := { g.bar with a := g.bar.a - x.arrivals 16, r := g.bar.r + 1 } })
  ((List.range 16).foldl (fun p i => p.testBar blk.id i) p).testGangBar blk.gang

/-- Sixteen barriers of a fresh block. -/
def freshBars : List Bar := List.replicate 16 ⟨0, 0, 0⟩

/-- BINH of a warp by R259: the highest effective priority among warps of its block that wait in `nbwait` on a barrier where it has not arrived, of its gang
that wait in `gbwait` where it has not arrived, and of its block that wait at a `coll` where it has not arrived (R343). -/
def Part.barInherit (p : Part) (w : WRef) (x : Warp) : Nat :=
  match p.block? x.block with
  | none => 0
  | some b =>
    let mates := p.warpsOfGang b.gang
    mates.foldl (fun m y =>
      if y.1 == w || y.2.stopped.isSome then m
      else
        let raises := match y.2.wait with
          | .nbar i _ => y.2.block == x.block && x.arrivals i == 0
          | .gbar _ => x.arrivals 16 == 0
          | .coll .. => y.2.block == x.block && (match x.wait with | .coll .. => false | _ => true)
          | _ => false
        if raises then max m y.2.eff else m) 0

end Sys2Proof.Machine
end

