-- ==== Sys2Proof/Machine/Locks.lean ====
section
/-! DEFINITION. Line locks: entries, order, hand-off, inheritance, broken locks and the deadlock probe (R265-R276). -/

namespace Sys2Proof.Machine

/-! ### Entries (R265) -/

/-- A line that nobody holds, waits for or broke. -/
def freeLock (line : Nat) : Lock := ⟨line, none, false, [], false, none⟩

def Part.lock (p : Part) (line : Nat) : Lock := (p.locks.find? (fun l => l.line == line)).getD (freeLock line)

/-- Replace a line's lock state; a free line without mark or waiters has no entry. -/
def Part.setLock (p : Part) (l : Lock) : Part :=
  let others := p.locks.filter (fun x => x.line != l.line)
  { p with locks := if l = freeLock l.line then others else others ++ [l] }

/-- A held line, or one whose release or grant is still on its way. -/
def Lock.isFree (l : Lock) : Bool := l.holder.isNone && !l.rel && l.grant.isNone

/-- The warp of an identity is present: in a context and not stopped for a swap (R269). -/
def Part.present (p : Part) (uid : Nat) : Bool :=
  match p.byUid uid with
  | some x => x.2.stopped.isNone
  | none => false

/-- The highest priority that a warp inherits through the locks it holds from present waiters, along up to `k` hops (R270). -/
def Part.lockInherit (p : Part) : Nat → Nat → Nat
  | 0, _ => 0
  | k + 1, uid =>
    (p.locks.filter (fun l => l.holder == some uid)).foldl (fun m l =>
      (l.waiters.filter (fun w => p.present w.uid)).foldl (fun m w =>
        let own := match p.byUid w.uid with | some x => max x.2.prio x.2.binh | none => 0
        max m (max own (p.lockInherit k w.uid))) m) 0

/-- The effective priority of a warp by identity: in a context, or in an image, where a holder goes on inheriting (R253, R270, R271). -/
def Part.effOf (p : Part) (uid : Nat) : Nat :=
  match p.byUid uid with
  | some x => x.2.eff
  | none => match p.away.find? (fun a => a.uid == uid) with
    | some a => max a.prio (max a.binh (p.lockInherit 8 uid))
    | none => 0

/-- The warp that goes on for one which fuses have taken in, following at most `k` of them (R111, R301). -/
def Part.heir (p : Part) : Nat → Nat → Nat
  | 0, uid => uid
  | k + 1, uid => match AMap.find p.merged uid with
    | some u => p.heir k u
    | none => uid

/-- The core and slot of a warp by identity, or of the warp that took it in; the last ones for a warp in an image. -/
def Part.whereIs (p : Part) (uid : Nat) : WRef :=
  let u := p.heir p.merged.length uid
  match p.byUid u with
  | some x => x.1
  | none => match p.away.find? (fun a => a.uid == u) with
    | some a => a.at_
    | none => ⟨0, 0⟩

/-- Held locks and waiter entries at the home slice of a line (R265). A lock whose hand-off is due keeps its entry. -/
def State.heldAt (s : State) (q line : Nat) : Nat :=
  ((s.part q).locks.filter (fun l => (l.holder.isSome || l.rel) && s.homeOf q (l.line * 128) == s.homeOf q (line * 128))).length
def State.waitersAt (s : State) (q line : Nat) : Nat :=
  (((s.part q).locks.filter (fun l => s.homeOf q (l.line * 128) == s.homeOf q (line * 128))).map (fun l => l.waiters.length)).foldl (· + ·) 0

/-- The line that a warp has a waiter entry for (R265). -/
def Part.waitsOn (p : Part) (uid : Nat) : Option Nat :=
  (p.locks.find? (fun l => l.waiters.any (fun w => w.uid == uid))).map (fun l => l.line)

/-- The order of waiters: the one that came back last, then by effective priority, then by the older stamp (R269, R271). -/
def Part.ahead (p : Part) (a b : Waiter) : Bool :=
  if a.back != b.back then decide (b.back < a.back)
  else if p.effOf a.uid != p.effOf b.uid then decide (p.effOf b.uid < p.effOf a.uid)
  else decide (a.stamp < b.stamp)

/-- The first of a list of waiters. -/
def Part.firstOf (p : Part) : List Waiter → Option Waiter
  | [] => none
  | w :: l => match p.firstOf l with
    | none => some w
    | some v => some (if p.ahead v w then v else w)

/-- The first present waiter of a line (R269). -/
def Part.firstPresent (p : Part) (l : Lock) : Option Waiter := p.firstOf (l.waiters.filter (fun w => p.present w.uid))

/-- A warp leaves every queue it waits in. -/
def Part.leaveQueues (p : Part) (uid : Nat) : Part :=
  match p.waitsOn uid with
  | none => p
  | some line =>
    let l := p.lock line
    p.setLock { l with waiters := l.waiters.filter (fun w => w.uid != uid) }

/-! ### Reservations (R212) -/

/-- The run writes a line of device memory: by `st`, `stp` or `atom`. -/
def Run.writes (r : Run) (line : Nat) : Bool :=
  let hit (ps : List Piece) : Bool := ps.any (fun x => match x.loc with | .dev pa => pa / 128 == line | _ => false)
  r.acts.any (fun a => match a with | .store ps _ => hit ps | .stp _ ps _ => hit ps | _ => false) ||
    (match r.term with | .atom _ _ ps _ _ _ => hit ps | _ => false)

/-- A line has a reservation of another warp's closed run that writes it (R212). -/
def Part.reserved? (p : Part) (w : WRef) (line : Nat) : Bool :=
  p.warps.any (fun kx => keyRef kx.1 != w && (match kx.2.run with
    | some r => r.closed && r.writes line
    | none => false))

/-! ### Hand-off (R269, R271, R272) -/

/-- The holder lets a lock go; a hand-off is due if anyone waits (R269). -/
def Lock.let_ (l : Lock) : Lock := { l with holder := none, grant := none, rel := !l.waiters.isEmpty }

/-- The line's lock is nobody's and its hand-off may be made: no other warp's run has a reservation that its grant must wait for, and no checked store to the line is
still on its way to be placed (R212). -/
def Part.handReady (p : Part) (l : Lock) : Bool :=
  l.rel && (match p.firstPresent l with
    | some w => !p.reserved? (p.whereIs w.uid) l.line && !p.placeQ.any (fun x => x.line == l.line)
    | none => true)

/-- A hand-off (R269, R272): the lock sets out for the first present waiter with status 0, or 2 where the mark stands, which is then cleared; a parked line is
unparked (R204), and the move is owed (R88). Without a present waiter the lock is free. A waiter that has come back to a free lock is granted it as R271 says, also where
the home slice holds 256 other locks, of which R265 speaks and R271 does not (DESIGN CHOICE, log 62). -/
def State.handOff (s : State) (q line : Nat) : State :=
  let l := (s.part q).lock line
  match (s.part q).firstPresent l with
  | some w =>
    let pay := (s.part q).payerOf ((s.part q).whereIs w.uid)
    ((s.unpark q pay line).owe q pay 0 192).modPart q (fun p => p.setLock { l with
      holder := some w.uid, rel := false, broken := false, grant := some (w.uid, if l.broken then 2 else 0), waiters := l.waiters.filter (fun x => x.uid != w.uid) })
  | none => s.modPart q (fun p => p.setLock { l with rel := false })

/-- The lines a warp holds. -/
def Part.holds (p : Part) (uid : Nat) : List Nat := (p.locks.filter (fun l => l.holder == some uid)).map (fun l => l.line)

/-- A holder retires or is killed: each of its locks passes on with the BROKEN mark, and it leaves its queue (R98, R265, R272). -/
def Part.breakLocks (p : Part) (uid : Nat) : Part :=
  (p.holds uid).foldl (fun p line => p.setLock { (p.lock line).let_ with broken := true }) (p.leaveQueues uid)

/-! ### The deadlock probe (R273) -/

/-- The lines of a cycle that waiting for `line` would close for warp `uid`, with their holders; empty if the probe finds none in its hops. -/
def Part.probe (p : Part) (uid : Nat) : Nat → Nat → List (Nat × Nat)
  | 0, _ => []
  | k + 1, line =>
    match (p.lock line).holder with
    | none => []
    | some h =>
      if h = uid then [(line, h)]
      else match p.waitsOn h with
        | none => []
        | some next =>
          match p.probe uid k next with
          | [] => []
          | l => (line, h) :: l

/-- A cycle's records of KIND 5 in the error log (R273, R370). -/
def State.logCycle (s : State) (q uid : Nat) (cycle : List (Nat × Nat)) : State :=
  let n := cycle.length
  (List.range n).foldl (fun s i =>
    let x := cycle.getD i (0, 0)
    s.modPart q (fun p =>
      let h := p.whereIs x.2
      let r := p.whereIs uid
      p.logErr ⟨5, x.1 * 128, BitVec.ofNat 64 (i + n * 2 ^ 4 + h.core * 2 ^ 8 + h.slot * 2 ^ 19 + r.core * 2 ^ 25 + r.slot * 2 ^ 36), s.clkc q⟩)) s

/-! ### The lock operations (R267, R268, R271, R274, R275) -/

/-- A warp joins a line's queue, or joins its own entry there again, which keeps its stamp (R268); `t` is the deadline in fc. -/
def Part.joinQueue (p : Part) (uid line : Nat) (queue : Bool) (t : Option Nat) : Part :=
  let l := p.lock line
  if l.waiters.any (fun y => y.uid == uid) then
    p.setLock { l with waiters := updIf (fun y => y.uid == uid) (fun y => { y with queue := queue, left := t }) l.waiters }
  else { p.setLock { l with waiters := l.waiters ++ [⟨uid, p.stampSeq, queue, t, 0⟩] } with stampSeq := p.stampSeq + 1 }

/-- `llock` of a free line that another warp's checked writes have reserved (R212): it waits in the queue, and its grant is due, which comes after those writes. `ltry`
does not wait (R274; DEDUCED, log 62). -/
def State.awaitWrites (s : State) (q uid line : Nat) (try_ queue : Bool) (t : Option Nat) : State × Option Nat :=
  if try_ then (s, some 6)
  else if !((s.part q).lock line).waiters.any (fun y => y.uid == uid) && decide (1024 ≤ s.waitersAt q line) then (s, some 5)
  else
    let s := s.modPart q (fun p => let p := p.joinQueue uid line queue t; p.setLock { p.lock line with rel := true })
    (s, if queue then some 9 else none)

/-- `llock` and `ltry` (`try_`) at commit: the state, the status, or nothing when the warp waits. `t` is the deadline in fc. -/
def State.acquire (s : State) (q : Nat) (w : WRef) (x : Warp) (line : Nat) (try_ queue : Bool) (t : Option Nat) : State × Option Nat :=
  let p := s.part q
  let l := p.lock line
  if l.holder == some x.uid then (s, some 7)
  else if l.isFree && (p.firstPresent l).isNone then
    if decide (256 ≤ s.heldAt q line) then (s, some 5)
    else if p.reserved? w line then s.awaitWrites q x.uid line try_ queue t
    else
      let s := s.unpark q (p.payerOf w) line
      let s := s.modPart q (fun p => (p.setLock { l with holder := some x.uid, broken := false, waiters := l.waiters.filter (fun y => y.uid != x.uid) }).dropL1 w.core)
      (s, some (if l.broken then 2 else 0))
  else if l.waiters.any (fun y => y.uid == x.uid) then
    if try_ then (s, some 6)
    else if queue then (s, some 9)
    else (s.modPart q (fun p => p.joinQueue x.uid line false t), none)
  else if try_ then (s, some (if 1024 ≤ s.waitersAt q line then 5 else 6))
  else
    let cycle := p.probe x.uid 8 line
    if !cycle.isEmpty then (s.logCycle q x.uid cycle, some 3)
    else if decide (1024 ≤ s.waitersAt q line) then (s, some 5)
    else
      let s := s.modPart q (fun p => p.joinQueue x.uid line queue t)
      (s, if queue then some 9 else none)

/-- `lqry`'s report (R275). -/
def Part.lockReport (p : Part) (uid line : Nat) : W64 :=
  let l := p.lock line
  let mine := match l.waiters.find? (fun w => w.uid == uid) with
    | some w => (l.waiters.filter (fun y => y.uid != uid && p.ahead y w)).length + 1
    | none => 0
  match l.holder with
  | none => BitVec.ofNat 64 (b2n l.broken * 4 + l.waiters.length * 2 ^ 4 + mine * 2 ^ 16)
  | some h =>
    let r := p.whereIs h
    BitVec.ofNat 64 (1 + b2n (h == uid) * 2 + b2n l.broken * 4 + l.waiters.length * 2 ^ 4 + mine * 2 ^ 16 +
      r.core * 2 ^ 32 + r.slot * 2 ^ 48 + p.effOf h * 2 ^ 56)

/-- `lunlk` (R269): the release sets out for the home slice. -/
def Part.unlock (p : Part) (uid line : Nat) : Part × Nat :=
  if (p.lock line).holder == some uid then (p.setLock (p.lock line).let_, 0) else (p, 8)

/-- `labnd` (R271). -/
def Part.abandon (p : Part) (uid line : Nat) : Part × Nat :=
  let l := p.lock line
  if l.holder == some uid then (p, 7)
  else if l.waiters.any (fun w => w.uid == uid) then (p.setLock { l with waiters := l.waiters.filter (fun w => w.uid != uid) }, 0)
  else (p, 8)

/-- A hand-off that is due and that no reservation holds back is made (R212, R269). -/
def State.releaseArrives (s : State) (q : Nat) : State :=
  match (s.part q).locks.find? (fun l => (s.part q).handReady l) with
  | none => s
  | some l => s.handOff q l.line

/-- A lock operation at the home slice comes after a hand-off of its line that can be made (R266, R269: `lunlk` releases the lock at its commit; DEDUCED,
log 21). -/
def State.takeRelease (s : State) (q line : Nat) : State := if (s.part q).handReady ((s.part q).lock line) then s.handOff q line else s

/-- The grant of a line reaches its waiter's core (R269, R276): copies are dropped as at a device-scope acquire, the line is filled into the L1, and a waiting
`llock` writes its status to D; an uncorrectable sector is not filled and is logged only (R208). -/
def State.grant (s : State) (q line : Nat) : State :=
  let l := (s.part q).lock line
  match l.grant with
  | none => s
  | some (uid, st) =>
    let s := s.modPart q (fun p => p.setLock { l with grant := none })
    match (s.part q).byUid uid with
    | none => s
    | some (w, x) =>
      let bytes := s.lineBytes q line
      s.modPart q (fun p =>
        let p := p.dropL1 w.core
        let grain := (((p.clu (cluOf w.core)).cc.find? (fun k => !k.host && k.line == line)).map (fun k => k.grain)).getD 0
        let p := (List.range 4).foldl (fun p i =>
          if s.isUe q (line * 128 + 32 * i) then p.logErr ⟨1, line * 128 + 32 * i, 0, s.clkc q⟩
          else p.l1Fill w.core (s.clkc q) ⟨false, line * 4 + i, (bytes.drop (32 * i)).take 32, false, grain, false⟩) p
        match x.wait with
        | .llock d n _ _ => if n = line then p.setWarp w { x.setS d (BitVec.ofNat 64 st) with wait := .none } else p
        | _ => p)

/-- A grant that is on its way arrives. -/
def State.grantArrives (s : State) (q : Nat) : State :=
  match (s.part q).locks.find? (fun l => l.grant.isSome) with
  | none => s
  | some l => s.grant q l.line

/-- A grant on its way to the warp that now operates on the line has reached it (R276). -/
def State.ownGrant (s : State) (q uid line : Nat) : State :=
  match ((s.part q).lock line).grant with
  | some (u, _) => if u = uid then s.grant q line else s
  | none => s

/-- A wait for a lock expires (R271): the waiter leaves the queue and `llock` writes TIMEOUT. -/
def Part.lockTimeout (p : Part) (w : WRef) : Part :=
  match p.warp w with
  | none => p
  | some x => match x.wait with
    | .llock d _ _ _ => ((p.leaveQueues x.uid).setWarp w { x.setS d 1 with wait := .none })
    | _ => p

/-- A warp stops for a swap: its waiter entry is absent and its timeout stops counting (R271). -/
def Part.waiterAbsent (p : Part) (uid now : Nat) : Part :=
  { p with locks := p.locks.map (fun l => { l with waiters := updIf (fun w => w.uid == uid) (fun w => { w with left := w.left.map (fun t => t - now) }) l.waiters }) }

/-- A waiter returns: it becomes the head of its queue, its timeout counts again, and a hand-off of a free lock to it is due (R271). -/
def Part.waiterReturns (p : Part) (uid now : Nat) : Part :=
  match p.waitsOn uid with
  | none => p
  | some line =>
    let l := p.lock line
    let back (w : Waiter) : Waiter := { w with back := p.stampSeq + 1, left := w.left.map (fun t => t + now) }
    { p.setLock { l with waiters := updIf (fun w => w.uid == uid) back l.waiters, rel := l.rel || l.isFree } with stampSeq := p.stampSeq + 1 }

end Sys2Proof.Machine
end

