-- ==== Sys2Proof/Machine/Races.lean ====
section
/-! DEFINITION. Race detection: records, regions and the checks (R300-R304). -/

namespace Sys2Proof.Machine

/-! ### Regions (R301) -/

/-- The scope set of a closing includes a warp of a block, gang and cluster (R287). -/
def Closed.includes (c : Closed) (uid blk gang clu : Nat) : Bool :=
  match c.scope with
  | .wrp => c.uid == uid
  | .blk => c.block == blk
  | .gng => c.gang == gang
  | .clu => c.clu == clu
  | .dev => true
  | .sys => true

/-- The warp of an identity has retired; one that a fuse has taken in goes on in the fused warp. -/
def Part.gone (p : Part) (uid : Nat) : Bool :=
  let u := p.heir p.merged.length uid
  (p.byUid u).isNone && p.away.all (fun a => a.uid != u)

/-- The warps that go on for one which fuses have taken in (R111). -/
def Part.heirs (p : Part) : Nat → Nat → List Nat
  | 0, _ => []
  | k + 1, uid => match AMap.find p.merged uid with
    | some u => u :: p.heirs k u
    | none => []

/-- A closing that covers an entry's region: of its warp, or of one that goes on for it (R301). -/
def Part.covers (p : Part) (c : Closed) (e : RaceEnt) : Bool :=
  (c.uid == e.uid && decide (e.region ≤ c.upTo)) || (p.heirs p.merged.length e.uid).contains c.uid

/-- An entry's region is closed for a warp (R301): by a release whose scope set includes it, or because the entry's warp has retired, also where a program would
have it open (R307; log 24). -/
def Part.isClosed (p : Part) (e : RaceEnt) (uid blk gang clu : Nat) : Bool :=
  p.gone e.uid || p.closed.any (fun c => c.includes uid blk gang clu && p.covers c e)

/-- An entry's region is closed for every warp of the partition. -/
def Part.closedAll (p : Part) (e : RaceEnt) : Bool :=
  p.gone e.uid || p.closed.any (fun c => (decide (c.scope = .dev) || decide (c.scope = .sys)) && p.covers c e)

/-- Records whose regions are all closed for every warp are freed (R303), and closings of retired warps with them. -/
def Part.freeRaces (p : Part) : Part :=
  let live := p.races.filter (fun r => !((r.write.toList ++ r.reads).all (fun e => p.closedAll e)))
  { p with races := live, closed := p.closed.filter (fun c => !p.gone c.uid), merged := p.merged.filter (fun m => !p.gone m.1) }

/-- A warp performs a release of a scope: its regions up to the current one close for that scope, and a new one begins (R301); a release
of device or system scope frees the records that it leaves with closed regions alone (R303; log 24). -/
def Part.closeRegion (p : Part) (w : WRef) (sc : Scope) : Part :=
  match p.ctx w with
  | none => p
  | some c =>
    if !c.grid.k.race then p
    else
      let p := { p with closed := p.closed ++ [(⟨c.x.uid, c.x.region, sc, c.blk.id, c.gang.id, cluOf w.core⟩ : Closed)] }
      let p := p.setWarp w { c.x with region := c.x.region + 1 }
      if sc = .dev ∨ sc = .sys then p.freeRaces else p

/-! ### Checks and updates (R302) -/

/-- What a checked access meets: the entry and whether it is a read entry (R302). -/
def Part.raceMeets (p : Part) (races : List RaceRec) (c : Ctx) (sector : Nat) (wr strong : Bool) : Option (RaceEnt × Bool) :=
  match races.find? (fun r => r.sector == sector) with
  | none => none
  | some r =>
    let bad (e : RaceEnt) : Bool := e.uid != c.x.uid && !p.isClosed e c.x.uid c.blk.id c.gang.id (cluOf c.w.core) && !(strong && e.strong)
    match r.write.filter bad with
    | some e => some (e, false)
    | none => if wr then (r.reads.find? bad).map (fun e => (e, true)) else none

/-- The bits [63:34] of TINFO for RACE (R313). -/
def Part.raceInfo (p : Part) (m : RaceEnt × Bool) (wr : Bool) : W64 :=
  let o := p.whereIs m.1.uid
  BitVec.ofNat 64 (b2n m.2 + 2 * b2n wr + 4 * o.core + 2 ^ 13 * o.slot)

/-- A record's update by a committed access: a write replaces the write entry and clears the readers; a load sets its reader entry, displacing the older of two
others (R302). The Bool says that a reader was displaced. -/
def RaceRec.note (r : RaceRec) (e : RaceEnt) (wr : Bool) : RaceRec × Bool :=
  if wr then ({ r with write := some e, reads := [] }, false)
  else
    let others := r.reads.filter (fun x => x.uid != e.uid)
    if 2 ≤ others.length then ({ r with reads := others.drop 1 ++ [e] }, true) else ({ r with reads := others ++ [e] }, false)

/-- An access's update of a list of records, whose last is the most recently updated; a new record takes the place of the least recently updated one of a full
table of 8,192 (R303). Answers the records, and whether a record was dropped and a reader displaced. -/
def noteRace (races : List RaceRec) (sector table : Nat) (e : RaceEnt) (wr : Bool) : List RaceRec × Bool × Bool :=
  match races.find? (fun r => r.sector == sector) with
  | some r =>
    let n := r.note e wr
    (races.filter (fun x => x.sector != sector) ++ [n.1], false, n.2)
  | none =>
    let new := ((⟨sector, table, none, []⟩ : RaceRec).note e wr).1
    if 8192 ≤ (races.filter (fun x => x.table == table)).length then
      match races.find? (fun x => x.table == table) with
      | some v => (races.filter (fun x => x.sector != v.sector) ++ [new], true, false)
      | none => (races ++ [new], false, false)
    else (races ++ [new], false, false)

/-- Whether a piece's access is tracked: its kernel has RACE and its page RACECHK, in device memory (R300). -/
def Piece.tracked (x : Piece) (k : KDesc) : Option Nat :=
  match x.loc, x.leaf with
  | .dev pa, some l => if k.race && l.race then some pa else none
  | _, _ => none

/-- The sectors that the tracked bytes of pieces touch. -/
def trackedSectors (ps : List Piece) (k : KDesc) : List Nat :=
  (ps.flatMap (fun x => match x.tracked k with
    | some pa => (List.range x.bytes.length).map (fun i => (pa + i) / 32)
    | none => [])).dedup

/-- A committed access updates its records (R302, R303). -/
def State.raceCommit (s : State) (q : Nat) (c : Ctx) (ps : List Piece) (wr strong : Bool) : State :=
  (trackedSectors ps c.grid.k).foldl (fun s sec =>
    let t := s.tableOf q (sec / 4)
    s.modPart q (fun p =>
      let n := noteRace p.races sec t ⟨c.x.uid, c.x.region, strong⟩ wr
      let p := { p with races := n.1 }
      let p := if n.2.1 then p.raceDrop false else p
      if n.2.2 then p.raceDrop true else p)) s

/-- A plain access is not strong; an acquire load, a release store, and every atomic are (R286). -/
def MAttr.strong (m : MAttr) : Bool := decide (m.order ≠ .plain)

/-- The accesses of a run that R300 may track, in the order in which the commit performs them, loads first (R34): their pieces, whether they write, whether strong, and
the word's attributes. -/
def Run.accesses (r : Run) : List (List Piece × Bool × Bool × MAttr) :=
  r.acts.filterMap (fun a => match a with
    | .load ps m loc => if loc then none else some (ps, false, m.strong, m)
    | _ => none) ++
  r.acts.filterMap (fun a => match a with
    | .store ps m => some (ps, true, m.strong, m)
    | .stp _ ps m => some (ps, true, m.strong, m)
    | _ => none) ++
  (match r.term with
   | .atom _ _ ps _ _ m => [(ps, true, true, m)]
   | _ => [])

/-- A pending access of a warp in region `n`, judged as if it had committed: its entries, and the closing of a release (R302). -/
def State.pend (s : State) (q : Nat) (c : Ctx) (z : Part × Nat) (a : List Piece × Bool × Bool × MAttr) : Part × Nat :=
  let p : Part := { z.1 with races := (trackedSectors a.1 c.grid.k).foldl (fun rs sec =>
    (noteRace rs sec (s.tableOf q (sec / 4)) ⟨c.x.uid, z.2, a.2.2.1⟩ a.2.1).1) z.1.races }
  if c.grid.k.race && a.2.1 && (decide (a.2.2.2.order = .rel) || decide (a.2.2.2.order = .ar)) then
    ({ p with closed := p.closed ++ [⟨c.x.uid, z.2, a.2.2.2.scope, c.blk.id, c.gang.id, cluOf c.w.core⟩] }, z.2 + 1)
  else (p, z.2)

/-- Insert a run by the time at which it closed; of two that closed together the one of the lower context stands first. -/
def insSince (a : Run × Ctx) : List (Run × Ctx) → List (Run × Ctx)
  | [] => [a]
  | b :: l => if a.1.since < b.1.since then a :: b :: l else b :: insSince a l

/-- The closed runs of other warps, in the order in which their accesses passed. -/
def Part.pendingRuns (p : Part) (w : WRef) : List (Run × Ctx) :=
  (p.warps.filterMap (fun kx => match kx.2.run, p.ctx (keyRef kx.1) with
    | some r, some c => if r.closed && keyRef kx.1 != w then some (r, c) else none
    | _, _ => none)).foldl (fun l a => insSince a l) []

/-- The partition as a check sees it: accesses of other warps that have passed but not committed are counted (R302), in the order in which they passed, which R302 does
not give (DESIGN CHOICE, log 66). -/
def State.raceView (s : State) (q : Nat) (w : WRef) : Part :=
  ((s.part q).pendingRuns w).foldl (fun p x => (x.1.accesses.foldl (s.pend q x.2) (p, x.2.x.region)).1) (s.part q)

/-- The RACE condition of a run's accesses, if any (R302): each is judged after those of other runs and of its own run that have passed before it; the earliest word, all of
its lanes that race, the lowest one's data. -/
def State.raceCond (s : State) (q : Nat) (c : Ctx) (r : Run) : Option Cond :=
  if !c.grid.k.race then none
  else
    (r.accesses.foldl (fun (z : Option Cond × Part × Nat) a =>
      let view := z.2.1
      let hit (x : Piece) : Option (RaceEnt × Bool) :=
        (trackedSectors [x] c.grid.k).findSome? (fun sec => view.raceMeets view.races c sec a.2.1 a.2.2.1)
      match a.1.filterMap (fun x => (hit x).map (fun m => (x, m))) with
      | [] => (z.1, s.pend q c z.2 a)
      | x :: l => (Cond.first z.1 (some ⟨a.2.2.2.pos, .race, maskOf 128 (fun i => (x :: l).any (fun y => y.1.lane == i)), x.1.va,
            if a.2.1 then .write else .read, (s.part q).raceInfo x.2 a.2.1, 0⟩), z.2)) (none, s.raceView q c.w, c.x.region)).1

/-- The warp that holds a line towards stores: its holder, or the waiter to whom a hand-off is due (R212, R269; DEDUCED, log 21). -/
def Part.holderOf (p : Part) (line : Nat) : Option Nat :=
  let l := p.lock line
  match l.holder with
  | some h => some h
  | none => if l.rel then (p.firstPresent l).map (fun w => w.uid) else none

/-- The LOCKED condition of a run's stores, parked stores and atomics (R212): a line that another warp holds. -/
def State.lockCond (s : State) (q : Nat) (c : Ctx) (r : Run) : Option Cond :=
  let p := s.part q
  if p.locks.isEmpty then none
  else
    let other (x : Piece) : Option Nat :=
      match x.loc, x.leaf with
      | .dev pa, some l =>
        if l.lockable then
          match p.holderOf (pa / 128) with
          | some h => if h = c.x.uid then none else some h
          | none => none
        else none
      | _, _ => none
    r.accesses.foldl (fun k a =>
      if !a.2.1 then k
      else
        match a.1.filter (fun x => (other x).isSome) with
        | [] => k
        | x :: rest =>
          let h := p.whereIs ((other x).getD 0)
          Cond.first k (some ⟨a.2.2.2.pos, .locked, maskOf 128 (fun i => (x :: rest).any (fun y => y.lane == i)), x.va, .write,
            BitVec.ofNat 64 (h.core + 2 ^ 11 * h.slot), 0⟩)) none

end Sys2Proof.Machine
end

