-- ==== Sys2Proof/Machine/Operands.lean ====
section
/-! DEFINITION. How a word reads its operands and queues its writes: the environment of a word, register classes, narrow fields,
guards, the interlock, address formation and the checks of accesses (R32-R36, R42, R45, R49, R50, R55, R59, R60, R210-R213). -/

namespace Sys2Proof.Machine

/-- What a word is evaluated against (R55): the partition, its warp, the word, its run so far, the register file of its core and its
active lanes. -/
structure Env where
  q : Nat
  c : Ctx
  iss : Issue
  run : Run
  core : Core
  act : Mask
  sup : Bool
  deriving DecidableEq, Repr

/-- What a word does at its commit, and its condition; `fatal` stops the issue of the run's later words (R54). -/
structure Word where
  acts : List Act
  term : Term
  cond : Option Cond
  waits : List ParkWait
  safept : Option (BitVec 18)
  fatal : Bool
  deriving DecidableEq, Repr

/-- A word with nothing to do. -/
def Word.nil : Word := ⟨[], .none, none, [], none, false⟩
def Word.ofActs (l : List Act) : Word := { Word.nil with acts := l }
def Word.ofTerm (t : Term) : Word := { Word.nil with term := t }
def Word.ofCond (c : Cond) : Word := { Word.nil with cond := some c }

/-- A word after the checks of its accesses: with a condition it has no effect, but under MEMUE its accesses stay in its run, because R54 puts LOCKED and RACE, which
the park finds, before MEMUE. -/
def Word.checked (w : Word) (c : Option Cond) : Word :=
  match c with
  | none => w
  | some k => if k.cause = .memue then { w with cond := some k } else .ofCond k

/-! ### Conditions (R54, R313, R317) -/

/-- A condition of the word on a mask of lanes. -/
def Env.condOn (e : Env) (cause : Cause) (mask : Mask) (addr : W64) (acc : Acc) (info detail : W64) : Cond :=
  ⟨e.run.words, cause, mask, addr, acc, info, detail⟩

/-- A condition without a lane of its own: it reports the lanes of the path, for uniform words too, whose lanes R313 does not name (DEDUCED, log 40). -/
def Env.cond (e : Env) (cause : Cause) (info detail : W64) : Cond := e.condOn cause e.c.x.path 0 .read info detail

/-- The word and the word before it, as DETAIL gives them (R317). -/
def Issue.detail (i : Issue) : W64 := BitVec.ofNat 64 (i.word.toNat + i.pfxWord.toNat * 2 ^ 32)

def Env.operand (e : Env) : Word := .ofCond (e.cond .operand 0 e.iss.detail)
def Env.illegal (e : Env) : Word := { Word.ofCond (e.cond .illegal 0 e.iss.detail) with fatal := true }

/-- PRIV: the word in [31:0] and the CSR number in [45:32] (R317). -/
def Env.priv (e : Env) (csr : Nat) : Word :=
  { Word.ofCond (e.cond .priv 0 (BitVec.ofNat 64 (e.iss.word.toNat + csr * 2 ^ 32))) with fatal := true }

/-- WIDTH: TINFO [41:34] holds W (R313). -/
def Env.width (e : Env) : Word := .ofCond (e.cond .width (BitVec.ofNat 64 e.c.x.width) 0)

/-! ### Registers (R49, R50) -/

/-- The prefix fields by class, or those of a word without one (R43). -/
def Pfx.fieldsC (p : Pfx) : PfxC := match p with | .c x => x | _ => ⟨7, false, 0, 0, 0, 0, 0, 0, 0⟩
def Pfx.fieldsM (p : Pfx) : PfxM := match p with | .m x => x | _ => ⟨7, false, 0, 0, 0, 0⟩
def Env.pc (e : Env) : PfxC := Pfx.fieldsC e.iss.pfx
def Env.pm (e : Env) : PfxM := Pfx.fieldsM e.iss.pfx
/-- The rounding mode (R46). -/
def Env.rm (e : Env) : Nat := e.pc.rm.toNat

def Env.lane (e : Env) (l : Nat) : Lane := e.c.x.lanes.getD l ⟨.drained, 0xFFFFFFFF, 0, 0⟩

/-- Predicate p of a lane at run start; p7 reads true (R50). -/
def Lane.pred (x : Lane) (p : Nat) : Bool := p == 7 || x.p.getLsbD p
def Env.pred (e : Env) (l : Nat) (p : BitVec 3) : Bool := (e.lane l).pred p.toNat

/-- Predicate q at run start; q7 reads true. -/
def Env.qpred (e : Env) (p : BitVec 3) : Bool := p == 7 || e.c.x.q.getLsbD p.toNat

/-- `iid` of a lane (R15, R94). -/
def Lane.item (x : Lane) : W32 := match x.st with | .live => x.iid | _ => 0xFFFFFFFF

/-- The warp-wide specials (R15). -/
def Ctx.special (c : Ctx) (code : Nat) : Nat :=
  match code with
  | 123 => c.x.wid
  | 124 => c.blk.bid
  | 125 => c.blk.gcx
  | 126 => c.x.width
  | _ => 0

/-- The file entry of a vector code of the warp. -/
def Warp.entry (x : Warp) (code : Nat) : Nat := x.fileBase + physReg x.wb code

/-- A vector register of a lane, by code, as it stands at run start. -/
def Env.vreg (e : Env) (l code : Nat) : W32 := e.core.reg (e.c.x.base + l) (e.c.x.entry code)

/-- A source of a vector word on a lane (R50). -/
def Env.src (e : Env) (r : Reg) (l : Nat) : W32 :=
  if r.toNat < 96 then e.vreg l r.toNat
  else if r.toNat < 120 then BitVec.setWidth 32 (e.c.x.getS r)
  else match r.toNat with
    | 120 => 0
    | 121 => BitVec.ofNat 32 l
    | 122 => (e.lane l).item
    | n => BitVec.ofNat 32 (e.c.special n)

/-- A source of a uniform word (R150). -/
def Env.srcS (e : Env) (r : Reg) : W64 :=
  if 96 ≤ r.toNat ∧ r.toNat < 120 then e.c.x.getS r else BitVec.ofNat 64 (e.c.special r.toNat)

/-- The uniform register after one, of a pair. -/
def Env.srcS1 (e : Env) (r : Reg) : W64 := e.srcS (r + 1)

/-! ### Narrow fields (R45, R59, R60) -/

/-- Bits of a narrow field's container. -/
def intW (f : Nat) : Nat := match f with | 0 => 32 | 1 => 16 | 2 => 16 | 3 => 8 | 4 => 8 | _ => 4
def fltW (f : Nat) : Nat := match f with | 0 => 32 | 1 => 16 | 2 => 16 | 7 => 4 | _ => 8

/-- Field `p` of `w` bits of a register. -/
def field (w p : Nat) (x : W32) : Nat := x.toNat / 2 ^ (p * w) % 2 ^ w

/-- S formats are the odd codes (R45). -/
def intSigned (f : Nat) : Bool := f % 2 == 1

/-- A narrow integer source widened to 32 bits (R59). -/
def widenI (f p : Nat) (x : W32) : W32 :=
  if f = 0 then x
  else
    let v := field (intW f) p x
    if intSigned f then BitVec.ofInt 32 (sxt (intW f) v) else BitVec.ofNat 32 v

/-- The bits that a field of `w` bits at position `p` covers. -/
def fieldMask (w p : Nat) : W32 := BitVec.ofNat 32 ((2 ^ w - 1) * 2 ^ (p * w))
def fieldVal (w p v : Nat) : W32 := BitVec.ofNat 32 (v % 2 ^ w * 2 ^ (p * w))

/-- The range of an integer destination: its own if it is narrow, or the given full one (R60, R141, R169). -/
def rangeI (f : Nat) (lo hi : Int) : Int × Int :=
  if f = 0 then (lo, hi)
  else if intSigned f then (-((2 ^ (intW f - 1) : Nat) : Int), ((2 ^ (intW f - 1) : Nat) : Int) - 1)
  else (0, ((2 ^ intW f : Nat) : Int) - 1)

/-- The clamp of a saturating integer result into a destination, and whether it changed the result (R60, R141). -/
def clampI (f : Nat) (lo hi v : Int) : Int × Bool :=
  let r := rangeI f lo hi
  let v' := max r.1 (min r.2 v)
  (v', v' != v)

/-! ### Queued writes (R33) -/

/-- A write of bits `mask` of a vector register of a lane; z discards (R50). -/
def Env.put (e : Env) (d : Reg) (l : Nat) (mask val : W32) : List Act :=
  if d.toNat < 96 then [.v (e.c.x.base + l) (e.c.x.entry d.toNat) mask val] else []

/-- A write of a whole register. -/
def Env.putFull (e : Env) (d : Reg) (l : Nat) (val : W32) : List Act := e.put d l 0xFFFFFFFF val

/-- A write of a whole register `k` after `d`, of a group; a group led by z is discarded (R50). -/
def Env.putAt (e : Env) (d : Reg) (k l : Nat) (val : W32) : List Act :=
  if d.toNat < 96 then [.v (e.c.x.base + l) (e.c.x.entry (d.toNat + k)) 0xFFFFFFFF val] else []

/-- A register of a group as read: z reads 0 throughout (R50). -/
def Env.srcAt (e : Env) (d : Reg) (k l : Nat) : W32 := if d.toNat < 96 then e.vreg l (d.toNat + k) else 0

/-- A write of a uniform register; z discards. -/
def putS (d : Reg) (v : W64) : List Act := if 96 ≤ d.toNat ∧ d.toNat < 120 then [.s (d.toNat - 96) v] else []

/-- Writes of predicates; p7 and q7 discard. -/
def putP (d : BitVec 3) (l : Nat) (b : Bool) : List Act := if d = 7 then [] else [.p l d.toNat b]
def putQ (d : BitVec 3) (b : Bool) : List Act := if d = 7 then [] else [.q d.toNat b]

/-- Raised flags (R73). -/
def putFlags (f : Flags) : List Act := if f = 0 then [] else [.flags f]

/-- A lane's LFSR as the run's earlier words leave it (R64, R175). -/
def Env.lfsr (e : Env) (l : Nat) : W32 :=
  e.run.acts.foldl (fun v a => match a with | .lfsr i s => if i = l then s else v | _ => v) (e.lane l).lfsr

/-- The new state of a lane's LFSR, if the mode is SR. -/
def Env.putLfsr (e : Env) (l : Nat) (s : W32) : List Act := if e.rm = 5 then [.lfsr l s] else []

/-- The active lanes, ascending. -/
def Env.lanes (e : Env) : List Nat := Mask.lanes e.act

/-! ### Vector words, lane by lane (R55, R138, R158) -/

/-- Integer sources A and B, and D as a source, of a word with narrow fields (R138, R140). -/
def Env.intA (e : Env) (a : Reg) (l : Nat) : W32 := widenI e.pc.saf.toNat e.pc.sap.toNat (e.src a l)
def Env.intB (e : Env) (b : Reg) (l : Nat) : W32 := widenI e.pc.sbf.toNat e.pc.sbp.toNat (e.src b l)
def Env.intD (e : Env) (d : Reg) (l : Nat) : W32 := widenI e.pc.dnf.toNat e.pc.dnp.toNat (e.src d l)

/-- A word that writes a 32-bit result on each active lane, its low field bits where D is narrow (R60). -/
def Env.intWord (e : Env) (d : Reg) (f : Nat → W32) : Word :=
  let w := intW e.pc.dnf.toNat
  let p := e.pc.dnp.toNat
  .ofActs (e.lanes.flatMap (fun l => e.put d l (fieldMask w p) (fieldVal w p (f l).toNat)))

/-- A word with a saturating result (R60, R141). -/
def Env.satWord (e : Env) (d : Reg) (lo hi : Int) (f : Nat → Int) : Word :=
  let w := intW e.pc.dnf.toNat
  let p := e.pc.dnp.toNat
  let r (l : Nat) := clampI e.pc.dnf.toNat lo hi (f l)
  .ofActs (e.lanes.flatMap (fun l => e.put d l (fieldMask w p) (fieldVal w p (BitVec.ofInt 32 (r l).1).toNat)) ++
    putFlags (flagIf (e.lanes.any (fun l => (r l).2)) fSAT))

/-- A word that writes a predicate on each active lane. -/
def Env.predWord (e : Env) (d : BitVec 3) (f : Nat → Bool) : Word := .ofActs (e.lanes.flatMap (fun l => putP d l (f l)))

/-- A word that writes a whole register on each active lane. -/
def Env.regWord (e : Env) (d : Reg) (f : Nat → W32) : Word := .ofActs (e.lanes.flatMap (fun l => e.putFull d l (f l)))

/-- A float source as stored: its format and its code. -/
def Env.fltCode (e : Env) (r : Reg) (f p l : Nat) : Fmt × Nat := (fmtOf f, field (fltW f) p (e.src r l) % 2 ^ (fmtOf f).w)

/-- A float source widened (R59): a narrow NaN becomes the canonical NaN, with NV if it was signalling. -/
def Env.flt (e : Env) (r : Reg) (f p l : Nat) : Num × Flags :=
  let c := e.fltCode r f p l
  match c.1.decode c.2 with
  | .nan s => if f = 0 then (.nan s, 0) else (.nan false, flagIf s fNV)
  | x => (x, 0)

def Env.fltA (e : Env) (a : Reg) (l : Nat) : Num × Flags := e.flt a e.pc.saf.toNat e.pc.sap.toNat l
def Env.fltB (e : Env) (b : Reg) (l : Nat) : Num × Flags := e.flt b e.pc.sbf.toNat e.pc.sbp.toNat l
/-- The accumulator of `fma` and `fnma` (R160). -/
def Env.fltD (e : Env) (d : Reg) (l : Nat) : Num × Flags := e.flt d e.pc.dnf.toNat e.pc.dnp.toNat l

/-- A write of a code into a float destination field (R60). -/
def Env.putFlt (e : Env) (d : Reg) (l : Nat) (code : Nat) : List Act :=
  let w := fltW e.pc.dnf.toNat
  let p := e.pc.dnp.toNat
  e.put d l (fieldMask w p) (fieldVal w p code)

/-- A word that rounds an exact value on each active lane into the destination format under RM (R158, R61-R64). -/
def Env.fltWord (e : Env) (d : Reg) (f : Nat → Num × Flags) : Word :=
  let r (l : Nat) := (fmtOf e.pc.dnf.toNat).round e.rm (f l).1 (e.lfsr l)
  .ofActs (e.lanes.flatMap (fun l => e.putFlt d l (r l).1 ++ e.putLfsr l (r l).2.2) ++
    putFlags (e.lanes.foldl (fun (x : Flags) l => x ||| (f l).2 ||| (r l).2.1) 0))

/-! ### Which registers a word names (R36, R49) -/

/-- A vector code with the registers that follow it, if it is one. -/
def vgroup (r : Reg) (n : Nat) : List (Reg × Nat) := if r.toNat < 96 then [(r, n)] else []

/-- The vector registers that a word reads and writes, as groups of codes. -/
def regsOf (i : Instr) : List (Reg × Nat) × List (Reg × Nat) :=
  match i with
  | .iadd d a b | .isub d a b | .imin d a b | .imax d a b | .umin d a b | .umax d a b
  | .iabsd d a b | .iavg d a b | .iadds d a b | .isubs d a b | .uadds d a b | .usubs d a b
  | .imul d a b | .imulh d a b | .umulh d a b | .imad d a b
  | .and d a b | .or d a b | .xor d a b | .andn d a b | .orn d a b | .xnor d a b
  | .shl d a b | .shr d a b | .sar d a b | .rol d a b | .bfx d a b | .bfi d a b | .prmb d a b
  | .sel _ d a b | .lget_idx d a b | .lget_xor d a b
  | .fadd d a b | .fsub d a b | .fmul d a b | .fma d a b | .fnma d a b | .fscale d a b
  | .fmin d a b | .fmax d a b | .fcpys d a b
  | .hadd2 d a b | .hmul2 d a b | .hfma2 d a b | .hmin2 d a b | .hmax2 d a b
  | .hadd2_bf d a b | .hmul2_bf d a b | .hfma2_bf d a b | .hmin2_bf d a b | .hmax2_bf d a b
  | .pkh2 d a b | .pkbf2 d a b
  | .bq_8 d a b | .bq_6 d a b | .bq_4 d a b | .bq_2 d a b
  | .bdq_8 d a b | .bdq_6 d a b | .bdq_4 d a b | .bdq_2 d a b => (vgroup a 1 ++ vgroup b 1, vgroup d 1)
  | .popc d a | .clz d a | .brev d a | .mov d a
  | .iaddi d a _ | .andi d a _ | .ori d a _ | .xori d a _ | .imini d a _ | .imaxi d a _
  | .shli d a _ | .shri d a _ | .sari d a _ | .roli d a _
  | .lget_up d a _ | .lget_dn d a _ | .lget_wxor d a _ | .lget_wrot d a _
  | .radd d a | .rmin d a | .rmax d a | .rumin d a | .rumax d a | .rfadd d a | .rfmin d a | .rfmax d a
  | .scan_add d a | .scan_fadd d a | .rstep_add d a _ | .rstep_fadd d a _ | .rstep_fmax d a _
  | .fabs d a | .fneg d a | .fmov d a | .frnd d a | .fclass d a
  | .frcp d a | .frsq d a | .fsqrt d a | .fex2 d a | .flg2 d a | .fsin d a | .fcos d a | .ftanh d a
  | .f2i d a | .f2z d a | .i2f d a | .z2f d a | .bexp d a => (vgroup a 1, vgroup d 1)
  | .rdlane _ a _ | .icmpi _ _ a _ | .vtop a _ | .seed a => (vgroup a 1, [])
  | .wrlane d _ _ | .movl d _ | .movhi d _ | .ptov d => ([], vgroup d 1)
  | .icmp _ _ a b | .fcmp _ _ a b => (vgroup a 1 ++ vgroup b 1, [])
  | .f2l d a => (vgroup a 1, vgroup d 2)
  | .l2f d a => (vgroup a 2, vgroup d 1)
  | .ld s m d a b => (vgroup a 2 ++ (if m = 0 then vgroup b 1 else []), vgroup d (vecRegs s))
  | .st s m d a b => (vgroup d (vecRegs s) ++ vgroup a 2 ++ (if m = 0 then vgroup b 1 else []), [])
  | .stp s d a _ => (vgroup d (vecRegs s) ++ vgroup a 2, [])
  | .ldf6 d a b | .ldloc_w d a b => (vgroup a 2 ++ vgroup b 1, vgroup d 1)
  | .ldloc_d d a b => (vgroup a 2 ++ vgroup b 1, vgroup d 2)
  | .ldloc_q d a b => (vgroup a 2 ++ vgroup b 1, vgroup d 4)
  | .atom_add d a b | .atom_min d a b | .atom_max d a b | .atom_umin d a b | .atom_umax d a b
  | .atom_and d a b | .atom_or d a b | .atom_xor d a b | .atom_xchg d a b | .atom_fadd d a b
  | .atom_bfadd2 d a b | .atom_inc d a b => (vgroup a 2 ++ vgroup b 1, vgroup d 1)
  | .atom_cas d a b | .atom_add64 d a b => (vgroup a 2 ++ vgroup b 1, vgroup d 2)
  | .atom_cas64 d a b => (vgroup a 2 ++ vgroup b 1, vgroup d 4)
  | .pref a b | .cwb a b | .cinv a b => (vgroup a 2 ++ vgroup b 1, [])
  | .brxv _ b => (vgroup b 1, [])
  | _ => ([], [])

/-- Physical registers from a first one (R49): a group lies wholly below or above code 16, or names one register. -/
def physOf (wb : Nat) (g : Reg × Nat) : List Nat := (List.range g.2).map (fun k => physReg wb g.1.toNat + k)

/-- The byte address, in physical registers, of the scale bytes of an `mma` (R48, R247). -/
def scaleAt (wb : Nat) (p : Pfx) (a : Reg) (na : Nat) : Nat :=
  match p with
  | .x x => 4 * physReg wb x.scale.toNat + x.sb.toNat
  | _ => 4 * (physReg wb a.toNat + 8 * na)

/-- The activation width of an `mma` field (R247). -/
def actWidth (x : BitVec 2) : Nat := match x.toNat with | 0 => 8 | 1 => 6 | 2 => 4 | _ => 2
def weightWidth (y : BitVec 1) : Nat := if y = 0 then 8 else 4

/-- The physical registers of scale bytes from a byte address. -/
def scaleRegs (sc : Nat) : List Nat := (List.range ((sc + 7) / 4 - sc / 4 + 1)).map (fun k => sc / 4 + k)

/-- The physical registers that a word reads and writes (R49, R247). -/
def physRegs (wb : Nat) (i : Instr) (p : Pfx) : List Nat × List Nat :=
  match i with
  | .mma _ x _ d a _ =>
    let n := actWidth x
    ((List.range (8 * n)).map (fun k => physReg wb a.toNat + k) ++ scaleRegs (scaleAt wb p a n),
     (List.range 64).map (fun k => physReg wb d.toNat + k))
  | _ =>
    let r := regsOf i
    (r.1.flatMap (physOf wb), r.2.flatMap (physOf wb))

/-- The first physical register at N or beyond, if any (R49). -/
def regBound (n : Nat) (r : List Nat × List Nat) : Option Nat := (r.1 ++ r.2).find? (fun p => decide (n ≤ p))

/-- A word waits at issue for a register (R36): it reads one that an `mma` has yet to write, or writes one that an `mma` has yet to write or to
read. -/
def Warp.interlocked (x : Warp) (r : List Nat × List Nat) : Bool :=
  x.mmas.any (fun m =>
    let pending (p : Nat) : Bool := decide (m.d ≤ p ∧ p < m.d + 64) && m.unlanded != 0
    let held (p : Nat) : Bool := (decide (m.a ≤ p ∧ p < m.a + 8 * m.na) || decide (m.sc / 4 ≤ p ∧ p ≤ (m.sc + 7) / 4)) && m.unread != 0
    r.1.any pending || r.2.any (fun p => pending p || held p))

/-! ### Guards and active lanes (R44, R55) -/

/-- The guard of a word before which a prefix word stands. -/
def Pfx.guard (p : Pfx) : Nat × Bool :=
  match p with
  | .none => (7, false)
  | .c x => (x.g.toNat, x.gn)
  | .m x => (x.g.toNat, x.gn)
  | .x _ => (7, false)
  | .g x => (x.g.toNat, x.gn)

/-- The lanes of the path that pass a guard; G = 7 is unguarded (R44). -/
def Warp.active (x : Warp) (g : Nat × Bool) : Mask :=
  if g.1 = 7 then x.path
  else x.path &&& maskOf x.width (fun l => (x.lanes.getD l ⟨.drained, 0, 0, 0⟩).pred g.1 != g.2)

/-! ### Memory attributes and addresses (R42, R47) -/

def scopeOf (c : Nat) : Scope :=
  match c with
  | 0 => .wrp
  | 1 => .blk
  | 2 => .gng
  | 3 => .clu
  | 4 => .dev
  | _ => .sys
def orderOf (c : Nat) : Order :=
  match c with
  | 0 => .plain
  | 1 => .acq
  | 2 => .rel
  | _ => .ar
def Scope.rank (s : Scope) : Nat :=
  match s with
  | .wrp => 0
  | .blk => 1
  | .gng => 2
  | .clu => 3
  | .dev => 4
  | .sys => 5
def Order.isAcq (o : Order) : Bool := decide (o = .acq ∨ o = .ar)
def Order.isRel (o : Order) : Bool := decide (o = .rel ∨ o = .ar)

/-- The attributes of a memory word (R43, R47). -/
def Env.mattr (e : Env) : MAttr :=
  ⟨e.run.words, scopeOf e.pm.scope.toNat, orderOf e.pm.order.toNat, e.pm.hint.toNat⟩

/-- An acquire of gang scope or wider, and a load with hint 4, are served beyond the L1 (R188, R296). -/
def MAttr.beyond (m : MAttr) : Bool := (m.order.isAcq && decide (2 ≤ m.scope.rank)) || m.hint == 4

/-- The base of a lane: a uniform register, or an even vector pair (R42). -/
def Env.base (e : Env) (a : Reg) (l : Nat) : W64 :=
  if a.toNat < 96 then e.vreg l (a.toNat + 1) ++ e.vreg l a.toNat else e.srcS a

/-- An offset register: the low 32 bits, signed (R42). -/
def Env.offReg (e : Env) (b : Reg) (l : Nat) : W64 := (e.src b l).signExtend 64

/-- An immediate offset: sext15(OFFX : I7) × the size (R47); without a prefix word, I7 alone, sign-extended, as R41, R43
and R19 have it beside R214's OFFX of 0 (DEDUCED, log 22). -/
def Env.offImm (e : Env) (b : Reg) (size : Nat) : W64 :=
  (match e.iss.pfx with
   | .none => b.signExtend 64
   | _ => (e.pm.offx ++ b : BitVec 15).signExtend 64) * BitVec.ofNat 64 size

/-- The address of a lane of an M-format word whose bit FN[21] is `m`. -/
def Env.addr (e : Env) (m : BitVec 1) (a b : Reg) (size l : Nat) : W64 :=
  e.base a l + (if m = 1 then e.offImm b size else e.offReg b l)

/-! ### Checks of accesses (R210-R212, R202, R208) -/

/-- A lane's failed check. -/
structure LFail where
  lane : Nat
  cause : Cause
  va : W64
  info : W64
  detail : W64
  deriving DecidableEq, Repr

/-- The condition of a word's failed checks: the first cause of R54's order, all of its lanes, the lowest one's data (R210). -/
def Env.failCond (e : Env) (acc : Acc) (fs : List LFail) : Option Cond :=
  match fs with
  | [] => none
  | f :: rest =>
    let first := rest.foldl (fun (b : LFail) x =>
      if x.cause.rank < b.cause.rank ∨ (x.cause.rank = b.cause.rank ∧ x.lane < b.lane) then x else b) f
    some (e.condOn first.cause (maskOf 128 (fun i => fs.any (fun x => x.lane == i && decide (x.cause = first.cause)))) first.va acc first.info first.detail)

/-- The log2 of an alignment of up to 32 bytes. -/
def log2Size (n : Nat) : Nat := if n = 1 then 0 else if n = 2 then 1 else if n = 4 then 2 else if n = 8 then 3 else if n = 16 then 4 else 5

/-- A lane's access of `n` bytes at an address: its failed checks, and its piece where it translates. `align` is 1 where none is asked. -/
def State.access (s : State) (e : Env) (l : Nat) (va : W64) (n align : Nat) (need : Need) : List LFail × Option Piece :=
  let mis := if va.toNat % align = 0 then [] else [(⟨l, .align, va, BitVec.ofNat 64 (log2Size align), 0⟩ : LFail)]
  match s.resolve e.q e.c.blk va n need with
  | .error f => (⟨l, f.cause, va, 0, f.detail⟩ :: mis, none)
  | .ok (loc, leaf) => (mis, some ⟨l, va, loc, leaf, []⟩)

/-- The parked line of a place, if any. -/
def Part.parkedAt (p : Part) (l : Loc) : Option Parked :=
  match l with
  | .dev pa => p.parked pa
  | _ => none

/-- The LOCATE failure of an access by the warp's core to a parked line (R202, R203). -/
def State.locateFail (s : State) (e : Env) (x : Piece) : List LFail :=
  match (s.part e.q).parkedAt x.loc, x.leaf with
  | some d, some f =>
    if (s.part e.q).judge d e.c.w.core f.park = .locate then [⟨x.lane, .locate, x.va, (s.part e.q).locateInfo d, 0⟩] else []
  | _, _ => []

/-- The MEMUE failure of a piece of `n` bytes, under a test of a place (R208). -/
def ueFail (bad : Loc → Bool) (x : Piece) (n : Nat) : List LFail :=
  match [x.loc, x.loc.add (n - 1)].find? bad with
  | some l => [⟨x.lane, .memue, x.va, 0, BitVec.ofNat 64 l.addr⟩]
  | none => []

/-- A lane's accesses for bytes `va … va+n−1`, cut at 128-byte lines (R211). -/
def cutLines (va : W64) (n : Nat) : List (W64 × Nat) :=
  let room := 128 - va.toNat % 128
  if n ≤ room then [(va, n)] else [(va, room), (va + BitVec.ofNat 64 room, n - room)]

/-- An access of `n` bytes at `va` of lane `l`, cut at 128-byte lines; whichever part fails, the lane's address is reported (R210, R211, R313). -/
def State.accessCut (s : State) (e : Env) (l : Nat) (va : W64) (n align : Nat) (need : Need) : List ((List LFail × Option Piece) × Nat) :=
  (cutLines va n).map (fun c =>
    let t := s.access e l c.1 c.2 align need
    ((t.1.map (fun f => { f with va := va }), t.2.map (fun p => { p with va := va })), c.2))

/-- A place as core `g` reads it is served by its L1 (R188). -/
def State.l1Serves (s : State) (q g : Nat) (beyond : Bool) (l : Loc) : Bool := !beyond && (s.ueL1 q g l).isSome

/-- Bytes of a place as a load of core `g` sees them: those that its L1 holds, or those that stand below, where a write on another path may still be missed (R237). -/
def State.loadL (s : State) (q g : Nat) (beyond : Bool) (l : Loc) (n : Nat) : List Byte :=
  let bs := s.rdLocL q g beyond l n
  if (s.part q).lag.isEmpty then bs
  else (List.range n).map (fun i => let x := l.add i; if s.l1Serves q g beyond x then bs.getD i 0 else s.seenOn q pathLS x (bs.getD i 0))

/-- The loads of a word on some lanes: the pieces with the bytes that each reads, and the condition (R210, R214, R220). -/
def State.loads (s : State) (e : Env) (lanes : List Nat) (addr : Nat → W64) (n align : Nat) (loc : Bool) : List Piece × Option Cond :=
  let m := e.mattr
  let tried := lanes.flatMap (fun l => s.accessCut e l (addr l) n align ⟨true, false, false⟩)
  let fails := tried.flatMap (fun t => t.1.1)
  let found := tried.filterMap (fun t => t.1.2.map (fun p => (p, t.2)))
  let fails := fails ++ found.flatMap (fun x => (if loc then [] else s.locateFail e x.1) ++ ueFail (s.ueLoad e.q e.c.w.core m.beyond) x.1 x.2)
  (found.map (fun x => { x.1 with bytes := s.loadL e.q e.c.w.core m.beyond x.1.loc x.2 }), e.failCond .read fails)

/-- The bytes that a lane's pieces hold, in address order. -/
def laneBytes (ps : List Piece) (l : Nat) : List Byte := (ps.filter (fun x => x.lane == l)).flatMap (fun x => x.bytes)

/-- The pages of pieces enter the TLBs at the commit (R187). -/
def tlbActs (ps : List Piece) : List Act := (ps.filterMap (fun x => x.leaf)).dedup.map Act.tlb

/-- The places of the bytes of pieces. -/
def placesOf (ps : List Piece) : List Loc := ps.flatMap (fun x => (List.range x.bytes.length).map (fun i => x.loc.add i))

/-- The stores of a word: their pieces and failed checks (R210, R216). A sector with an uncorrectable code raises MEMUE unless the word covers it
whole; an atomic (`rd`) reads it in any case (R208). -/
def State.stores (s : State) (e : Env) (addr : Nat → W64) (bytes : Nat → List Byte) (n : Nat) (need : Need) (rd : Bool) : List Piece × List LFail :=
  let tried := e.lanes.map (fun l => (s.access e l (addr l) n n need, bytes l))
  let fails := tried.flatMap (fun t => t.1.1)
  let ps := tried.filterMap (fun t => t.1.2.map (fun p => { p with bytes := t.2 }))
  let bad := if !s.anyBad e.q then []
    else if rd then ps.flatMap (fun x => ueFail (s.ueBelow e.q none) x n)
    else
      let whole := wholeSectors (placesOf ps)
      ps.flatMap (fun x => ueFail (fun l => s.ueStore e.q e.c.w.core l && !whole.contains l.sector) x n)
  (ps, fails ++ bad)

end Sys2Proof.Machine
end

