-- ==== Sys2Proof/Machine/Ctl.lean ====
section
/-! DEFINITION. Paths: reconvergence records with their spill, the unwind, and loop levels (R121-R124, R133-R135). -/

namespace Sys2Proof.Machine

/-! ### Spilled records (R122, R123) -/

/-- Spill entries of one record at a width (R122). -/
def spillEntries (w : Nat) : Nat := if w ≤ 32 then 1 else if w = 64 then 2 else 3

/-- A record as its spill entries (R123): PC fields are word offsets from CODEBASE. -/
def Rec.encode (r : Rec) (w : Nat) (base : W64) : List Byte :=
  let n := spillEntries w
  let off (a : W64) : Nat := (a - base).toNat / 4 % 2 ^ 30
  let rm := r.rmask.toNat
  let pm := r.pmask.toNat
  let e0 := bits rm 31 0 + bits pm 31 0 * 2 ^ 32 + (off r.tpc + b2n r.brxv * 2 ^ 30 + b2n r.jv * 2 ^ 31) * 2 ^ 64 +
    ((if r.jv then off r.jpc else 0) + (n - 1) * 2 ^ 30) * 2 ^ 96
  let e1 := bits rm 63 32 + bits pm 63 32 * 2 ^ 32 + bits rm 95 64 * 2 ^ 64 + bits pm 95 64 * 2 ^ 96
  let e2 := bits rm 127 96 + bits pm 127 96 * 2 ^ 32
  leBytes 16 e0 ++ (if 2 ≤ n then leBytes 16 e1 else []) ++ (if 3 ≤ n then leBytes 16 e2 else [])

/-- The record that spill entries hold (R123). -/
def Rec.decode (l : List Byte) (base : W64) : Rec :=
  let e0 := leNat (l.take 16)
  let e1 := leNat ((l.drop 16).take 16)
  let e2 := leNat ((l.drop 32).take 16)
  let pc (x : Nat) : W64 := base + BitVec.ofNat 64 (4 * x)
  { brxv := bitN e0 94
    rmask := BitVec.ofNat 128 (bits e0 31 0 + bits e1 31 0 * 2 ^ 32 + bits e1 95 64 * 2 ^ 64 + bits e2 31 0 * 2 ^ 96)
    pmask := BitVec.ofNat 128 (bits e0 63 32 + bits e1 63 32 * 2 ^ 32 + bits e1 127 96 * 2 ^ 64 + bits e2 63 32 * 2 ^ 96)
    tpc := pc (bits e0 93 64)
    jv := bitN e0 95
    jpc := pc (bits e0 125 96) }

/-- What R123 gives as zero is zero in a record's entries at a width: mask bits at or above W, and entry 2 [127:64]. -/
def recZero (l : List Byte) (w : Nat) : Bool :=
  let r := Rec.decode l 0
  (r.rmask ||| r.pmask) &&& ~~~fullMask w == 0 && leNat ((l.drop 40).take 8) == 0

/-- The address of a context's spill entry `i` (R23). -/
def spillAddr (k : KDesc) (w : WRef) (i : Nat) : W64 := k.spillBase + BitVec.ofNat 64 ((wkey w * k.spill + i) * 16)

/-- The places of a list of a context's spill entries, each entry an access of 16 bytes (R122): the first failure stops. -/
def State.spillPlaces (s : State) (q : Nat) (c : Ctx) (w : WRef) (need : Need) : List Nat → Except Fail (List Loc)
  | [] => .ok []
  | i :: l =>
    match s.resolve q c.blk (spillAddr c.grid.k w i) 16 need with
    | .error e => .error e
    | .ok (x, _) =>
      if (if need.w then s.ueStore q c.w.core x else s.ueBelow q (some (cluOf c.w.core)) x) then .error ⟨.memue, BitVec.ofNat 64 x.addr⟩
      else match s.spillPlaces q c w need l with
        | .error e => .error e
        | .ok xs => .ok (x :: xs)

/-- The entries that record number `i` takes. -/
def spillIdx (width i : Nat) : List Nat := (List.range (spillEntries width)).map (fun j => i * spillEntries width + j)

/-- Write a record into a context's spill area, as record number `i` (R122): accesses by the warp. -/
def State.spillWrite (s : State) (q : Nat) (c : Ctx) (w : WRef) (width i : Nat) (r : Rec) : Except Fail State :=
  match s.spillPlaces q c w ⟨false, true, false⟩ (spillIdx width i) with
  | .error e => .error e
  | .ok xs =>
    let bs := r.encode width c.grid.k.codeBase
    .ok ((List.range xs.length).foldl (fun (s : State) j => s.store q c.w.core ((s.part q).payerOf c.w) (xs.getD j (.dev 0)) ((bs.drop (16 * j)).take 16)) s)

/-- Read record number `i` of a context's spill area (R122); one with a non-zero field that R123 gives as zero is rejected with cause OPERAND, which R5 leaves to the
record's chapter and that does not say (DESIGN CHOICE, log 18). -/
def State.spillRead (s : State) (q : Nat) (c : Ctx) (w : WRef) (width i : Nat) : Except Fail Rec :=
  match s.spillPlaces q c w ⟨true, false, false⟩ (spillIdx width i) with
  | .error e => .error e
  | .ok xs =>
    let bs := xs.flatMap (fun l => s.rdLocL q c.w.core true l 16)
    if recZero bs width then .ok (Rec.decode bs c.grid.k.codeBase) else .error ⟨.operand, 0⟩

/-- What a failing access to record number `i` of a context's spill area gives a fault record; the address is that of the record's first entry (R122, R317). -/
def spillFail (k : KDesc) (w : WRef) (width i : Nat) (acc : Acc) (f : Fail) : CopyFail :=
  ⟨f.cause, if f.cause = .stackovf then 0 else spillAddr k w (i * spillEntries width), f.detail, acc⟩

/-- The requests and replies of `n` records of a width that go to a spill area or come from it besides a run's own push or pop are owed and wait for no token (R88, R87;
log 34). -/
def State.oweSpill (s : State) (q : Nat) (c : Ctx) (width n : Nat) : State :=
  let b := 16 * spillEntries width
  if n = 0 ∨ regionOf c.grid.k.spillBase ≠ .global then s else s.owe q ((s.part q).payerOf c.w) (n * ((b + 31) / 32 * 32)) (n * (64 + dataFlits b))

/-- What a push would raise (R122): STACKOVF when the spill area has no room, or the failure of the spill write. -/
def State.pushFail (s : State) (q : Nat) (c : Ctx) : Option Fail :=
  if c.x.stack.length < 16 then none
  else
    let n := spillEntries c.x.width
    if c.grid.k.spill < (c.x.spilled + 1) * n then some ⟨.stackovf, BitVec.ofNat 64 c.grid.k.spill⟩
    else
      match c.x.stack.getLast? with
      | none => none
      | some r => match s.spillWrite q c c.w c.x.width c.x.spilled r with
        | .error e => some e
        | .ok _ => none

/-- Push a record; with 16 on chip the oldest moves to the spill area first (R122). -/
def State.push (s : State) (q : Nat) (w : WRef) (r : Rec) : State :=
  match (s.part q).ctx w with
  | none => s
  | some c =>
    if c.x.stack.length < 16 then s.modPart q (fun p => p.setWarp w { c.x with stack := r :: c.x.stack })
    else
      match c.x.stack.getLast? with
      | none => s
      | some o =>
        match s.spillWrite q c w c.x.width c.x.spilled o with
        | .error _ => s
        | .ok s => s.modPart q (fun p => p.modWarp w (fun x => { x with stack := r :: x.stack.dropLast, spilled := x.spilled + 1 }))

/-- Levels that remain when the record count falls: one whose RD0 lies above it ends, with every level inside it (R135). `levels` is innermost first; in a
handler the levels are frozen (R314). -/
def Warp.trimLevels (x : Warp) : Warp :=
  if x.trap.inh then x else { x with levels := x.levels.dropWhile (fun l => decide (x.rd < l.rd0)) }

/-- The failure of the reload that a pop would need (R122). -/
def State.popFail (s : State) (q : Nat) (c : Ctx) : Option Fail :=
  if c.x.stack.length = 1 ∧ 0 < c.x.spilled then
    match s.spillRead q c c.w c.x.width (c.x.spilled - 1) with
    | .error e => some e
    | .ok _ => none
  else none

/-- Pop the top record; when none is left on chip the last spilled one is read back (R122). -/
def State.pop (s : State) (q : Nat) (w : WRef) : State :=
  match (s.part q).ctx w with
  | none => s
  | some c =>
    let rest := c.x.stack.drop 1
    if rest.isEmpty ∧ 0 < c.x.spilled then
      match s.spillRead q c w c.x.width (c.x.spilled - 1) with
      | .error _ => s.modPart q (fun p => p.setWarp w ({ c.x with stack := rest, spilled := 0 } : Warp).trimLevels)
      | .ok r => s.modPart q (fun p => p.setWarp w ({ c.x with stack := [r], spilled := c.x.spilled - 1 } : Warp).trimLevels)
    else s.modPart q (fun p => p.setWarp w ({ c.x with stack := rest } : Warp).trimLevels)

/-- The reload that a pop needs is owed. -/
def State.oweReload (s : State) (q : Nat) (w : WRef) : State :=
  match (s.part q).ctx w with
  | none => s
  | some c => if c.x.stack.length = 1 ∧ 0 < c.x.spilled then s.oweSpill q c c.x.width 1 else s

/-- Replace the top record. -/
def Warp.setTop (x : Warp) (r : Rec) : Warp := { x with stack := r :: x.stack.drop 1 }

/-! ### The unwind (R124) -/

/-- The failure of the reload on which an unwind stands still: the path is empty, no waiting lane is live, and the last record on chip is to be popped (R122). -/
def State.stuck (s : State) (q : Nat) (w : WRef) : Option Fail :=
  match (s.part q).ctx w with
  | none => none
  | some c =>
    if c.x.live = 0 ∨ c.x.path ≠ 0 then none
    else match c.x.stack with
      | [] => none
      | r :: _ => if r.pmask &&& c.x.live ≠ 0 then none else s.popFail q c

/-- The failing reload on which a warp stands still that is not fault-parked, as its fault gives it. -/
def State.stuckFail (s : State) (q : Nat) (w : WRef) : Option CopyFail :=
  match (s.part q).ctx w, s.stuck q w with
  | some c, some f => match c.x.wait with
    | .fault .. => none
    | _ => some (spillFail c.grid.k w c.x.width (c.x.spilled - 1) .read f)
  | _, _ => none

/-- The condition of a failing spill access. -/
def CopyFail.cond (f : CopyFail) (pos : Nat) (mask : Mask) : Cond := ⟨pos, f.cause, mask, f.addr, f.acc, 0, f.detail⟩

/-- One iteration of the unwind for each unit of fuel, while no live lane is on the path; it stands still where a reload fails. -/
def State.unwind (s : State) (q : Nat) (w : WRef) : Nat → State
  | 0 => s
  | fuel + 1 =>
    match (s.part q).warp w with
    | none => s
    | some x =>
      if x.path != 0 || (s.stuck q w).isSome then s
      else
        match x.stack with
        | [] => s
        | r :: _ =>
          let p := r.pmask &&& x.live
          if p ≠ 0 then
            let x := { x with m := p, pc := r.tpc }
            s.modPart q (fun y => y.setWarp w (if r.brxv then { x with resuming := true } else x.setTop { r with pmask := 0 }))
          else
            let s := (s.oweReload q w).pop q w
            let m := r.rmask &&& x.live
            let s := s.modPart q (fun y => y.modWarp w (fun x => { x with m := m, pc := if m ≠ 0 ∧ r.jv then r.jpc + 4 else x.pc }))
            s.unwind q w fuel

/-! ### Loops (R133-R135) -/

/-- A target lies within a level's body. -/
def Level.inside (l : Level) (t : W64) : Bool := decide (l.start.toNat ≤ t.toNat ∧ t.toNat ≤ l.stop.toNat)

/-- A taken `bra`, `brx` or `ret` ends every level whose body its target leaves (R135). -/
def Warp.leave (x : Warp) (t : W64) : Warp := if x.trap.inh then x else { x with levels := x.levels.dropWhile (fun l => !l.inside t) }

def Warp.lc (x : Warp) (k : Nat) : W32 := match k with | 0 => x.lc0 | 1 => x.lc1 | _ => x.lc2
def Warp.setLc (x : Warp) (k : Nat) (v : W32) : Warp :=
  match k with
  | 0 => { x with lc0 := v }
  | 1 => { x with lc1 := v }
  | _ => { x with lc2 := v }

/-- The body-end test of R134, steps 3 and 4, after a run whose last word is at `last`, for the levels from the innermost outward. -/
def Warp.loopEnd (x : Warp) (last : W64) : Nat → Warp
  | 0 => x
  | fuel + 1 =>
    match x.levels with
    | [] => x
    | l :: rest =>
      if l.stop ≠ last then x
      else
        let k := rest.length
        if (x.lc k).toNat ≤ 1 then ({ x with levels := rest, pc := last + 4 } : Warp).loopEnd last fuel
        else { x.setLc k (x.lc k - 1) with pc := l.start }

/-- Whether R134's step 2 raises OPERAND: at a body end, the record count that the run would leave differs from RD0, for the innermost level and each enclosing one that
step 3 would then reach. -/
def loopBad (x : Warp) (last : W64) (rd : Nat) : List Level → Bool
  | [] => false
  | l :: rest =>
    if l.stop ≠ last then false
    else if rd ≠ l.rd0 then true
    else if (x.lc rest.length).toNat ≤ 1 then loopBad x last rd rest
    else false

end Sys2Proof.Machine
end

