-- ==== Sys2Proof/Machine/Warps.lean ====
section
/-! DEFINITION. Contexts, retirement, split and fuse (R81, R96-R98, R103, R107-R112, R117). -/

namespace Sys2Proof.Machine

/-! ### Free contexts and registers (R81, R103, R117) -/

/-- The warps on a core. -/
def Part.warpsOn (p : Part) (g : Nat) : List (WRef × Warp) :=
  (p.warps.filter (fun x => x.1 / 64 == g)).map (fun x => (keyRef x.1, x.2))

/-- The strips of lanes b … b+w−1. -/
def stripsOf (b w : Nat) : List Nat := (List.range 4).filter (fun s => decide (b < 32 * s + 32 ∧ 32 * s < b + w))

/-- A context is free for width `w` at base `b`: fewer than 64 warps, and an issue slot in every strip it spans (R117). -/
def ctxFree (ws : List (Nat × Nat)) (b w : Nat) : Bool :=
  decide (ws.length < 64) && (stripsOf b w).all (fun s => decide ((ws.filter (fun x => (stripsOf x.1 x.2).contains s)).length < 16))

/-- The lowest free context slots of a core. -/
def Part.freeSlots (p : Part) (g : Nat) : List Nat := (List.range 64).filter (fun i => (p.warp ⟨g, i⟩).isNone)

/-- Two ranges of lanes meet. -/
def meets (b w b' w' : Nat) : Bool := decide (b < b' + w' ∧ b' < b + w)

/-- The lowest multiple of 16 at which `n` entries are free in every lane of a range, given the allocations (base, width, file base, N) on the core (R103). -/
def regFit (al : List (Nat × Nat × Nat × Nat)) (b w n : Nat) : Option Nat :=
  ((List.range 32).map (fun i => 16 * i)).find? (fun e => decide (e + n ≤ 512) &&
    al.all (fun a => !(meets a.1 a.2.1 b w && meets a.2.2.1 a.2.2.2 e n)))

/-- A warp's allocation: base lane, width, file base, N. -/
def Warp.alloc (x : Warp) : Nat × Nat × Nat × Nat := (x.base, x.width, x.fileBase, x.n)

/-! ### Retirement (R98) -/

/-- A warp retires once IFC = 0 (R98): its locks pass on, it counts at its barriers and as triggered, its regions close, and its context and registers
are free. -/
def Part.retireWarp (p : Part) (w : WRef) : Part :=
  match p.ctx w with
  | none => p
  | some c =>
    let p := p.breakLocks c.x.uid
    let p := p.delWarp w
    let p := p.retireAtBars c.x c.blk
    (p.checkTrigger c.grid.seq).freeRaces

/-- Whether an `mcrd` still under way names a block's core as a target (R242). -/
def Part.mcrdTo (p : Part) (b : Block) : Bool :=
  let names (c : CopyCmd) : Bool := match c.kind with
    | .mcrd _ _ mask _ => c.gang == b.gang && bitN mask (b.core % 48)
    | _ => false
  p.cores.any (fun x => x.2.copyQ.any names) || p.clusters.any (fun x => x.2.active.any names)

/-- A block may retire: its last warp has gone and no multicast names it (R98). -/
def Part.blockDone (p : Part) (b : Block) : Bool := (p.warpsOf b.id).isEmpty && !p.mcrdTo b

/-- A block retires: its scratchpad is free, and its gang goes with its last block (R98); the division of its class changes (R87). -/
def Part.retireBlock (p : Part) (b : Block) (now : Nat) : Part :=
  let p := { p.settle now with blocks := p.blocks.filter (fun x => x.id != b.id) }
  let p := if (p.blocksOf b.gang).isEmpty then { p with gangs := p.gangs.filter (fun g => g.id != b.gang) } else p
  p.checkTrigger b.grid

/-- The gangs of a grid that stand in images. -/
def Part.awayOf (p : Part) (seq : Nat) : Bool := p.away.any (fun a => a.grid == seq)

/-- A grid completes (R79, R358): its supply is exhausted and every block has retired. -/
def Part.gridDone (p : Part) (g : Grid) : Bool := g.started && g.exhausted && (p.gridBlocks g.seq).isEmpty && !p.awayOf g.seq

/-- Completion of a grid (R79, R358): TEV if still due, then CEV; ACTIVE falls; the interrupt comes last. -/
def State.completeGrid (s : State) (q : Nat) (g : Grid) : State :=
  let s := s.modPart q (fun p =>
    let p := if g.triggered then p else match g.l.tev with | some e => p.bumpEvent e | none => p
    let p := match g.l.cev with | some e => p.bumpEvent e | none => p
    { p with grids := p.grids.filter (fun x => x.seq != g.seq) })
  if g.l.irq then { s with outbox := s.outbox ++ [.irq q g.queue] } else s

/-! ### No live lane (R96) -/

/-- The stack is discarded, LDEPTH and INH become 0 (R96, R314, R135). -/
def Warp.cleared (x : Warp) : Warp :=
  { x with stack := [], spilled := 0, levels := [], resuming := false, trap := { x.trap with inh := false } }

/-- The warp is to retire, once its IFC is 0 (R98). -/
def Warp.retires (x : Warp) : Warp := { x.cleared with wait := .retire }

/-- A warp with no live lane before its next run (R95, R96): a refill kernel goes on at its refill point with M holding every lane, a classic one retires. -/
def Warp.noLive (x : Warp) (k : KDesc) : Warp :=
  if k.refill = 0 then x.retires else { x.cleared with pc := k.refill, m := fullMask x.width, refillRun := true }

/-- The warp waits in a `split` for its IFC (R108): what follows its run comes once it has divided or has its code. -/
def Warp.splitting (x : Warp) : Bool := match x.wait with | .split .. => true | _ => false

/-- What follows a commit before the warp's next run: R96 when no lane is live, the unwind when the path is empty (R124). -/
def State.settleWarp (s : State) (q : Nat) (w : WRef) : State :=
  match (s.part q).ctx w with
  | none => s
  | some c =>
    if decide (c.x.wait = .retire) || c.x.splitting then s
    else if c.x.live = 0 then
      if c.x.refillRun then s else s.modPart q (fun p => p.setWarp w (c.x.noLive c.grid.k))
    else s.unwind q w 300

/-- A failing spill access that no run's commit makes is a supervisor fault of its warp at `pc` (R122, R316; DESIGN CHOICE, log 64). -/
def State.spillFault (s : State) (q : Nat) (c : Ctx) (f : CopyFail) (pc : W64) : State :=
  let s := if f.cause = .memue then s.logUe q f.detail.toNat else s
  s.modPart q (fun p => p.supFault c (f.cond 0 c.x.live) pc pc s.now)

/-- What comes before the next run of a warp that a release or a restoration lets go on: a reload that fails in its unwind faults (log 64). -/
def State.settleLate (s : State) (q : Nat) (w : WRef) : State :=
  let s := s.settleWarp q w
  match s.stuckFail q w, (s.part q).ctx w with
  | some f, some c => s.spillFault q c f c.x.pc
  | _, _ => s

/-! ### Split (R108, R109) -/

/-- Cut a mask to lanes `lo … lo+w−1`. -/
def cutMask (m : Mask) (lo w : Nat) : Mask := (m >>> lo) &&& fullMask w
def Rec.cut (r : Rec) (lo w : Nat) : Rec := { r with rmask := cutMask r.rmask lo w, pmask := cutMask r.pmask lo w }

/-- Sub-warp `i` of a split into widths `w` (R109), without its context's own numbers. Arrivals that the warp has made at barriers stay with sub-warp 0, for their removal
at its retirement (R255) and for inheritance (R259): the spec names no sub-warp for them (DESIGN CHOICE, log 65). -/
def Warp.sub (x : Warp) (i w : Nat) : Warp :=
  { x with
    base := x.base + i * w
    width := w
    m := cutMask x.m (i * w) w
    stack := x.stack.map (fun r => r.cut (i * w) w)
    lanes := (x.lanes.drop (i * w)).take w
    trap := { x.trap with savedM := cutMask x.trap.savedM (i * w) w }
    linh := if i = 0 then x.linh else 0
    binh := 0
    arr := if i = 0 then x.arr else []
    mmas := [] }

/-- The lowest free `wid` values of a block (R109). -/
def Part.freeWids (p : Part) (blk : Nat) : List Nat :=
  (List.range 64).filter (fun i => !(p.warpsOf blk).any (fun x => x.2.wid == i))

/-- Copy a warp's spilled records to another context, cut to its lanes: the first failing access stops (R109, R122). -/
def State.copySpill (s : State) (q : Nat) (c : Ctx) (to_ : WRef) (lo w : Nat) (rs : List Rec) : Except CopyFail State :=
  tryAll (fun (s : State) (x : Nat × Rec) => match s.spillWrite q c to_ w x.1 (x.2.cut lo w) with
    | .ok s => .ok s
    | .error f => .error (spillFail c.grid.k to_ w x.1 .write f)) (s.oweSpill q c w rs.length) ((List.range rs.length).zip rs)

/-- The spilled records of a warp, oldest first. -/
def State.spilledRecs (s : State) (q : Nat) (c : Ctx) : Except CopyFail (List Rec) :=
  tryAll (fun (l : List Rec) i => match s.spillRead q c c.w c.x.width i with
    | .ok r => .ok (l ++ [r])
    | .error f => .error (spillFail c.grid.k c.w c.x.width i .read f)) [] (List.range c.x.spilled)

/-- What comes before the first run of a sub-warp: the first reload that fails is the split's (log 64). -/
def State.settleSub (s : State) (q : Nat) (w : WRef) : Except CopyFail State :=
  let s := s.settleWarp q w
  match s.stuckFail q w with
  | some f => .error f
  | none => .ok s

/-- The split takes place (R108, R109): D of each sub-warp holds its index. It fails where an access to the spill areas fails (R122). Sub-warp 0 keeps the warp's identity
for race detection too, where R287 calls sub-warps distinct warps: its later releases and its retirement close the regions that the warp opened before the split, and
those of the others do not (DESIGN CHOICE, log 65). -/
def State.splitWarp (s : State) (q : Nat) (c : Ctx) (d : Reg) (w : Nat) : Except CopyFail State :=
  let n := c.x.width / w
  let slots := (s.part q).freeSlots c.w.core
  let wids := (s.part q).freeWids c.blk.id
  let ref (i : Nat) : WRef := if i = 0 then c.w else ⟨c.w.core, slots.getD (i - 1) 0⟩
  match s.spilledRecs q c with
  | .error f => .error f
  | .ok recs =>
    let divide (s : State) (i : Nat) : Except CopyFail State :=
      let x := (c.x.sub i w).setS d (BitVec.ofNat 64 i)
      let s := s.modPart q (fun p =>
        if i = 0 then p.setWarp c.w { x with wait := .none, region := c.x.region + b2n c.grid.k.race }
        else { p.setWarp (ref i) { x with uid := p.warpSeq, wid := wids.getD (i - 1) 0, wait := .none, region := 0 } with warpSeq := p.warpSeq + 1 })
      s.copySpill q c (ref i) (i * w) w recs
    match tryAll divide ((s.oweSpill q c c.x.width recs.length).modPart q (fun p => p.closeRegion c.w .blk)) (List.range n) with
    | .error f => .error f
    | .ok s => tryAll (fun (s : State) i => s.settleSub q (ref i)) s (List.range n)

/-- Too few free contexts for a split (R108, R117). -/
def Part.splitNoCtx (p : Part) (c : Ctx) (w : Nat) : Bool :=
  let n := c.x.width / w
  let others := ((p.warpsOn c.w.core).filter (fun x => x.1 != c.w)).map (fun x => (x.2.base, x.2.width))
  let subs := (List.range n).map (fun i => (c.x.base + i * w, w))
  decide (64 < others.length + n) ||
  (List.range 4).any (fun st => decide (16 < ((others ++ subs).filter (fun x => (stripsOf x.1 x.2).contains st)).length))

/-- Write a result code, as 64-bit two's complement, and end a wait. -/
def Warp.result (x : Warp) (d : Reg) (v : Int) : Warp := { x.setS d (BitVec.ofInt 64 v) with wait := .none }

/-- `split`'s remaining checks and its effect, once its IFC is 0 or its wait is over (R108). -/
def State.trySplit (s : State) (q : Nat) (c : Ctx) (d : Reg) (w : Nat) : Except CopyFail State :=
  if c.x.ifc ≠ 0 then .ok (s.modPart q (fun p => p.setWarp c.w (c.x.result d (-4))))
  else if (s.part q).splitNoCtx c w then .ok (s.modPart q (fun p => p.setWarp c.w (c.x.result d (-10))))
  else s.splitWarp q c d w

/-- `split` as the run-terminal word of a commit (R108): a w that is no legal width gives −9; with IFC 0 it goes on at once, else the warp waits at the word, whose
address is `a`. -/
def State.doSplit (s : State) (q : Nat) (c : Ctx) (d : Reg) (v : W64) (a : W64) : Except CopyFail State :=
  if [8, 16, 32, 64].contains v.toNat && decide (v.toNat < c.x.width) then
    if c.x.ifc = 0 then s.trySplit q c d v.toNat
    else .ok (s.modPart q (fun p => p.setWarp c.w { c.x with wait := .split d v.toNat s.now a, pc := a }))
  else .ok (s.modPart q (fun p => p.setWarp c.w (c.x.setS d (BitVec.ofInt 64 (-9)))))

/-- The word is a `split` that waits at its commit. -/
def Warp.splitWaits (x : Warp) (v : W64) : Bool := [8, 16, 32, 64].contains v.toNat && decide (v.toNat < x.width) && x.ifc != 0

/-- A `split` whose wait is over goes on (R108): the loop test of its run comes now (R134), and what follows the run after it. Where an access to the spill areas fails,
nothing of it happens: the undivided warp faults at the word, and its release issues the word again (log 64). -/
def State.lateSplit (s : State) (q : Nat) (c : Ctx) (d : Reg) (w : Nat) (a : W64) : State :=
  let x := { c.x with wait := .none, pc := a + 4 }
  let x := if x.trap.inh || x.live == 0 then x else x.loopEnd a 4
  match (s.modPart q (fun p => p.setWarp c.w x)).trySplit q { c with x := x } d w with
  | .ok z => z.settleWarp q c.w
  | .error f => s.spillFault q c f a

/-! ### Fuse (R110-R112) -/

/-- The constituents of the group of width `w` around a warp of a block: the block's warps whose lanes lie in it, lowest first (R110). -/
def Part.constituents (p : Part) (g b w blk : Nat) : List (WRef × Warp) :=
  let b' := b - b % w
  (List.range (w / 8)).flatMap (fun i => (p.warpsOn g).filter (fun x => x.2.block == blk && decide (x.2.base = b' + 8 * i ∧ x.2.base + x.2.width ≤ b' + w)))

/-- Every lane of the group of width `w` around lane `b` belongs to a warp of a list. -/
def fuseCovers (ws : List (WRef × Warp)) (b w : Nat) : Bool :=
  let b' := b - b % w
  (List.range (w / 8)).all (fun i => ws.any (fun x => decide (x.2.base ≤ b' + 8 * i ∧ b' + 8 * i < x.2.base + x.2.width)))

/-- Every lane of the group belongs to a warp of the block, and none to a warp of another (R110). -/
def Part.groupFull (p : Part) (g b w blk : Nat) : Bool :=
  fuseCovers ((p.warpsOn g).filter (fun x => x.2.block == blk)) b w &&
    (p.warpsOn g).all (fun x => x.2.block == blk || !meets x.2.base x.2.width (b - b % w) w)

/-- A constituent has arrived at the rendezvous: the width, the address of its word, since when, whether it is `fuse.r`, and D. -/
def Warp.fuseArrived (x : Warp) : Option (Nat × W64 × Nat × Bool × Reg) :=
  match x.wait with
  | .fuse d w r t a => some (w, a, t, r, d)
  | _ => none

/-- Since when a constituent has been waiting; while it stands stopped, its wait holds the time that had passed (R110, R321). -/
def Warp.arrivedAt (x : Warp) (t now : Nat) : Nat := if x.stopped.isSome then now - t else t

/-- Give a code to every warp of a list that waits in a fuse. -/
def Part.fuseGive (p : Part) (ws : List (WRef × Warp)) (v : Int) : Part :=
  ws.foldl (fun p y => match y.2.wait with
    | .fuse d _ _ _ _ => p.modWarp y.1 (fun x => x.result d v)
    | _ => p) p

/-- An IFC of 0 at every constituent of the group around lane `b`, and every one arrived (R110). -/
def fuseReady (ws : List (WRef × Warp)) (b w : Nat) : Bool :=
  !ws.isEmpty && ws.all (fun y => y.2.ifc == 0 && y.2.stopped.isNone && (match y.2.wait with | .fuse _ v _ _ _ => v == w | _ => false)) && fuseCovers ws b w

/-- Two constituents share a lane: together they are wider than the group. -/
def fuseShares (ws : List (WRef × Warp)) (w : Nat) : Bool := decide (w < (ws.map (fun y => y.2.width)).foldl (· + ·) 0)

/-- A tun of a strip of the group is fenced, and the group spans strips (R110). -/
def Part.fuseFenced (p : Part) (g b w : Nat) : Bool :=
  let st := stripsOf (b - b % w) w
  decide (1 < st.length) && st.any (fun i => ((p.core g).tuns.rd i).fenced)

/-- The first code of R110's checks at completion, for `fuse` (`r` false) and `fuse.r`. Constituents that share a lane get −2: `fuse` finds their file bases
different, and for `fuse.r` the spec leaves the code open (DESIGN CHOICE, log 25). -/
def Part.fuseCode (p : Part) (g b w : Nat) (r : Bool) (ws : List (WRef × Warp)) : Option Int :=
  if ws.any (fun y => y.2.rd != 0) then some (-5)
  else if p.fuseFenced g b w then some (-6)
  else if 2 ≤ (ws.filter (fun y => (p.waitsOn y.2.uid).isSome)).length then some (-11)
  else if fuseShares ws w then some (-2)
  else if r then
    let nmax := (ws.map (fun y => y.2.n)).foldl max 0
    let others := ((p.warpsOn g).filter (fun y => !ws.any (fun z => z.1 == y.1))).map (fun y => y.2.alloc)
    if (regFit others (b - b % w) w nmax).isNone then some (-2) else none
  else
    match ws with
    | [] => some (-1)
    | y :: l =>
      if l.any (fun z => z.2.fileBase != y.2.fileBase || z.2.n != y.2.n) then some (-2)
      else if l.any (fun z => z.2.wb != y.2.wb) then some (-3)
      else none

/-- A constituent's lanes' entries of the file, as (lane, p, value), under its own numbering. -/
def Core.gather (c : Core) (x : Warp) : List (Nat × Nat × W32) :=
  (List.range x.width).flatMap (fun i => (List.range x.n).map (fun r => (x.base + i, r, c.reg (x.base + i) (x.fileBase + r))))

/-- The copy of `fuse.r` (R112). -/
def Core.refile (c : Core) (ws : List (WRef × Warp)) (b w fb nmax wb0 : Nat) : Core :=
  let vals := ws.flatMap (fun y => (c.gather y.2).filterMap (fun v =>
    if v.2.1 < 16 then some v
    else if 16 + y.2.wb ≤ v.2.1 + wb0 ∧ v.2.1 + wb0 - y.2.wb < nmax then some (v.1, v.2.1 + wb0 - y.2.wb, v.2.2)
    else none))
  let c := ws.foldl (fun c y => c.clearRegs y.2.base y.2.width y.2.fileBase y.2.n) c
  vals.foldl (fun c v => c.setReg v.1 (fb + v.2.1) v.2.2) (c.clearRegs b w fb nmax)

/-- The fused warp (R111, R112), a warp of its own with an open region of its own (R301). -/
def fusedWarp (lo : Warp) (ws : List (WRef × Warp)) (w fb n wb : Nat) (d : Reg) (uid : Nat) : Warp :=
  let x : Warp := { lo with
    uid := uid
    width := w
    base := lo.base - lo.base % w
    m := ws.foldl (fun (m : Mask) y => m ||| BitVec.shiftLeft y.2.m (y.2.base - (lo.base - lo.base % w))) 0
    refillRun := false
    resuming := false
    lanes := ws.flatMap (fun y => y.2.lanes)
    fileBase := fb
    n := n
    wb := wb
    fflags := ws.foldl (fun (f : BitVec 6) y => f ||| y.2.fflags) 0
    mx := ws.foldl (fun (f : BitVec 4) y => f ||| y.2.mx) 0
    trdy := ws.foldl (fun (f : W64) y => f ||| y.2.trdy) 0
    terr := ws.foldl (fun (f : W64) y => f ||| y.2.terr) 0
    triggered := ws.all (fun y => y.2.triggered)
    linh := ws.foldl (fun m y => max m y.2.linh) 0
    binh := ws.foldl (fun m y => max m y.2.binh) 0
    last := ws.foldl (fun m y => min m y.2.last) lo.last
    region := 0
    arr := (List.range 17).filterMap (fun i =>
      let n := (ws.map (fun y => y.2.arrivals i)).foldl (· + ·) 0
      if n = 0 then none else some (i, n))
    wait := .none }
  x.setS d 0

/-- What the constituents leave to the fused warp: their locks and the one waiter entry (R111), the `tlbi` words that they wait for (R327), and, in race
detection, their closings still to come (R301). -/
def Part.inherit (p : Part) (uids : List Nat) (uid : Nat) (race : Bool) : Part :=
  { p with
    locks := p.locks.map (fun l => { l with
      holder := l.holder.map (fun h => if uids.contains h then uid else h)
      grant := l.grant.map (fun g => if uids.contains g.1 then (uid, g.2) else g)
      waiters := updIf (fun w => uids.contains w.uid) (fun w => { w with uid := uid }) l.waiters })
    shoot := updIf (fun t => uids.contains t.uid) (fun t => { t with uid := uid }) p.shoot
    merged := if race then uids.foldl (fun m u => AMap.wr m u uid) p.merged else p.merged }

/-- The rendezvous of a group completes if every constituent has arrived with IFC 0: a code to all, or the fusion (R110-R112). -/
def State.tryFuse (s : State) (q : Nat) (w : WRef) : State :=
  match (s.part q).ctx w with
  | none => s
  | some c =>
    match c.x.fuseArrived with
    | none => s
    | some (width, _, _, r, _) =>
      let p := s.part q
      let ws := p.constituents w.core c.x.base width c.blk.id
      if !fuseReady ws c.x.base width then s
      else
        match p.fuseCode w.core c.x.base width r ws, ws with
        | some v, _ => s.setPart q (p.fuseGive ws v)
        | none, [] => s
        | none, lo :: rest =>
          let nmax := if r then (ws.map (fun y => y.2.n)).foldl max 0 else lo.2.n
          let b := lo.2.base - lo.2.base % width
          let others := ((p.warpsOn w.core).filter (fun y => !ws.any (fun z => z.1 == y.1))).map (fun y => y.2.alloc)
          let fb := if r then (regFit others b width nmax).getD 0 else lo.2.fileBase
          let p := if r then p.setCore w.core ((p.core w.core).refile ws b width fb nmax lo.2.wb) else p
          let p := ws.foldl (fun p y => p.closeRegion y.1 .blk) p
          let p := rest.foldl (fun p y => p.delWarp y.1) p
          let d := match lo.2.wait with | .fuse d _ _ _ _ => d | _ => 120
          let x := fusedWarp lo.2 ws width fb nmax lo.2.wb d p.warpSeq
          let p : Part := { p.setWarp lo.1 x with warpSeq := p.warpSeq + 1 }
          let p := p.inherit (ws.map (fun y => y.2.uid)) x.uid c.grid.k.race
          (s.setPart q p).settleWarp q lo.1

/-- `fuse` at its own commit (R110), the word at address `a`: −9 or −8 at once, or the arrival; an arrival at another address or width gives −1 to all. A width
above W that is no legal width gets −9 too: the spec names only those above 128 and those not above W (DESIGN CHOICE, log 25). -/
def State.arriveFuse (s : State) (q : Nat) (w : WRef) (d : Reg) (v : W64) (r : Bool) (a : W64) : State :=
  match (s.part q).ctx w with
  | none => s
  | some c =>
    let p := s.part q
    let n := v.toNat
    if !([8, 16, 32, 64, 128].contains n) || decide (n ≤ c.x.width) then s.setPart q (p.setWarp w (c.x.result d (-9)))
    else if !p.groupFull w.core c.x.base n c.blk.id then s.setPart q (p.setWarp w (c.x.result d (-8)))
    else
      let b := c.x.base - c.x.base % n
      let inRange := (p.warpsOn w.core).filter (fun y => y.1 != w && y.2.block == c.blk.id && (match y.2.wait with
        | .fuse _ v' _ _ _ => meets (y.2.base - y.2.base % v') v' b n
        | _ => false))
      let clash := inRange.any (fun y => match y.2.wait with | .fuse _ v' r' _ a' => v' != n || r' != r || a' != a | _ => false)
      if clash then s.setPart q ((p.fuseGive inRange (-1)).setWarp w (c.x.result d (-1)))
      else
        let since := inRange.foldl (fun (t : Nat) (y : WRef × Warp) => match y.2.wait with | .fuse _ _ _ t' _ => min t (y.2.arrivedAt t' s.now) | _ => t) s.now
        (s.setPart q (p.setWarp w { c.x with wait := .fuse d n r since a })).tryFuse q w

/-- 4,096 cc after the first arrival (R110): −7 to those that have arrived, or −4 if all have and some IFC is not 0. -/
def Part.fuseTimeout (p : Part) (w : WRef) : Part :=
  match p.warp w with
  | none => p
  | some x => match x.fuseArrived with
    | none => p
    | some (width, _, _, _, _) =>
      let ws := p.constituents w.core x.base width x.block
      let all := ws.all (fun y => y.2.fuseArrived.isSome) && fuseCovers ws x.base width
      p.fuseGive ws (if all then -4 else -7)

/-! ### What holds a park for registers (R104) -/

/-- The entries above a warp's top, for `a` more blocks, are free in every lane of its range. -/
def Part.racqFree (p : Part) (w : WRef) (x : Warp) (n a : Nat) : Bool :=
  decide (x.fileBase + n + 16 * a ≤ 512) &&
  (p.warpsOn w.core).all (fun y => y.1 == w || !(meets y.2.base y.2.width x.base x.width && meets y.2.fileBase y.2.n (x.fileBase + n) (16 * a)))

/-- The most registers that a warp may hold (R104). -/
def regCap (k : KDesc) : Nat := min (16 * k.xregs) 256

/-- The blocks that the blocking `racq` words of a run wait for. -/
def Run.wanted (r : Run) : List Nat := r.acts.filterMap (fun a => match a with | .racq _ n now => if now then none else some n | _ => none)

/-- Another waiter on the core that goes first for entries that this warp wants (R104). -/
def Part.racqBehind (p : Part) (w : WRef) (x : Warp) (since a : Nat) : Bool :=
  (p.warpsOn w.core).any (fun y => y.1 != w && (match y.2.run with
    | some r => r.closed && r.wanted.any (fun b => meets y.2.base y.2.width x.base x.width && meets (y.2.fileBase + y.2.n) (16 * b) (x.fileBase + x.n) (16 * a)) &&
        decide (x.eff < y.2.eff ∨ (x.eff = y.2.eff ∧ r.since < since))
    | none => false))

/-- A blocking `racq` holds its run's park. -/
def Part.racqHolds (p : Part) (w : WRef) (x : Warp) (cap since : Nat) (a : Act) : Bool :=
  match a with
  | .racq _ n now => !(now || decide (cap < x.n + 16 * n) || (p.racqFree w x x.n n && !p.racqBehind w x since n))
  | _ => false

end Sys2Proof.Machine
end

