-- ==== Sys2Proof/Machine/Engine.lean ====
section
/-! DEFINITION. The copy engine and the tuns (R233-R251, R74). -/

namespace Sys2Proof.Machine

/-! ### Tags and IFC (R233, R234) -/

def tagBit (t : Nat) : W64 := BitVec.ofNat 64 (2 ^ t)

/-- The commit of an asynchronous word on a tag: its bits clear (R233). -/
def Warp.clearTag (x : Warp) (t : Nat) : Warp := { x with trdy := x.trdy &&& ~~~tagBit t, terr := x.terr &&& ~~~tagBit t }

/-- A completion on a tag: TERR says whether it ended in error, then TRDY rises (R234, R236); an open run takes note of it (R245). -/
def Warp.doneTag (x : Warp) (t : Nat) (err : Bool) : Warp :=
  { x with
    terr := if err then x.terr ||| tagBit t else x.terr &&& ~~~tagBit t
    trdy := x.trdy ||| tagBit t
    run := x.run.map (fun r => { r with done := r.done ||| tagBit t }) }

def Warp.ifcUp (x : Warp) : Warp := { x with ifc := x.ifc + 1 }
def Warp.ifcDown (x : Warp) : Warp := { x with ifc := x.ifc - 1 }

/-! ### Units of a command (R235) -/

/-- Chunk `j` of `n` bytes at an address, cut at 128-byte lines: offset and length. -/
def chunk (dst n j : Nat) : Nat × Nat :=
  let f := min n (128 - dst % 128)
  if j = 0 then (0, f) else (f + 128 * (j - 1), min 128 (n - (f + 128 * (j - 1))))

/-- How many chunks `n` bytes at an address make. -/
def chunks (dst n : Nat) : Nat := let f := min n (128 - dst % 128); 1 + (n - f + 127) / 128

/-- The units of a command, by number; a unit of `cpy2d` is chunk i mod (L/128 + 2) of row i div (L/128 + 2). -/
def CopyKind.units (k : CopyKind) : List Nat :=
  match k with
  | .cpy dst _ n => List.range (chunks dst.toNat n)
  | .cpy2d dst _ pd _ l r =>
    let m := l / 128 + 2
    (List.range (r * m)).filter (fun i => decide (i % m < chunks (dst.toNat + i / m * pd) l))
  | .cpybs _ _ _ n => List.range (n / 128)
  | .bsz _ _ n => List.range (n / 128)
  | .mcrd _ _ _ lines => List.range lines

/-- A command as the commit of its word enters it (R235). -/
def newCmd (c : Ctx) (tag : Nat) (k : CopyKind) : CopyCmd := ⟨c.w, c.blk.id, c.gang.id, tag, c.x.eff, k, k.units, none, 0, false, false⟩

/-! ### Engine accesses (R236) -/

/-- Read a piece of an engine's source within one 128-byte line: translated with permission R, beyond the L1s, where a write on another path may still be missed (R237); an
uncorrectable sector fails (R236, R208). -/
def State.engPiece (s : State) (q : Nat) (b : Block) (va : W64) (n : Nat) (noHost : Bool) : Except CopyFail (List Byte) :=
  let need : Need := ⟨true, false, false⟩
  match s.resolve q b va n need with
  | .error f => .error ⟨f.cause, va, f.detail, .read⟩
  | .ok (l, leaf) =>
    let host := match l with | .host _ => true | _ => false
    if noHost && host then .error ⟨.prot, va, (protFail need leaf).detail, .read⟩
    else
      match ((List.range ((n + 31) / 32 + 1)).map (fun i => l.add (min (n - 1) (32 * i)))).find? (s.ueBelow q (some (cluOf b.core))) with
      | some x => .error ⟨.memue, va, BitVec.ofNat 64 x.addr, .read⟩
      | none => .ok (s.seenL q pathCP l (s.rdLocL q b.core true l n))

/-- The pieces of a range within 128-byte lines, by address and length. -/
def linePieces (va : W64) (n : Nat) : List (W64 × Nat) :=
  (List.range (chunks va.toNat n)).map (fun j => let u := chunk va.toNat n j; (va + BitVec.ofNat 64 u.1, u.2))

/-- Read an engine's source, line by line: the first piece that fails stops it (R236). -/
def State.engRead (s : State) (q : Nat) (b : Block) (noHost : Bool) : List (W64 × Nat) → Except CopyFail (List Byte)
  | [] => .ok []
  | x :: l =>
    match s.engPiece q b x.1 x.2 noHost with
    | .error e => .error e
    | .ok bs => match s.engRead q b noHost l with
      | .error e => .error e
      | .ok r => .ok (bs ++ r)

/-- Bytes written by the engine of cluster `c` or by a host agent: a parked line is unparked first, copies of the grain elsewhere go, and no L1 is touched
(R191, R204, R236). -/
def State.engStore (s : State) (q : Nat) (pay : Payer) (c : Option Nat) (l : Loc) (bs : List Byte) : State :=
  let s := match l with
    | .dev pa => (((linesOf pa bs.length).foldl (fun (s : State) n => s.unpark q pay n) s).wrDramL q pa bs).dropCopies q pay c l bs.length
    | .host pa => ((List.range bs.length).foldl (fun (s : State) i => s.wrHost (pa + i) (bs.getD i 0)) s).dropCopies q pay c l bs.length
    | .scratch c o => s.modPart q (fun p => p.setCore c { p.core c with
        scratch := (List.range bs.length).foldl (fun m i => Sparse.wr m (o + i) (bs.getD i 0)) (p.core c).scratch })
  s.clearUe q none c ((List.range bs.length).map l.add)

/-- What an engine's path has written is remembered while other paths may miss it (R237): `cmd` is the command of the copy engine that writes; the device's own writes
have none and are seen at once. -/
def State.engLag (s : State) (q : Nat) (cmd : Option (WRef × Nat)) (l : Loc) (bs : List Byte) : State :=
  match cmd with
  | some c => s.lagging q pathCP (some c) l bs
  | none => s

/-- A leaf that the engine uses enters its cluster's TLB (R187). -/
def State.engLeaf (s : State) (q : Nat) (b : Block) (leaf : Option Leaf) : State :=
  match leaf with
  | some l => s.modPart q (fun p => p.cluTlbFill (cluOf b.core) l)
  | none => s

/-- Write an engine's destination: permission W; part of an uncorrectable sector fails (R236, R208). The reply is owed (R88). -/
def State.engWrite (s : State) (q : Nat) (b : Block) (cmd : Option (WRef × Nat)) (va : W64) (bs : List Byte) : Except CopyFail State :=
  match s.resolve q b va bs.length ⟨false, true, false⟩ with
  | .error f => .error ⟨f.cause, va, f.detail, .write⟩
  | .ok (l, leaf) =>
    let places := (List.range bs.length).map l.add
    let whole := if s.anyBad q then wholeSectors places else []
    match (if s.anyBad q then places else []).find? (fun x => s.ueBelow q (some (cluOf b.core)) x && !whole.contains x.sector) with
    | some x => .error ⟨.memue, va, BitVec.ofNat 64 x.addr, .write⟩
    | none =>
      let pay : Payer := (b.core, (s.part q).blockCls b)
      .ok ((((s.engLeaf q b leaf).engLag q cmd l bs).engStore q pay (some (cluOf b.core)) l bs).owe q pay 0 64)

/-- Write the B-stores of a core that a mask names (R241). -/
def Core.wrBstore (c : Core) (mask off : Nat) (bs : List Byte) : Core :=
  { c with bstore := ((List.range 4).filter (fun i => bitN mask i)).foldl (fun m i =>
      (List.range bs.length).foldl (fun m j => Sparse.wr m (i * 2 ^ 20 + off + j) (bs.getD j 0)) m) c.bstore }

/-- The blocks that a multicast writes: those of the issuer's gang on the cores of the mask (R242). -/
def Part.mcrdBlocks (p : Part) (c : CopyCmd) (mask : Nat) : List Block :=
  p.blocks.filter (fun b => b.gang == c.gang && cluOf b.core == cluOf c.w.core && bitN mask (b.core % 48))

/-- A source piece of `n` bytes read by an engine is used in its cluster's cache, unless parked, and its leaf in the cluster's TLB (R187, R206); its reply is owed
(R88). -/
def State.engFill (s : State) (q : Nat) (b : Block) (va : W64) (n : Nat) : State :=
  let pay : Payer := (b.core, (s.part q).blockCls b)
  match s.translate q b.core va.toNat, regionOf va with
  | .ok l, .global =>
    let s := (s.engLeaf q b (some l)).owe q pay 0 (dataFlits n)
    match l.place va.toNat with
    | .dev pa => if ((s.part q).parked pa).isSome then s else s.ccFill q pay (cluOf b.core) ⟨false, pa, l.cls, l.grain, false, false⟩
    | _ => s
  | _, _ => s

/-- A unit of a command (R235, R239-R242): the pieces of its source, and the address that it writes, or the B-store's offset. -/
def CopyKind.unit (k : CopyKind) (i : Nat) : List (W64 × Nat) × W64 :=
  match k with
  | .cpy dst src n =>
    let u := chunk dst.toNat n i
    (linePieces (src + BitVec.ofNat 64 u.1) u.2, dst + BitVec.ofNat 64 u.1)
  | .cpy2d dst src pd ps l _ =>
    let m := l / 128 + 2
    let row := i / m
    let u := chunk (dst.toNat + row * pd) l (i % m)
    (linePieces (src + BitVec.ofNat 64 (row * ps + u.1)) u.2, dst + BitVec.ofNat 64 (row * pd + u.1))
  | .cpybs off _ src _ => (linePieces (src + BitVec.ofNat 64 (128 * i)) 128, BitVec.ofNat 64 (off + 128 * i))
  | .bsz off _ _ => ([], BitVec.ofNat 64 (off + 128 * i))
  | .mcrd src off _ _ => ([(src + BitVec.ofNat 64 (128 * i), 128)], BitVec.ofNat 64 (off + 128 * i))

/-- `mcrd` reads no HOST page (R242). -/
def CopyKind.noHost (k : CopyKind) : Bool := match k with | .mcrd .. => true | _ => false

/-- A command writes through the memory system, by address. -/
def CopyKind.stores (k : CopyKind) : Bool := match k with | .cpy .. => true | .cpy2d .. => true | _ => false

/-- What a command does with the bytes of a unit (R239-R242). -/
def State.unitWrite (s : State) (q : Nat) (b : Block) (c : CopyCmd) (dst : W64) (bs : List Byte) : Except CopyFail State :=
  match c.kind with
  | .cpy .. => s.engWrite q b (some (c.w, c.tag)) dst bs
  | .cpy2d .. => s.engWrite q b (some (c.w, c.tag)) dst bs
  | .cpybs _ mask _ _ => .ok (s.modPart q (fun p => p.setCore c.w.core ((p.core c.w.core).wrBstore mask dst.toNat bs)))
  | .bsz _ mask _ => .ok (s.modPart q (fun p => p.setCore c.w.core ((p.core c.w.core).wrBstore mask dst.toNat (List.replicate 128 0))))
  | .mcrd _ _ mask _ => .ok (((s.part q).mcrdBlocks c mask).foldl (fun s t =>
      let l : Loc := .scratch t.core (t.scrOff + dst.toNat)
      (s.engLag q (some (c.w, c.tag)) l bs).engStore q noPayer none l bs) s)

/-- One unit of a command (R235): its source is read, whose lines are used in the cluster's cache, and then it is written. -/
def State.copyUnit (s : State) (q : Nat) (c : CopyCmd) (i : Nat) : Except CopyFail State :=
  match (s.part q).block? c.block with
  | none => .ok s
  | some b =>
    match s.engRead q b c.kind.noHost (c.kind.unit i).1 with
    | .error e => .error e
    | .ok bs => ((c.kind.unit i).1.foldl (fun s x => s.engFill q b x.1 x.2) s).unitWrite q b c (c.kind.unit i).2 bs

/-- The addresses of a unit's accesses to memory. -/
def CopyKind.unitVas (k : CopyKind) (i : Nat) : List W64 := (k.unit i).1.map (fun x => x.1) ++ (if k.stores then [(k.unit i).2] else [])

/-- The addresses of a unit's packets that a router drops (R338, R361): table entries of its translations, and if there are none, what it reads and writes. -/
def State.unitDropped (s : State) (q : Nat) (c : CopyCmd) (i : Nat) : List Nat × List Nat :=
  let g := c.w.core
  ((c.kind.unitVas i).flatMap (s.barredWalk q g),
   (c.kind.unitVas i).filterMap (fun va => match regionOf va, s.translate q g va.toNat with
     | .global, .ok l => (match l.place va.toNat with | .dev pa => if s.barred q g pa then some pa else none | _ => none)
     | _, _ => none))

/-! ### Choosing a command (R235) -/

/-- The head of a core's queue: its first command of the highest priority. -/
def headCmd : List CopyCmd → Option CopyCmd
  | [] => none
  | c :: l => match headCmd l with
    | none => some c
    | some d => some (if c.prio < d.prio then d else c)

/-- The core of a cluster whose head the engine takes next: the highest priority, the first from `rot` on. -/
def Part.nextCore (p : Part) (clu : Nat) : Option (Nat × CopyCmd) :=
  let rot := (p.clu clu).rot
  ((List.range 48).map (fun i => clu * 48 + (rot + i) % 48)).foldl (fun best g =>
    match headCmd (p.core g).copyQ with
    | none => best
    | some c => match best with
      | none => some (g, c)
      | some (h, d) => if d.prio < c.prio then some (g, c) else some (h, d)) none

/-- Remove the first command equal to `c`. -/
def dropCmd (c : CopyCmd) : List CopyCmd → List CopyCmd
  | [] => []
  | d :: l => if d = c then l else d :: dropCmd c l

/-- A new command may start: the posting buffer has room (R319). -/
def Part.mayStart (p : Part) (clu : Nat) : Bool := p.postFree && (p.nextCore clu).isSome

/-- The units that the engine could do next: of the commands taken up, by position, and of a new command. -/
def Part.copyChoices (p : Part) (clu : Nat) : List (Nat × Nat) :=
  let a := (p.clu clu).active
  let old := (List.range a.length).flatMap (fun i => match a[i]? with
    | some c => if c.fail.isSome then [] else c.left.map (fun u => (i, u))
    | none => [])
  let new := if p.mayStart clu then match p.nextCore clu with
      | some (_, c) => c.left.map (fun u => (a.length, u))
      | none => []
    else []
  old ++ new

/-- The engine has a unit to do. -/
def Part.copyReady (p : Part) (clu : Nat) : Bool := (p.clu clu).active.any (fun c => c.fail.isNone && !c.left.isEmpty) || p.mayStart clu

/-- Take up the next command. -/
def Part.takeUp (p : Part) (clu : Nat) : Part :=
  match p.nextCore clu with
  | none => p
  | some (g, c) =>
    let p := p.setCore g { p.core g with copyQ := dropCmd c (p.core g).copyQ }
    let k := p.clu clu
    p.setClu clu { k with active := k.active ++ [c], rot := (g % 48 + 1) % 48 }

/-- An ASYNC record (R236, R317). -/
def asyncRec (w : WRef) (gridh : W64) (tag : Nat) (f : CopyFail) : FaultRec :=
  ⟨f.cause.code, 1, w.core, w.slot, tag, f.acc.code, 0, 0, f.addr, 0, gridh, f.detail, 0⟩

/-- The ASYNC record of a failure is posted (R236, R319). -/
def Part.postAsync (p : Part) (w : WRef) (tag : Nat) (f : CopyFail) : Part :=
  match p.ctx w with
  | some c => p.post (asyncRec w c.grid.handle tag f)
  | none => p

/-- Do one unit of the commands of a cluster's engine (R235): which one is open (log 10). A unit of which a router drops a packet is not done, and the command never ends
(R338, R361; log 61). -/
def State.copyStep (s : State) (q clu : Nat) : State :=
  let ch := (s.part q).copyChoices clu
  let n := if ch.length ≤ 1 then 0 else Config.unitOrder s.tick % ch.length
  match ch[n]? with
  | none => s
  | some (i, u) =>
    let s := if i = ((s.part q).clu clu).active.length then s.modPart q (fun p => p.takeUp clu) else s
    match ((s.part q).clu clu).active[i]? with
    | none => s
    | some c =>
      let bad := s.unitDropped q c u
      let done (s : State) (lost : Bool) : State :=
        s.modPart q (fun p => let k := p.clu clu; p.setClu clu { k with active := setAt k.active i { c with left := c.left.erase u, lost := c.lost || lost } })
      match (if bad.1.isEmpty then s.copyUnit q c u else .ok s) with
      | .ok s' => if bad.1.isEmpty && bad.2.isEmpty then done s' false else done (s.logBarred q (bad.1 ++ bad.2)) true
      | .error f => s.modPart q (fun p =>
        let k := p.clu clu
        let p := p.setClu clu { k with active := setAt k.active i { c with fail := some f, record := p.postSeq } }
        p.postAsync c.w c.tag f)

/-! ### Completion (R233, R236) -/

/-- A command is over: every unit done, or stopped by a failure whose record has its place in the posting buffer (R319); one of which a packet was dropped never is. -/
def Part.cmdOver (p : Part) (c : CopyCmd) : Bool :=
  !c.lost && (match c.fail with
  | some _ => p.hasPlace c.record
  | none => c.left.isEmpty)

/-- The warps that a completion reaches (R233): the issuer, and for `mcrd` those of the receiving blocks. -/
def Part.reached (p : Part) (c : CopyCmd) : List WRef :=
  match c.kind with
  | .mcrd _ _ mask _ => (c.w :: ((p.mcrdBlocks c mask).flatMap (fun b => (p.warpsOf b.id).map (fun x => x.1)))).dedup
  | _ => [c.w]

/-- The first command of a cluster that is over completes: the tag bits, and IFC (R236); an uncorrectable sector is logged (R208). -/
def State.copyDone (s : State) (q clu : Nat) : State :=
  let p := s.part q
  match (p.clu clu).active.find? (fun c => p.cmdOver c) with
  | none => s
  | some c =>
    let p : Part := match c.fail with
      | some f => if f.cause = .memue then p.logErr ⟨1, f.detail.toNat, 0, s.clkc q⟩ else p
      | none => p
    let p := (p.reached c).foldl (fun p w => p.modWarp w (fun x => x.doneTag c.tag c.fail.isSome)) p
    let p := p.modWarp c.w Warp.ifcDown
    let k := p.clu clu
    s.setPart q ((p.setClu clu { k with active := dropCmd c k.active }).checkTriggers)

/-! ### The tuns (R248-R250) -/

/-- The tun that runs a strip's products (R250). -/
def Core.server (c : Core) (strip : Nat) : Nat := if (c.tuns.rd strip).fenced then strip ^^^ 1 else strip

/-- Products of a strip queued or running (R249). -/
def Core.placesOf (c : Core) (strip : Nat) : Nat := ((c.tuns.rd (c.server strip)).queue.filter (fun p => p.strip == strip)).length

/-- A strip whose tun and partner tun are both fenced runs no product (R250). -/
def Core.noTun (c : Core) (strip : Nat) : Bool := (c.tuns.rd strip).fenced && (c.tuns.rd (strip ^^^ 1)).fenced

def Core.setTun (c : Core) (i : Nat) (t : Tun) : Core := { c with tuns := c.tuns.wr i t }

/-- The duration of a product in cc (R249). -/
def productTime (na : Nat) : Nat := 32 * na

/-- A product of a word is over: one fewer to land; with the last one the word is over and IFC falls (R248). -/
def Warp.productOver (x : Warp) (word strip : Nat) (mx : BitVec 4) (err : Bool) : Warp :=
  let ms := updIf (fun m => m.id == word) (fun m => { m with unlanded := m.unlanded - 1 }) x.mmas
  let x := { x.doneTag (60 + strip) err with mx := x.mx ||| mx }
  if ms.any (fun m => m.id == word && m.unlanded == 0) then { x.ifcDown with mmas := ms.filter (fun m => m.id != word) } else { x with mmas := ms }

/-- The completion with error of a product that no tun can run (R250). -/
def Part.productFailed (p : Part) (x : Product) : Part :=
  (p.modWarp x.w (fun w => { w with mmas := updIf (fun m => m.id == x.word && x.ops.isEmpty) (fun m => { m with unread := m.unread - 1 }) w.mmas }
    |>.productOver x.word x.strip 8 true)).checkTriggers

/-- A product that no tun can run ends in error, with a record of cause MEMUE (R250), and completes once that has its place in the posting buffer (R319). The spec
gives a product no address: ADDR and DETAIL are 0 and ACC is a read (DESIGN CHOICE, log 57). -/
def Part.productError (p : Part) (g : Nat) (x : Product) : Part :=
  let n := p.postSeq
  let p := p.postAsync x.w (60 + x.strip) ⟨.memue, 0, 0, .read⟩
  if p.hasPlace n then p.productFailed x
  else
    let k := p.core g
    let t := k.tuns.rd x.strip
    p.setCore g (k.setTun x.strip { t with failed := t.failed ++ [(x, n)] })

/-- Products in error whose records have their places now complete (R319). -/
def Part.productsFailed (p : Part) : Part :=
  p.cores.foldl (fun p kc => (List.range 4).foldl (fun p i =>
    let t := (p.core kc.1).tuns.rd i
    let ended := t.failed.filter (fun f => p.hasPlace f.2)
    let p := if ended.isEmpty then p else p.setCore kc.1 ((p.core kc.1).setTun i { t with failed := t.failed.filter (fun f => !p.hasPlace f.2) })
    ended.foldl (fun p f => p.productFailed f.1) p) p) p

/-- The run-start values of the accumulator that a product adds, of the rows that it writes (R74, R248): `k` is the core as it stood before the run's own writes. -/
def Core.accOf (k : Core) (rows : List Nat) (d : Nat) : List (Nat × W32) :=
  rows.flatMap (fun l => (List.range 64).map (fun n => (l * 512 + d + n, k.reg l (d + n))))

/-- The commit of an `mma` (R248): its products queue on their tuns, in commit order, and its registers are pending and held; on a strip whose tun and partner
are both fenced the product ends in error (R250). `k0` is the core as it stood before the run's own writes. -/
def Part.startMma (p : Part) (c : Ctx) (k0 : Core) (z : Bool) (na nb d a sc tile : Nat) (act : Mask) : Part :=
  let k := p.core c.w.core
  let id := k.mmaSeq
  let products : List Product := c.x.strips.map (fun st =>
    let rows := ((Mask.lanes act).map (fun l => c.x.base + l)).filter (fun l => l / 32 == st)
    ⟨c.w, id, st, c.x.fileBase + d, c.x.fileBase + a, 4 * c.x.fileBase + sc, na, nb, z, tile, rows, if z then [] else k0.accOf rows (c.x.fileBase + d), []⟩)
  let x := c.x.strips.foldl (fun (x : Warp) st => x.clearTag (60 + st)) c.x
  let m : MmaWord := ⟨id, false, d, a, na, sc, c.x.strips.length, c.x.strips.length⟩
  let p := (p.setCore c.w.core { k with mmaSeq := id + 1 }).setWarp c.w { x.ifcUp with mmas := x.mmas ++ [m] }
  products.foldl (fun p y =>
    let k := p.core c.w.core
    if k.noTun y.strip then p.productError c.w.core y
    else
      let t := k.tuns.rd (k.server y.strip)
      p.setCore c.w.core (k.setTun (k.server y.strip) { t with queue := t.queue ++ [y] })) p

/-- The head of a tun's queue starts (R249): it reads its activation and scale registers, unless it read them before it moved. -/
def Part.productStart (p : Part) (g tun now : Nat) : Part :=
  let k := p.core g
  let t := k.tuns.rd tun
  match t.queue with
  | [] => p
  | x :: rest =>
    if t.landing.isSome then p
    else
      let regs := (List.range (8 * x.na)).map (fun i => x.a + i) ++ scaleRegs x.sc
      let ops := if x.ops.isEmpty then (List.range 32).flatMap (fun r => regs.map (fun e => ((32 * x.strip + r) * 512 + e, k.reg (32 * x.strip + r) e))) else x.ops
      let p := p.setCore g (k.setTun tun { t with queue := { x with ops := ops } :: rest, landing := some (now + 2 * productTime x.na) })
      if x.ops.isEmpty then
        p.modWarp x.w (fun y => { y with mmas := updIf (fun m => m.id == x.word) (fun m => { m with unread := m.unread - 1 }) y.mmas })
      else p

/-! ### The product (R74, R246, R247) -/

/-- Activation planes: the signed mantissa of element `j` of block `k` (R70, R247). -/
def planeElem (n : Nat) (plane : Nat → Nat) (j : Nat) : Int :=
  sxt n ((List.range n).foldl (fun v p => v + plane p / 2 ^ j % 2 * 2 ^ p) 0)

/-- A register as a product read it. -/
def Product.op (x : Product) (lane entry : Nat) : W32 := ((x.ops.find? (fun o => o.1 == lane * 512 + entry)).map (fun o => o.2)).getD 0

/-- FP32 codes added under RNE, with the flags. -/
def addF32 (a b : W32) : W32 × Flags :=
  let s := (fp32.decode a.toNat).add (fp32.decode b.toNat) 0
  let r := fp32.near s.1
  (BitVec.ofNat 32 r.1, s.2 ||| r.2)

/-- Word `w` of a strip's B-store tile. -/
def Core.tileWord (c : Core) (strip tile w : Nat) : Nat :=
  leNat ((List.range 4).map (fun i => Sparse.rd c.bstore (strip * 2 ^ 20 + tile + 4 * w + i)))

/-- The tree sum of R74 for the eight blocks' mantissas and scales: t and the flags. -/
def treeSum (b : Nat → W32 × Flags) : W32 × Flags :=
  let t01 := addF32 (b 0).1 (b 1).1
  let t23 := addF32 (b 2).1 (b 3).1
  let t45 := addF32 (b 4).1 (b 5).1
  let t67 := addF32 (b 6).1 (b 7).1
  let u0 := addF32 t01.1 t23.1
  let u1 := addF32 t45.1 t67.1
  let t := addF32 u0.1 u1.1
  (t.1, (List.range 8).foldl (fun (f : Flags) k => f ||| (b k).2) (t01.2 ||| t23.2 ||| t45.2 ||| t67.2 ||| u0.2 ||| u1.2 ||| t.2))

/-- b_k of R74: an exact integer and an exponent, rounded into FP32. -/
def blockTerm (i : Int) (e : Int) : W32 × Flags :=
  let r := fp32.near (numOfInt i e false)
  (BitVec.ofNat 32 r.1, r.2)

/-- The mantissas of an activation row, by block, and its scales. -/
def Product.row (x : Product) (lane : Nat) : List (List Int × Nat) :=
  (List.range 8).map (fun k =>
    ((List.range 32).map (planeElem x.na (fun p => (x.op lane (x.a + k * x.na + p)).toNat)),
     bits (x.op lane ((x.sc + k) / 4)).toNat (8 * ((x.sc + k) % 4) + 7) (8 * ((x.sc + k) % 4))))

/-- The mantissas of a weight column, by block, and its scales (R246). -/
def Core.column (c : Core) (x : Product) (n : Nat) : List (List Int × Nat) :=
  (List.range 8).map (fun k =>
    ((List.range 32).map (planeElem x.nb (fun p => c.tileWord x.strip x.tile ((8 * n + k) * x.nb + p))),
     (Sparse.rd c.bstore (x.strip * 2 ^ 20 + x.tile + 2048 * x.nb + 8 * n + k)).toNat))

/-- Σ of products of two lists. -/
def dot : List Int → List Int → Int
  | a :: l, b :: m => a * b + dot l m
  | _, _ => 0

/-- One output element: t of R74 from a row and a column. -/
def element (x : Product) (row col : List (List Int × Nat)) : W32 × Flags :=
  treeSum (fun k =>
    let a := row.getD k ([], 127)
    let b := col.getD k ([], 127)
    blockTerm (dot a.1 b.1) ((a.2 : Int) + b.2 - 254 - (x.na - 2 : Nat) - (x.nb - 2 : Nat)))

/-- The accumulator's run-start value. -/
def Product.accum (x : Product) (lane entry : Nat) : W32 := ((x.acc.find? (fun o => o.1 == lane * 512 + entry)).map (fun o => o.2)).getD 0

/-- The results of a product: the register writes, and the flags of the rows that are written (R248, R251). -/
def Core.product (c : Core) (x : Product) : List (Nat × Nat × W32) × Flags × Bool :=
  let cols := (List.range 64).map (fun n => c.column x n)
  let out := x.rows.flatMap (fun lane =>
    let row := x.row lane
    (List.range 64).map (fun n =>
      let t := element x row (cols.getD n [])
      let r := if x.z then t else let u := addF32 (x.accum lane (x.d + n)) t.1; (u.1, t.2 ||| u.2)
      (lane, x.d + n, r)))
  (out.map (fun o => (o.1, o.2.1, o.2.2.1)), out.foldl (fun (f : Flags) o => f ||| o.2.2.2) 0,
   out.any (fun o => (fp32.decode o.2.2.1.toNat).isNan))

/-- The running product lands after a check that passed (R248, R250). Its whole tile is read at the landing, where R237 leaves open which words of an overlapping
write without order it sees (DESIGN CHOICE, log 57). -/
def Part.land (p : Part) (g tun : Nat) : Part :=
  let k := p.core g
  let t := k.tuns.rd tun
  match t.queue with
  | [] => p
  | x :: rest =>
    let r := k.product x
    let k := r.1.foldl (fun (k : Core) w => k.setReg w.1 w.2.1 w.2.2) k
    let p := p.setCore g (k.setTun tun { t with queue := rest, landing := none })
    (p.modWarp x.w (fun w => w.productOver x.word x.strip (mxBits r.2.2 r.2.1) false)).checkTriggers

/-- Products merged in commit order. -/
def mergeProducts : List Product → List Product → List Product
  | l, [] => l
  | l, x :: m => mergeProducts (l.filter (fun y => decide (y.word ≤ x.word)) ++ [x] ++ l.filter (fun y => decide (x.word < y.word))) m

/-- A tun is fenced (R250): its products move to the partner tun, or complete with error when that is fenced too. -/
def Part.fence (p : Part) (g tun : Nat) (time : Nat) : Part :=
  let k := p.core g
  let t := k.tuns.rd tun
  let o := k.tuns.rd (tun ^^^ 1)
  let p := p.logErr ⟨4, g * 4 + tun, 0, time⟩
  let k := k.setTun tun { t with fenced := true, queue := [], landing := none }
  if o.fenced then t.queue.foldl (fun p x => p.productError g x) (p.setCore g k)
  else
    let run := if o.landing.isSome then o.queue.take 1 else []
    let wait := if o.landing.isSome then o.queue.drop 1 else o.queue
    p.setCore g (k.setTun (tun ^^^ 1) { o with queue := run ++ mergeProducts wait t.queue })

/-- The self-test product's outcome, when the running product's time is over (R250). -/
def State.productLand (s : State) (q g tun : Nat) (check : TunCheck) : State :=
  let p := s.part q
  let k := p.core g
  let t := k.tuns.rd tun
  match t.landing, t.queue with
  | some at_, x :: _ =>
    if s.now < at_ then s
    else
      match check with
      | .pass => s.setPart q (p.land g tun)
      | .oneGroup =>
        if t.spare then s.setPart q (p.fence g tun (s.clkc q))
        else s.setPart q ((p.setCore g (k.setTun tun { t with spare := true, landing := some (at_ + 2 * productTime x.na) })).logErr
          ⟨3, g * 4 + tun, 0, s.clkc q⟩)
      | .twoGroups => s.setPart q (p.fence g tun (s.clkc q))
  | _, _ => s

/-- `mxst` (R251): the tuns of the core and the warp's sticky bits. -/
def mxReport (k : Core) (mx : BitVec 4) : W64 :=
  BitVec.ofNat 64 ((List.range 4).foldl (fun v s =>
    v + (b2n (k.tuns.rd s).fenced + 2 * b2n (k.tuns.rd s).spare + 4 * b2n (k.server s != s && !k.noTun s) + 8 * min 15 (k.tuns.rd (k.server s)).queue.length) * 2 ^ (8 * s)) 0 +
    mx.toNat * 2 ^ 32)

end Sys2Proof.Machine
end

