-- ==== Sys2Proof/Machine/Sync.lean ====
section
/-! DEFINITION. Barrier arrivals, async barrier objects, lock words and fences, as their commits perform them (R253-R277, R290). -/

namespace Sys2Proof.Machine

/-! ### Barriers (R255-R258) -/

/-- An arrival of a warp at named barrier `id` with count `c`, waiting or not (R255, R256): a block-scope release. -/
def Part.arriveBar (p : Part) (w : WRef) (wait : Bool) (id c : Nat) : Part :=
  match (p.closeRegion w .blk).ctx w with
  | none => p
  | some k =>
    let p := (p.closeRegion w .blk).modBlock k.blk.id (fun b => { b with bars := modAt b.bars id (fun r => r.arrive c) })
    let x := k.x.arrive id
    (p.setWarp w (if wait then { x with wait := .nbar id c } else x)).testBar k.blk.id id

/-- An arrival at the gang barrier (R257): a gang-scope release. -/
def Part.arriveGang (p : Part) (w : WRef) (c : Nat) : Part :=
  match (p.closeRegion w .gng).ctx w with
  | none => p
  | some k =>
    let p := (p.closeRegion w .gng).modGang k.gang.id (fun g => { g with bar := g.bar.arrive c })
    (p.setWarp w { k.x.arrive 16 with wait := .gbar c }).testGangBar k.gang.id

/-! ### Async barrier objects (R260-R264) -/

/-- An object (R260); `rest` is word 0 [63:50]. -/
structure AbObj where
  exp : Nat
  pend : Nat
  phase : Nat
  ovf : Bool
  xs : Bool
  rest : Nat
  bann : Nat
  brcv : Nat
  deriving DecidableEq, Repr

def AbObj.ofBytes (l : List Byte) : AbObj :=
  let n := leNat l
  ⟨bits n 15 0, bits n 31 16, bits n 47 32, bitN n 48, bitN n 49, bits n 63 50, bits n 95 64, bits n 127 96⟩

def AbObj.toBytes (o : AbObj) : List Byte :=
  leBytes 16 (o.exp + o.pend * 2 ^ 16 + o.phase * 2 ^ 32 + b2n o.ovf * 2 ^ 48 + b2n o.xs * 2 ^ 49 + o.rest * 2 ^ 50 + o.bann * 2 ^ 64 + o.brcv * 2 ^ 96)

/-- The object at a place. -/
def State.abObj (s : State) (q : Nat) (l : Loc) : AbObj := AbObj.ofBytes (s.rdLocL q 0 true l 16)

/-- What `abinit` writes (R261). -/
def AbObj.init (e : Nat) : AbObj := ⟨e, e, 0, false, false, 0, 0, 0⟩

/-- A byte count's addition, saturating at 2^32 − 1 (R262). -/
def satAdd32 (a b : Nat) : Nat × Bool := if 2 ^ 32 ≤ a + b then (2 ^ 32 - 1, true) else (a + b, false)

/-- The byte additions of R262. -/
def AbObj.addBytes (o : AbObj) (ann dlv : Nat) : AbObj :=
  let a := satAdd32 o.bann ann
  let r := satAdd32 o.brcv dlv
  { o with bann := a.1, brcv := r.1, xs := o.xs || a.2 || r.2 }

/-- One arrival (R262). -/
def AbObj.arrive (o : AbObj) : AbObj := if o.pend = 0 then { o with ovf := true } else { o with pend := o.pend - 1 }

/-- The completion test (R262). -/
def AbObj.test (o : AbObj) : AbObj :=
  if o.pend = 0 ∧ o.bann ≤ o.brcv then
    { o with xs := o.xs || decide (o.bann < o.brcv), phase := (o.phase + 1) % 2 ^ 16, pend := o.exp, bann := 0, brcv := 0 }
  else o

/-- The phase that a token numbers has completed (R263). -/
def tokenDone (phase tok : Nat) : Bool := let d := (phase + 2 ^ 16 - tok % 2 ^ 16) % 2 ^ 16; decide (1 ≤ d ∧ d ≤ 32767)

/-- The scope of an object's operations (R264). -/
def abScope (glob : Bool) : Scope := if glob then .gng else .blk

/-- Warps that wait on an object look at it again; the end of a wait is an acquire (R260, R263, R264). -/
def State.wakeAb (s : State) (q : Nat) : State :=
  (s.part q).warps.foldl (fun s kx =>
    match kx.2.wait with
    | .abwait l glob tok =>
      if kx.2.stopped.isNone && tokenDone (s.abObj q l).phase tok then
        s.modPart q (fun p => (p.acquirePoint (keyRef kx.1).core (abScope glob)).modWarp (keyRef kx.1) (fun x => { x with wait := .none }))
      else s
    | _ => s) s

/-- An object is written: every waiter re-tests (R260). -/
def State.setAb (s : State) (q : Nat) (l : Loc) (o : AbObj) : State := (s.wrLocL q 0 l o.toBytes).wakeAb q

/-- `abarv` at its commit (R262): a release, the object's change, and the token. -/
def State.abArrive (s : State) (q : Nat) (w : WRef) (d : Reg) (l : Loc) (glob : Bool) (b : W64) : State :=
  let n := b.toNat
  let o := s.abObj q l
  let o' := o.addBytes (bits n 23 0) (bits n 47 24)
  let o' := (if bitN n 48 then o' else o'.arrive).test
  let s := s.modPart q (fun p => (p.closeRegion w (abScope glob)).modWarp w (fun x => x.setS d (BitVec.ofNat 64 o.phase)))
  s.setAb q l o'

/-- A delivery of `n` bytes by a collective (R262). -/
def State.abDeliver (s : State) (q : Nat) (l : Loc) (n : Nat) : State := s.setAb q l ((s.abObj q l).addBytes 0 n).test

/-- An arrival that announces `n` bytes, as `coll` makes it (R342). -/
def State.abAnnounce (s : State) (q : Nat) (l : Loc) (n : Nat) : State := s.setAb q l (((s.abObj q l).addBytes n 0).arrive).test

/-- `abtest` at its commit (R263): 1 is an acquire. -/
def State.abTest (s : State) (q : Nat) (w : WRef) (d : Reg) (l : Loc) (glob : Bool) (tok : Nat) : State :=
  let done := tokenDone (s.abObj q l).phase tok
  s.modPart q (fun p => (if done then p.acquirePoint w.core (abScope glob) else p).modWarp w (fun x => x.setS d (BitVec.ofNat 64 (b2n done))))

/-! ### Lock words (R266-R275) -/

/-- A lock word at its commit: `line` is the line of a lockable address (R265), `a` and `b` the word's operands. A grant on its way to the warp has reached it, and a
hand-off of the line that can be made comes first (R276; log 21). -/
def State.lockOp (s : State) (q : Nat) (w : WRef) (op : LockOp) (d : Reg) (line : Option Loc) (a b : W64) : State :=
  match (s.part q).warp w with
  | none => s
  | some x =>
    let give (s : State) (v : W64) : State := s.modPart q (fun p => p.modWarp w (fun x => x.setS d v))
    match line with
    | some (.dev pa) =>
      let n := pa / 128
      let s := (s.ownGrant q x.uid n).takeRelease q n
      match op with
      | .llock =>
        let t := bits b.toNat 23 0
        match s.acquire q w x n false (bitN b.toNat 32) (if t = 0 then none else some (s.now + t * 512)) with
        | (s, some v) => give s (BitVec.ofNat 64 v)
        | (s, none) => s.modPart q (fun p => p.modWarp w (fun x => { x with wait := .llock d n a b }))
      | .ltry =>
        match s.acquire q w x n true false none with
        | (s, v) => give s (BitVec.ofNat 64 (v.getD 6))
      | .lunlk =>
        let r := (s.part q).unlock x.uid n
        give (s.setPart q (if r.2 = 0 then r.1.closeRegion w .dev else r.1)) (BitVec.ofNat 64 r.2)
      | .lqry => give s ((s.part q).lockReport x.uid n)
      | .labnd =>
        let r := (s.part q).abandon x.uid n
        give (s.setPart q r.1) (BitVec.ofNat 64 r.2)
    | _ => give s (if op = .lqry then 0 else 4)

/-! ### Fences (R277, R290, R292, R296) -/

/-- A `fence` at its commit (R290, R296): of kind rel, ar or sc it is a release point, whatever its from-paths; it drops the core's L1 copies when it is of kind sc,
when it is an acquire point of gang scope or wider, whatever its to-paths, and when it orders engine data (CP, CL) before LS reads. Whatever its kind, it orders the writes
on its from-paths before the reads on its to-paths (R292; log 54). -/
def Part.doFence (p : Part) (w : WRef) (k : FenceKind) (sc : Scope) (f t : BitVec 4) : Part :=
  let p := p.orderPaths f t
  let rel := decide (k ≠ .acq)
  let acq := decide (k ≠ .rel)
  let p := if rel then p.closeRegion w sc else p
  if decide (k = .sc) || (acq && decide (2 ≤ sc.rank)) then p.acquirePoint w.core (if sc = .sys then .sys else .gng)
  else if t.getLsbD 0 && (f.getLsbD 1 || f.getLsbD 3) then p.acquirePoint w.core .gng
  else p

end Sys2Proof.Machine
end

