-- ==== Sys2Proof/Machine/Place.lean ====
section
/-! DEFINITION. Launching and placing work: records and descriptors, acceptance, grid start, the placement pass, the head gang, the
carve-out boundary and reservations (R23-R29, R75-R90, R95, R189). -/

namespace Sys2Proof.Machine

/-! ### Records and descriptors (R23, R24, R29, R77) -/

/-- The fields of a descriptor (R23). -/
def KDesc.parse (a : W64) (l : List Byte) : KDesc :=
  let w (i : Nat) : Nat := leNat ((l.drop (8 * i)).take 8)
  { addr := a
    entry := BitVec.ofNat 64 (w 1)
    refill := BitVec.ofNat 64 (w 2)
    thnd := BitVec.ofNat 64 (w 3)
    bregs := bits (w 4) 3 0
    xregs := bits (w 4) 8 4
    width := 2 ^ (bits (w 4) 11 9 + 3)
    bwarps := bits (w 4) 18 12
    gangm1 := bits (w 4) 24 19
    oct := bitN (w 4) 25
    race := bitN (w 4) 26
    scr := bits (w 5) 11 0
    cvlo := bits (w 5) 20 16
    cvhi := bits (w 5) 28 24
    spill := bits (w 5) 39 32
    spillBase := BitVec.ofNat 64 (w 6)
    safegap := bits (w 7) 12 0
    codeBase := BitVec.ofNat 64 (w 8)
    codeSz := bits (w 9) 31 0 }

/-- MAGIC, VER, GRADE and every reserved bit are as R23 gives them. -/
def kdescFrame (grade : Nat) (l : List Byte) : Bool :=
  let w (i : Nat) : Nat := leNat ((l.drop (8 * i)).take 8)
  w 0 == 0x4B444E57 + 2 ^ 32 + grade * 2 ^ 40 && w 4 / 2 ^ 27 == 0 && bits (w 5) 15 12 == 0 && bits (w 5) 23 21 == 0 && bits (w 5) 31 29 == 0 &&
    w 5 / 2 ^ 40 == 0 && w 7 / 2 ^ 13 == 0 && w 9 / 2 ^ 32 == 0 && (List.range 6).all (fun i => w (10 + i) == 0)

/-- An address is aligned and lies in the kernel's code (R29). -/
def KDesc.codeAt (k : KDesc) (a : W64) (al : Nat) : Bool :=
  a.toNat % al == 0 && decide (k.codeBase.toNat ≤ a.toNat ∧ a.toNat < k.codeBase.toNat + k.codeSz)

/-- The checks of R29 on the fields and the ranges of R23. An address that is no multiple of 128, the alignment of R23, counts among them, which R29 and R77 leave
open (DESIGN CHOICE, log 58). -/
def KDesc.ok (k : KDesc) : Bool :=
  k.addr.toNat % 128 == 0 && k.codeAt k.entry 128 && (k.entry == k.codeBase) && (k.refill == 0 || k.codeAt k.refill 4) &&
  (k.thnd == 0 || k.codeAt k.thnd 4) && decide (1 ≤ k.bregs ∧ k.bregs ≤ 8 ∧ k.bregs ≤ k.xregs ∧ k.xregs ≤ 16) && decide (k.width ≤ 128) &&
  decide (1 ≤ k.bwarps ∧ k.bwarps ≤ 64 ∧ k.gangm1 ≤ 47) && decide (k.scr ≤ 2560 ∧ 4 ≤ k.cvlo ∧ k.cvlo ≤ k.cvhi ∧ k.cvhi ≤ 20) &&
  decide (k.scr * 128 ≤ k.cvhi * 16384) && k.spillBase.toNat % 128 == 0 && ((k.spillBase == 0) == (k.spill == 0)) &&
  decide (1 ≤ k.safegap ∧ k.safegap ≤ 4096) && k.codeSz % 4 == 0 && decide (k.bwarps * k.width * k.bregs ≤ 4096)

/-- The fields of a launch record (R24). -/
def Launch.parse (l : List Byte) : Launch :=
  let w (i : Nat) : Nat := leNat ((l.drop (8 * i)).take 8)
  { kdesc := BitVec.ofNat 64 (w 0)
    items := bits (w 1) 31 0
    gangm1 := bits (w 1) 37 32
    maxblk := bits (w 1) 63 48
    argp := BitVec.ofNat 64 (w 2)
    deps := (List.range 4).filterMap (fun i => if bitN (w (3 + i)) 15 then some (bits (w (3 + i)) 11 0, bits (w (3 + i)) 63 16) else none)
    cev := if bitN (w 7) 12 then some (bits (w 7) 11 0) else none
    tev := if bitN (w 7) 25 then some (bits (w 7) 24 13) else none
    prio := bits (w 7) 28 26
    rcls := bits (w 7) 35 32
    nosteal := bitN (w 7) 36
    irq := bitN (w 7) 37 }

/-- The reserved bits of a record are zero (R24). -/
def launchFrame (l : List Byte) : Bool :=
  let w (i : Nat) : Nat := leNat ((l.drop (8 * i)).take 8)
  bits (w 1) 47 38 == 0 && (List.range 4).all (fun i => bits (w (3 + i)) 14 12 == 0) && bits (w 7) 31 29 == 0 && w 7 / 2 ^ 38 == 0

/-- The device reads `n` bytes at a virtual address for the placer: a global page with R (R77). An uncorrectable sector makes the read fail, which R77 and R208 leave
open (DESIGN CHOICE, log 58). -/
def State.devRead (s : State) (q : Nat) (va : W64) (n : Nat) : Option (List Byte) :=
  match regionOf va, s.walk q va.toNat with
  | .global, .ok l =>
    if l.r then
      match l.place va.toNat with
      | .dev pa => if (List.range (n / 32)).any (fun i => s.isUe q (pa + 32 * i)) then none else some (s.rdHomeL q pa n)
      | .host pa => some ((List.range n).map (fun i => s.rdHost (pa + i)))
      | .scratch .. => none
    else none
  | _, _ => none

/-- The checks of a record under R29 and R77, in R77's order: an ERR code, or the record and its descriptor. -/
def State.checkRecord (s : State) (q : Nat) (rcls : Nat) (rec_ : Option (List Byte)) : Except Nat (Launch × KDesc) :=
  match rec_ with
  | none => .error 6
  | some b =>
    let l := Launch.parse b
    if !launchFrame b || l.items == 0 || l.argp.toNat % 8 != 0 then .error 2
    else if l.rcls != rcls then .error 3
    else
      match s.devRead q l.kdesc 128 with
      | none => .error 6
      | some d =>
        let k := KDesc.parse l.kdesc d
        if !kdescFrame s.gradeNum d || !k.ok then .error 1
        else if k.gangm1 < l.gangm1 then .error 2
        else .ok (l, k)

/-! ### Acceptance and start (R76, R80, R90) -/

/-- Grids of a queue that are accepted and not completed (R75: ACTIVE). -/
def Part.active (p : Part) (queue : Nat) : Nat := (p.grids.filter (fun g => g.queue == queue)).length

/-- Every earlier grid of its queue has started, and its dependences hold (R76). -/
def Part.mayStartGrid (p : Part) (g : Grid) : Bool :=
  !g.started && g.held.all id && p.grids.all (fun x => !(x.queue == g.queue && decide (x.seq < g.seq)) || x.started)

/-- A grid starts (R76, R80). -/
def Part.startGrid (p : Part) (seq : Nat) : Part :=
  match p.grid? seq with
  | none => p
  | some g => if p.mayStartGrid g then p.modGrid seq (fun g => { g with started := true }) else p

/-- A record is accepted into a queue (R76, R77): its grid's priority is min(PRIO, PMAX); one without dependences starts at once if no earlier grid of its queue is
waiting (R80). -/
def Part.acceptGrid (p : Part) (queue : Nat) (l : Launch) (k : KDesc) : Part :=
  let g : Grid := ⟨p.gridSeq, queue, k, l, min l.prio (p.queue queue).pmax, l.deps.map (fun _ => false), false, true, [], 0, false⟩
  let p := ({ p with grids := p.grids ++ [g], gridSeq := p.gridSeq + 1 } : Part).evalDeps
  if l.deps.isEmpty then p.startGrid g.seq else p

/-- The queue has a record to read (R76). -/
def State.hasRecord (s : State) (q i : Nat) : Bool :=
  let p := s.part q
  let u := p.queue i
  s.owns q i && u.en && !u.halt && u.qhead != u.qtail && decide (p.active i < 16)

/-- The device reads and checks the record at QHEAD (R76). -/
def State.recordAccept (s : State) (q i : Nat) : State :=
  let p := s.part q
  let u := p.queue i
  if !s.hasRecord q i then s
  else
    let va := u.qbase + BitVec.ofNat 64 (64 * (u.qhead.toNat % 2 ^ u.qlog))
    match s.checkRecord q u.rcls (s.devRead q va 64) with
    | .error e => s.setPart q (p.setQueue i { u with halt := true, err := e, hidx := u.qhead })
    | .ok (l, k) => s.setPart q ((p.setQueue i { u with qhead := u.qhead + 1 }).acceptGrid i l k)

/-- The status of `launch` and the partition after it (R90); an accepted record is a device-scope release of the warp. -/
def State.launch (s : State) (q : Nat) (w : WRef) (b : W64) (bytes : List Byte) : State × Nat :=
  let p := s.part q
  let i := b.toNat
  let u := p.queue i
  if decide (63 < i) || !s.owns q i || !u.en || !u.dlaunch then (s, 5)
  else if 16 ≤ p.active i then (s, 4)
  else
    match s.checkRecord q u.rcls (some bytes) with
    | .error e => (s, e)
    | .ok (l, k) => (s.setPart q ((p.closeRegion w .dev).acceptGrid i l k), 0)

/-! ### The carve-out boundary (R84, R189, R200) -/

/-- The allocations of a core's scratchpad, as offset and length (R184). -/
def Part.scrAllocs (p : Part) (g : Nat) : List (Nat × Nat) :=
  (p.blocks.filter (fun b => b.core == g && b.scrLen != 0)).map (fun b => (b.scrOff, b.scrLen))

/-- The highest end of a core's allocations (R184, R189). -/
def Part.scrUsed (p : Part) (g : Nat) : Nat := (p.scrAllocs g).foldl (fun m a => max m (a.1 + a.2)) 0

/-- The bytes from an offset to the next allocation at or beyond it, or to `top`; 0 inside an allocation. -/
def scrGap (al : List (Nat × Nat)) (top o : Nat) : Nat :=
  if al.any (fun a => decide (a.1 ≤ o ∧ o < a.1 + a.2)) then 0
  else (al.foldl (fun m a => if o ≤ a.1 then min m a.1 else m) top) - o

/-- The offsets at which a free range of a core's scratchpad starts: 0 and the end of each allocation. -/
def scrStarts (al : List (Nat × Nat)) : List Nat := 0 :: al.map (fun a => a.1 + a.2)

/-- The free scratchpad of a core below a boundary: its largest contiguous free range (R184). -/
def Part.scrFree (p : Part) (g bnd : Nat) : Nat :=
  (scrStarts (p.scrAllocs g)).foldl (fun m o => max m (scrGap (p.scrAllocs g) (bnd * 16384) o)) 0

/-- The lowest of a list of numbers. -/
def leastOf : List Nat → Option Nat
  | [] => none
  | x :: l => some (l.foldl min x)

/-- Where an allocation of `n` bytes goes on a core: first-fit from offset 0 (R184). -/
def Part.freeScr (p : Part) (g bnd n : Nat) : Nat :=
  (leastOf ((scrStarts (p.scrAllocs g)).filter (fun o => decide (n ≤ scrGap (p.scrAllocs g) (bnd * 16384) o)))).getD 0

/-- The youngest parked line of a list. -/
def youngest : List Parked → Option Parked
  | [] => none
  | d :: l => match youngest l with
    | none => some d
    | some e => some (if e.time ≤ d.time then d else e)

/-- While the L1 park area of a core exceeds its limit, its youngest line moves on along R198 (R189, R200), which is owed (R88). -/
def State.shrinkPark (s : State) (q g : Nat) (pay : Payer) : Nat → State
  | 0 => s
  | fuel + 1 =>
    let mine := (s.part q).parkedIn g
    if mine.length * 128 ≤ min 65536 (((s.part q).core g).ways * 16384 / 2) then s
    else
      match youngest mine with
      | none => s
      | some d =>
        let s := s.modPart q Part.pkfall
        let got := s.parkChain q d.line 2 1 (cluOf g)
        let s := if got.1 = 3 then s.unpark q pay d.line
          else
            let s := s.modPart q (fun p => { p with dir := updIf (fun x => x.line == d.line) (fun x => { x with level := got.1, unit := got.2, fell := true }) p.dir })
            let s := ((s.logLine q d.line).owe q pay 128 128).modPart q (fun p => p.retable d.line (s.tableOf q d.line))
            if got.1 = 1 then s.ccAdmit q pay d got.2 else s
        s.shrinkPark q g pay fuel

/-- L1 sectors that still fit, the most recently used of each set first. -/
def trimL1 (room : Nat → Nat) (l : List L1Sector) : List L1Sector :=
  l.reverse.foldl (fun kept x =>
    if (kept.filter (fun y => y.sector % 512 == x.sector % 512)).length < room (x.sector % 512) then x :: kept else kept) []

/-- The boundary of a core becomes `b` units: the cache part that it gives up is dropped, and parked lines beyond the limit move on (R84, R189); an uncorrectable sector is
logged only (R208). `pay` pays for what moves (R88). -/
def State.setBnd (s : State) (q g b : Nat) (pay : Payer) : State :=
  let s := s.modPart q (fun p => p.setCore g { p.core g with bnd := b })
  let s := s.shrinkPark q g pay ((s.part q).parkedIn g).length
  s.modPart q (fun p => (p.setCore g { p.core g with l1 := trimL1 (p.l1Room g) (p.core g).l1 }).logGone g (s.clkc q) (p.core g).l1)

/-! ### Fitting (R81) -/

/-- The first of the base lanes that the fewest of a block's warps have: `mine` holds the bases given out. -/
def fewest (mine : List Nat) (l : List (Nat × Nat)) : Option (Nat × Nat) :=
  l.foldl (fun (best : Option (Nat × Nat)) x => match best with
    | none => some x
    | some y => if mine.count x.1 < mine.count y.1 then some x else some y) none

/-- Base lanes and file bases for `n` more warps of a block, of width `w` with `r` registers, given the bases of its warps so far and the allocations on the core
(R81, R103, R117). A range is free when it has a free context and registers, whoever else has its lanes (R11, R117; log 25). -/
def planWarps (w r : Nat) : Nat → List Nat → List (Nat × Nat × Nat × Nat) → Option (List (Nat × Nat))
  | 0, _, _ => some []
  | n + 1, mine, al =>
    let ok (b : Nat) : Option (Nat × Nat) :=
      if ctxFree (al.map (fun a => (a.1, a.2.1))) b w then (regFit al b w r).map (fun e => (b, e)) else none
    match fewest mine (((List.range (128 / w)).map (fun i => i * w)).filterMap ok) with
    | none => none
    | some x => (planWarps w r n (mine ++ [x.1]) (al ++ [(x.1, w, x.2, r)])).map (fun l => x :: l)

/-- The boundary at which a core is tried for a kernel (R84). -/
def Part.bndFor (p : Part) (k : KDesc) (g : Nat) : Nat :=
  if p.blocks.any (fun b => b.core == g) then (p.core g).bnd else max k.cvlo (min k.cvhi (p.core g).bnd)

/-- The free scratchpad of a core at a boundary holds a block of the kernel (R81). -/
def Part.scrFits (p : Part) (k : KDesc) (g bnd : Nat) : Bool := decide (k.scr * 128 ≤ p.scrFree g bnd)

/-- The warps' places on a core for one block, if it fits but for scratchpad and reservation (R81). -/
def Part.planOn (p : Part) (k : KDesc) (g : Nat) : Option (List (Nat × Nat)) :=
  planWarps k.width (16 * k.bregs) k.bwarps [] ((p.warpsOn g).map (fun x => x.2.alloc))

/-- A core is reserved for another grid's gang (R83). -/
def Part.reservedFrom (p : Part) (g seq : Nat) : Bool :=
  p.reserved.contains g && (match p.headGang with | some h => h.1 != seq | none => false)

/-- One block of a grid fits a core (R81). -/
def Part.fits (p : Part) (gr : Grid) (g : Nat) : Bool :=
  let b := p.bndFor gr.k g
  decide (gr.k.cvlo ≤ b ∧ b ≤ gr.k.cvhi) && p.scrFits gr.k g b && !p.reservedFrom g gr.seq && (p.planOn gr.k g).isSome

/-- A gang of `n` more blocks is within MAXBLK (R81). -/
def Part.underMax (p : Part) (gr : Grid) (n : Nat) : Bool :=
  let r := (p.gridBlocks gr.seq).length
  gr.l.maxblk == 0 || r == 0 || decide (r + n ≤ gr.l.maxblk)

/-- A cluster could give a gang's lanes an item (R82). -/
def Grid.serves (gr : Grid) (c : Nat) : Bool := gr.pooled || (gr.range c).size != 0 || (gr.donor c).isSome

/-- The first run of `n` cores in the order of R81 that satisfies a test, over the clusters that serve the grid. -/
def firstRun (nclu n : Nat) (oct : Bool) (serve : Nat → Bool) (ok : List Nat → Bool) : Option (List Nat) :=
  let tries (inOct : Bool) : Option (List Nat) :=
    ((List.range nclu).filter serve).findSome? (fun c =>
      (List.range (49 - n)).findSome? (fun k =>
        if inOct && k / 8 != (k + n - 1) / 8 then none
        else
          let run := (List.range n).map (fun i => c * 48 + k + i)
          if ok run then some run else none))
  match tries true with
  | some r => some r
  | none => if oct then none else tries false

/-- The lanes of one gang of a grid. -/
def Grid.gangLanes (gr : Grid) : Nat := (gr.l.gangm1 + 1) * gr.k.bwarps * gr.k.width

/-- The cores on which the next gang of a grid would be placed (R81, R82). -/
def State.gangRun (s : State) (q : Nat) (gr : Grid) : Option (List Nat) :=
  let p := s.part q
  let n := gr.l.gangm1 + 1
  if !p.underMax gr n then none else firstRun (s.nclu q) n gr.k.oct (fun c => gr.serves c && s.cluReady q c) (fun run => run.all (p.fits gr))

/-- A grid is placeable (R82). -/
def Grid.placeable (gr : Grid) : Bool := gr.started && !gr.exhausted

/-! ### Placing a gang (R25, R81, R84, R95) -/

/-- A fresh warp (R25, R64, R94, R95); lanes are drained until items reach them. -/
def freshWarp (uid blk wid slot now : Nat) (g : Grid) (at_ : Nat × Nat) : Warp × Nat :=
  let k := g.k
  ({ uid := uid, block := blk, base := at_.1, width := k.width, wid := wid, pc := k.entry, m := fullMask k.width, refillRun := false, resuming := false,
     stack := [], spilled := 0, s := Sparse.wr (Sparse.wr [] 0 g.l.argp) 1 (BitVec.ofNat 64 g.l.items), q := 0,
     lanes := (List.range k.width).map (fun l => ⟨.drained, 0xFFFFFFFF, lfsrBase ^^^ BitVec.ofNat 32 (l + 1), 0⟩),
     fileBase := at_.2, n := 16 * k.bregs, wb := 0, fflags := 0, trdy := 0, terr := 0, ifc := 0, mx := 0, lc0 := 0, lc1 := 0, lc2 := 0, levels := [],
     trap := ⟨k.thnd, 0, 0, 0, 0, false, 0, 0, 0⟩, prio := g.prio, linh := 0, binh := 0, last := now, triggered := false, region := 0, mmas := [], arr := [],
     run := none, wait := .none, stopped := none }, slot)

/-- One block of a gang is placed (R81, R84, R95): its boundary, its allocation reading 0, its warps; the start of the grid is a system-scope acquire (R80). -/
def State.placeBlock (s : State) (q seq gang bid gcx core : Nat) : State :=
  match (s.part q).grid? seq with
  | none => s
  | some g =>
    let p := s.part q
    match p.planOn g.k core with
    | none => s
    | some plan =>
      let b := p.bndFor g.k core
      let cls := (p.queue g.queue).rcls
      let s := if b = (p.core core).bnd then s else s.setBnd q core b (core, cls)
      let p := s.part q
      let id := p.blockSeq
      let len := g.k.scr * 128
      let off := p.freeScr core b len
      let p : Part := { p with
        blocks := p.blocks ++ [⟨id, seq, gang, bid, gcx, core, off, len, freshBars, true⟩]
        blockSeq := id + 1 }
      let p := p.setCore core { p.core core with scratch := (p.core core).scratch.filter (fun x => !decide (off ≤ x.1 ∧ x.1 < off + len)) }
      let p := ((p.lagScratch core off len).acquirePoint core .sys).freshBucket core cls s.now
      let slots := p.freeSlots core
      let p := (List.range plan.length).foldl (fun (p : Part) i =>
        let x := freshWarp p.warpSeq id i (slots.getD i 0) s.now g (plan.getD i (0, 0))
        let p := p.setCore core ((p.core core).clearRegs x.1.base x.1.width x.1.fileBase x.1.n)
        ({ p with warpSeq := p.warpSeq + 1 } : Part).setWarp ⟨core, x.2⟩ x.1) p
      s.setPart q p

/-- A gang of a grid is placed on a run of cores, all blocks at one instant (R81). -/
def State.placeGang (s : State) (q seq : Nat) (cores : List Nat) : State :=
  match (s.part q).grid? seq with
  | none => s
  | some g =>
    let n := cores.length
    let id := (s.part q).gangSeq
    let s := s.modPart q (fun p => ({ p.settle s.now with gangs := p.gangs ++ [⟨id, seq, cores, ⟨0, 0, 0⟩, n⟩], gangSeq := id + 1 } : Part).modGrid seq (fun g => { g with gangs := g.gangs + 1 }))
    (List.range n).foldl (fun s i => s.placeBlock q seq id (g.gangs * n + i) (if 1 < n then i else 0) (cores.getD i 0)) s

/-- One lane draws an item (R85, R95). -/
def State.drawLane (s : State) (q seq clu : Nat) (w : WRef) (l : Nat) : State :=
  match (s.part q).grid? seq with
  | none => s
  | some g =>
    match g.draw clu with
    | (none, g') => s.modPart q (fun p => (p.modGrid seq (fun _ => g')).modWarp w (fun x => { x with
        lanes := modAt x.lanes l (fun y => { y with st := .drained, p := y.p &&& 0x3F }) }))
    | (some i, g') => s.modPart q (fun p => (p.modGrid seq (fun _ => g')).modWarp w (fun x => { x with
        lanes := modAt x.lanes l (fun y => { y with st := .live, iid := BitVec.ofNat 32 i, p := (y.p &&& 0x3F) ||| 0x40 }) }))

/-- The lanes of a gang's warps take their items: blocks in order, warps by `wid`, lanes ascending (R95); a warp left without a live lane is handled under
R96. -/
def State.fillGang (s : State) (q gang : Nat) : State :=
  let bs := (s.part q).blocksOf gang
  let ws := bs.flatMap (fun b => (List.range 64).filterMap (fun i => ((s.part q).warpsOf b.id).find? (fun x => x.2.wid == i)))
  let s := ws.foldl (fun s x => match (s.part q).ctx x.1 with
    | none => s
    | some c => (List.range c.x.width).foldl (fun s l => s.drawLane q c.grid.seq (cluOf x.1.core) x.1 l) s) s
  ws.foldl (fun s x => s.settleWarp q x.1) s

/-! ### The placement pass (R82, R83) -/

/-- Place gangs of a grid while they fit: in the first pass while the lanes placed number fewer than ITEMS, filling at its end (R82, R85). -/
def State.placeFirst (s : State) (q seq lanes : Nat) : Nat → State
  | 0 => s
  | fuel + 1 =>
    match (s.part q).grid? seq with
    | none => s
    | some g =>
      if g.l.items ≤ lanes then s
      else match s.gangRun q g with
        | none => s
        | some r => (s.placeGang q seq r).placeFirst q seq (lanes + g.gangLanes) fuel

/-- Later passes: each gang's lanes draw as it is placed. -/
def State.placeLater (s : State) (q seq : Nat) : Nat → State
  | 0 => s
  | fuel + 1 =>
    match (s.part q).grid? seq with
    | none => s
    | some g =>
      if !g.placeable then s
      else match s.gangRun q g with
        | none => s
        | some r =>
          let id := (s.part q).gangSeq
          ((s.placeGang q seq r).fillGang q id).placeLater q seq fuel

/-- The bound on the gangs of one pass: a core holds at most 64 warps, a partition at most 1,152 cores. -/
def passFuel : Nat := 80000

/-- Place what fits of one grid, and look at its trigger. -/
def State.placeGrid (s : State) (q seq : Nat) : State :=
  match (s.part q).grid? seq with
  | none => s
  | some g =>
    if !g.placeable then s
    else if g.pooled then
      let first := (s.part q).gangSeq
      let s := s.placeFirst q seq 0 passFuel
      let new := (List.range ((s.part q).gangSeq - first)).map (fun i => first + i)
      if new.isEmpty then s
      else
        let clus := (List.range (s.nclu q)).filter (fun c => ((s.part q).gridBlocks seq).any (fun b => cluOf b.core == c))
        let s := s.modPart q (fun p => p.modGrid seq (fun g => { g with pooled := false, ranges := splitItems g.l.items clus }))
        (new.foldl (fun s i => s.fillGang q i) s).modPart q (fun p => p.checkTrigger seq)
    else (s.placeLater q seq passFuel).modPart q (fun p => p.checkTrigger seq)

/-- Insert a grid in the order of R82: priority, then acceptance. -/
def insGrid (g : Grid) : List Grid → List Grid
  | [] => [g]
  | x :: l => if x.prio < g.prio ∨ (x.prio = g.prio ∧ g.seq < x.seq) then g :: x :: l else x :: insGrid g l

/-- The placeable grids in the order of R82. -/
def Part.order (p : Part) : List Grid := (p.grids.filter (fun g => g.placeable)).foldl (fun l g => insGrid g l) []

/-- One block of a grid would fit a core on which every resident block had retired, at the boundary that R84 would set (R81, R83). -/
def Part.fitsEmpty (p : Part) (gr : Grid) (g : Nat) : Bool :=
  let b := max gr.k.cvlo (min gr.k.cvhi (p.core g).bnd)
  decide (gr.k.scr * 128 ≤ b * 16384) && (planWarps gr.k.width (16 * gr.k.bregs) gr.k.bwarps [] []).isSome

/-- The cores that the head gang would have if every resident block on them had retired (R83). -/
def State.headRun (s : State) (q : Nat) (g : Grid) : Option (List Nat) :=
  let p := s.part q
  let n := g.l.gangm1 + 1
  let fit (run : List Nat) : Bool :=
    let r := ((p.gridBlocks g.seq).filter (fun b => !run.contains b.core)).length
    g.l.maxblk == 0 || r == 0 || decide (r + n ≤ g.l.maxblk)
  firstRun (s.nclu q) n g.k.oct (fun c => g.serves c && s.cluReady q c) (fun run => run.all (p.fitsEmpty g) && fit run)

/-- The head gang after a pass (R83): the next gang of the first grid that is still placeable, since when, keeping its reservation while it is the same gang. Where a
grid of higher priority takes the place of the old head's, a reservation passes to its cores. -/
def State.newHead (s : State) (q : Nat) (old : Option Grid) : State :=
  let p := s.part q
  match p.order with
  | [] => s.setPart q { p with headGang := none, reserved := [] }
  | g :: _ =>
    match p.headGang, old with
    | some h, some o =>
      if h.1 = g.seq ∧ o.gangs = g.gangs then s
      else
        let passes := !p.reserved.isEmpty && decide (h.1 ≠ g.seq ∧ o.prio < g.prio) && (p.grid? h.1).any (fun x => x.placeable && x.gangs == o.gangs)
        s.setPart q { p with headGang := some (g.seq, s.now), reserved := if passes then (s.headRun q g).getD [] else [] }
    | _, _ => s.setPart q { p with headGang := some (g.seq, s.now), reserved := [] }

/-- A grid is not held back by a restoration of priority `floor`, which goes before every gang of equal priority (R325). -/
def Grid.above (g : Grid) (floor : Option Nat) : Bool := match floor with | some f => decide (f < g.prio) | none => true

/-- The placement pass (R82). -/
def State.placementPass (s : State) (q : Nat) (floor : Option Nat) : State :=
  let old := match (s.part q).headGang with | some h => (s.part q).grid? h.1 | none => none
  let s := ((s.part q).order.filter (fun g => g.above floor)).foldl (fun s g => s.placeGrid q g.seq) s
  s.newHead q old

/-- A pass has something to do: a gang fits, or the head gang is another one. -/
def State.passDue (s : State) (q : Nat) (floor : Option Nat) : Bool :=
  let p := s.part q
  match p.order with
  | [] => p.headGang.isSome
  | g :: l => (match p.headGang with | some h => h.1 != g.seq | none => true) || (g :: l).any (fun x => x.above floor && (s.gangRun q x).isSome)

/-- The head gang is still unplaced after 4,096 fc: cores are reserved for it (R83). -/
def State.reserveHead (s : State) (q : Nat) : State :=
  let p := s.part q
  match p.headGang with
  | none => s
  | some h =>
    match p.grid? h.1 with
    | none => s
    | some g =>
      if s.now < h.2 + 4096 ∨ !p.reserved.isEmpty then s
      else match s.headRun q g with
        | some r => s.setPart q { p with reserved := r }
        | none => s

/-- A reservation is due (R83). -/
def State.reserveDue (s : State) (q : Nat) : Bool :=
  let p := s.part q
  match p.headGang with
  | some h => decide (h.2 + 4096 ≤ s.now) && p.reserved.isEmpty && (match p.grid? h.1 with | some g => (s.headRun q g).isSome | none => false)
  | none => false

/-! ### The carve-out interval (R189) -/

/-- The first started grid whose block fails R81 on a core by scratchpad alone (R189). -/
def State.scrAlone (s : State) (q g : Nat) : Option Grid :=
  let p := s.part q
  p.order.find? (fun gr =>
    let b := p.bndFor gr.k g
    p.underMax gr (gr.l.gangm1 + 1) && decide (gr.k.cvlo ≤ b ∧ b ≤ gr.k.cvhi) && !p.scrFits gr.k g b && !p.reservedFrom g gr.seq && (p.planOn gr.k g).isSome)

/-- The end of an interval on one core (R189); lines that then move are charged to the class of the grid that fails (R88). -/
def State.carveCore (s : State) (q g : Nat) : State :=
  let p := s.part q
  let c := p.core g
  let ks := (p.blocks.filter (fun b => b.core == g)).filterMap (fun b => (p.grid? b.grid).map (fun x => x.k))
  let s :=
    if ks.isEmpty then s
    else
      let lo := ks.foldl (fun m k => max m k.cvlo) 0
      let hi := ks.foldl (fun m k => min m k.cvhi) 20
      let f := (p.scrUsed g + 16383) / 16384
      if 64 ≤ c.g ∧ max lo f + 1 ≤ c.bnd then s.setBnd q g (c.bnd - 1) noPayer
      else match s.scrAlone q g with
        | some gr => if c.sc ≤ 8 ∧ c.bnd + 1 ≤ hi then s.setBnd q g (c.bnd + 1) (g, (p.queue gr.queue).rcls) else s
        | none => s
  s.modPart q (fun p => p.setCore g { p.core g with g := 0, sc := 0 })

/-- The end of an interval of 65,536 cc (R189). -/
def State.carveInterval (s : State) (q : Nat) : State :=
  let s := (((s.part q).cores).map (fun x => x.1)).foldl (fun s g => s.carveCore q g) s
  s.modPart q (fun p => { p with carved := p.carved + 1 })

/-- An interval has ended, counted from partition reset (R189). -/
def State.carveDue (s : State) (q : Nat) : Bool := decide (((s.part q).carved + 1) * 131072 ≤ s.clkc q)

end Sys2Proof.Machine
end

