-- ==== Sys2Proof/Machine/Swap.lean ====
section
/-! DEFINITION. Swapping, restoring, killing and shootdown (R107, R316, R319-R327). -/

namespace Sys2Proof.Machine

/-! ### Targets and records (R317, R320) -/

/-- The context that a target names, when no other bit is set (R320). -/
def targetOf (a : W64) : Option WRef :=
  let n := a.toNat
  if n = bits n 10 0 + bits n 21 16 * 2 ^ 16 then some ⟨bits n 10 0, bits n 21 16⟩ else none

/-- A record of KIND 3, 4 or 5 (R317): what a failing access `f` gives it, and the save area as its ADDR. -/
def unitRec (kind : Nat) (w : WRef) (gridh area : W64) (f : Option CopyFail) : FaultRec :=
  ⟨(f.map (fun x => x.cause.code)).getD 0, kind, w.core, w.slot, 0, (f.map (fun x => x.acc.code)).getD 0, 0, 0, area, 0, gridh, (f.map (fun x => x.detail)).getD 0, 0⟩

/-- A failing access of a swap or a restoration to an uncorrectable sector is logged (R208). -/
def State.logFail (s : State) (q : Nat) (f : CopyFail) : State := if f.cause = .memue then s.logUe q f.detail.toNat else s

/-- The record of a number is replaced, while it is still to be written (R319). -/
def Part.setRec (p : Part) (n : Nat) (r : FaultRec) : Part :=
  let first := p.postSeq - p.posts.length
  if n < first then p else { p with posts := setAt p.posts (n - first) r }

/-- An event that ends with a record (R319): `z` is the state without the record, and the record. It takes place once the record has a place in the posting buffer;
until then the record queues in the order in which the event arose, `hold` keeps its number, and nothing else happens. -/
def State.conclude (s : State) (q : Nat) (held : Option Nat) (z : State × FaultRec) (hold : Nat → Part → Part) : State :=
  match held with
  | some n => z.1.modPart q (fun p => p.setRec n z.2)
  | none => if (s.part q).postFree then z.1.modPart q (fun p => p.post z.2) else s.modPart q (fun p => hold p.postSeq (p.post z.2))

/-- An event whose record waits for a place is not due again before it has one. -/
def Part.maySettle (p : Part) (held : Option Nat) : Bool := match held with | some n => p.hasPlace n | none => true

/-- A warp's FAULT record stands in the posting buffer, not beyond it (R319): it may be released. -/
def Part.faultPosted (p : Part) (w : WRef) : Bool := (p.posts.drop postRoom).all (fun r => !(r.kind == 0 && r.gcore == w.core && r.slot == w.slot))

/-! ### Waits across a swap (R271, R321) -/

/-- A wait as it stands in an absent warp: times that are left or have passed in place of instants. -/
def Wait.pause (x : Wait) (now : Nat) : Wait :=
  match x with
  | .sleep t => .sleep (t - now)
  | .fuse d w r t a => .fuse d w r (now - t) a
  | x => x

/-- The wait taken up again. -/
def Wait.resume (x : Wait) (now : Nat) : Wait :=
  match x with
  | .sleep t => .sleep (now + t)
  | .fuse d w r t a => .fuse d w r (now - t) a
  | x => x

/-- A warp stops for a swap with a live mask (R321). -/
def Part.stopWarp (p : Part) (w : WRef) (mask : BitVec 18) (now : Nat) : Part :=
  match p.warp w with
  | none => p
  | some x => (p.setWarp w { x with stopped := some mask, wait := x.wait.pause now }).waiterAbsent x.uid now

/-- A stopped warp goes on as it stood (R321). -/
def Part.unstopWarp (p : Part) (w : WRef) (now : Nat) : Part :=
  match p.warp w with
  | none => p
  | some x => (((p.setWarp w { x with stopped := none, wait := x.wait.resume now }).waiterReturns x.uid now)).wakeLwait

/-- A park's wait is over. -/
def Part.waitOver (p : Part) (x : Warp) (k : ParkWait) : Bool :=
  match k with
  | .twall m => x.trdy &&& m == m
  | .twany m => x.trdy &&& m != 0
  | .tlbsync => p.shoot.all (fun t => t.uid != x.uid)
  | .inject _ => false
  | .dropped => false

/-- A park that a swap breaks (R321): one that `twall`, `twany`, `tlbsync` or a blocking `racq` still holds. -/
def Part.breakable (p : Part) (c : Ctx) (r : Run) : Bool :=
  r.closed && (r.waits.any (fun k => (match k with | .twall _ => true | .twany _ => true | .tlbsync => true | _ => false) && !p.waitOver c.x k) ||
    r.acts.any (p.racqHolds c.w c.x (regCap c.grid.k) r.since))

/-- Whether a warp stops at once for a swap, and whether a run of it aborts (R321). -/
def Part.stopsNow (p : Part) (w : WRef) (mode : Nat) : Option Bool :=
  match p.ctx w with
  | none => none
  | some c =>
    if c.x.stopped.isSome then none
    else match c.x.wait with
      | .none => match c.x.run with
        | none => if mode = 0 then some false else none
        | some r => if p.breakable c r then some true else none
      | .split .. => none
      | .retire => none
      | _ => some false

/-- Every warp of a unit under a swap that can stop does (R321). -/
def Part.swapStops (p : Part) (now : Nat) : Part :=
  p.swaps.foldl (fun p sw =>
    if sw.kill then p
    else (p.warpsOfGang sw.gang).foldl (fun p y => match p.stopsNow y.1 sw.mode with
      | none => p
      | some ab => (if ab then p.abortRun y.1 else p).stopWarp y.1 0x3FFFF now) p) p

/-- The swap under way for a warp's unit. -/
def Part.swapOf (p : Part) (w : WRef) : Option Swap :=
  match p.ctx w with
  | none => none
  | some c => p.swaps.find? (fun s => s.gang == c.gang.id && !s.kill)

/-- At a run boundary of a warp whose unit is being swapped (R321): mode 0 stops it with a full save, mode 1 at a committed safepoint run with its live mask, or with a full
save once 65,536 cc have passed. -/
def Part.boundaryStop (p : Part) (w : WRef) (safept : Option (BitVec 18)) (now : Nat) : Part :=
  match p.swapOf w, p.warp w with
  | some s, some x =>
    if x.stopped.isSome || x.run.isSome || decide (x.wait = .retire) || (match x.wait with | .split .. => true | _ => false) then p
    else if s.mode = 0 ∨ s.since + 131072 ≤ now then p.stopWarp w 0x3FFFF now
    else match safept with
      | some m => p.stopWarp w m now
      | none => p
  | _, _ => p

/-- Under mode 1, the warp has not stopped after 65,536 cc and stands between runs (R321). -/
def Part.forceDue (p : Part) (w : WRef) (now : Nat) : Bool :=
  match p.swapOf w, p.warp w with
  | some s, some x => s.mode == 1 && decide (s.since + 131072 ≤ now) && x.stopped.isNone && x.run.isNone && decide (x.wait = .none)
  | _, _ => false

/-! ### Images (R322-R324) -/

/-- A register below N is saved under a live mask and WB (R322). -/
def savedReg (mask : BitVec 18) (wb p : Nat) : Bool :=
  if mask = 0x3FFFF then true
  else if p < 16 then mask.getLsbD (p / 8)
  else if 16 + wb ≤ p ∧ p < 96 + wb then mask.getLsbD ((p - wb) / 8)
  else true

/-- A uniform register is saved under a live mask (R322). -/
def savedS (mask : BitVec 18) (i : Nat) : Bool := mask.getLsbD (12 + i / 4)

/-- Round up. -/
def alignUp (n a : Nat) : Nat := (n + a - 1) / a * a

/-- Bytes of a warp's record (R324). -/
def Warp.recSize (x : Warp) : Nat := 0x500 + 12 * x.width + 4 * x.width * x.n

/-- The warps of a block by `wid`. -/
def Part.byWid (p : Part) (blk : Nat) : List (WRef × Warp) := (List.range 64).filterMap (fun i => (p.warpsOf blk).find? (fun x => x.2.wid == i))

/-- The strips that a block's warps span. -/
def Part.blockStrips (p : Part) (blk : Nat) : List Nat := (List.range 4).filter (fun s => (p.warpsOf blk).any (fun x => x.2.strips.contains s))

/-- Offsets of a block's warp records, and where they end (R323). -/
def Part.recOffsets (p : Part) (b : Block) : List (Nat × WRef × Warp) × Nat :=
  (p.byWid b.id).foldl (fun (l, o) y => (l ++ [(o, y.1, y.2)], alignUp (o + y.2.recSize) 128)) ([], alignUp (0x400 + b.scrLen) 128)

/-- Bytes of a block's image (R323). -/
def Part.imageSize (p : Part) (b : Block) (bst : Bool) : Nat :=
  alignUp ((p.recOffsets b).2 + (if bst then 2 ^ 20 * (p.blockStrips b.id).length else 0)) 256

/-- TSTAT (R312) and LDEPTH (R136). -/
def TrapRegs.tstat (t : TrapRegs) : Nat := b2n t.inh + t.rd0 * 2 ^ 8 + t.count * 2 ^ 32
def Warp.ldepth (x : Warp) : Nat := x.levels.length + x.rd * 2 ^ 8

/-- WKIND and the two operands of a wait, as its instruction holds them (R324); the count of a barrier beside its number, what is left of a sleep, an object of `abwait`
by its address; 8 for `coll`, to which R324 gives no number (DESIGN CHOICE, log 18). -/
def Part.waitCode (p : Part) (b : Block) (x : Wait) : Nat × Nat × Nat :=
  match x with
  | .nbar i c => (1, i, c)
  | .gbar c => (2, c, 0)
  | .lwait _ e v => (3, e, v.toNat)
  | .llock _ _ a b => (4, a.toNat, b.toNat)
  | .sleep t => (5, t / 2, 0)
  | .abwait l glob tok =>
    match l with
    | .scratch c o =>
      let off := match p.blocks.find? (fun y => y.gang == b.gang && y.core == c) with | some y => o - y.scrOff | none => o
      (6, if glob then 0xFFFF000100000000 + c % 48 * 2 ^ 19 + off else 0xFFFF000000000000 + off, tok)
    | _ => (6, 0, tok)
  | .fuse _ w r _ _ => (7, w, b2n r)
  | .coll _ h a _ => (8, h, a.toNat)
  | _ => (0, 0, 0)

/-- The fixed part of a warp's record (R324). -/
def Part.warpHead (p : Part) (c : Ctx) (mask : BitVec 18) : List Byte :=
  let x := c.x
  let w8 (n : Nat) : List Byte := leBytes 8 n
  let wc := p.waitCode c.blk (match x.wait with | .fault .. => .none | w => w)
  let epc := match x.wait with | .fault e _ _ _ => e | _ => x.trap.epc
  let off (a : W64) : Nat := (a - c.grid.k.codeBase).toNat / 4 % 2 ^ 30
  let level (k : Nat) : List Byte := match x.levels.reverse[k]? with
    | some l => leBytes 16 (off l.start + off l.stop * 2 ^ 32 + l.rd0 * 2 ^ 64)
    | none => List.replicate 16 0
  let lanes := (List.range x.width).foldl (fun n i => n + (match x.lanes[i]? with
    | some l => (match l.st with | .live => 0 | .vacant => 1 | .drained => 2)
    | none => 2) * 4 ^ i) 0
  let stack := (x.stack.reverse.flatMap (fun r => let e := r.encode x.width c.grid.k.codeBase; e ++ List.replicate (48 - e.length) 0))
  w8 x.pc.toNat ++
  w8 (x.width + x.base * 2 ^ 8 + x.wid * 2 ^ 16 + x.wb * 2 ^ 24 + x.n / 16 * 2 ^ 32 + x.prio * 2 ^ 40 + b2n x.triggered * 2 ^ 43 + mask.toNat * 2 ^ 44) ++
  (List.range 24).flatMap (fun i => w8 (if savedS mask i then (Sparse.rd x.s i).toNat else 0)) ++
  w8 (x.q.toNat % 128 + 128) ++
  [x.fflags.toNat, x.trap.thnd.toNat, x.trap.cause.toNat, x.trap.addr.toNat, x.trap.info.toNat, epc.toNat, x.trap.tstat, x.lc0.toNat, x.lc1.toNat, x.lc2.toNat,
    x.ldepth, x.trdy.toNat, x.terr.toNat].flatMap w8 ++
  level 0 ++ level 1 ++ level 2 ++ leBytes 16 x.trap.savedM.toNat ++ leBytes 16 x.m.toNat ++ leBytes 32 lanes ++
  w8 wc.1 ++ w8 wc.2.1 ++ w8 wc.2.2 ++ w8 x.mx.toNat ++ List.replicate 0x30 0 ++
  stack ++ List.replicate (0x300 - stack.length) 0

/-- A warp's record as segments from its offset (R324): IID, LFSR, P and the saved registers follow. -/
def Part.warpSegs (p : Part) (c : Ctx) (mask : BitVec 18) (o : Nat) : List (Nat × List Byte) :=
  let x := c.x
  let k := p.core c.w.core
  [(o, p.warpHead c mask),
   (o + 0x500, x.lanes.flatMap (fun l => leBytes 4 (Lane.item l).toNat)),
   (o + 0x500 + 4 * x.width, x.lanes.flatMap (fun l => leBytes 4 l.lfsr.toNat)),
   (o + 0x500 + 8 * x.width, x.lanes.map (fun l => BitVec.ofNat 8 (l.p.toNat % 128 + 128)))] ++
  ((List.range x.n).filter (savedReg mask x.wb)).map (fun r =>
    (o + 0x500 + 12 * x.width + 4 * x.width * r, (List.range x.width).flatMap (fun l => leBytes 4 (k.reg (x.base + l) (x.fileBase + r)).toNat)))

/-- A barrier's phase state as the header holds it (R323). -/
def Bar.code (b : Bar) : Nat := b.n % 4096 + b.a % 4096 * 2 ^ 12 + b.r % 4096 * 2 ^ 24
def Bar.ofCode (v : Nat) : Bar :=
  let a := bits v 23 12
  ⟨if bits v 11 0 = 0 ∧ a ≠ 0 then 4096 else bits v 11 0, a, bits v 35 24⟩

/-- A block's image as segments (R323). -/
def State.blockSegs (s : State) (q : Nat) (b : Block) (bst : Bool) : List (Nat × List Byte) :=
  let p := s.part q
  match p.gang? b.gang, p.grid? b.grid with
  | some g, some gr =>
    let offs := p.recOffsets b
    let strips := p.blockStrips b.id
    let w8 (n : Nat) : List Byte := leBytes 8 n
    let woff (i : Nat) : Nat := match offs.1.find? (fun x => x.2.2.wid == i) with | some x => x.1 | none => 0
    let head :=
      w8 (0x53574B42 + 2 ^ 32 + s.gradeNum * 2 ^ 40 + offs.1.length * 2 ^ 48 + b2n bst * 2 ^ 55 + (strips.foldl (fun m i => m + 2 ^ i) 0) * 2 ^ 56) ++
      w8 gr.k.addr.toNat ++ w8 gr.handle.toNat ++
      w8 (b.bid + b.gcx * 2 ^ 32 + (g.size - 1) * 2 ^ 40 + b.core % 48 * 2 ^ 48) ++ w8 (gr.k.scr + (p.core b.core).bnd * 2 ^ 16) ++
      w8 (p.imageSize b bst) ++ List.replicate 0x10 0 ++
      b.bars.flatMap (fun r => w8 r.code) ++ w8 g.bar.code ++ List.replicate 0x38 0 ++
      (List.range 64).flatMap (fun i => w8 (woff i)) ++ List.replicate 0x100 0
    [(0, head), (0x400, (List.range b.scrLen).map (fun i => Sparse.rd (p.core b.core).scratch (b.scrOff + i)))] ++
    offs.1.flatMap (fun y => match p.ctx y.2.1 with
      | some c => p.warpSegs c (y.2.2.stopped.getD 0x3FFFF) y.1
      | none => []) ++
    (if bst then (List.range strips.length).map (fun i =>
      (offs.2 + 2 ^ 20 * i, (List.range (2 ^ 20)).map (fun j => Sparse.rd (p.core b.core).bstore (strips.getD i 0 * 2 ^ 20 + j)))) else [])
  | _, _ => []

/-- Cut bytes at an address into pieces within 128-byte lines. -/
def chopLines (va : Nat) (l : List Byte) : List (Nat × List Byte) :=
  let f := 128 - va % 128
  if l.length ≤ f then (if l.isEmpty then [] else [(va, l)])
  else (va, l.take f) :: (List.range ((l.length - f + 127) / 128)).map (fun i => (va + f + 128 * i, (l.drop (f + 128 * i)).take 128))

/-- Write segments at an area; the first failing access stops it (R321). -/
def State.writeSegs (s : State) (q : Nat) (b : Block) (area : W64) (segs : List (Nat × List Byte)) : State × Option CopyFail :=
  (segs.flatMap (fun x => chopLines (area.toNat + x.1) x.2)).foldl (fun (r : State × Option CopyFail) x =>
    match r.2 with
    | some _ => r
    | none => match r.1.engWrite q b none (BitVec.ofNat 64 x.1) x.2 with
      | .ok s => (s, none)
      | .error f => (r.1, some f)) (s, none)

/-! ### Swapping out (R321) -/

/-- The unit of a swap has stopped and may be written: every warp has stopped with IFC 0, no multicast names it and no lock is on its way to it, and blocks that
are over have gone (R98, R107, R242, R269). -/
def Part.imageReady (p : Part) (sw : Swap) : Bool :=
  !sw.kill && p.maySettle sw.record &&
  (p.warpsOfGang sw.gang).all (fun y => y.2.stopped.isSome && y.2.ifc == 0 &&
    p.locks.all (fun l => match l.grant with | some g => g.1 != y.2.uid | none => true)) &&
  (p.blocksOf sw.gang).all (fun b => !p.mcrdTo b && !p.blockDone b)

/-- The warps of a unit as they are remembered while they stand in an image, with their spilled records; a failing access to a spill area makes the swap fail. -/
def State.awayOfUnit (s : State) (q : Nat) (gang : Nat) : Except CopyFail (List Away) :=
  tryAll (fun (l : List Away) (c : Ctx) => match s.spilledRecs q c with
    | .ok recs => .ok (l ++ [⟨c.x.uid, c.grid.seq, c.blk.bid, c.x.wid, c.blk.id, c.gang.id, c.w, c.x.prio, c.x.binh, c.x.region, c.x.triggered, recs, c.x.resuming, c.x.arr, c.x.wait⟩])
    | .error f => .error f) [] (((s.part q).warpsOfGang gang).filterMap (fun y => (s.part q).ctx y.1))

/-- Free a unit's contexts, registers and scratchpad (R321). -/
def Part.freeUnit (p : Part) (gang now : Nat) : Part :=
  let ids := (p.blocksOf gang).map (fun b => b.id)
  { p.settle now with
    warps := p.warps.filter (fun x => !ids.contains x.2.block)
    blocks := p.blocks.filter (fun b => b.gang != gang)
    gangs := p.gangs.filter (fun g => g.id != gang) }

/-- The image of a unit is written (R321, R323), and the unit is freed; where a write fails every warp is released as it stood. With the SWAPPED record that says so. -/
def State.swapDone (s : State) (q : Nat) (sw : Swap) : State × FaultRec :=
  let r := ((s.part q).blocksOf sw.gang).foldl (fun (r : State × Option CopyFail × Nat) b =>
    match r.2.1 with
    | some _ => r
    | none =>
      let x := r.1.writeSegs q b (sw.area + BitVec.ofNat 64 r.2.2) (s.blockSegs q b sw.bst)
      (x.1, x.2, r.2.2 + (s.part q).imageSize b sw.bst)) (s, none, 0)
  let done (p : Part) : Part := { p with swaps := p.swaps.filter (fun x => !(x.gang == sw.gang && !x.kill)) }
  let kept : Except CopyFail (List Away) := match r.2.1 with
    | some f => .error f
    | none => r.1.awayOfUnit q sw.gang
  match kept with
  | .error f =>
    (((r.1.logFail q f).modPart q (fun p => done ((p.warpsOfGang sw.gang).foldl (fun p y => p.unstopWarp y.1 s.now) p))).wakeAb q,
      unitRec 3 sw.target sw.gridh sw.area (some f))
  | .ok a => (r.1.modPart q (fun p => done (({ p with away := p.away ++ a } : Part).freeUnit sw.gang s.now)), unitRec 3 sw.target sw.gridh sw.area none)

/-- Keep the number of the record of a swap or kill that waits for a place. -/
def Part.holdSwap (sw : Swap) (n : Nat) (p : Part) : Part := { p with swaps := updIf (fun x => x == sw) (fun x => { x with record := some n }) p.swaps }

/-- A swap that is ready ends (R321, R319). A unit that has retired meanwhile leaves no image (log 17). -/
def State.imageWrite (s : State) (q gang : Nat) : State :=
  match (s.part q).swaps.find? (fun x => x.gang == gang && !x.kill) with
  | none => s
  | some sw => if (s.part q).imageReady sw then s.conclude q sw.record (s.swapDone q sw) (Part.holdSwap sw) else s

/-- `bswap` at its commit (R320): D's code, or the size of the image. A unit whose kill is pending answers 2, as one that is being swapped, and a size query of a slot that
holds no warp answers 1, of which R320 says neither (DESIGN CHOICE, log 67). -/
def State.doBswap (s : State) (q : Nat) (w : WRef) (d : Reg) (a b : W64) : State :=
  let p := s.part q
  let give (p : Part) (v : Nat) : State := s.setPart q (p.modWarp w (fun x => x.setS d (BitVec.ofNat 64 v)))
  match targetOf a, p.ctx w with
  | some t, some me =>
    match p.ctx t with
    | none => give p 1
    | some c =>
      let mode := bits b.toNat 1 0
      let bst := bitN b.toNat 2
      if mode = 2 then give p (((p.blocksOf c.gang.id).map (fun b => p.imageSize b bst)).foldl (· + ·) 0)
      else if p.swaps.any (fun x => x.gang == c.gang.id) then give p 2
      else if c.gang.id = me.gang.id then give p 3
      else give (({ p with swaps := p.swaps ++ [⟨c.gang.id, t, c.grid.handle, false, mode, bst, BitVec.ofNat 64 (b.toNat / 256 * 256), s.now, none⟩] } : Part).swapStops s.now) 0
  | _, _ => s

/-! ### Restoring (R325) -/

/-- One piece of an image within a line: translated with R; an uncorrectable sector fails (R208, R325). -/
def State.imagePiece (s : State) (q va n : Nat) : Except CopyFail (List Byte) :=
  let fail (f : Fail) : Except CopyFail (List Byte) := .error ⟨f.cause, BitVec.ofNat 64 va, f.detail, .read⟩
  let need : Need := ⟨true, false, false⟩
  match regionOf (BitVec.ofNat 64 va) with
  | .global =>
    match s.walk q va with
    | .error f => fail f
    | .ok leaf =>
      if !leaf.r then fail (protFail need (some leaf))
      else
        let l := leaf.place va
        match ((List.range n).map l.add).find? (s.ueBelow q none) with
        | some x => fail ⟨.memue, BitVec.ofNat 64 x.addr⟩
        | none => .ok (s.rdLocL q 0 true l n)
  | .none => fail (xlateFail 0)
  | _ => fail (protFail need none)

/-- The device reads an image, line by line; the first failing access stops it. -/
def State.imageRead (s : State) (q : Nat) (va : W64) (n : Nat) : Except CopyFail (List Byte) :=
  tryAll (fun (l : List Byte) (x : Nat × List Byte) => match s.imagePiece q x.1 x.2.length with
    | .ok bs => .ok (l ++ bs)
    | .error f => .error f) [] (chopLines va.toNat (List.replicate n (0 : Byte)))

/-- A word of 8 bytes of a list. -/
def word8 (l : List Byte) (o : Nat) : Nat := leNat ((l.drop o).take 8)

/-- An image's header as `bresume` checks it (R325). -/
def State.imageOk (s : State) (h : List Byte) : Bool := let w := word8 h 0; bits w 47 0 == 0x53574B42 + 2 ^ 32 + s.gradeNum * 2 ^ 40

/-- Every field of a block header that R323 gives as zero is 0: a record with a non-zero one is rejected (R5; log 18). -/
def headZero (h : List Byte) : Bool :=
  let w := word8 h
  bits (w 0) 63 60 == 0 && bits (w 0x18) 63 54 == 0 && bits (w 0x18) 47 46 == 0 && bits (w 0x18) 39 38 == 0 && bits (w 0x20) 63 21 == 0 && bits (w 0x20) 15 12 == 0 &&
  (List.range 17).all (fun j => bits (w (0x40 + 8 * j)) 63 36 == 0) && ((h.drop 0xC8).take 0x38).all (fun b => b == 0) && ((h.drop 0x300).take 0x100).all (fun b => b == 0)

/-- The same for the fixed part of a warp's record (R324), with a WKIND that names a wait: the reserved bits of its CSRs (R72, R136, R312), and in its reconvergence records
what R123 gives as zero. -/
def warpZero (h : List Byte) : Bool :=
  let w := word8 h
  w 0xD8 / 2 ^ 6 == 0 && w 0xE8 / 2 ^ 8 == 0 && bits (w 0x108) 7 1 == 0 && bits (w 0x108) 31 17 == 0 && bits (w 0x108) 63 48 == 0 &&
  (List.range 3).all (fun k => w (0x110 + 8 * k) / 2 ^ 32 == 0) && bits (w 0x128) 7 2 == 0 && bits (w 0x128) 63 17 == 0 &&
  (List.range 16).all (fun i => recZero ((h.drop (0x200 + 48 * i)).take 48) (bits (w 8) 7 0)) &&
  bits (w 8) 15 15 == 0 && bits (w 8) 23 22 == 0 && bits (w 8) 39 37 == 0 && bits (w 8) 63 62 == 0 &&
  (List.range 3).all (fun k => bits (w (0x140 + 16 * k)) 31 30 == 0 && bits (w (0x140 + 16 * k)) 63 62 == 0 && bits (w (0x148 + 16 * k)) 63 9 == 0) &&
  decide (w 0x1B0 ≤ 8) && bits (w 0x1C8) 63 4 == 0 && ((h.drop 0x1D0).take 0x30).all (fun b => b == 0)

/-- A warp of an image: `wid`, offset of its record, base, width, N, base priority. -/
structure ImgWarp where
  wid : Nat
  off : Nat
  base : Nat
  width : Nat
  n : Nat
  prio : Nat
  deriving DecidableEq, Repr

/-- A block of an image: where it begins, its header, its warps. -/
structure ImgBlock where
  at_ : W64
  head : List Byte
  warps : List ImgWarp
  deriving DecidableEq, Repr

/-- A record that is rejected gives cause OPERAND, and no address (R5; log 18). -/
def rejected : CopyFail := ⟨.operand, 0, 0, .read⟩

/-- Read a block's header and the sizes of its warps; one with a non-zero field that is given as zero is rejected with cause OPERAND (R5; log 18). -/
def State.readBlock (s : State) (q : Nat) (a : W64) : Except CopyFail ImgBlock :=
  match s.imageRead q a 0x400 with
  | .error e => .error e
  | .ok h =>
    let offs := (List.range 64).filterMap (fun i => let o := word8 h (0x100 + 8 * i); if o = 0 then none else some (i, o))
    let ws := tryAll (fun (l : List ImgWarp) (x : Nat × Nat) => match s.imageRead q (a + BitVec.ofNat 64 x.2) 0x500 with
      | .error e => .error e
      | .ok b =>
        let n := word8 b 8
        if warpZero b then .ok (l ++ [⟨x.1, x.2, bits n 14 8, bits n 7 0, 16 * bits n 36 32, bits n 42 40⟩]) else .error rejected) [] offs
    match ws with
    | .error e => .error e
    | .ok l => if headZero h then .ok ⟨a, h, l⟩ else .error rejected

/-- Read the blocks of an image. -/
def State.readUnit (s : State) (q : Nat) : Nat → W64 → Except CopyFail (List ImgBlock)
  | 0, _ => .ok []
  | n + 1, a =>
    match s.readBlock q a with
    | .error e => .error e
    | .ok b =>
      match s.readUnit q n (a + BitVec.ofNat 64 (word8 b.head 0x28)) with
      | .error e => .error e
      | .ok l => .ok (b :: l)

/-- The file bases of a block's warps at their saved lanes on a core, if they fit (R81, R325). -/
def planAt : List ImgWarp → List (Nat × Nat × Nat × Nat) → Option (List Nat)
  | [], _ => some []
  | x :: l, al =>
    if !ctxFree (al.map (fun a => (a.1, a.2.1))) x.base x.width then none
    else match regFit al x.base x.width x.n with
      | none => none
      | some e => (planAt l (al ++ [(x.base, x.width, e, x.n)])).map (fun r => e :: r)

/-- A block of an image fits core `g`; a reserved core takes none (R81, R83, R325). -/
def Part.restoreFits (p : Part) (gr : Grid) (b : ImgBlock) (g : Nat) : Bool :=
  let bnd := p.bndFor gr.k g
  decide (gr.k.cvlo ≤ bnd ∧ bnd ≤ gr.k.cvhi) && p.scrFits gr.k g bnd && !p.reserved.contains g &&
    (planAt b.warps ((p.warpsOn g).map (fun x => x.2.alloc))).isSome

/-- The saved core number of a block. -/
def ImgBlock.core (b : ImgBlock) : Nat := bits (word8 b.head 0x18) 53 48

/-- The cluster in which a unit can be restored (R325). -/
def State.restoreClu (s : State) (q : Nat) (gr : Grid) (bs : List ImgBlock) (named : Option Nat) : Option Nat :=
  let p := s.part q
  if !p.underMax gr bs.length then none
  else ((List.range (s.nclu q)).filter (fun c => s.cluReady q c && (match named with | some n => n == c | none => true))).find? (fun c =>
    bs.all (fun b => p.restoreFits gr b (c * 48 + b.core)))

/-- The warp of a record, with the identity it had (R324): registers that were not saved read 0. -/
def restoredWarp (gr : Grid) (blk fb uid linh now : Nat) (aw : Option Away) (x : ImgWarp) (h : List Byte) (arrays : List Byte) : Warp :=
  let w (o : Nat) : W64 := BitVec.ofNat 64 (word8 h o)
  let m (o : Nat) : Mask := BitVec.ofNat 128 (leNat ((h.drop o).take 16))
  let base := gr.k.codeBase
  let ld := word8 h (0xD8 + 80)
  let depth := bits ld 1 0
  let level (k : Nat) : Level :=
    let v := leNat ((h.drop (0x140 + 16 * k)).take 16)
    ⟨base + BitVec.ofNat 64 (4 * bits v 29 0), base + BitVec.ofNat 64 (4 * bits v 61 32), bits v 72 64⟩
  let onChip := ((List.range 16).map (fun i => (h.drop (0x200 + 48 * i)).take 48)).filter (fun r => (Rec.decode r base).rmask != 0)
  let lanes := leNat ((h.drop 0x190).take 32)
  let tstat := word8 h (0xD8 + 48)
  let live : LaneSt → Bool := fun s => decide (s = .live)
  let ls := (List.range x.width).map (fun i => (⟨match lanes / 4 ^ i % 4 with | 0 => LaneSt.live | 1 => .vacant | _ => .drained,
      BitVec.ofNat 32 (leNat ((arrays.drop (4 * i)).take 4)), BitVec.ofNat 32 (leNat ((arrays.drop (4 * x.width + 4 * i)).take 4)),
      BitVec.ofNat 8 ((arrays.getD (8 * x.width + i) 0).toNat % 128)⟩ : Lane))
  { uid := match aw with | some a => a.uid | none => uid
    block := blk, base := x.base, width := x.width, wid := x.wid
    pc := w 0, m := m 0x180
    refillRun := !ls.any (fun l => live l.st)
    resuming := match aw with | some a => a.resuming | none => false
    stack := (onChip.map (fun r => Rec.decode r base)).reverse
    spilled := bits ld 16 8 - onChip.length
    s := (List.range 24).foldl (fun v i => Sparse.wr v i (w (0x10 + 8 * i))) []
    q := BitVec.ofNat 8 (word8 h 0xD0 % 128)
    lanes := ls
    fileBase := fb, n := x.n, wb := bits (word8 h 8) 31 24
    fflags := BitVec.ofNat 6 (word8 h 0xD8)
    trdy := w (0xD8 + 88), terr := w (0xD8 + 96)
    ifc := 0, mx := BitVec.ofNat 4 (word8 h 0x1C8)
    lc0 := BitVec.ofNat 32 (word8 h (0xD8 + 56)), lc1 := BitVec.ofNat 32 (word8 h (0xD8 + 64)), lc2 := BitVec.ofNat 32 (word8 h (0xD8 + 72))
    levels := (List.range depth).reverse.map level
    trap := ⟨w 0xE0, BitVec.ofNat 8 (word8 h 0xE8), w 0xF0, w 0xF8, w 0x100, bitN tstat 0, bits tstat 16 8, bits tstat 47 32, m 0x170⟩
    prio := bits (word8 h 8) 42 40, linh := linh, binh := 0, last := now
    triggered := bitN (word8 h 8) 43
    region := match aw with | some a => a.region | none => 0
    mmas := []
    arr := match aw with | some a => a.arr | none => []
    run := none
    wait := .none
    stopped := none }

/-- An `llock` of an image whose warp the device does not remember asks for its line anew, with z as D (log 18). -/
def State.reacquire (s : State) (q : Nat) (c : Ctx) (a b : W64) : State :=
  match s.resolve q c.blk a 1 ⟨true, true, false⟩ with
  | .ok (l, some f) => if f.lockable then s.lockOp q c.w .llock 120 (some l) a b else s
  | _ => s

/-- The wait that WKIND and its operands name (R324, R325), taken up again at `now`: what the record has no place for, D, the line of `llock` and the time since a fuse
rendezvous began, is as the device remembers it in `aw`, and otherwise D is z and the rendezvous begins. `pc` is the address after the word; `loc` finds an object. -/
def resumedWait (aw : Wait) (kind a b : Nat) (pc : W64) (now : Nat) (loc : W64 → Option Loc) : Wait :=
  match kind with
  | 1 => .nbar (a % 16) b
  | 2 => .gbar a
  | 3 => match aw with
    | .lwait d _ _ => .lwait d a (BitVec.ofNat 64 b)
    | _ => .lwait 120 a (BitVec.ofNat 64 b)
  | 4 => match aw with
    | .llock d l _ _ => .llock d l (BitVec.ofNat 64 a) (BitVec.ofNat 64 b)
    | _ => .none
  | 5 => .sleep (now + 2 * a)
  | 6 => match loc (BitVec.ofNat 64 a) with
    | some l => .abwait l (bitN a 32) (b % 2 ^ 16)
    | none => .none
  | 7 => match aw with
    | .fuse d _ _ t at_ => .fuse d a (b == 1) (now - t) at_
    | _ => .fuse 120 a (b == 1) now (pc - 4)
  | 8 => match aw with
    | .coll d h x y => .coll d h x y
    | _ => .none
  | _ => .none

/-- One warp of an image is restored into the lowest free context of a core (R324, R325). -/
def State.restoreWarp (s : State) (q : Nat) (gr : Grid) (b : ImgBlock) (blk core fb : Nat) (x : ImgWarp) : Except CopyFail State :=
  let a := b.at_ + BitVec.ofNat 64 x.off
  match s.imageRead q a 0x500, s.imageRead q (a + 0x500) (12 * x.width) with
  | .ok h, .ok arr =>
    let mask := BitVec.ofNat 18 (bits (word8 h 8) 61 44)
    let wb := bits (word8 h 8) 31 24
    let slot : WRef := ⟨core, ((s.part q).freeSlots core).getD 0 0⟩
    let bid := word8 b.head 0x18 % 2 ^ 32
    let aw := (s.part q).away.find? (fun y => y.grid == gr.seq && y.bid == bid && y.wid == x.wid)
    let uid := match aw with | some z => z.uid | none => (s.part q).warpSeq
    let y := restoredWarp gr blk fb uid ((s.part q).lockInherit 8 uid) s.now aw x h arr
    let kind := word8 h 0x1B0 % 16
    let object (va : W64) : Option Loc := match (s.part q).block? blk with | some k => (s.part q).scratchLoc k (va.getLsbD 32) va.toNat 16 | none => none
    let y := { y with wait := resumedWait (match aw with | some z => z.wait | none => .none) kind (word8 h 0x1B8) (word8 h 0x1C0) y.pc s.now object }
    let regs := tryAll (fun (k : Core) n => match s.imageRead q (a + BitVec.ofNat 64 (0x500 + 12 * x.width + 4 * x.width * n)) (4 * x.width) with
      | .error e => .error e
      | .ok v => .ok ((List.range x.width).foldl (fun k l => k.setReg (x.base + l) (fb + n) (BitVec.ofNat 32 (leNat ((v.drop (4 * l)).take 4)))) k))
      (((s.part q).core core).clearRegs x.base x.width fb x.n) ((List.range x.n).filter (savedReg mask wb))
    match regs with
    | .error e => .error e
    | .ok k =>
      let s := s.modPart q (fun p =>
        { ((p.setCore core k).setWarp slot y) with
          warpSeq := if aw.isSome then p.warpSeq else p.warpSeq + 1
          away := match aw with | some z => p.away.filter (fun t => t.uid != z.uid) | none => p.away })
      let recs := match aw with | some z => z.recs | none => []
      match (s.part q).ctx slot with
      | none => .ok s
      | some c =>
        match s.copySpill q c slot 0 x.width recs with
        | .error e => .error e
        | .ok s =>
          let s := (s.modPart q (fun p => p.waiterReturns y.uid s.now)).settleLate q slot
          if kind = 4 ∧ aw.isNone then .ok (s.reacquire q c (BitVec.ofNat 64 (word8 h 0x1B8)) (BitVec.ofNat 64 (word8 h 0x1C0))) else .ok s
  | .error e, _ => .error e
  | _, .error e => .error e

/-- A block's number in the image, and the warp of it that the device remembers, whose block and gang keep their identities (R301, R325). -/
def ImgBlock.bid (b : ImgBlock) : Nat := word8 b.head 0x18 % 2 ^ 32
def Part.awayBlock (p : Part) (grid bid : Nat) : Option Away := p.away.find? (fun a => a.grid == grid && a.bid == bid)

/-- The blocks of a grid that left with a block of it: they follow one another in the image (R323). -/
def Part.awayBids (p : Part) (grid bid : Nat) : List Nat :=
  match p.awayBlock grid bid with
  | some a => ((p.away.filter (fun x => x.grid == grid && x.gang == a.gang)).map (fun x => x.bid)).dedup
  | none => []

/-- One block of an image is restored on a core (R325): boundary, scratchpad, barriers, warps and B-store. L1 copies of the core go, so that no warp reads what is older
than its own stores (R295). -/
def State.restoreBlock (s : State) (q : Nat) (gr : Grid) (gang : Nat) (b : ImgBlock) (core : Nat) : Except CopyFail State :=
  let bnd := (s.part q).bndFor gr.k core
  match planAt b.warps (((s.part q).warpsOn core).map (fun x => x.2.alloc)) with
  | none => .ok s
  | some fbs =>
    let cls := ((s.part q).queue gr.queue).rcls
    let s := if bnd = ((s.part q).core core).bnd then s else s.setBnd q core bnd (core, cls)
    let len := gr.k.scr * 128
    match s.imageRead q (b.at_ + 0x400) len with
    | .error e => .error e
    | .ok bytes =>
      let p := (s.part q).acquirePoint core .sys
      let id := match p.awayBlock gr.seq b.bid with | some a => a.block | none => p.blockSeq
      let off := p.freeScr core bnd len
      let hd := word8 b.head 0x18
      let blk : Block := ⟨id, gr.seq, gang, hd % 2 ^ 32, bits hd 37 32, core, off, len, (List.range 16).map (fun i => Bar.ofCode (word8 b.head (0x40 + 8 * i))), true⟩
      let c := p.core core
      let scratch := (List.range len).foldl (fun m i => Sparse.wr m (off + i) (bytes.getD i 0)) (c.scratch.filter (fun x => !decide (off ≤ x.1 ∧ x.1 < off + len)))
      let p := (({ p.settle s.now with blocks := p.blocks ++ [blk], blockSeq := max p.blockSeq (id + 1) } : Part).setCore core { c with scratch := scratch }).lagScratch core off len
      let warp (s : State) (x : ImgWarp × Nat) : Except CopyFail State := s.restoreWarp q gr b id core x.2 x.1
      match tryAll warp (s.setPart q (p.freshBucket core cls s.now)) (b.warps.zip fbs) with
      | .error e => .error e
      | .ok s =>
        if !bitN (word8 b.head 0) 55 then .ok s
        else
          let strips := (List.range 4).filter (fun i => bitN (word8 b.head 0) (56 + i))
          let o := (b.warps.map (fun x => alignUp (x.off + 0x500 + 12 * x.width + 4 * x.width * x.n) 128)).foldl max (alignUp (0x400 + len) 128)
          tryAll (fun (s : State) i => match s.imageRead q (b.at_ + BitVec.ofNat 64 (o + 2 ^ 20 * i)) (2 ^ 20) with
            | .error e => .error e
            | .ok v => .ok (s.modPart q (fun p => p.setCore core ((p.core core).wrBstore (2 ^ strips.getD i 0) 0 v)))) s (List.range strips.length)

/-- The highest effective priority of the warps of a restoration's unit; of warps that the device does not remember, the priority that the image gives. -/
def Part.restorePrio (p : Part) (r : Restoration) : Nat :=
  match p.away.filter (fun a => a.grid == r.grid && r.bids.contains a.bid) with
  | [] => r.prio
  | l => l.foldl (fun m a => max m (p.effOf a.uid)) 0

/-- The restoration that goes first (R325). -/
def Part.firstRestore (p : Part) : List Restoration → Option Restoration
  | [] => none
  | r :: l => match p.firstRestore l with
    | none => some r
    | some x => some (if p.restorePrio r < p.restorePrio x ∨ (p.restorePrio r = p.restorePrio x ∧ x.order < r.order) then x else r)

/-- What a restoration would do: fail with a cause, wait for room, or go to a cluster. -/
def State.restorePlan (s : State) (q : Nat) (r : Restoration) : Except CopyFail (Option (Grid × List ImgBlock × Nat)) :=
  match s.imageRead q r.area 0x400 with
  | .error e => .error e
  | .ok h =>
    match (s.part q).grid? (word8 h 0x10 / 2 ^ 16) with
    | none => .error rejected
    | some gr =>
      let kept := ((s.part q).awayBids gr.seq (word8 h 0x18 % 2 ^ 32)).length
      match s.readUnit q (if kept = 0 then bits (word8 h 0x18) 45 40 + 1 else kept) r.area with
      | .error e => .error e
      | .ok bs => .ok ((s.restoreClu q gr bs r.clu).map (fun c => (gr, bs, c)))

/-- The first restoration can be dealt with now. -/
def State.restoreDue (s : State) (q : Nat) : Bool :=
  match (s.part q).firstRestore (s.part q).restores with
  | none => false
  | some r => (s.part q).maySettle r.record && (match s.restorePlan q r with | .ok none => false | _ => true)

/-- The priority at which a restoration that can be dealt with now holds gangs back. -/
def State.restoreFloor (s : State) (q : Nat) : Option Nat :=
  if s.restoreDue q then ((s.part q).firstRestore (s.part q).restores).map (fun r => (s.part q).restorePrio r) else none

/-- A restoration (R325), and its RESTORED record: the unit stands on its cores again, or a failing read restores nothing; nothing while it has no room. An image whose
grid is not there any more restores nothing, with cause OPERAND (log 18). The record names the first warp that stands there again, and without one GCORE 0 and SLOT 0; its
GRIDH is the grid's that the image named at `bresume`, also where its header cannot be read now: R325 says none of it (DESIGN CHOICE, log 67). -/
def State.restoreDone (s : State) (q : Nat) (r : Restoration) : Option (State × FaultRec) :=
  let drop (p : Part) : Part := { p with restores := p.restores.filter (fun x => x.order != r.order) }
  let failed (f : CopyFail) : State × FaultRec := ((s.logFail q f).modPart q drop,
    unitRec 4 ⟨0, 0⟩ (match (s.part q).grid? r.grid with | some g => g.handle | none => BitVec.ofNat 64 (r.grid * 2 ^ 16)) r.area (some f))
  match s.restorePlan q r with
  | .error e => some (failed e)
  | .ok none => none
  | .ok (some (gr, bs, c)) =>
    let id := match bs with
      | b :: _ => (match (s.part q).awayBlock gr.seq b.bid with | some a => a.gang | none => (s.part q).gangSeq)
      | [] => (s.part q).gangSeq
    let bar := match bs with | b :: _ => Bar.ofCode (word8 b.head 0xC0) | [] => ⟨0, 0, 0⟩
    let size := match bs with | b :: _ => bits (word8 b.head 0x18) 45 40 + 1 | [] => 1
    let s1 := s.modPart q (fun p => { p with gangs := p.gangs ++ [⟨id, gr.seq, bs.map (fun b => c * 48 + b.core), bar, size⟩], gangSeq := max p.gangSeq (id + 1) })
    match tryAll (fun (s : State) (b : ImgBlock) => s.restoreBlock q gr id b (c * 48 + b.core)) s1 bs with
    | .error e => some (failed e)
    | .ok s2 =>
      let w := match ((s2.part q).warpsOfGang id) with | y :: _ => y.1 | [] => ⟨0, 0⟩
      some ((s2.modPart q (fun p => (drop p).wakeLwait)).wakeAb q, unitRec 4 w gr.handle r.area none)

/-- Keep the number of the record of a restoration that waits for a place. -/
def Part.holdRestore (r : Restoration) (n : Nat) (p : Part) : Part := { p with restores := updIf (fun x => x == r) (fun x => { x with record := some n }) p.restores }

/-- The first restoration ends (R325, R319). -/
def State.restoreUnit (s : State) (q : Nat) : State :=
  match (s.part q).firstRestore (s.part q).restores with
  | none => s
  | some r => match s.restoreDone q r with
    | some z => s.conclude q r.record z (Part.holdRestore r)
    | none => s

/-! ### Release, kill, queueing (R316, R325) -/

/-- The highest base priority that the warps of an image have; 0 where it cannot be read. -/
def State.imagePrio (s : State) (q n : Nat) (a : W64) : Nat :=
  match s.readUnit q n a with
  | .ok bs => (bs.flatMap (fun b => b.warps.map (fun x => x.prio))).foldl max 0
  | .error _ => 0

/-- `bresume` at its commit (R325). A unit whose kill is pending answers a further kill with 2, as one that is being swapped, of which R325 says nothing (DESIGN CHOICE,
log 67). -/
def State.doBresume (s : State) (q : Nat) (w : WRef) (d : Reg) (a b : W64) : State :=
  let p := s.part q
  let give (p : Part) (v : Nat) : State := s.setPart q (p.modWarp w (fun x => x.setS d (BitVec.ofNat 64 v)))
  match bits b.toNat 1 0 with
  | 0 =>
    let clu := if bitN b.toNat 13 then none else some (bits b.toNat 12 8)
    let add (grid : Nat) (bids : List Nat) (prio : Nat) : Part :=
      { p with restores := p.restores ++ [⟨a, grid, bids, clu, p.restoreSeq, prio, none⟩], restoreSeq := p.restoreSeq + 1 }
    match s.imageRead q a 0x400 with
    | .error _ => give (add 0 [] 0) 0
    | .ok h =>
      if s.imageOk h then
        let v := word8 h 0x18
        let kept := p.awayBids (word8 h 0x10 / 2 ^ 16) (v % 2 ^ 32)
        let bids := if kept.isEmpty then (List.range (bits v 45 40 + 1)).map (fun i => v % 2 ^ 32 + i) else kept
        give (add (word8 h 0x10 / 2 ^ 16) bids (s.imagePrio q bids.length a)) 0
      else give p 3
  | 1 =>
    match targetOf a with
    | none => give p 1
    | some t => match p.warp t with
      | none => give p 1
      | some x => match x.wait with
        | .fault .. =>
          let s := give (p.setWarp t x.release) 0
          s.settleLate q t
        | _ => give p 4
  | _ =>
    match targetOf a with
    | none => give p 1
    | some t => match p.ctx t with
      | none => give p 1
      | some c =>
        if p.swaps.any (fun x => x.gang == c.gang.id) then give p 2
        else give { p with swaps := p.swaps ++ [⟨c.gang.id, t, c.grid.handle, true, 0, false, 0, s.now, none⟩] } 0

/-- A kill may take place: IFC is 0 at every warp of the unit (R107). -/
def Part.killReady (p : Part) (sw : Swap) : Bool := sw.kill && p.maySettle sw.record && (p.warpsOfGang sw.gang).all (fun y => y.2.ifc == 0)

/-- A unit is killed (R325): every warp retires under R98, and blocks that no multicast names go. -/
def Part.killDone (p : Part) (sw : Swap) (now : Nat) : Part :=
  let p := (p.warpsOfGang sw.gang).foldl (fun p y => p.retireWarp y.1) p
  let p := (p.blocksOf sw.gang).foldl (fun p b => if p.blockDone b then p.retireBlock b now else p) p
  { p with swaps := p.swaps.filter (fun x => !(x.gang == sw.gang && x.kill)) }

/-- A kill that is ready ends with KILLED (R325, R319). -/
def State.killUnit (s : State) (q gang : Nat) : State :=
  match (s.part q).swaps.find? (fun x => x.gang == gang && x.kill) with
  | none => s
  | some sw =>
    if (s.part q).killReady sw then s.conclude q sw.record (s.modPart q (fun p => p.killDone sw s.now), unitRec 5 sw.target sw.gridh 0 none) (Part.holdSwap sw) else s

/-! ### Shootdown (R327) -/

/-- A `tlbi` names a leaf. -/
def tlbiHits (all : Bool) (va : W64) (l : Leaf) : Bool := all || l.covers va.toNat

/-- The pieces of every access of a run. -/
def Run.pieces (r : Run) : List Piece :=
  r.acts.flatMap (fun a => match a with
    | .load ps _ _ => ps
    | .store ps _ => ps
    | .stp _ ps _ => ps
    | .cache _ ps _ => ps
    | _ => []) ++ (match r.term with | .atom _ _ ps _ _ _ => ps | _ => [])

/-- A run holds an access that was translated with a removed translation. -/
def Run.holdsLeaf (r : Run) (all : Bool) (va : W64) : Bool := r.pieces.any (fun x => match x.leaf with | some l => tlbiHits all va l | none => false)

/-- A run no longer brings a removed translation back into the TLBs at its commit (R327). -/
def Run.dropLeaf (r : Run) (all : Bool) (va : W64) : Run :=
  { r with acts := r.acts.filter (fun a => match a with | .tlb l => !tlbiHits all va l | _ => true) }

/-- `tlbi` at its commit (R327): the translations leave every TLB and every run that is under way, and it completes once the accesses that used them are over. -/
def Part.doTlbi (p : Part) (w : WRef) (all : Bool) (va : W64) : Part :=
  let keep (l : List Leaf) : List Leaf := l.filter (fun x => !tlbiHits all va x)
  let pend := (p.warps.filter (fun x => keyRef x.1 != w)).filterMap (fun x => match x.2.run with
    | some r => if r.holdsLeaf all va then some (x.2.uid, r.since) else none
    | none => none)
  let uid := match p.warp w with | some x => x.uid | none => 0
  { p with
    warps := p.warps.map (fun x => (x.1, { x.2 with run := x.2.run.map (fun r => r.dropLeaf all va) }))
    cores := p.cores.map (fun x => (x.1, { x.2 with tlb := keep x.2.tlb }))
    clusters := p.clusters.map (fun x => (x.1, { x.2 with tlb := keep x.2.tlb }))
    shoot := p.shoot ++ [⟨uid, pend⟩] }

/-- A run named by warp and start is still under way. -/
def Part.runAlive (p : Part) (x : Nat × Nat) : Bool := p.warps.any (fun y => y.2.uid == x.1 && (match y.2.run with | some r => r.since == x.2 | none => false))

/-- A shootdown can complete (R327). -/
def Part.tlbiDone (p : Part) (x : Shootdown) : Bool := x.pend.all (fun y => !p.runAlive y)

/-- Remove the first element that satisfies a test. -/
def dropFirst {α : Type} (c : α → Bool) : List α → List α
  | [] => []
  | x :: l => if c x then l else x :: dropFirst c l

/-- The first shootdown that can complete does (R327). -/
def Part.tlbiComplete (p : Part) : Part := { p with shoot := dropFirst p.tlbiDone p.shoot }

end Sys2Proof.Machine
end

