-- ==== Sys2Proof/Machine/Coll.lean ====
section
/-! DEFINITION. Collectives and the transport between devices (R339-R352). -/

namespace Sys2Proof.Machine

def Part.handle (p : Part) (h : Nat) : Handle := AMap.rd Handle.reset p.handles h
def Part.setHandle (p : Part) (h : Nat) (x : Handle) : Part := { p with handles := AMap.wr p.handles h x }
def Part.peer (p : Part) (i : Nat) : Peer := AMap.rd Peer.reset p.peers i
def Part.setPeer (p : Part) (i : Nat) (x : Peer) : Part := { p with peers := AMap.wr p.peers i x }

/-! ### Peers (R351) -/

def Peer.port (x : Peer) : Nat := bits x.w0.toNat 2 0
def Peer.en (x : Peer) : Bool := bitN x.w0.toNat 4
def Peer.down (x : Peer) : Bool := bitN x.w0.toNat 5
def Peer.jumbo (x : Peer) : Bool := bitN x.w0.toNat 6
def Peer.rto (x : Peer) : Nat := bits x.w4.toNat 15 0
def Peer.retry (x : Peer) : Nat := bits x.w4.toNat 23 16

/-! ### Configuring (R339, R341) -/

/-- A rank-table entry, if it is valid for a partition (R339). -/
def rankOf (nclu : Nat) (enabled : Nat → Bool) (e : Nat) : Option Rank :=
  if bits e 7 1 != 0 || bits e 15 13 != 0 || bits e 63 28 != 0 then none
  else if bitN e 0 then
    if enabled (bits e 27 16) then some (.remote (bits e 27 16)) else none
  else if bits e 27 22 = 0 ∧ bits e 12 8 < nclu ∧ bits e 21 16 < 48 then some (.loc (bits e 12 8) (bits e 21 16)) else none

/-- Ranks minus 1 of a descriptor, and its RANKS address. -/
def descRanks (d : List Byte) : Nat × W64 := (bits (word8 d 0) 17 8, BitVec.ofNat 64 (word8 d 8))

/-- The local ranks of a list are distinct cores (R339). -/
def Rank.isLocal (r : Rank) : Bool := match r with | .loc .. => true | _ => false

/-- The handle that a descriptor and a rank table configure, if they are valid (R339). -/
def Handle.parse (nclu : Nat) (enabled : Nat → Bool) (d tbl : List Byte) : Option Handle :=
  let w0 := word8 d 0
  let w2 := word8 d 0x10
  let n := bits w0 17 8 + 1
  let rs := (List.range n).filterMap (fun i => rankOf nclu enabled (word8 tbl (8 * i)))
  let loc := rs.filter Rank.isLocal
  let opc := bits w0 3 0
  let clean := bits w0 7 4 == 0 && bits w0 19 18 == 0 && bits w0 31 30 == 0 && bits w0 39 33 == 0 && bits w2 47 32 == 0 &&
    (List.range 5).all (fun i => word8 d (0x18 + 8 * i) == 0)
  let disp := opc != 6 || (bits w2 15 0 % 16 == 0 && decide (16 ≤ bits w2 15 0 ∧ bits w2 15 0 ≤ 4096) && bits w2 31 16 != 0 &&
    !(bitN w0 32 && decide (loc.length < rs.length)))
  if clean && decide (opc ≤ 6) && decide (rs.length = n) && decide (loc.dedup.length = loc.length) && decide (bits w0 29 20 < n) && bits w0 47 40 != 0 && disp then
    some { Handle.reset with
      conf := true, opc := opc, root := bits w0 29 20, policy := bitN w0 32, weight := bits w0 47 40, tmo := bits w0 63 48
      tb := bits w2 15 0, cap := bits w2 31 16, epoch := bits w2 63 48, ranks := rs }
  else none

/-- `cinit` at its commit (R341). -/
def State.doCinit (s : State) (q h : Nat) (d tbl : List Byte) : State × Nat :=
  let p := s.part q
  match Handle.parse (s.nclu q) (fun i => (p.peer i).en) d tbl with
  | none => (s, 1)
  | some x => if (p.handle h).flight.isEmpty then (s.setPart q (p.setHandle h x), 0) else (s, 2)

/-- The rank of a core in a handle. -/
def Handle.rankAt (h : Handle) (g : Nat) : Option Nat :=
  (List.range h.ranks.length).find? (fun i => match (h.ranks[i]? : Option Rank) with | some (.loc c k) => c * 48 + k == g | _ => false)

/-- `cqry`'s report (R350). -/
def Handle.report (h : Handle) (g : Nat) : W64 :=
  let st := if !h.conf then 0 else if h.broken.contains g then 2 else 1
  BitVec.ofNat 64 (st + (h.flight.filter (fun i => i.gcore == g)).length * 2 ^ 2 + AMap.rd 0 h.inst g * 2 ^ 4 + h.epoch * 2 ^ 20 +
    (match h.rankAt g with | some r => r * 2 ^ 36 | none => 2 ^ 46))

/-! ### Sizes (R342, R344, R346) -/

/-- Bytes that an instance reads at SRC, writes at DST, at rank `r` of a handle. -/
def Handle.srcLen (h : Handle) (r n : Nat) : Nat :=
  match h.opc with
  | 3 => h.ranks.length * n
  | 4 => if r = h.root then n else 0
  | 5 => h.ranks.length * n
  | 6 => n * h.tb + 2 * n
  | _ => n
def Handle.dstLen (h : Handle) (n : Nat) : Nat :=
  match h.opc with
  | 1 => 2 * n
  | 2 => h.ranks.length * n
  | 5 => h.ranks.length * n
  | 6 => h.cap * h.tb + 4 * h.cap
  | _ => n

/-! ### Sending (R352) -/

/-- SACK: bit i says that frame rcvNext + 1 + i has been received. -/
def Peer.sack (x : Peer) : BitVec 32 :=
  BitVec.ofNat 32 ((List.range 32).foldl (fun m i => m + b2n (x.rcvSeen.contains ((x.rcvNext + 1 + i) % 2 ^ 32)) * 2 ^ i) 0)

/-- A port sends: it is ready and not paused. -/
def State.portUp (s : State) (i : Nat) : Bool := s.rdyPort.getLsbD i && !s.paused.getLsbD i

/-- A frame leaves for a peer, numbered, unless 256 are unacknowledged or the peer is down (R352). -/
def State.sendFrame (s : State) (q : Nat) (f : Frame) : State :=
  let x := (s.part q).peer f.peer
  if x.down then s
  else if 256 ≤ x.unacked.length then s.modPart q (fun p => p.setPeer f.peer { x with pendingTx := x.pendingTx ++ [f] })
  else
    let f := { f with seq := x.sndSeq, ack := x.rcvNext, sack := x.sack }
    let up := s.portUp x.port
    let s := s.modPart q (fun p => p.setPeer f.peer { x with sndSeq := (x.sndSeq + 1) % 2 ^ 32, unacked := x.unacked ++ [⟨f, s.now, 0, !up, false⟩] })
    if up then { s with outbox := s.outbox ++ [.frame q f] } else s

/-- Pad to a multiple of 64. -/
def pad64 (l : List Byte) : List Byte := l ++ List.replicate (alignUp l.length 64 - l.length) 0

/-- A frame of an instance; the device sends raw sources, so STEP is 0 (R352; log 19). -/
def Handle.frame (h : Handle) (n peer kind inst src dst off : Nat) (data : List Byte) : Frame :=
  ⟨peer, kind, n, h.epoch, inst, src, dst, 0, 0, off, 0, 0, data⟩

/-- Send bytes of a rank to a remote rank, in frames of up to 1,024 or 8,192 bytes (R351, R352). -/
def State.sendBytes (s : State) (q n kind inst src dst peer : Nat) (bytes : List Byte) : State :=
  let h := (s.part q).handle n
  let m := if ((s.part q).peer peer).jumbo then 8192 else 1024
  let l := pad64 bytes
  (List.range ((l.length + m - 1) / m)).foldl (fun s i => s.sendFrame q (h.frame n peer kind inst src dst (m * i) ((l.drop (m * i)).take m))) s

/-- The remote ranks of a handle, with their peers. -/
def Handle.remotes (h : Handle) : List (Nat × Nat) :=
  (List.range h.ranks.length).filterMap (fun i => match (h.ranks[i]? : Option Rank) with | some (.remote p) => some (i, p) | _ => none)

/-- What a rank's source sends to the remote ranks when its instance starts (R344); of a dispatch, its destination counts alone (R346). -/
def State.sendSource (s : State) (q n inst r seg : Nat) (src : Source) : State :=
  let h := (s.part q).handle n
  h.remotes.foldl (fun s x =>
    match h.opc with
    | 3 => s.sendBytes q n 0 inst r x.1 x.2 ((src.bytes.drop (x.1 * seg)).take seg)
    | 5 => s.sendBytes q n 0 inst r x.1 x.2 ((src.bytes.drop (x.1 * seg)).take seg)
    | 4 => if r = h.root then s.sendBytes q n 0 inst r x.1 x.2 src.bytes else s
    | 6 => s.sendBytes q n 1 inst r x.1 x.2 (leBytes 4 src.dests.length ++ src.dests.flatMap (leBytes 2))
    | _ => s.sendBytes q n 0 inst r x.1 x.2 src.bytes) s

/-- An ABORT frame to every remote rank; its OFFSET carries the STATUS (R349; log 19). -/
def State.sendAborts (s : State) (q n inst r st : Nat) : State :=
  let h := (s.part q).handle n
  h.remotes.foldl (fun s x => s.sendFrame q (h.frame n x.2 3 inst r x.1 st [])) s

/-! ### Sources at a rank (R344-R346) -/

/-- Bytes [0, n) of what has arrived for an instance from a remote rank, at a tree step, if all are there. -/
def Handle.rxBytes (h : Handle) (num src dst : Nat) (counts : Bool) (stepNo n : Nat) : Option (List Byte) :=
  let rs := h.rx.filter (fun x => x.num == num && x.src == src && x.dst == dst && x.counts == counts && x.stepNo == stepNo)
  let l := (List.range n).filterMap (fun i =>
    (rs.find? (fun x => decide (x.offset ≤ i ∧ i < x.offset + x.data.length))).map (fun x => x.data.getD (i - x.offset) 0))
  if l.length = n then some l else none

/-- A local rank's source in an instance. -/
def Handle.source (h : Handle) (num j : Nat) : Option Source := h.sources.find? (fun x => x.num == num && x.rank == j)

/-- A local rank's source as it arrives at rank `r`; what a router drops never does (R338, R361). -/
def Handle.arrives (h : Handle) (num j r : Nat) : Option Source := (h.source num j).filter (fun x => !x.lost.contains r)

/-- The part of rank `j`'s source that rank `r` needs: a segment, or all (R344). -/
def Handle.part (h : Handle) (num j r n : Nat) : Option (List Byte) :=
  match (h.ranks[j]? : Option Rank) with
  | some (.remote _) => h.rxBytes num j r false 0 n
  | some (.loc ..) => (h.arrives num j r).map (fun x => if h.opc = 3 ∨ h.opc = 5 then (x.bytes.drop (r * n)).take n else x.bytes)
  | none => none

/-- All options present. -/
def allSome {α : Type} : List (Option α) → Option (List α)
  | [] => some []
  | none :: _ => none
  | some x :: l => (allSome l).map (fun r => x :: r)

/-- What a gathering instance needs, by rank in order; for a broadcast the root's source alone. -/
def Handle.needs (h : Handle) (num r n : Nat) : Option (List (List Byte)) :=
  if h.opc = 4 then (h.part num h.root r n).map (fun x => [x])
  else allSome ((List.range h.ranks.length).map (fun j => h.part num j r n))

/-- The destinations of rank `j`'s tokens, once rank `r` has its counts (R346). -/
def Handle.destsOf (h : Handle) (num r j : Nat) : Option (List Nat) :=
  match (h.ranks[j]? : Option Rank) with
  | some (.loc ..) => (h.arrives num j r).map (fun x => x.dests)
  | some (.remote _) =>
    match h.rxBytes num j r true 0 4 with
    | none => none
    | some c => (h.rxBytes num j r true 0 (4 + 2 * leNat c)).map (fun b => (List.range (leNat c)).map (fun i => leNat ((b.drop (4 + 2 * i)).take 2)))
  | none => none

/-! ### Dispatch (R346) -/

/-- A slot assigned: destination rank, slot, source rank, token. -/
structure Slot where
  dst : Nat
  slot : Nat
  src : Nat
  tok : Nat
  deriving DecidableEq, Repr

/-- The sequential pass of R346: the slots assigned and the drops by rank. -/
def assignSlots (n cap : Nat) (policy : Bool) (dests : List (List Nat)) : List Slot × List Nat :=
  let used (l : List Slot) (j : Nat) : Nat := (l.filter (fun x => x.dst == j)).length
  (List.range dests.length).foldl (fun (r : List Slot × List Nat) src =>
    let ds := dests.getD src []
    (List.range ds.length).foldl (fun (r : List Slot × List Nat) t =>
      let j := ds.getD t n
      if n ≤ j then (r.1, r.2 ++ [src])
      else if used r.1 j < cap then (r.1 ++ [⟨j, used r.1 j, src, t⟩], r.2)
      else
        let k := (j + 1) % n
        if policy && decide (used r.1 k < cap) then (r.1 ++ [⟨k, used r.1 k, src, t⟩], r.2) else (r.1, r.2 ++ [src])) r) ([], [])

/-- The assignment of an instance, once rank `r` has every rank's counts (R346). -/
def Handle.assigned (h : Handle) (num r : Nat) : Option (List Slot × List Nat) :=
  (allSome ((List.range h.ranks.length).map (h.destsOf num r))).map (assignSlots h.ranks.length h.cap h.policy)

/-- The slots of source rank `src` at rank `dst`, in order: a source's tokens for one rank stand in adjacent slots from its prefix offset on (R346). -/
def slotsFrom (l : List Slot) (src dst : Nat) : List Slot := l.filter (fun x => x.src == src && x.dst == dst)

/-- The bytes of the tokens that some slots hold. -/
def Source.tokens (x : Source) (tb : Nat) (l : List Slot) : List Byte := l.flatMap (fun y => (x.bytes.drop (y.tok * tb)).take tb)

/-- The tokens of rank `r` in an instance are sent to the remote ranks, once every rank's counts are there (R346). -/
def State.moveTokens (s : State) (q n num r : Nat) : State :=
  let h := (s.part q).handle n
  match h.source num r, h.assigned num r with
  | some x, some a =>
    if x.moved then s
    else
      let s := s.modPart q (fun p => p.setHandle n { h with sources := updIf (fun y => y.num == num && y.rank == r) (fun y => { y with moved := true }) h.sources })
      h.remotes.foldl (fun s d =>
        let l := slotsFrom a.1 r d.1
        if l.isEmpty then s else s.sendBytes q n 0 num r d.1 d.2 (x.tokens h.tb l)) s
  | _, _ => s

/-- The same for every local rank whose instance is in flight. -/
def State.moveAll (s : State) (q n num : Nat) : State :=
  let h := (s.part q).handle n
  if h.opc = 6 then ((h.sources.filter (fun x => x.num == num)).map (fun x => x.rank)).foldl (fun s r => s.moveTokens q n num r) s else s

/-! ### The rendezvous and the start (R343, R344, R347) -/

/-- Bytes of a scratchpad of a block, as a collective reads them (R344): a copy that no fence orders before them may still be missed (R237). -/
def State.collBytes (s : State) (q : Nat) (b : Block) (o n : Nat) : List Byte :=
  s.seenL q pathCL (.scratch b.core (b.scrOff + o)) ((List.range n).map (fun i => Sparse.rd ((s.part q).core b.core).scratch (b.scrOff + o + i)))

/-- The tile that a pair names (R342). -/
def tileOf (b : W64 × W64) : Tile := ⟨bits b.1.toNat 31 0, bits b.1.toNat 63 32, bits b.2.toNat 31 0, bits b.2.toNat 63 32⟩

/-- The status of a start (R343). -/
def Handle.startStatus (h : Handle) (g : Nat) : Nat :=
  if !h.conf then 5
  else if (h.rankAt g).isNone then 2
  else if h.broken.contains g then 4
  else if 2 ≤ (h.flight.filter (fun i => i.gcore == g)).length then 1
  else 0

/-- An uncorrectable sector among the bytes of a scratchpad. -/
def State.ueIn (s : State) (q : Nat) (b : Block) (o n : Nat) : Option Nat :=
  if s.anyBad q then ((List.range n).map (fun i => Loc.scratch b.core (b.scrOff + o + i))).find? (s.ueBelow q none) |>.map Loc.addr else none

/-- The local ranks of a handle to which a router drops what core `g` sends (R338, R361): they lie across a die boundary that BND does not allow. -/
def State.ranksCut (s : State) (q : Nat) (h : Handle) (g : Nat) : List Nat :=
  let die (g : Nat) : Nat := s.devClu q (cluOf g) / s.cpd
  (List.range h.ranks.length).filter (fun j => match (h.ranks[j]? : Option Rank) with
    | some (.loc c k) => (crossings (die g) (die (48 * c + k))).any (fun i => !(s.reg q).pnetb.getLsbD i)
    | _ => false)

/-- An instance starts at a rank (R343, R344, R347): its number, its arrival and 16 bytes announced, its source as it stands, and IFC of the warp that completed the
rendezvous. An uncorrectable sector of the source ends it in error, with its ASYNC record and the error log's (R349, R208). Packets that a router drops are logged, with
the receiving core's number as their site (R338; log 61). -/
def State.startInst (s : State) (q n : Nat) (w : WRef) (b : Block) (t : Tile) : State :=
  let h := (s.part q).handle n
  match h.rankAt b.core with
  | none => s
  | some r =>
    let num := AMap.rd 0 h.inst b.core
    let len := h.srcLen r t.n
    let bytes := s.collBytes q b t.src len
    let dests := if h.opc = 6 then (List.range t.n).map (fun i => leNat ((bytes.drop (t.n * h.tb + 2 * i)).take 2)) else []
    let ue := s.ueIn q b t.src len
    let ab := h.aborted.find? (fun x => x.1 == num)
    let st := match ab with | some x => x.2 | none => if ue.isSome then 2 else 0
    let cut := if st ≠ 0 ∨ (h.opc = 4 ∧ r ≠ h.root) then [] else s.ranksCut q h b.core
    let src : Source := ⟨num, r, if h.opc = 6 then bytes.take (t.n * h.tb) else bytes, dests, false, cut⟩
    let s := s.logBarred q (cut.filterMap (fun j => match (h.ranks[j]? : Option Rank) with | some (.loc c k) => some (48 * c + k) | _ => none))
    let x : Inst := ⟨b.core, num, w, b.id, t, s.now, st, ab.isNone && ue.isSome, (s.part q).postSeq, false⟩
    let s := s.modPart q (fun p => (p.setHandle n { h with
      inst := AMap.wr h.inst b.core ((num + 1) % 2 ^ 16), flight := h.flight ++ [x], sources := h.sources ++ [src] }).modWarp w Warp.ifcUp)
    let s := s.abAnnounce q (.scratch b.core (b.scrOff + t.obj)) 16
    match st, ue with
    | 0, _ => (s.sendSource q n num r t.n src).moveAll q n num
    | _, some pa =>
      if x.own then (s.logUe q pa).modPart q (fun p => p.postAsync w 0 ⟨.memue, 0, BitVec.ofNat 64 pa, .read⟩) else s
    | _, none => s

/-- Give a status to every warp of a block that waits in `coll` (R343). -/
def Part.collGive (p : Part) (blk v : Nat) : Part :=
  (p.warpsOf blk).foldl (fun p y => match y.2.wait with
    | .coll d .. => p.modWarp y.1 (fun x => { x.setS d (BitVec.ofNat 64 v) with wait := .none })
    | _ => p) p

/-- Whether a warp waits in `coll`, and with which operands. -/
def Warp.collArgs (x : Warp) : Option (Nat × W64 × W64 × W64) :=
  match x.wait with
  | .coll _ h a b => some (h, a, b.1, b.2)
  | _ => none

/-- IFC of a warp stands at its limit (R234). -/
def Part.ifcFull (p : Part) (w : WRef) : Bool := match p.warp w with | some x => decide (4096 ≤ x.ifc) | none => false

/-- The rendezvous of a block is tested (R343); `w` is the warp whose arrival would complete it. The start waits while its IFC stands at the limit (R234). -/
def State.tryColl (s : State) (q blk : Nat) (w : WRef) : State :=
  let p := s.part q
  let ws := p.warpsOf blk
  match (ws.filterMap (fun y => y.2.collArgs)), p.block? blk with
  | a :: l, some b =>
    if l.any (fun x => x != a) then s.setPart q (p.collGive blk 3)
    else if ws.all (fun y => y.2.collArgs.isSome) then
      let h := p.handle a.1
      let st := h.startStatus b.core
      if st = 0 && p.ifcFull w then s
      else
        let s := s.setPart q (p.collGive blk st)
        if st = 0 then s.startInst q a.1 w b (tileOf a.2.2) else s
    else s
  | _, _ => s

/-- A warp of a block has retired: the others' rendezvous may be complete, for the lowest context's warp (R343). -/
def State.retestColl (s : State) (q blk : Nat) : State :=
  match (s.part q).warpsOf blk with
  | [] => s
  | y :: l => if (y :: l).all (fun z => z.2.collArgs.isSome) then s.tryColl q blk y.1 else s

/-- An IFC has fallen: a start that it held may go on (R234). -/
def State.retestHeld (s : State) (q : Nat) : State := (s.part q).blocks.foldl (fun s b => s.retestColl q b.id) s

/-- `coll` at its commit would start an instance past the limit of IFC (R234). -/
def Part.collHeld (p : Part) (w : WRef) (h : Nat) (a : W64) (b : W64 × W64) : Bool :=
  match p.warp w with
  | none => false
  | some x =>
    match p.block? x.block with
    | none => false
    | some k => (p.warpsOf x.block).all (fun y => y.1 == w || y.2.collArgs == some (h, a, b)) && (p.handle h).startStatus k.core == 0 && p.ifcFull w

/-- `coll` at its commit (R343): the warp arrives. -/
def State.arriveColl (s : State) (q : Nat) (w : WRef) (d : Reg) (h : Nat) (a : W64) (b : W64 × W64) : State :=
  match (s.part q).warp w with
  | none => s
  | some x => (s.modPart q (fun p => p.setWarp w { x with wait := .coll d h a b })).tryColl q x.block w

/-! ### Sums (R345) -/

/-- An element of a rank's source as R345 starts it, widened from BF16 for OPC 1; the sum of one rank is that rank's value with a NaN made canonical. -/
def firstSum (bf : Bool) (n : Nat) (b : List Byte) : List Byte :=
  let w := if bf then 2 else 4
  (List.range (n / w)).flatMap (fun i => leBytes 4 (leNat ((b.drop (w * i)).take w) * (if bf then 2 ^ 16 else 1)))

/-- FP32 sums of two lists, element by element. -/
def addSums (a b : List Byte) : List Byte :=
  (List.range (a.length / 4)).flatMap (fun i =>
    leBytes 4 (addF32 (BitVec.ofNat 32 (leNat ((a.drop (4 * i)).take 4))) (BitVec.ofNat 32 (leNat ((b.drop (4 * i)).take 4)))).1.toNat)

/-- NaNs made canonical. -/
def canonSums (a : List Byte) : List Byte :=
  (List.range (a.length / 4)).flatMap (fun i =>
    let x := leNat ((a.drop (4 * i)).take 4)
    leBytes 4 (if (fp32.decode x).isNan then fp32.canon else x))

/-- x[j] of R345 after tree step `k` (of stride 2^(k−1)), as rank `r` needs it: from a frame of that step, else from the step before; step 0 is rank `j`'s own
value. -/
def Handle.treeSum (h : Handle) (num r n : Nat) : Nat → Nat → Option (List Byte)
  | 0, j => (h.part num j r n).map (firstSum (h.opc == 1) n)
  | k + 1, j =>
    match h.rxBytes num j r false (k + 1) (if h.opc = 1 then 2 * n else n) with
    | some b => some b
    | none =>
      if j + 2 ^ k < h.ranks.length then
        match h.treeSum num r n k j, h.treeSum num r n k (j + 2 ^ k) with
        | some a, some b => some (addSums a b)
        | _, _ => none
      else h.treeSum num r n k j

/-- The least k with N ≤ 2^k: the tree's steps. -/
def treeSteps (n : Nat) : Nat := ((List.range 11).find? (fun k => decide (n ≤ 2 ^ k))).getD 10

/-! ### Results (R344-R347) -/

/-- The token of a slot at rank `r`: from its source there, or from what the source's rank has sent (R346). -/
def Handle.tokenAt (h : Handle) (num r : Nat) (l : List Slot) (x : Slot) : Option (List Byte) :=
  match (h.ranks[x.src]? : Option Rank) with
  | some (.loc ..) => (h.arrives num x.src r).map (fun y => y.tokens h.tb [x])
  | some (.remote _) =>
    let m := slotsFrom l x.src r
    (h.rxBytes num x.src r false 0 (m.length * h.tb)).map (fun b => (b.drop ((m.filter (fun y => decide (y.slot < x.slot))).length * h.tb)).take h.tb)
  | none => none

/-- What an instance writes at a rank: (offset from DST, bytes), with DELIV and DROP (R344-R347). -/
def Handle.result (h : Handle) (num r n : Nat) : Option (List (Nat × List Byte) × Nat × Nat) :=
  match h.opc with
  | 6 =>
    match h.assigned num r with
    | none => none
    | some a =>
      let mine := a.1.filter (fun x => x.dst == r)
      (allSome (mine.map (h.tokenAt num r a.1))).map (fun ts =>
        ((mine.zip ts).flatMap (fun x => [(x.1.slot * h.tb, x.2), (h.cap * h.tb + 4 * x.1.slot, leBytes 4 (x.1.src + x.1.tok * 2 ^ 16))]),
         mine.length, (a.2.filter (fun x => x == r)).length))
  | 2 | 4 | 5 => (h.needs num r n).map (fun src => ([(0, src.flatMap id)], (src.flatMap id).length, 0))
  | _ => (h.treeSum num r n (treeSteps h.ranks.length) 0).map (fun b => ([(0, canonSums b)], b.length, 0))

/-! ### The end of an instance (R347-R349) -/

/-- The oldest instance of a handle at a rank (R348). -/
def Handle.oldestAt (h : Handle) (g : Nat) : Option Inst := h.flight.find? (fun i => i.gcore == g)

/-- The oldest instance of a handle at a rank can end: in error, once its ASYNC record has a place (R319), or with everything it needs. -/
def Part.instReady (p : Part) (n g : Nat) : Bool :=
  let h := p.handle n
  match h.oldestAt g, h.rankAt g with
  | some i, some r => if i.status != 0 then !(i.own && i.status == 2) || p.hasPlace i.record else (h.result i.num r i.tile.n).isSome
  | _, _ => false

/-- A number comes after an instance number, modulo 2^16. -/
def passed (next num : Nat) : Bool := let d := (next + 2 ^ 16 - num) % 2 ^ 16; decide (1 ≤ d ∧ d ≤ 32767)

/-- A local rank has ended an instance. -/
def Handle.ended (h : Handle) (g num : Nat) : Bool := passed (AMap.rd 0 h.inst g) num && !h.flight.any (fun i => i.gcore == g && i.num == num)

/-- Sources and arrivals that no local rank needs any more go. -/
def Handle.tidy (h : Handle) : Handle :=
  let locals := h.ranks.filterMap (fun r => match r with | .loc c k => some (c * 48 + k) | _ => none)
  { h with
    sources := h.sources.filter (fun x => !locals.all (fun g => h.ended g x.num))
    rx := h.rx.filter (fun x => match (h.ranks[x.dst]? : Option Rank) with | some (.loc c k) => !h.ended (c * 48 + k) x.num | _ => false) }

/-- A free word of `n` bytes (log 11). -/
def freeBytes (tick n : Nat) : List Byte := (List.range n).map (fun i => Config.freeByte tick i)

/-- Another rank's error reaches the local ranks of a handle (R349). -/
def Part.abortInst (p : Part) (n num st : Nat) : Part :=
  let h := p.handle n
  p.setHandle n { h with
    aborted := if h.aborted.any (fun x => x.1 == num) then h.aborted else h.aborted ++ [(num, st)]
    flight := updIf (fun i => i.num == num && i.status == 0) (fun i => { i with status := st, own := false }) h.flight }

/-- Bytes that a collective writes in a scratchpad, on the CL path (R232, R264). -/
def State.collStore (s : State) (q : Nat) (l : Loc) (bs : List Byte) : State := (s.lagging q pathCL none l bs).engStore q noPayer none l bs

/-- The oldest instance of a handle at a rank ends (R347-R349): data, then the record, then 16 bytes delivered. In error the destination is free (R348), the handle is broken
there, and the rank tells every other one, whichever rank raised the error. -/
def State.instEnd (s : State) (q n g : Nat) : State :=
  let p := s.part q
  let h := p.handle n
  match h.oldestAt g, h.rankAt g with
  | some i, some r =>
    match p.block? i.block with
    | none => s
    | some b =>
      let at_ (o : Nat) : Loc := .scratch b.core (b.scrOff + o)
      let out := if i.status = 0 then h.result i.num r i.tile.n
        else some ([(0, freeBytes s.tick (h.dstLen i.tile.n))], leNat (freeBytes (s.tick + 1) 4), leNat (freeBytes (s.tick + 2) 4))
      match out with
      | none => s
      | some (ws, deliv, drop) =>
        let s := ws.foldl (fun s x => s.collStore q (at_ (i.tile.dst + x.1)) x.2) s
        let s := s.collStore q (at_ (i.tile.obj + 16)) (leBytes 16 (i.num + i.status * 2 ^ 16 + deliv * 2 ^ 32 + drop * 2 ^ 64))
        let s := s.modPart q (fun p =>
          let p := p.setHandle n (({ h with
            flight := h.flight.filter (fun x => !(x.gcore == g && x.num == i.num))
            broken := if i.status = 0 then h.broken else h.broken ++ [g] } : Handle).tidy)
          p.modWarp i.w Warp.ifcDown)
        let s := if i.status = 0 then s else (s.modPart q (fun p => p.abortInst n i.num i.status)).sendAborts q n i.num r i.status
        ((s.abDeliver q (at_ i.tile.obj) 16).modPart q Part.checkTriggers).retestHeld q
  | _, _ => s

/-- An instance is over its time (R349). -/
def Inst.overdue (i : Inst) (tmo now : Nat) : Bool := tmo != 0 && i.status == 0 && decide (i.start + tmo * 131072 ≤ now)

/-- The instances of a handle at a rank whose time has passed end with TIMEOUT (R349). -/
def State.instTimeout (s : State) (q n g : Nat) : State :=
  s.modPart q (fun p =>
    let h := p.handle n
    p.setHandle n { h with flight := updIf (fun i => i.gcore == g && i.overdue h.tmo s.now) (fun i => { i with status := 1, own := true }) h.flight })

/-! ### Receiving (R349, R352) -/

/-- Frames that an ACK and SACK cover are gone; a frame that was sent before one that SACK shows received is due again. -/
def Peer.acked (x : Peer) (ack : Nat) (sack : BitVec 32) : Peer :=
  let cum (f : Sent) : Bool := let d := (ack + 2 ^ 32 - f.frame.seq) % 2 ^ 32; decide (1 ≤ d ∧ d ≤ 2 ^ 31)
  let sel (f : Sent) : Bool := let d := (f.frame.seq + 2 ^ 32 - (ack + 1)) % 2 ^ 32; decide (d < 32) && sack.getLsbD d
  let got := x.unacked.filter sel
  let later (f g : Sent) : Bool := let d := (g.frame.seq + 2 ^ 32 - f.frame.seq) % 2 ^ 32; decide (1 ≤ d ∧ d ≤ 256) && decide (f.at_ ≤ g.at_)
  { x with unacked := (x.unacked.filter (fun f => !(cum f || sel f))).map (fun f => if got.any (later f) then { f with gap := true } else f) }

/-- Frames that were kept back go out while fewer than 256 are unacknowledged. -/
def State.drainTx (s : State) (q peer : Nat) : State :=
  let x := (s.part q).peer peer
  let l := x.pendingTx.take (256 - x.unacked.length)
  let s := s.modPart q (fun p => p.setPeer peer { x with pendingTx := x.pendingTx.drop (256 - x.unacked.length) })
  l.foldl (fun s f => s.sendFrame q f) s

/-- A frame's number is new (R352). -/
def Peer.isNew (x : Peer) (seq : Nat) : Bool := decide ((seq + 2 ^ 32 - x.rcvNext) % 2 ^ 32 < 2 ^ 31) && !x.rcvSeen.contains seq

/-- Move the next number expected past those received. -/
def advance (seen : List Nat) : Nat → Nat → Nat
  | 0, n => n
  | fuel + 1, n => if seen.contains n then advance seen fuel ((n + 1) % 2 ^ 32) else n

/-- Note a number received. -/
def Peer.note (x : Peer) (seq : Nat) : Peer :=
  let seen := x.rcvSeen ++ [seq]
  let next := advance seen seen.length x.rcvNext
  { x with rcvNext := next, rcvSeen := seen.filter (fun y => decide ((y + 2 ^ 32 - next) % 2 ^ 32 < 2 ^ 31)) }

/-- A frame matches a configured handle: EPOCH, a remote sending rank at its peer, a local receiving rank, and a sound length (R349, R352). -/
def Part.frameFits (p : Part) (f : Frame) : Bool :=
  let h := p.handle f.handle
  h.conf && h.epoch == f.epoch && h.ranks[f.src]? == some (.remote f.peer) &&
    (match (h.ranks[f.dst]? : Option Rank) with | some r => r.isLocal | none => false) && f.data.length % 64 == 0 && decide (f.data.length ≤ 8192)

/-- What every frame that carries a number does first (R352): its acknowledgements are taken, its number noted, and an ACK sent, or held by a port that is not ready
(R368). Answers whether it is new. -/
def State.frameIn (s : State) (q : Nat) (f : Frame) : State × Bool :=
  let x := (s.part q).peer f.peer
  if !x.en then (s, false)
  else
    let new := x.isNew f.seq
    let x := x.acked f.ack f.sack
    let x := if new then x.note f.seq else x
    let s := (s.modPart q (fun p => p.setPeer f.peer x)).drainTx q f.peer
    let y := (s.part q).peer f.peer
    let a : Frame := ⟨f.peer, 2, f.handle, f.epoch, f.inst, f.dst, f.src, 0, 0, 0, y.rcvNext, y.sack, []⟩
    (if s.portUp y.port then { s with outbox := s.outbox ++ [.frame q a] }
     else s.modPart q (fun p => p.setPeer f.peer { y with heldAcks := y.heldAcks ++ [a] }), new)

/-- A DATA or COUNTS frame (R346, R352): placed by its offset and tree step until the rank's instance takes it; the last counts let tokens move. -/
def State.rxData (s : State) (q : Nat) (f : Frame) (counts : Bool) : State :=
  let r := s.frameIn q f
  if r.2 && (r.1.part q).frameFits f then
    (r.1.modPart q (fun p =>
      let h := p.handle f.handle
      p.setHandle f.handle { h with rx := h.rx ++ [⟨f.inst, f.src, f.dst, counts, f.stepNo, f.offset, f.data⟩] })).moveAll q f.handle f.inst
  else r.1

/-- An ACK frame (R352). -/
def State.rxAck (s : State) (q : Nat) (f : Frame) : State :=
  (s.modPart q (fun p => p.setPeer f.peer ((p.peer f.peer).acked f.ack f.sack))).drainTx q f.peer

/-- An ABORT frame (R349). -/
def State.rxAbort (s : State) (q : Nat) (f : Frame) : State :=
  let r := s.frameIn q f
  if r.2 && (r.1.part q).frameFits f then r.1.modPart q (fun p => p.abortInst f.handle f.inst (f.offset % 16)) else r.1

/-! ### Retransmission (R352) -/

/-- A frame is due again: a gap, or RTO has passed (in µs of real time, R3). -/
def Peer.sentDue (x : Peer) (f : Sent) (now clkPct : Nat) : Bool := f.gap || decide (f.at_ + x.rto * 14 * clkPct ≤ now)

/-- Some frame of a peer is due. -/
def State.resendDue (s : State) (q peer : Nat) : Bool :=
  let x := (s.part q).peer peer
  !x.down && x.unacked.any (fun f => x.sentDue f s.now s.clkPct)

/-- A handle uses a peer. -/
def Handle.uses (h : Handle) (peer : Nat) : Bool := h.ranks.any (fun r => match r with | .remote i => i == peer | _ => false)

/-- A peer goes down: every instance that uses it ends with PEERLOST (R349, R352). -/
def Part.peerDown (p : Part) (peer : Nat) : Part :=
  let x := p.peer peer
  let p := p.setPeer peer { x with w0 := x.w0 ||| 0x20, unacked := [], pendingTx := [] }
  { p with handles := p.handles.map (fun h => (h.1, if h.2.uses peer then
      { h.2 with flight := updIf (fun i => i.status == 0) (fun i => { i with status := 3, own := true }) h.2.flight } else h.2)) }

/-- The frames of a peer that are due are sent again, or the peer goes down when one has been resent RETRY times (R352). -/
def State.resend (s : State) (q peer : Nat) : State :=
  let x := (s.part q).peer peer
  let due := x.unacked.filter (fun f => x.sentDue f s.now s.clkPct)
  if due.any (fun f => decide (x.retry ≤ f.tries)) then s.modPart q (fun p => p.peerDown peer)
  else
    let up := s.portUp x.port
    let f2 (f : Sent) : Sent := if x.sentDue f s.now s.clkPct then { f with at_ := s.now, tries := f.tries + 1, held := !up, gap := false } else f
    let s := s.modPart q (fun p => p.setPeer peer { x with unacked := x.unacked.map f2 })
    if up then { s with outbox := s.outbox ++ due.map (fun f => .frame q f.frame) } else s

/-- A port sends again: the frames it held go out (R352, R368). -/
def State.releaseHeld (s : State) (q port : Nat) : State :=
  ((s.part q).peers.filter (fun x => x.2.port == port)).foldl (fun s kx =>
    let held := kx.2.unacked.filter (fun f => f.held)
    let s := s.modPart q (fun p => p.setPeer kx.1 { kx.2 with unacked := kx.2.unacked.map (fun f => { f with held := false }), heldAcks := [] })
    { s with outbox := s.outbox ++ (held.map (fun f => f.frame) ++ kx.2.heldAcks).map (fun f => .frame q f) }) s

end Sys2Proof.Machine
end

