-- ==== Sys2Proof/Machine/Csr.lean ====
section
/-! DEFINITION. Control and status registers: what a read gives, what a write may change, and what it does (R4, R5, R86, R136, R186, R190, R192, R199, R205,
R234, R253, R303, R312, R318, R328-R330, R359). -/

namespace Sys2Proof.Machine

/-! ### Reading (R16, R114, R328, R330) -/

/-- PRIO (R253). -/
def Warp.prioReg (x : Warp) (linh binh : Nat) : W64 :=
  BitVec.ofNat 64 (x.prio + max x.prio (max linh binh) * 2 ^ 4 + linh * 2 ^ 8 + binh * 2 ^ 12)

/-- LOC (R16). -/
def State.locReg (s : State) (q : Nat) (w : WRef) (x : Warp) : W64 :=
  BitVec.ofNat 64 (w.core % 48 + cluOf w.core * 2 ^ 8 + w.core * 2 ^ 16 + x.base / 8 * 2 ^ 32 + q * 2 ^ 38 + s.nclu q * 2 ^ 48)

/-- A partition-wide CSR (R330). -/
def PCsr.get (c : PCsr) (n : Nat) : W64 :=
  match n with
  | 0x021 => c.rsbase
  | 0x040 => c.racedrop
  | 0x041 => c.locmiss
  | 0x042 => c.pkfall
  | 0x100 => c.fqbase
  | 0x101 => c.fqhead
  | 0x102 => c.fqtail
  | 0x103 => c.fqstat
  | 0x104 => c.sqmask
  | 0x105 => c.fltto
  | 0x160 => c.ptbase
  | 0x161 => c.ccquota
  | 0x162 => c.pkquota
  | n => if 0x140 ≤ n ∧ n < 0x150 then Sparse.rd c.resv (n - 0x140) else 0

/-- A CSR of a warp or of its partition as it stands, with what other agents may change given apart (R32). -/
def State.csrOf (s : State) (q : Nat) (c : Ctx) (trdy terr : W64) (ifc linh binh clk : Nat) (pc : PCsr) (n : Nat) : W64 :=
  let x := c.x
  match n with
  | 0x000 => BitVec.ofNat 64 x.width
  | 0x001 => 128
  | 0x002 => BitVec.ofNat 64 ifc
  | 0x003 => x.fflags.setWidth 64
  | 0x008 => x.lc0.setWidth 64
  | 0x009 => x.lc1.setWidth 64
  | 0x00A => x.lc2.setWidth 64
  | 0x00B => BitVec.ofNat 64 x.ldepth
  | 0x010 => trdy
  | 0x011 => terr
  | 0x018 => x.trap.thnd
  | 0x019 => x.trap.cause.setWidth 64
  | 0x01A => x.trap.addr
  | 0x01B => x.trap.info
  | 0x01C => x.trap.epc
  | 0x01D => BitVec.ofNat 64 x.trap.tstat
  | 0x020 => x.prioReg linh binh
  | 0x022 => BitVec.ofNat 64 c.grid.queue
  | 0x023 => c.grid.handle
  | 0x024 => s.locReg q c.w x
  | 0x030 => BitVec.ofNat 64 clk
  | n => pc.get n

/-- A CSR at run start (R32, R328). -/
def State.csrRead (s : State) (e : Env) (n : Nat) : W64 :=
  s.csrOf e.q e.c e.run.trdy0 e.run.terr0 e.run.ifc0 e.run.linh0 e.run.binh0 e.run.clk0 e.run.csr0 n

/-- A CSR as it stands now. -/
def State.csrNow (s : State) (q : Nat) (c : Ctx) (n : Nat) : W64 :=
  s.csrOf q c c.x.trdy c.x.terr c.x.ifc c.x.linh c.x.binh (s.clkc q) (s.part q).csr n

/-! ### Writing (R4, R5, R328) -/

/-- Bits [hi:lo] set. -/
def span (hi lo : Nat) : W64 := BitVec.ofNat 64 (2 ^ (hi + 1) - 2 ^ lo)

/-- The bits that a write may change at a level: RW fields (R330). -/
def rwBits (n : Nat) (sup : Bool) : W64 :=
  let s (m : W64) : W64 := if sup then m else 0
  match n with
  | 0x003 => span 5 0
  | 0x008 => span 31 0
  | 0x009 => span 31 0
  | 0x00A => span 31 0
  | 0x018 => span 63 0
  | 0x01C => span 63 0
  | 0x020 => span 2 0
  | 0x021 => s (span 0 0 ||| span 51 14)
  | 0x040 => s (span 63 0)
  | 0x041 => s (span 63 0)
  | 0x042 => s (span 63 0)
  | 0x100 => span 5 0 ||| span 51 12
  | 0x101 => span 31 0
  | 0x103 => span 14 1
  | 0x105 => span 31 0
  | 0x160 => span 0 0 ||| span 51 12
  | 0x161 => span 19 0
  | 0x162 => span 33 0
  | n => if 0x141 ≤ n ∧ n < 0x150 then span 32 0 else 0

/-- W1C registers (R234). -/
def isW1c (n : Nat) : Bool := n == 0x010 || n == 0x011

/-- The value that a write gives (R328). -/
def CsrOp.apply (op : CsrOp) (old v : W64) : W64 :=
  match op with
  | .write => v
  | .set => old ||| v
  | .clear => old &&& ~~~v

/-- A CSR's own limit on a value (R86, R190, R199, R318). -/
def State.csrLimit (s : State) (q n : Nat) (v : W64) : Bool :=
  let x := v.toNat
  let c := (s.part q).csr
  match n with
  | 0x100 => !bitN x 0 || decide (6 ≤ bits x 5 1 ∧ bits x 5 1 ≤ 16)
  | 0x161 => (List.range 4).all (fun i => decide (1 ≤ bits x (5 * i + 4) (5 * i) ∧ bits x (5 * i + 4) (5 * i) ≤ 16))
  | 0x162 => decide (bits x 15 0 ≤ 32768 ∧ bits x 33 16 ≤ 131072)
  | n =>
    if 0x140 ≤ n ∧ n < 0x150 then
      let sum (hi lo : Nat) : Nat := (List.range 16).foldl (fun m i => m + bits (if 0x140 + i = n then x else (Sparse.rd c.resv i).toNat) hi lo) 0
      decide (sum 15 0 ≤ 5898 * s.nq q ∧ sum 31 16 ≤ 4608 * s.nq q)
    else true

/-- A write is admitted (R4, R5, R328); PRIO ignores bits [14:4] and takes no set bit in [3] or [63:15] (R253). -/
def State.csrOk (s : State) (q n : Nat) (sup : Bool) (op : CsrOp) (old v : W64) : Bool :=
  if isW1c n then true
  else if n = 0x020 then (v &&& (span 3 3 ||| span 63 15)) == 0
  else
    let new := op.apply old v
    ((new ^^^ old) &&& ~~~(rwBits n sup)) == 0 && (new == old || s.csrLimit q n new)

/-- The partition-wide CSRs after a write. -/
def PCsr.set (c : PCsr) (n : Nat) (v : W64) : PCsr :=
  match n with
  | 0x021 => { c with rsbase := v }
  | 0x040 => { c with racedrop := v }
  | 0x041 => { c with locmiss := v }
  | 0x042 => { c with pkfall := v }
  | 0x100 => { c with fqbase := v }
  | 0x101 => { c with fqhead := v }
  | 0x103 => { c with fqstat := (v &&& ~~~1) ||| (c.fqstat &&& 1) }
  | 0x105 => { c with fltto := v }
  | 0x160 => { c with ptbase := v }
  | 0x161 => { c with ccquota := v }
  | 0x162 => { c with pkquota := v }
  | n => if 0x141 ≤ n ∧ n < 0x150 then { c with resv := Sparse.wr c.resv (n - 0x140) v } else c

/-- A warp's own CSRs after a write; PRIO stores at most the grid's priority (R77, R253). -/
def Warp.csrSet (x : Warp) (gridPrio n : Nat) (op : CsrOp) (v : W64) : Warp :=
  let new (old : W64) : W64 := op.apply old v
  let w1c (old : W64) : W64 := match op with | .clear => old | _ => old &&& ~~~v
  match n with
  | 0x003 => { x with fflags := (new (x.fflags.setWidth 64)).setWidth 6 }
  | 0x008 => { x with lc0 := (new (x.lc0.setWidth 64)).setWidth 32 }
  | 0x009 => { x with lc1 := (new (x.lc1.setWidth 64)).setWidth 32 }
  | 0x00A => { x with lc2 := (new (x.lc2.setWidth 64)).setWidth 32 }
  | 0x010 => { x with trdy := w1c x.trdy }
  | 0x011 => { x with terr := w1c x.terr }
  | 0x018 => { x with trap := { x.trap with thnd := new x.trap.thnd } }
  | 0x01C => { x with trap := { x.trap with epc := new x.trap.epc } }
  | 0x020 => { x with prio := min gridPrio ((new (BitVec.ofNat 64 x.prio)).toNat % 8) }
  | _ => x

/-- FQSTAT.IE with records that have not been consumed (R318). -/
def PCsr.fqAlarm (c : PCsr) : Bool := c.fqstat.getLsbD 1 && c.fqtail.setWidth 32 != c.fqhead.setWidth 32

/-- FULL after a write to the ring's registers (R318, R319): records wait for room. Once set it stays while records are left (log 49). -/
def Part.refull (p : Part) : Part := { p with csr := p.csr.setFull (!p.posts.isEmpty && (p.csr.fqstat.getLsbD 0 || !p.csr.ringRoom)) }

/-- A partition-wide CSR takes a value; one that makes the fault queue's alarm true raises its vector, one that takes the ring's room from records that wait sets FULL (R318),
and buckets fill at the old rates until a rate changes (R86, R87). -/
def State.setPCsr (s : State) (q n : Nat) (v : W64) : State :=
  let old := (s.part q).csr
  let s := if 0x140 ≤ n ∧ n < 0x150 then s.modPart q (fun p => p.settle s.now) else s
  let s := s.modPart q (fun p => { p with csr := p.csr.set n v })
  let s := if n = 0x100 ∨ n = 0x101 then s.modPart q Part.refull else s
  if !old.fqAlarm && (s.part q).csr.fqAlarm then { s with outbox := s.outbox ++ [.faultIrq q] } else s

/-- A CSR write at its commit (R328): of a partition-wide CSR only the bits that the level may write change, so that a count which another agent has raised since the run
start stays (R4). -/
def State.csrWrite (s : State) (q : Nat) (w : WRef) (op : CsrOp) (n : Nat) (v : W64) : State :=
  match (s.part q).ctx w with
  | none => s
  | some c =>
    let old := (s.part q).csr.get n
    let rw := rwBits n ((s.part q).isSup c.grid)
    (s.modPart q (fun p => p.setWarp w (c.x.csrSet c.grid.prio n op v))).setPCsr q n ((old &&& ~~~rw) ||| (op.apply old v &&& rw))

/-- The CSRs that the host's window reaches (R374). -/
def hostCsr (n : Nat) : Bool :=
  n == 0x021 || n == 0x040 || n == 0x041 || n == 0x042 || decide (0x100 ≤ n ∧ n ≤ 0x105) || decide (0x140 ≤ n ∧ n < 0x150) || decide (0x160 ≤ n ∧ n ≤ 0x162)

end Sys2Proof.Machine
end

