-- ==== Sys2Proof/Machine/Commit.lean ====
section
/-! DEFINITION. The end of a run: its park, its abort or its commit, and what follows the commit (R33-R38, R54, R96, R124, R134, R212, R216-R230, R244,
R277, R311, R321). -/

namespace Sys2Proof.Machine

/-! ### What loads leave behind (R188, R190, R201, R202, R296) -/

/-- A sector loaded by core `g` under a page `l`: an L1 hit, or fills as the hint says; a load beyond the L1 drops the core's copy. -/
def State.loadSector (s : State) (q g : Nat) (pay : Payer) (host : Bool) (sector : Nat) (l : Leaf) (m : MAttr) (bytes : List Byte) : State :=
  let cc (s : State) : State := if m.hint = 1 then s else s.ccFill q pay (cluOf g) ⟨host, sector * 32, l.cls, l.grain, m.hint == 2, false⟩
  if m.beyond then cc (s.modPart q (fun p => p.setCore g ((p.core g).l1DropSector host sector)))
  else
    match ((s.part q).core g).l1Find host sector with
    | some x => s.modPart q (fun p => p.l1Hit g x (m.hint == 2))
    | none =>
      let s := cc (s.modPart q (fun p => p.l1Miss g host sector))
      if m.hint = 0 ∨ m.hint = 2 then s.modPart q (fun p => p.l1Fill g (s.clkc q) ⟨host, sector, bytes, m.hint == 2, l.grain, false⟩) else s

/-- One piece of a load that commits. A stale parked line moves (R201); `ldloc` never moves one (R220). -/
def State.loadPiece (s : State) (q g : Nat) (pay : Payer) (x : Piece) (m : MAttr) (loc : Bool) : State :=
  match x.loc, x.leaf with
  | .dev pa, some l =>
    match (s.part q).parked pa with
    | some d => if !loc && (s.part q).judge d g l.park = .serve then s.restale q pay (pa / 128) else s
    | none => (sectorsOf pa x.bytes.length).foldl (fun s i => s.loadSector q g pay false i l m (s.rdHomeL q (i * 32) 32)) s
  | .host pa, some l => (sectorsOf pa x.bytes.length).foldl (fun s i =>
        s.loadSector q g pay true i l m ((List.range 32).map (fun j => s.rdHost (i * 32 + j)))) s
  | _, _ => s

/-- Pieces on parked lines that are served although the core is no reader (R202). -/
def State.misses (s : State) (q g : Nat) (ps : List Piece) : Bool :=
  ps.any (fun x => match (s.part q).parkedAt x.loc, x.leaf with
    | some d, some l => (s.part q).judge d g l.park = .locmiss
    | _, _ => false)

/-- A load word that commits. -/
def State.doLoad (s : State) (q : Nat) (w : WRef) (ps : List Piece) (m : MAttr) (loc : Bool) : State :=
  let s := s.modPart q (fun p => p.lagRead ps)
  let s := if !loc && s.misses q w.core ps then s.modPart q (fun p => p.locmiss 1) else s
  let s := ps.foldl (fun s x => s.loadPiece q w.core ((s.part q).payerOf w) x m loc) s
  let s := if m.order.isAcq then s.modPart q (fun p => p.acquirePoint w.core m.scope) else s
  if loc then s
  else match (s.part q).ctx w with
    | some c => s.raceCommit q c ps false m.strong
    | none => s

/-! ### Stores (R191, R196, R216, R217, R221) -/

/-- The bytes of one piece enter memory as an ordinary store with a hint (R216). -/
def State.storePiece (s : State) (q g : Nat) (pay : Payer) (x : Piece) (hint : Nat) : State :=
  let s := s.store q g pay x.loc x.bytes
  let fill (host : Bool) (pa : Nat) (l : Leaf) : State :=
    if hint = 1 then s else s.ccFill q pay (cluOf g) ⟨host, pa, l.cls, l.grain, hint == 2, true⟩
  match x.loc, x.leaf with
  | .dev pa, some l => fill false pa l
  | .host pa, some l => fill true pa l
  | _, _ => s

/-- A line is locked by a warp of an identity. -/
def Part.lockedBy (p : Part) (line uid : Nat) : Bool := (p.lock line).holder == some uid

/-- Bytes at offsets of their line. -/
def lineOffsets (pa : Nat) (bs : List Byte) : List (Nat × Byte) := (List.range bs.length).map (fun i => (pa % 128 + i, bs.getD i 0))

/-- A reader-set entry as RSET words of a run leave it (R221, R222, R224). -/
def Part.entryAfter (p : Part) (acts : List Act) (rsid : Nat) : RDesc :=
  acts.foldl (fun (d : RDesc) a => match a with
    | .rset op _ n b0 b1 => if n.toNat = rsid then d.revised op b0 b1 else d
    | _ => d) (p.rdesc rsid)

/-- An `stp` under a descriptor places its line, and does not store as `st` (R221). -/
def Part.parks (p : Part) (c : Ctx) (d : RDesc) (x : Piece) : Bool :=
  match x.loc, x.leaf with
  | .dev pa, some l => l.park != 0 && p.csr.rsEn && d.kind != 0 && !(l.lockable && p.lockedBy (pa / 128) c.x.uid)
  | _, _ => false

/-- The piece is in a line of device memory. -/
def Piece.inLine (x : Piece) (line : Nat) : Bool := match x.loc with | .dev pa => pa / 128 == line | _ => false

/-- A line that a run places (R196, R217, R221): the words of the first and the last `stp` that park it, the last one's RSID and descriptor and the class of its page, and
the bytes of all stores of the run to the line up to that word, in program order. -/
structure Planned where
  line : Nat
  first : Nat
  pos : Nat
  rsid : Nat
  desc : RDesc
  cls : Nat
  bytes : List (Nat × Byte)
  deriving DecidableEq, Repr

/-- The `stp` words of a run that park a line: their positions, RSIDs and descriptors, and the classes of their pages. -/
def Part.parkings (p : Part) (c : Ctx) (acts : List Act) (line : Nat) : List (Nat × Nat × RDesc × Nat) :=
  (List.range acts.length).filterMap (fun i => match (acts[i]? : Option Act) with
    | some (.stp rsid ps m) => match ps.find? (fun x => x.inLine line) with
      | some x =>
        let d := p.entryAfter (acts.take i) rsid
        if p.parks c d x then some (m.pos, rsid, d, ((x.leaf.map (fun l => l.cls)).getD 0)) else none
      | none => none
    | _ => none)

/-- The bytes that the stores of a run up to a word write in a line. -/
def lineStores (acts : List Act) (line pos : Nat) : List (Nat × Byte) :=
  let mine (ps : List Piece) (m : MAttr) : List (Nat × Byte) :=
    if m.pos ≤ pos then ps.flatMap (fun x => match x.loc with | .dev pa => if pa / 128 = line then lineOffsets pa x.bytes else [] | _ => []) else []
  acts.flatMap (fun a => match a with
    | .store ps m => mine ps m
    | .stp _ ps m => mine ps m
    | _ => [])

/-- The lines that a run places. -/
abbrev Plan := List Planned

/-- The plan of a run, made before any of its effects: one placement for each line that an `stp` of it parks (R196, R221). -/
def Part.plan (p : Part) (c : Ctx) (acts : List Act) : Plan :=
  let lines := (acts.flatMap (fun a => match a with
    | .stp _ ps _ => ps.filterMap (fun x => match x.loc with | .dev pa => some (pa / 128) | _ => none)
    | _ => [])).dedup
  lines.filterMap (fun n => match p.parkings c acts n with
    | [] => none
    | k :: l =>
      let t := l.getLastD k
      some ⟨n, k.1, t.1, t.2.1, t.2.2.1, t.2.2.2, lineStores acts n t.1⟩)

/-- What a plan has for a piece. -/
def Plan.of (l : Plan) (x : Piece) : Option Planned := l.find? (fun t => x.inLine t.line)

/-- One lane's bytes of a store, by the plan of its run: what a placement of the run holds waits for it, and a store after it is an ordinary one, which comes after the
placement (R196, R204, R217). -/
def State.putPiece (s : State) (q : Nat) (c : Ctx) (plan : Plan) (x : Piece) (m : MAttr) : State :=
  match plan.of x with
  | some t => if m.pos ≤ t.pos then s else (s.drainLine q t.line).storePiece q c.w.core ((s.part q).payerOf c.w) x m.hint
  | none => s.storePiece q c.w.core ((s.part q).payerOf c.w) x m.hint

/-- The parked stores that a word completes set out for their home slices, one placement for each line (R196). -/
def Part.setOut (p : Part) (c : Ctx) (plan : Plan) (pos : Nat) : Part :=
  { p with placeQ := p.placeQ ++ (plan.filter (fun t => t.pos == pos)).map (fun t =>
      ⟨t.line, t.rsid, t.desc, c.w.core, p.warpCls c.w, c.gang.id, t.cls, t.bytes⟩) }

/-- An `st` or `stp` word that commits (R216, R217, R221, R208); a release closes the warp's region with its own access in it (R290, R301). -/
def State.doStore (s : State) (q : Nat) (w : WRef) (plan : Plan) (ps : List Piece) (m : MAttr) : State :=
  match (s.part q).ctx w with
  | none => s
  | some c =>
    let s := ps.foldl (fun s x => s.putPiece q c plan x m) s
    let held (x : Piece) : Bool := match plan.of x with | some t => decide (m.pos ≤ t.pos) | none => false
    let s := s.clearUe q (some w.core) (some (cluOf w.core)) (placesOf (ps.filter (fun x => !held x)))
    let s := if plan.isEmpty then s else s.modPart q (fun p => p.setOut c plan m.pos)
    let s := s.raceCommit q c ps true m.strong
    if m.order.isRel then s.modPart q (fun p => p.closeRegion w m.scope) else s

/-! ### Cache words (R230) -/

/-- A sector enters the levels that a `pref`'s hint names, whether or not the core's L1 holds it already (R230); an uncorrectable one is logged only (R208). -/
def State.prefSector (s : State) (q g : Nat) (pay : Payer) (host : Bool) (sec : Nat) (l : Leaf) (hint : Nat) : State :=
  if s.ueBelow q (some (cluOf g)) (if host then .host (sec * 32) else .dev (sec * 32)) then s.logUe q (sec * 32)
  else
    let bytes := if host then (List.range 32).map (fun j => s.rdHost (sec * 32 + j)) else s.rdHomeL q (sec * 32) 32
    let s := s.ccFill q pay (cluOf g) ⟨host, sec * 32, l.cls, l.grain, hint == 2, false⟩
    if hint = 0 ∨ hint = 2 then
      match ((s.part q).core g).l1Find host sec with
      | some x => s.modPart q (fun p => p.l1Hit g x (hint == 2))
      | none => s.modPart q (fun p => (p.l1Miss g host sec).l1Fill g (s.clkc q) ⟨host, sec, bytes, hint == 2, l.grain, false⟩)
    else s

/-- A word of the CACHE group on one line that a lane names: core `g`, its op and hint. `cinv` does what `cwb` does before it drops the line. -/
def State.cacheLine (s : State) (q g : Nat) (pay : Payer) (op : CacheOp) (host : Bool) (line : Nat) (l : Leaf) (hint : Nat) : State :=
  match op with
  | .pref => if hint = 1 then s else (List.range 4).foldl (fun s i => s.prefSector q g pay host (line * 4 + i) l hint) s
  | .cwb => s.cwbLine q pay (cluOf g) host line
  | .cinv => (s.cwbLine q pay (cluOf g) host line).modPart q (fun p =>
      (p.setCore g ((p.core g).l1DropLine host line)).ccDrop (cluOf g) host line)

/-- A word of the CACHE group; lanes that name the same line act once, and parked lines, those of the run's own stores among them, are left alone (R230). It acts
in program order with the run's stores, also before one that follows it (DESIGN CHOICE, log 59). -/
def State.doCache (s : State) (q : Nat) (w : WRef) (plan : Plan) (op : CacheOp) (ps : List Piece) (m : MAttr) : State :=
  let line (x : Piece) : Loc := match x.loc with | .dev pa => .dev (pa / 128) | .host pa => .host (pa / 128) | l => l
  let once := ps.foldl (fun (l : List Piece) x => if l.any (fun y => line y == line x) then l else l ++ [x]) []
  once.foldl (fun s x =>
    let pay := (s.part q).payerOf w
    match x.loc, x.leaf with
    | .dev pa, some l =>
      if ((s.part q).parked pa).isSome || (s.part q).placeQ.any (fun y => y.line == pa / 128) ||
          plan.any (fun t => t.line == pa / 128 && decide (t.first < m.pos ∧ m.pos < t.pos)) then s
      else s.cacheLine q w.core pay op false (pa / 128) l m.hint
    | .host pa, some l => s.cacheLine q w.core pay op true (pa / 128) l m.hint
    | _, _ => s) s

/-! ### Register blocks (R103-R106) -/

/-- The grant of `racq`, or its code (R104). -/
def Part.doRacq (p : Part) (w : WRef) (d : Reg) (a : Nat) : Part :=
  match p.ctx w with
  | none => p
  | some c =>
    if regCap c.grid.k < c.x.n + 16 * a then p.setWarp w (c.x.setS d 2)
    else if p.racqFree w c.x c.x.n a then
      (p.setCore w.core ((p.core w.core).clearRegs c.x.base c.x.width (c.x.fileBase + c.x.n) (16 * a))).setWarp w ({ c.x with n := c.x.n + 16 * a }.setS d 0)
    else p.setWarp w (c.x.setS d 1)

/-- `rrel` at its commit (R105): the base block always stays. -/
def Part.doRrel (p : Part) (w : WRef) (d : Reg) (a : Nat) : Part :=
  match p.ctx w with
  | none => p
  | some c =>
    let n := max (16 * c.grid.k.bregs) (c.x.n - 16 * a)
    p.setWarp w ({ c.x with n := n }.setS d (BitVec.ofNat 64 (n / 16)))

/-! ### The queued effects of a run (R33) -/

def Warp.setP (x : Warp) (l i : Nat) (b : Bool) : Warp :=
  { x with lanes := modAt x.lanes l (fun y => { y with p := if b then y.p ||| BitVec.ofNat 8 (2 ^ i) else y.p &&& ~~~(BitVec.ofNat 8 (2 ^ i)) }) }
def Warp.setQ (x : Warp) (i : Nat) (b : Bool) : Warp :=
  { x with q := if b then x.q ||| BitVec.ofNat 8 (2 ^ i) else x.q &&& ~~~(BitVec.ofNat 8 (2 ^ i)) }

/-- The memory effects of loads are done before the other effects of their run (R34). -/
def State.doLoadAct (s : State) (q : Nat) (w : WRef) (a : Act) : State :=
  match a with
  | .tlb l => s.modPart q (fun p => p.tlbFill w.core l)
  | .load ps m loc => s.doLoad q w ps m loc
  | _ => s

/-- One queued effect at the commit (R33); a completion that has landed on a tag since the run start stays set through `tclr` (R245). -/
def State.doAct (s : State) (q : Nat) (w : WRef) (r : Run) (plan : Plan) (a : Act) : State :=
  match a with
  | .v lane e mask val => s.modPart q (fun p => let k := p.core w.core; p.setCore w.core (k.setReg lane e ((k.reg lane e &&& ~~~mask) ||| (val &&& mask))))
  | .s i val => s.modPart q (fun p => p.modWarp w (fun x => { x with s := Sparse.wr x.s i val }))
  | .p l i b => s.modPart q (fun p => p.modWarp w (fun x => x.setP l i b))
  | .q i b => s.modPart q (fun p => p.modWarp w (fun x => x.setQ i b))
  | .lfsr l v => s.modPart q (fun p => p.modWarp w (fun x => { x with lanes := modAt x.lanes l (fun y => { y with lfsr := v }) }))
  | .flags f => s.modPart q (fun p => p.modWarp w (fun x => x.raise f))
  | .tlb _ => s
  | .lost _ => s
  | .load .. => s
  | .store ps m => s.doStore q w plan ps m
  | .stp _ ps m => s.doStore q w plan ps m
  | .rset op d n b0 b1 =>
    let s := s.revise q ((s.part q).payerOf w) n.toNat op b0 b1
    s.modPart q (fun p => p.modWarp w (fun x => x.setS d (BitVec.ofNat 64 (p.rdesc n.toNat).gen)))
  | .unpark l => match l with | .dev pa => (s.drainLine q (pa / 128)).unpark q ((s.part q).payerOf w) (pa / 128) | _ => s
  | .cache op ps m => s.doCache q w plan op ps m
  | .tclr m => s.modPart q (fun p => p.modWarp w (fun x =>
      { x with trdy := x.trdy &&& ~~~(r.trdy0 &&& m &&& ~~~r.done), terr := x.terr &&& ~~~(r.terr0 &&& m &&& ~~~r.done) }))
  | .mxclr m => s.modPart q (fun p => p.modWarp w (fun x => { x with mx := x.mx &&& ~~~m }))
  | .racq d n _ => s.modPart q (fun p => p.doRacq w d n)
  | .rrel d n => s.modPart q (fun p => p.doRrel w d n)
  | .wbase v => s.modPart q (fun p => p.modWarp w (fun x => { x with wb := v }))
  | .tlbi all va => (s.drainAll q).modPart q (fun p => p.doTlbi w all va)
  | .bswap d a b => s.doBswap q w d a b
  | .bresume d a b => s.doBresume q w d a b

/-! ### Atomics (R227-R229) -/

/-- Bytes of an atomic's operand. -/
def AtomOp.size (op : AtomOp) : Nat := match op with | .add64 => 8 | .cas64 => 8 | _ => 4

/-- The FP32 sum under RNE, without flags. -/
def atomF32 (a b : Nat) : Nat := (addF32 (BitVec.ofNat 32 a) (BitVec.ofNat 32 b)).1.toNat
/-- The BF16 sum under RNE. -/
def atomBf16 (a b : Nat) : Nat := (bf16.near ((bf16.decode a).add (bf16.decode b) 0).1).1

/-- The new value, or nothing where the operation writes none (R228): `v` is the operand, `y` the compare value. -/
def AtomOp.new (op : AtomOp) (old v y : Nat) : Option Nat :=
  match op with
  | .add => some ((old + v) % 2 ^ 32)
  | .min => some (if sxt 32 v < sxt 32 old then v else old)
  | .max => some (if sxt 32 old < sxt 32 v then v else old)
  | .umin => some (Nat.min old v)
  | .umax => some (Nat.max old v)
  | .and => some (old &&& v)
  | .or => some (old ||| v)
  | .xor => some (old ^^^ v)
  | .xchg => some v
  | .cas => if old = y then some v else none
  | .fadd => some (atomF32 old v)
  | .bfadd2 => some (atomBf16 (old % 2 ^ 16) (v % 2 ^ 16) + atomBf16 (old / 2 ^ 16) (v / 2 ^ 16) * 2 ^ 16)
  | .inc => some (if v ≤ old then 0 else old + 1)
  | .add64 => some ((old + v) % 2 ^ 64)
  | .cas64 => if old = y then some v else none

/-- One lane's read-modify-write at the home slice, the park level or the scratchpad (R227): the old value goes to D, a code of the run-start window `x0`
(R49, R106); cached copies of what it writes go (R191). -/
def State.atomPiece (s : State) (q : Nat) (w : WRef) (x0 : Warp) (op : AtomOp) (d : Reg) (x : Piece) (v y : Nat) : State :=
  let n := op.size
  let pay := (s.part q).payerOf w
  let s := match x.loc, x.leaf with
    | .dev pa, some l =>
      let s := match (s.part q).parked pa with
        | some k => if (s.part q).judge k w.core l.park = Judge.serve then s.restale q pay (pa / 128) else s
        | none => s
      s.modPart q (fun p => p.setCore w.core ((p.core w.core).l1DropSector false (pa / 32)))
    | _, _ => s
  let old := leNat (s.rdLocL q w.core true x.loc n)
  let s := match op.new old v y with
    | some z => ((s.lagging q pathLS none x.loc (leBytes n z)).wrLocL q w.core x.loc (leBytes n z)).dropCopies q pay none x.loc n
    | none => s
  if d.toNat < 96 then
    s.modPart q (fun p => p.setCore w.core ((List.range (n / 4)).foldl (fun (k : Core) i =>
      k.setReg (x0.base + x.lane) (x0.entry (d.toNat + i)) (BitVec.ofNat 32 (old / 2 ^ (32 * i)))) (p.core w.core)))
  else s

/-- The operand of a lane. -/
def laneVal (l : List (Nat × W64)) (i : Nat) : Nat := ((l.find? (fun x => x.1 == i)).map (fun x => x.2.toNat)).getD 0

/-- `atom` at its commit (R227); `x0` is the warp at the run start. A release closes the warp's region with its own access in it (R301). -/
def State.doAtom (s : State) (q : Nat) (w : WRef) (x0 : Warp) (op : AtomOp) (d : Reg) (ps : List Piece) (x y : List (Nat × W64)) (m : MAttr) : State :=
  let s := if s.misses q w.core ps then s.modPart q (fun p => p.locmiss 1) else s
  let s := ps.foldl (fun s z => s.atomPiece q w x0 op d z (laneVal x z.lane) (laneVal y z.lane)) s
  let s := if m.order.isAcq then s.modPart q (fun p => p.acquirePoint w.core m.scope) else s
  let s := match (s.part q).ctx w with
    | some c => s.raceCommit q c ps true true
    | none => s
  if m.order.isRel then s.modPart q (fun p => p.closeRegion w m.scope) else s

/-! ### The run-terminal operation (R38) -/

/-- Items end on lanes (R96, R99). -/
def Warp.exitLanes (x : Warp) (m : Mask) (refill : Bool) : Warp :=
  { x with lanes := (List.range x.lanes.length).map (fun i =>
      let l := x.lanes.getD i ⟨.drained, 0, 0, 0⟩
      if m.getLsbD i then { l with st := if refill then .vacant else .drained } else l) }

/-- `refill` (R101): vacant lanes draw, ascending; p6 marks those that drew; a warp whose lanes are all drained retires. M holds every lane afterwards (R121). -/
def State.doRefill (s : State) (q : Nat) (w : WRef) : State :=
  match (s.part q).ctx w with
  | none => s
  | some c =>
    let s := (List.range c.x.width).foldl (fun s l =>
      match c.x.lanes[l]? with
      | some y => if y.st = .vacant then s.drawLane q c.grid.seq (cluOf w.core) w l
        else s.modPart q (fun p => p.modWarp w (fun x => x.setP l 6 false))
      | none => s) s
    s.modPart q (fun p => (p.modWarp w (fun x =>
      let x := { x with m := fullMask x.width }
      if x.lanes.all (fun l => decide (l.st = .drained)) then x.retires else x)).checkTrigger c.grid.seq)

/-- How many lanes are in a state. -/
def Warp.laneCount (x : Warp) (st : LaneSt) : Nat := (x.lanes.filter (fun l => decide (l.st = st))).length

/-- `iqry`'s report (R102). -/
def Ctx.items (c : Ctx) : W64 :=
  BitVec.ofNat 64 (c.x.laneCount .live + c.x.laneCount .vacant * 2 ^ 8 + c.x.laneCount .drained * 2 ^ 16 + b2n c.grid.exhausted * 2 ^ 24 +
    (c.grid.range (cluOf c.w.core)).size * 2 ^ 32)

/-- `join` (R128): `a` is its address. A reload that fails leaves the warp without a path, and its run aborts (R122). -/
def State.doJoin (s : State) (q : Nat) (w : WRef) (a : W64) : State :=
  match (s.part q).warp w with
  | none => s
  | some x =>
    match x.stack with
    | [] => s
    | r :: _ =>
      let r := if !r.brxv && !r.jv then { r with jpc := a, jv := true } else r
      let p := r.pmask &&& x.live
      if p ≠ 0 then
        let x := { x.setTop r with m := p, pc := r.tpc }
        s.modPart q (fun y => y.setWarp w (if r.brxv then { x with resuming := true } else x.setTop { r with pmask := 0 }))
      else if (((s.part q).ctx w).bind (s.popFail q)).isSome then s.modPart q (fun y => y.modWarp w (fun x => { x with m := 0 }))
      else
        (s.pop q w).modPart q (fun y => y.modWarp w (fun x => { x with m := r.rmask &&& x.live, pc := a + 4 }))

/-- `brxv` (R131): `a` is its own address, `g` the lanes of the lowest index, `t` their target and `j` the join's address. -/
def State.doBrxv (s : State) (q : Nat) (w : WRef) (a : W64) (g : Mask) (t j : W64) : State :=
  match (s.part q).warp w with
  | none => s
  | some x =>
    let act := x.path
    let s := if x.resuming then
        s.modPart q (fun p => p.setWarp w (match x.stack with
          | r :: _ => { x.setTop { r with pmask := act &&& ~~~g } with resuming := false }
          | [] => { x with resuming := false }))
      else s.push q w ⟨true, act, act &&& ~~~g, a, true, j⟩
    s.modPart q (fun p => p.modWarp w (fun x => { x with m := g, pc := t }))

/-- `loop` (R134): `a` is its address. -/
def Warp.doLoop (x : Warp) (a : W64) (n : W32) (e : Nat) : Warp :=
  if n = 0 then { x with pc := a + 4 + BitVec.ofNat 64 (4 * e) }
  else { x.setLc x.levels.length n with levels := ⟨a + 4, a + BitVec.ofNat 64 (4 * e), x.rd⟩ :: x.levels, pc := a + 4 }

/-- Update the issuing warp. -/
def State.modW (s : State) (q : Nat) (w : WRef) (f : Warp → Warp) : State := s.modPart q (fun p => p.modWarp w f)

/-- Perform a run-terminal operation (R38); the warp's pc stands at the word after the run, `x0` and `k0` are the warp and its core as they stood before the run's
effects. `trap` and the loop test come later. -/
def State.doTerm (s : State) (q : Nat) (w : WRef) (r : Run) (x0 : Warp) (k0 : Core) : State :=
  let a := r.next - 4
  match r.term with
  | .none => s
  | .nop => s
  | .atom op d ps x y m => s.doAtom q w x0 op d ps x y m
  | .lock op d line a b => s.lockOp q w op d line a b
  | .nb wait id c => s.modPart q (fun p => p.arriveBar w wait id c)
  | .gb c => s.modPart q (fun p => p.arriveGang w c)
  | .abinit l e => s.setAb q l (AbObj.init e)
  | .abarv d l glob b => s.abArrive q w d l glob b
  | .abwait l glob tok =>
    if tokenDone (s.abObj q l).phase tok then s.modPart q (fun p => p.acquirePoint w.core (abScope glob))
    else s.modW q w (fun x => { x with wait := .abwait l glob tok })
  | .abtest d l glob tok => s.abTest q w d l glob tok
  | .fence k sc f t => s.modPart q (fun p => p.doFence w k sc f t)
  | .copy tag k => s.modPart q (fun p => match p.ctx w with
    | none => p
    | some c =>
      let u := p.core w.core
      (p.setCore w.core { u with copyQ := u.copyQ ++ [newCmd c tag k] }).setWarp w (c.x.clearTag tag).ifcUp)
  | .mma z na nb d i sc tile act => s.modPart q (fun p => match p.ctx w with | none => p | some c => p.startMma c k0 z na nb d i sc tile act)
  | .jump t => s.modW q w (fun x => { x.leave t with pc := t })
  | .call t => s.modW q w (fun x => { x with s := Sparse.wr x.s 23 r.next, pc := t })
  | .brv t taken => match (s.part q).warp w with
    | none => s
    | some x => (s.push q w ⟨false, x.path, taken, t, false, 0⟩).modW q w (fun x => { x with m := x.path &&& ~~~taken })
  | .join => s.doJoin q w a
  | .brxv g t j => s.doBrxv q w a g t j
  | .loop n e => s.modW q w (fun x => x.doLoop a n e)
  | .split d v => match (s.part q).ctx w with
    | none => s
    | some c => match s.doSplit q c d v a with
      | .ok s => s
      | .error _ => s
  | .fuse d v b => s.arriveFuse q w d v b a
  | .yield => s.modW q w (fun x => { x with last := s.now })
  | .sleep n => s.modW q w (fun x => { x with wait := if n = 0 then .none else .sleep (s.now + 2 * n) })
  | .exit m => s.modPart q (fun p => match p.ctx w with | none => p | some c => p.setWarp w (c.x.exitLanes m (c.grid.k.refill != 0)))
  | .exitw => s.modW q w (fun x => ({ x with lanes := x.lanes.map (fun l => { l with st := .drained }) } : Warp).retires)
  | .refill => s.doRefill q w
  | .iqry d => s.modPart q (fun p => match p.ctx w with | none => p | some c => p.setWarp w (c.x.setS d c.items))
  | .launch d v bytes => let z := s.launch q w v bytes; z.1.modW q w (fun x => x.setS d (BitVec.ofNat 64 z.2))
  | .lwait d e v => s.modPart q (fun p => match p.warp w with | none => p | some x => let x := { x with wait := .lwait d e v }; (p.setWarp w x).endLwait w x)
  | .trig => s.modPart q (fun p => match p.ctx w with
    | none => p
    | some c =>
      if c.x.triggered then p
      else (((p.closeRegion w .sys).coverAll w).modWarp w (fun x => { x with triggered := true })).checkTrigger c.grid.seq)
  | .trap _ => s
  | .eret => s.modW q w Warp.eret
  | .csr op n v => s.csrWrite q w op n v
  | .coll d h x b => s.arriveColl q w d h x b
  | .cinit d h desc ranks => let z := s.doCinit q h desc ranks; z.1.modW q w (fun x => x.setS d (BitVec.ofNat 64 z.2))
  | .cqry d h => s.modW q w (fun x => x.setS d (((s.part q).handle h).report w.core))

/-! ### Loops at the end of a run (R134, R135) -/

/-- Where a taken transfer of the run goes. -/
def Run.transfer (r : Run) (x : Warp) : Option W64 :=
  match r.term with
  | .jump t => some t
  | .call t => some t
  | .brxv _ t _ => some t
  | .loop n e => if n = 0 then some (r.next + BitVec.ofNat 64 (4 * e)) else none
  | .join => match x.stack with
    | t :: _ => if t.pmask &&& x.live ≠ 0 then some t.tpc else none
    | [] => none
  | _ => none

/-- The record count that a run would leave at its commit. -/
def Run.rdAfter (r : Run) (x : Warp) : Nat :=
  match r.term with
  | .brv .. => x.rd + 1
  | .brxv .. => if x.resuming then x.rd else x.rd + 1
  | .join => match x.stack with
    | t :: _ => if t.pmask &&& x.live ≠ 0 then x.rd else x.rd - 1
    | [] => x.rd
  | _ => x.rd

/-- No body-end test: in a handler (R314), in a run without effect (R121), or after a taken transfer that left the innermost body (R134). -/
def Run.noLoop (r : Run) (x : Warp) : Bool :=
  x.trap.inh || x.refillRun || (match x.levels, r.transfer x with
    | l :: _, some t => !l.inside t
    | _, _ => false)

/-- The last word's address: a prefix and its instruction are one word, whose end is `next`. -/
def Run.last (r : Run) : W64 := r.next - 4

/-- Step 2 of R134: OPERAND in the park. -/
def Run.loopCond (r : Run) (x : Warp) (gridPrio pos : Nat) (detail : W64) : Option Cond :=
  let y := match r.term with | .csr op n v => x.csrSet gridPrio n op v | _ => x
  if !r.noLoop x && loopBad y r.last (r.rdAfter x) x.levels then some ⟨pos, .operand, x.path, 0, .read, 0, detail⟩ else none

/-! ### What holds a park (R87, R101, R105, R212, R234, R244, R248, R249, R319, R327) -/

/-- A queued effect does not hold the park. -/
def Part.actReady (p : Part) (w : WRef) (x : Warp) (cap since : Nat) (a : Act) : Bool :=
  match a with
  | .racq .. => !p.racqHolds w x cap since a
  | .rrel .. => x.ifc == 0
  | .bresume _ t b =>
    if bits b.toNat 1 0 = 1 then
      match targetOf t with
      | some t => (match p.warp t with | some y => (match y.wait with | .fault .. => p.faultPosted t | _ => true) | none => true)
      | none => true
    else true
  | _ => true

/-- The most operations in flight that a warp's IFC counts (R234). -/
def ifcMax : Nat := 4096

/-- The run-terminal operation does not hold the park. -/
def Part.termReady (p : Part) (c : Ctx) (t : Term) : Bool :=
  match t with
  | .copy .. => decide ((p.core c.w.core).copyQ.length < 16) && decide (c.x.ifc < ifcMax)
  | .mma .. => decide (c.x.ifc < ifcMax) && c.x.strips.all (fun st => decide ((p.core c.w.core).placesOf st < 4))
  | .refill => !(c.x.lanes.any (fun l => decide (l.st = .vacant)) && (c.grid.range (cluOf c.w.core)).size == 0 && (c.grid.donor (cluOf c.w.core)).isSome)
  | .coll _ h a b => !p.collHeld c.w h a b
  | _ => true

/-- The run may commit. -/
def Part.runReady (p : Part) (c : Ctx) (r : Run) : Bool :=
  r.waits.all (p.waitOver c.x) && r.acts.all (p.actReady c.w c.x (regCap c.grid.k) r.since) && p.termReady c r.term

/-! ### Abort and commit (R37, R33, R311, R316) -/

/-- A run aborts on its first condition; an uncorrectable sector is logged with its physical address (R208). -/
def State.abort (s : State) (q : Nat) (c : Ctx) (r : Run) (k : Cond) : State :=
  let s := if k.cause = .memue then s.logUe q k.detail.toNat else s
  s.modPart q (fun p => (p.takeCond c k r.start s.now).swapStops s.now)

/-- `trap` after its run has committed (R311, R329): the handler is entered, with TEPC where the warp would have gone on. -/
def State.afterTrap (s : State) (q : Nat) (w : WRef) (r : Run) : State :=
  match r.term, (s.part q).ctx w with
  | .trap a, some c => s.modPart q (fun p => p.userTrap c ⟨r.words, .trap, c.x.path, 0, .read, a, 0⟩ c.x.pc s.now)
  | _, _ => s

/-- After a commit and before the next run: the trap, R96 or the unwind, and swaps (R311, R96, R124, R321). -/
def State.afterCommit (s : State) (q : Nat) (w : WRef) (r : Run) : State :=
  let s := (s.afterTrap q w r).settleWarp q w
  (s.modPart q (fun p => (p.boundaryStop w r.safept s.now).swapStops s.now)).wakeAb q

/-- The parked stores of a run are performed with its commit, where it releases or ends in an operation that may order or see them (R197, R290). -/
def Run.settles (r : Run) : Bool :=
  r.acts.any (fun a => match a with | .store _ m => m.order.isRel | .stp _ _ m => m.order.isRel | _ => false) ||
    (match r.term with
     | .none => false | .nop => false | .jump _ => false | .call _ => false | .brv .. => false | .join => false | .brxv .. => false | .loop .. => false
     | _ => true)

/-- A `tlbi`, which is done after the other effects of its run. -/
def Act.isTlbi (a : Act) : Bool := match a with | .tlbi .. => true | _ => false

/-- The queued effects of a run: those of its loads on caches, then the others in program order (R33-R35). -/
def State.doActs (s : State) (q : Nat) (c : Ctx) (r : Run) : State :=
  let plan := (s.part q).plan c r.acts
  let s := r.acts.foldl (fun s a => s.doLoadAct q c.w a) s
  let s := (r.acts.filter (fun a => !a.isTlbi)).foldl (fun s a => s.doAct q c.w r plan a) s
  let s := if r.settles then s.drainAll q else s
  (r.acts.filter Act.isTlbi).foldl (fun s a => s.doAct q c.w r plan a) s

/-- The loop test of R134; that of a run whose `split` waits comes when its wait is over (log 64). -/
def State.loopTest (s : State) (q : Nat) (c : Ctx) (r : Run) : State :=
  if r.noLoop c.x || (match r.term with | .split _ v => c.x.splitWaits v | _ => false) then s else s.modW q c.w (fun x => x.loopEnd r.last 4)

/-- The loop test, and the run-terminal operation: `split` and `fuse` take the warp as the loop test leaves it (R109, R110). -/
def State.endRun (s : State) (q : Nat) (c : Ctx) (r : Run) (k0 : Core) : State :=
  match r.term with
  | .split .. => (s.loopTest q c r).doTerm q c.w r c.x k0
  | .fuse .. => (s.loopTest q c r).doTerm q c.w r c.x k0
  | _ => (s.doTerm q c.w r c.x k0).loopTest q c r

/-- The access to a spill area that fails in a run's own operation, after its queued effects: the write of a push, or an access of a `split` (R122, R131). -/
def State.commitFail (s : State) (q : Nat) (c : Ctx) (r : Run) : Option CopyFail :=
  let push : Option CopyFail := match (s.part q).ctx c.w with
    | some y => (s.pushFail q y).map (spillFail y.grid.k y.w y.x.width y.x.spilled .write)
    | none => none
  match r.term with
  | .brv .. => push
  | .brxv .. => if c.x.resuming then none else push
  | .split d v => match ((s.loopTest q c r).part q).ctx c.w with
    | some y => match (s.loopTest q c r).doSplit q y d v (r.next - 4) with
      | .error f => some f
      | .ok _ => none
    | none => none
  | _ => none

/-- Bytes that a later write of the run overwrites are never seen (R217): of the values that a run's stores have replaced at a place, only the first, which stood there
before the run, may still be read on another path. `before` are the entries that the commit found. -/
def Part.lagOnce (p : Part) (before : List Lag) : Part :=
  let known (x : Lag) : Bool := before.any (fun y => y.loc == x.loc && y.old == x.old && y.by_ == x.by_ && y.cmd == x.cmd)
  if p.lag = before then p
  else { p with lag := p.lag.foldl (fun (l : List Lag) x => if !known x && l.any (fun y => y.loc == x.loc && y.by_ == x.by_ && !known y) then l else l ++ [x]) [] }

/-- A run commits (R33, R35): its queued effects, then its run-terminal operation, then what follows a run. A spill access that fails then, in a push, in a `split` or in a
pop of what follows the run, aborts the run instead (R122, R37). -/
def State.commit (s : State) (q : Nat) (c : Ctx) (r : Run) : State :=
  let s := s.drainAll q
  let k0 := (s.part q).core c.w.core
  let z := s.doActs q c r
  let z := z.modW q c.w (fun x => { x with run := none, pc := r.next, refillRun := false })
  let fails (f : CopyFail) : State := s.abort q c r (f.cond (r.words - 1) c.x.path)
  match z.commitFail q c r with
  | some f => fails f
  | none =>
    let z := ((z.endRun q c r k0).afterCommit q c.w r).modPart q (fun p => p.lagOnce (s.part q).lag)
    match z.stuckFail q c.w with
    | some f => fails f
    | none => z

/-- A closed run commits if nothing holds its park any more. -/
def State.tryCommit (s : State) (q : Nat) (w : WRef) : State :=
  match (s.part q).ctx w with
  | none => s
  | some c =>
    match c.x.run with
    | none => s
    | some r => if r.closed && (s.part q).runReady c r then s.commit q c r else s

/-! ### Injection (R86-R88) -/

/-- A sector of a load is served by the core itself: by its L1, or by its park area. -/
def State.ownSector (s : State) (q g : Nat) (m : MAttr) (host : Bool) (sector : Nat) : Bool :=
  if !host && ((s.part q).parkedIn g).any (fun d => d.line == sector / 4) then true
  else !m.beyond && (((s.part q).core g).l1Find host sector).isSome

/-- An atomic's request: its bytes go there and its old values come back. -/
def rmwReq (n : Nat) : Nat × Nat × Nat := (n, dataFlits n, dataFlits n)

/-- A request without data, to a home slice if it is for an address of device memory. -/
def plainReq (l : Loc) (g : Nat) : List Req :=
  match l with
  | .dev pa => [⟨some pa, (0, 64, 64)⟩]
  | .host _ => [⟨none, (0, 64, 64)⟩]
  | .scratch c _ => if c = g then [] else [⟨none, (0, 64, 64)⟩]

/-- The spill accesses of a run's own push or pop, as pieces, and whether they write (R122): a push with 16 records on chip, or a pop of the last one there. -/
def State.spillPieces (s : State) (q : Nat) (c : Ctx) (r : Run) : List Piece × Bool :=
  let pieces (need : Need) (i : Nat) : List Piece := match s.spillPlaces q c c.w need (spillIdx c.x.width i) with
    | .ok ls => (ls.zip (spillIdx c.x.width i)).map (fun l => ⟨0, spillAddr c.grid.k c.w l.2, l.1, none, List.replicate 16 0⟩)
    | .error _ => []
  let push : List Piece := if c.x.stack.length < 16 then [] else pieces ⟨false, true, false⟩ c.x.spilled
  match r.term with
  | .brv .. => (push, true)
  | .brxv .. => (if c.x.resuming then [] else push, true)
  | .join => match c.x.stack with
    | [t] => (if t.pmask &&& c.x.live = 0 ∧ 0 < c.x.spilled then pieces ⟨true, false, false⟩ (c.x.spilled - 1) else [], false)
    | _ => ([], false)
  | _ => ([], false)

/-- The requests of a run that leave its core, in program order (R87): loads that the core does not serve itself, stores, atomics, reader sets, cache and lock words, what
reaches another core's scratchpad, and spilled records. A load that its cluster's cache serves goes to no home slice. -/
def State.requests (s : State) (q : Nat) (c : Ctx) (r : Run) : List Req :=
  let g := c.w.core
  let near (pa : Nat) (secs : List (Bool × Nat)) : Bool := secs.all (fun x => x.1 || x.2 / 4 != pa / 128 || (((s.part q).clu (cluOf g)).copy false (x.2 * 32)).isSome)
  let read (ps : List Piece) (secs : List (Bool × Nat)) (m : MAttr) : List Req :=
    let secs := secs.filter (fun x => !s.ownSector q g m x.1 x.2)
    (reqsOf g ps secs readReq).map (fun x => { x with pa := x.pa.filter (fun pa => !near pa secs) })
  let lines (ps : List Piece) : List (Bool × Nat) := (ps.filterMap (fun x => match x.loc with
    | .scratch .. => none
    | .dev pa => if ((s.part q).parked pa).isSome then none else some (false, pa / 128)
    | .host pa => some (true, pa / 128))).dedup
  r.acts.flatMap (fun a => match a with
    | .load ps m _ => read ps (pieceSectors ps) m
    | .store ps _ => reqsOf g ps (pieceSectors ps) writeReq
    | .stp _ ps _ => reqsOf g ps (pieceSectors ps) writeReq
    | .rset .. => [⟨none, (0, 64, 64)⟩]
    | .unpark l => plainReq l g
    | .cache op ps m =>
      if op ≠ .pref then (lines ps).flatMap (fun x => plainReq (if x.1 then .host (x.2 * 128) else .dev (x.2 * 128)) g)
      else if m.hint = 1 then []
      else read [] ((lines ps).flatMap (fun x => (List.range 4).map (fun i => (x.1, 4 * x.2 + i)))) m
    | _ => []) ++
  (match r.term with
   | .atom _ _ ps _ _ _ => reqsOf g ps (pieceSectors ps) rmwReq
   | .lock _ _ (some l) _ _ => plainReq l g
   | .abinit l _ => plainReq l g
   | .abarv _ l _ _ => plainReq l g
   | .abwait l _ _ => plainReq l g
   | .abtest _ l _ _ => plainReq l g
   | _ => []) ++
  (let z := s.spillPieces q c r
   reqsOf g z.1 (pieceSectors z.1) (if z.2 then writeReq else readReq))

/-- The addresses of the packets of a run that a router drops (R338, R361): those of the page walks that its accesses need, of its tables' words, and of its requests. -/
def State.runBarred (s : State) (q : Nat) (c : Ctx) (r : Run) (rs : List Req) : List Nat :=
  r.acts.flatMap (fun a => match a with
    | .tlb l => s.barredWalk q c.w.core (BitVec.ofNat 64 l.va)
    | .lost pas => pas
    | _ => []) ++
    (s.spillPieces q c r).1.flatMap (fun x => s.barredWalk q c.w.core x.va) ++ rs.filterMap (fun x => x.pa.filter (s.barred q c.w.core))

/-- Requests reach the interface in order (R87): each is reserved if both buckets hold its charge, else unreserved, or waits with those after it in a CAP class. Answers
those that wait. -/
def State.injectAll (s : State) (q g cls : Nat) : List Req → State × List (Nat × Nat × Nat)
  | [] => (s, [])
  | x :: l =>
    let res := ((s.part q).bucket g cls s.now).has x.cost.1 x.cost.2.1
    if !res && (s.part q).capped cls then (s, (x :: l).map (fun y => y.cost))
    else (s.modPart q (fun p => p.injected g cls s.now res (Config.homeHit s.tick l.length) x.cost)).injectAll q g cls l

/-- The requests of a run that wait for tokens. -/
def Run.injecting (r : Run) : List (Nat × Nat × Nat) :=
  (r.waits.findSome? (fun k => match k with | .inject l => some l | _ => none)).getD []

/-- The runs whose requests stand in the interface queue of a class at a core (R87), with their warps. -/
def Part.injectQueue (p : Part) (g cls : Nat) : List (WRef × Run) :=
  (p.warpsOn g).filterMap (fun y => match y.2.run with
    | some r => if r.closed && !r.injecting.isEmpty && p.warpCls y.1 == cls then some (y.1, r) else none
    | none => none)

/-- A run's requests reach the interface (R87): they queue behind those of their class that wait there. -/
def State.inject (s : State) (q : Nat) (c : Ctx) (r : Run) : State × Run :=
  let rs := s.requests q c r
  let bad := s.runBarred q c r rs
  let s := s.logBarred q bad
  let cls := (s.part q).blockCls c.blk
  let z : State × List (Nat × Nat × Nat) :=
    if !(s.part q).reserves cls then (s, [])
    else if ((s.part q).injectQueue c.w.core cls).isEmpty then s.injectAll q c.w.core cls rs
    else (s, rs.map (fun y => y.cost))
  (z.1, { r with waits := r.waits ++ (if bad.isEmpty then [] else [.dropped]) ++ (if z.2.isEmpty then [] else [.inject z.2]) })

/-- The next request of a closed run may be injected (R87): no run of its class that closed earlier waits at the core, and tokens have come or the class is held no
more. -/
def State.injectDue (s : State) (q : Nat) (w : WRef) : Bool :=
  match (s.part q).ctx w with
  | none => false
  | some c => match c.x.run with
    | none => false
    | some r =>
      let cls := (s.part q).blockCls c.blk
      match r.closed, r.injecting with
      | true, x :: _ => ((s.part q).injectQueue w.core cls).all (fun y => decide (r.since ≤ y.2.since)) &&
          (!(s.part q).capped cls || ((s.part q).bucket w.core cls s.now).has x.1 x.2.1)
      | _, _ => false

/-- One waiting request is injected (R87). -/
def State.injectOne (s : State) (q : Nat) (w : WRef) : State :=
  match (s.part q).ctx w with
  | none => s
  | some c => match c.x.run with
    | none => s
    | some r => match r.injecting with
      | [] => s
      | x :: l =>
        let left := r.waits.filter (fun k => match k with | .inject _ => false | _ => true) ++ (if l.isEmpty then [] else [.inject l])
        let cls := (s.part q).blockCls c.blk
        let res := ((s.part q).bucket w.core cls s.now).has x.1 x.2.1
        s.modPart q (fun p => (p.injected w.core cls s.now res (Config.homeHit s.tick l.length) x).setWarp w { c.x with run := some { r with waits := left } })

/-- The bung has issued (R35): the first condition aborts the run; else it commits, or parks until it can. `pos` and `detail` are the last word's position and what
DETAIL gives of it. -/
def State.closeRun (s : State) (q : Nat) (w : WRef) (pos : Nat) (detail : W64) : State :=
  match (s.part q).ctx w with
  | none => s
  | some c =>
    match c.x.run with
    | none => s
    | some r =>
      let k := Cond.first r.cond (Cond.first (r.loopCond c.x c.grid.prio pos detail) (Cond.first (s.lockCond q c r) (s.raceCond q c r)))
      match k with
      | some k => s.abort q c r k
      | none =>
        let z := s.inject q c r
        let s := z.1
        let r := z.2
        if (s.part q).runReady c { r with since := s.now } then s.commit q c r
        else s.modPart q (fun p =>
          let p := p.setWarp w { c.x with run := some { r with closed := true, since := s.now } }
          let p : Part := { p with
            shoot := p.shoot.map (fun x => { x with pend := x.pend.map (fun y => if y == (c.x.uid, r.since) then (y.1, s.now) else y) }) }
          p.swapStops s.now)

end Sys2Proof.Machine
end

