-- ==== Sys2Proof/Machine/Issue.lean ====
section
/-! DEFINITION. The frame that every word runs inside (R31-R38, R54, R55) and the frame of a device step. -/

namespace Sys2Proof.Machine

/-! ### Runs open and go on (R31, R32) -/

/-- A run begins: what other agents may change is kept as it stands (R32). -/
def openRun (x : Warp) (k : Core) (csr : PCsr) (clk now : Nat) (addr : W64) : Run :=
  ⟨addr, 0, [], .none, none, [], false, none, addr, now, x.trdy, x.terr, x.ifc, mxReport k x.mx, x.linh, x.binh, clk, csr, 0⟩

/-- A warp takes a word: it does not wait, no swap has stopped it, its run is not parked, its registers are not interlocked, and its path is not empty but for the run
that R96 begins (R118, R36, R121). -/
def Warp.takes (x : Warp) (r : List Nat × List Nat) : Bool :=
  decide (x.wait = .none) && x.stopped.isNone && (match x.run with | some r => !r.closed | none => true) && !x.interlocked r && (x.path != 0 || x.refillRun)

/-- The word whose last word stands at `last` reaches beyond the body's last word in a run that began inside the innermost body (R133). -/
def Warp.beyond (x : Warp) (start last : W64) : Bool :=
  match x.levels with
  | l :: _ => !x.trap.inh && l.inside start && decide (l.stop.toNat < last.toNat)
  | [] => false

/-- REGBOUND's DETAIL (R317): the register's physical number and N. -/
def boundDetail (p n : Nat) : W64 := BitVec.ofNat 64 (p % 512 + n % 512 * 2 ^ 16)

/-- A word as the frame evaluates it: RUNLEN (R31), the body's end (R133), REGBOUND (R49), no effect in the run of R96 (R121), else its own meaning. -/
def Env.eval (e : Env) (regs : List Nat × List Nat) (always : Bool) (f : Env → Word) : Word :=
  if 32 < e.run.words + e.iss.len / 4 then { Word.ofCond (e.cond .runlen 0 0) with fatal := true }
  else if e.c.x.beyond e.run.start (e.iss.addr + BitVec.ofNat 64 (e.iss.len - 4)) then e.illegal
  else if e.c.x.refillRun && !always then Word.nil
  else match regBound e.c.x.n regs with
    | some p => .ofCond (e.cond .regbound 0 (boundDetail p e.c.x.n))
    | none => f e

/-- The run with one more word. -/
def Run.add (r : Run) (i : Issue) (w : Word) : Run :=
  { r with
    words := r.words + i.len / 4
    acts := r.acts ++ w.acts
    term := match w.term with | .none => r.term | t => t
    cond := Cond.first r.cond w.cond
    waits := r.waits ++ w.waits
    safept := match w.safept with | some m => some m | none => r.safept
    next := i.addr + BitVec.ofNat 64 i.len }

/-- One word of a warp (R55): a word that cannot issue yet changes nothing. -/
def State.issueWord (s : State) (iss : Issue) (c : Ctx) (regs : List Nat × List Nat) (always : Bool) (f : State → Env → Word) : State :=
  if !c.x.takes regs then s
  else
    let s := match c.x.run with | some _ => s | none => s.drainAll iss.q
    let r := match c.x.run with | some r => r | none => openRun c.x ((s.part iss.q).core c.w.core) (s.part iss.q).csr (s.clkc iss.q) s.now iss.addr
    let e : Env := ⟨iss.q, c, iss, r, (s.part iss.q).core c.w.core, c.x.active (Pfx.guard iss.pfx), (s.part iss.q).isSup c.grid⟩
    let w := e.eval regs always (f s)
    let s := s.modPart iss.q (fun p => p.setWarp c.w { c.x with last := s.now, run := some (r.add iss w) })
    if w.fatal || iss.bung then s.closeRun iss.q c.w r.words iss.detail else s

/-- The frame of a word's meaning. -/
def withWord (s : State) (i : Instr) (f : State → Env → Word) : Result :=
  match s.cur with
  | none => .fault .noWarp
  | some iss =>
    match (s.part iss.q).ctx iss.w with
    | none => .fault .noWarp
    | some c => .next ({ s with cur := none }.issueWord iss c (physRegs c.x.wb i iss.pfx) (decide (i = Instr.refill)) f)

/-- The frame of a device step: its operands stand in `ev`. -/
def withEvent (s : State) (f : State → Nat → Event → Option State) : Result :=
  match s.ev with
  | none => .fault .noEvent
  | some (q, e) =>
    match f { s with ev := none } q e with
    | none => .fault .noEvent
    | some s => .next s

end Sys2Proof.Machine
end

