-- ==== Sys2Proof/Machine/Memory.lean ====
section
/-! DEFINITION. The memory words: loads, stores, parked stores, reader sets, atomics, the cache group (R210-R230). -/

namespace Sys2Proof.Machine

/-! ### ld (R214, R215) -/

/-- Bytes of a size code. -/
def sizeBytes (z : BitVec 3) : Nat :=
  match z.toNat with
  | 0 => 1
  | 1 => 1
  | 2 => 2
  | 3 => 2
  | 4 => 4
  | 5 => 8
  | 6 => 16
  | _ => 32

/-- The value of a load of up to 8 bytes, extended to 64 bits as its size code says (R214, R215); of size w, for which R214 names only the word, zero-extended in a uniform
register (DESIGN CHOICE, log 66). -/
def loadVal (z : BitVec 3) (bs : List Byte) : W64 :=
  match z.toNat with
  | 1 => BitVec.ofInt 64 (sxt 8 (leNat bs))
  | 3 => BitVec.ofInt 64 (sxt 16 (leNat bs))
  | _ => BitVec.ofNat 64 (leNat bs)

/-- Register `k` of the bytes of a wide load. -/
def wordAt (bs : List Byte) (k : Nat) : W32 := BitVec.ofNat 32 (leNat ((bs.drop (4 * k)).take 4))

/-- A load's writes on a lane. -/
def Env.putLoad (e : Env) (z : BitVec 3) (d : Reg) (l : Nat) (bs : List Byte) : List Act :=
  if z.toNat ≤ 4 then e.putFull d l ((loadVal z bs).setWidth 32)
  else (List.range (vecRegs z)).flatMap (fun k => e.putAt d k l (wordAt bs k))

/-- A uniform load's writes. -/
def putLoadS (z : BitVec 3) (d : Reg) (bs : List Byte) : List Act :=
  if z.toNat ≤ 4 then putS d (loadVal z bs)
  else (List.range (uniRegs z)).flatMap (fun k => putS (d + BitVec.ofNat 7 k) (BitVec.ofNat 64 (leNat ((bs.drop (8 * k)).take 8))))

/-- A load of `n` bytes on some lanes: its condition, or what it leaves behind and its writes; without a lane nothing is accessed (R210). -/
def State.loadWord (s : State) (e : Env) (lanes : List Nat) (addr : Nat → W64) (n align : Nat) (loc : Bool) (put : Nat → List Byte → List Act) : Word :=
  if lanes.isEmpty then .nil
  else
    let r := s.loads e lanes addr n align loc
    (Word.ofActs (tlbActs r.1 ++ [.load r.1 e.mattr loc] ++ lanes.flatMap (fun l => put l (laneBytes r.1 l)))).checked r.2

/-- `ld` with a vector D or a uniform one. -/
def State.ld (s : State) (e : Env) (z : BitVec 3) (i : BitVec 1) (d a b : Reg) : Word :=
  let n := sizeBytes z
  if d.isS then s.loadWord e [0] (e.addr i a b n) n n false (fun _ bs => putLoadS z d bs)
  else s.loadWord e e.lanes (e.addr i a b n) n n false (e.putLoad z d)

def execLd (z : BitVec 3) (i : BitVec 1) (d a b : Reg) (s : State) : Result := withWord s (.ld z i d a b) (fun s e => s.ld e z i d a b)

/-! ### ldf6 and ldloc (R219, R220) -/

/-- The byte containers of a group of FP6 values (R71). -/
def unpack6 (bs : List Byte) : W32 :=
  let v := leNat bs
  BitVec.ofNat 32 (bits v 5 0 + bits v 11 6 * 2 ^ 8 + bits v 17 12 * 2 ^ 16 + bits v 23 18 * 2 ^ 24)

def execLdf6 (d a b : Reg) (s : State) : Result :=
  withWord s (.ldf6 d a b) (fun s e => s.loadWord e e.lanes (e.addr 0 a b 3) 3 1 false (fun l bs => e.putFull d l (unpack6 bs)))

/-- `ldloc` of a size code. -/
def State.ldloc (s : State) (e : Env) (z : BitVec 3) (d a b : Reg) : Word :=
  s.loadWord e e.lanes (e.addr 0 a b (sizeBytes z)) (sizeBytes z) (sizeBytes z) true (e.putLoad z d)

def execLdlocW (d a b : Reg) (s : State) : Result := withWord s (.ldloc_w d a b) (fun s e => s.ldloc e 4 d a b)
def execLdlocD (d a b : Reg) (s : State) : Result := withWord s (.ldloc_d d a b) (fun s e => s.ldloc e 5 d a b)
def execLdlocQ (d a b : Reg) (s : State) : Result := withWord s (.ldloc_q d a b) (fun s e => s.ldloc e 6 d a b)

/-! ### st (R216-R218) -/

/-- The bytes that a lane stores: of a vector group, of z, or of a uniform register. -/
def Env.storeBytes (e : Env) (z : BitVec 3) (d : Reg) (l : Nat) : List Byte :=
  let n := sizeBytes z
  if d.isS then leBytes n (e.srcS d).toNat
  else ((List.range (vecRegs z)).flatMap (fun k => leBytes 4 (e.srcAt d k l).toNat)).take n

/-- A store of a size code at each active lane's address. -/
def State.storeWord (s : State) (e : Env) (z : BitVec 3) (d : Reg) (addr : Nat → W64) (act : List Piece → Act) : Word :=
  let r := s.stores e addr (e.storeBytes z d) (sizeBytes z) ⟨false, true, false⟩ false
  if e.lanes.isEmpty then .nil else (Word.ofActs (tlbActs r.1 ++ [act r.1])).checked (e.failCond .write r.2)

def execSt (z : BitVec 3) (i : BitVec 1) (d a b : Reg) (s : State) : Result :=
  withWord s (.st z i d a b) (fun s e => s.storeWord e z d (e.addr i a b (sizeBytes z)) (fun ps => .store ps e.mattr))

/-! ### stp (R221) -/

/-- A reader-set entry as the run's earlier words leave it (R221, R222, R224). -/
def State.rdescAfter (s : State) (e : Env) (rsid : Nat) : RDesc := (s.part e.q).entryAfter e.run.acts rsid

/-- An address translates to a global page with PARK ≠ 0 that is no HOST page. -/
def State.parkPage (s : State) (e : Env) (va : W64) : Bool :=
  match regionOf va with
  | .global => match s.translate e.q e.c.w.core va.toNat with
    | .ok l => l.park != 0 && !l.host
    | .error _ => false
  | _ => false

/-- `stp`: the store's checks, and the descriptor's where a lane reaches a page that parks. -/
def State.stpWord (s : State) (e : Env) (z : BitVec 3) (d a b : Reg) : Word :=
  let rsid := (e.srcS b).toNat % 1024
  let w := s.storeWord e z d (e.base a) (fun ps => .stp rsid ps e.mattr)
  if (s.part e.q).csr.rsEn && e.lanes.any (fun l => s.parkPage e (e.base a l)) && !(s.rdescAfter e rsid).ok (s.nclu e.q) then
    { e.operand with cond := Cond.first e.operand.cond w.cond }
  else w

def execStp (z : BitVec 3) (d a b : Reg) (s : State) : Result := withWord s (.stp z d a b) (fun s e => s.stpWord e z d a b)

/-! ### Reader sets (R222-R226) -/

/-- A revision of an entry: `b0` and `b1` are its image or its readers. -/
def State.rsetWord (s : State) (e : Env) (op : RsOp) (d a : Reg) (b0 b1 : W64) : Word :=
  let rsid := (e.srcS a).toNat
  let old := s.rdescAfter e rsid
  if !(s.part e.q).csr.rsEn || decide (1023 < rsid) || !old.reviseOk op b0 b1 (s.nclu e.q) then e.operand
  else .ofActs [.rset op d (e.srcS a) b0 b1]

/-- `rsdef` (R223): INIT is for the supervisor. -/
def State.rsdef (s : State) (e : Env) (d a b : Reg) : Word :=
  if (e.srcS1 b).getLsbD 48 && !e.sup then e.priv 0 else s.rsetWord e .define d a (e.srcS b) (e.srcS1 b)

def execRsdef (d a b : Reg) (s : State) : Result := withWord s (.rsdef d a b) (fun s e => s.rsdef e d a b)
def execRsadd (d a b : Reg) (s : State) : Result := withWord s (.rsadd d a b) (fun s e => s.rsetWord e .add d a (e.srcS b) 0)
def execRsdel (d a b : Reg) (s : State) : Result := withWord s (.rsdel d a b) (fun s e => s.rsetWord e .del d a (e.srcS b) 0)

/-- A uniform word's access of one byte (R210): its place and page, or its condition. -/
def State.uniAccess (s : State) (e : Env) (va : W64) (acc : Acc) (need : Need) : Except Cond (Loc × Option Leaf) :=
  match s.resolve e.q e.c.blk va 1 need with
  | .ok x => .ok x
  | .error f => .error (e.condOn f.cause e.c.x.path va acc 0 f.detail)

/-- The replicas of a KIND 2 line. -/
def State.replicaMask (s : State) (q pa : Nat) : W64 :=
  match (s.part q).parked pa with
  | some d => BitVec.ofNat 64 ((d.replicas.map (fun c => 2 ^ c)).foldl (· + ·) 0)
  | none => 0

/-- `rsqry` (R225). A scratchpad address reports without an access, so no bound of an allocation is checked (DEDUCED, log 23). -/
def State.rsqry (s : State) (e : Env) (d a b : Reg) : Word :=
  let v := e.srcS a
  let mode := (e.srcS b).toNat
  if !(s.part e.q).csr.rsEn || decide (3 < mode) || ((mode == 1 || mode == 2) && decide (1023 < v.toNat)) then e.operand
  else if mode = 1 then .ofActs (putS d ((s.part e.q).rdesc v.toNat).lo)
  else if mode = 2 then .ofActs (putS d ((s.part e.q).rdesc v.toNat).hi)
  else if decide (regionOf v = .loc ∨ regionOf v = .cluster) then .ofActs (putS d (if mode = 0 then 3 else 0))
  else match s.uniAccess e v .read ⟨true, false, false⟩ with
    | .error c => .ofCond c
    | .ok (l, f) =>
      let r : W64 := match l with
        | .dev pa => if mode = 0 then s.lineReport e.q pa else s.replicaMask e.q pa
        | _ => if mode = 0 then 3 else 0
      .ofActs (f.toList.map Act.tlb ++ putS d r)

def execRsqry (d a b : Reg) (s : State) : Result := withWord s (.rsqry d a b) (fun s e => s.rsqry e d a b)

/-- `unpark` (R226). -/
def State.unparkWord (s : State) (e : Env) (a : Reg) : Word :=
  if !(s.part e.q).csr.rsEn then e.operand
  else match s.uniAccess e (e.srcS a) .write ⟨false, true, false⟩ with
    | .error c => .ofCond c
    | .ok (l, f) => .ofActs (f.toList.map Act.tlb ++ [.unpark l])

def execUnpark (a : Reg) (s : State) : Result := withWord s (.unpark a) (fun s e => s.unparkWord e a)

/-! ### atom (R227-R229) -/

/-- A lane's operand from register `k` of its D group on, of `n` bytes. -/
def Env.atomVal (e : Env) (d : Reg) (k n l : Nat) : W64 :=
  if n = 8 then e.srcAt d (k + 1) l ++ e.srcAt d k l else (e.srcAt d k l).setWidth 64

/-- `atom`: the checks of its accesses, HOST pages among them, and the operands at run start. -/
def State.atomWord (s : State) (e : Env) (op : AtomOp) (d a b : Reg) : Word :=
  let n := op.size
  let need : Need := ⟨true, true, false⟩
  let r := s.stores e (e.addr 0 a b n) (fun _ => List.replicate n 0) n need true
  let host := r.1.flatMap (fun x => match x.loc with
    | .host _ => let f := protFail need x.leaf; [(⟨x.lane, f.cause, x.va, 0, f.detail⟩ : LFail)]
    | _ => [])
  if e.lanes.isEmpty then .nil
  else
    let w : Word := { Word.ofActs (tlbActs r.1) with
      term := .atom op d r.1 (e.lanes.map (fun l => (l, e.atomVal d 0 n l))) (e.lanes.map (fun l => (l, e.atomVal d (n / 4) n l))) e.mattr }
    w.checked (e.failCond .rmw (r.2 ++ host ++ r.1.flatMap (s.locateFail e)))

def execAtomAdd (d a b : Reg) (s : State) : Result := withWord s (.atom_add d a b) (fun s e => s.atomWord e .add d a b)
def execAtomMin (d a b : Reg) (s : State) : Result := withWord s (.atom_min d a b) (fun s e => s.atomWord e .min d a b)
def execAtomMax (d a b : Reg) (s : State) : Result := withWord s (.atom_max d a b) (fun s e => s.atomWord e .max d a b)
def execAtomUmin (d a b : Reg) (s : State) : Result := withWord s (.atom_umin d a b) (fun s e => s.atomWord e .umin d a b)
def execAtomUmax (d a b : Reg) (s : State) : Result := withWord s (.atom_umax d a b) (fun s e => s.atomWord e .umax d a b)
def execAtomAnd (d a b : Reg) (s : State) : Result := withWord s (.atom_and d a b) (fun s e => s.atomWord e .and d a b)
def execAtomOr (d a b : Reg) (s : State) : Result := withWord s (.atom_or d a b) (fun s e => s.atomWord e .or d a b)
def execAtomXor (d a b : Reg) (s : State) : Result := withWord s (.atom_xor d a b) (fun s e => s.atomWord e .xor d a b)
def execAtomXchg (d a b : Reg) (s : State) : Result := withWord s (.atom_xchg d a b) (fun s e => s.atomWord e .xchg d a b)
def execAtomCas (d a b : Reg) (s : State) : Result := withWord s (.atom_cas d a b) (fun s e => s.atomWord e .cas d a b)
def execAtomFadd (d a b : Reg) (s : State) : Result := withWord s (.atom_fadd d a b) (fun s e => s.atomWord e .fadd d a b)
def execAtomBfadd2 (d a b : Reg) (s : State) : Result := withWord s (.atom_bfadd2 d a b) (fun s e => s.atomWord e .bfadd2 d a b)
def execAtomInc (d a b : Reg) (s : State) : Result := withWord s (.atom_inc d a b) (fun s e => s.atomWord e .inc d a b)
def execAtomAdd64 (d a b : Reg) (s : State) : Result := withWord s (.atom_add64 d a b) (fun s e => s.atomWord e .add64 d a b)
def execAtomCas64 (d a b : Reg) (s : State) : Result := withWord s (.atom_cas64 d a b) (fun s e => s.atomWord e .cas64 d a b)

/-! ### pref, cwb and cinv (R230) -/

/-- A word of the CACHE group: `pref` drops a lane that fails, the others raise its condition. -/
def State.cacheWord (s : State) (e : Env) (op : CacheOp) (a b : Reg) : Word :=
  let need : Need := if op = .pref then ⟨true, false, false⟩ else ⟨false, true, false⟩
  let tried := e.lanes.map (fun l => s.access e l (e.addr 0 a b 1 l) 1 1 need)
  let ps := tried.filterMap (fun t => t.2)
  match if op = .pref then none else e.failCond .write (tried.flatMap (fun t => t.1)) with
  | some c => .ofCond c
  | none => if ps.isEmpty then .nil else .ofActs (tlbActs ps ++ [.cache op ps e.mattr])

def execPref (a b : Reg) (s : State) : Result := withWord s (.pref a b) (fun s e => s.cacheWord e .pref a b)
def execCwb (a b : Reg) (s : State) : Result := withWord s (.cwb a b) (fun s e => s.cacheWord e .cwb a b)
def execCinv (a b : Reg) (s : State) : Result := withWord s (.cinv a b) (fun s e => s.cacheWord e .cinv a b)

end Sys2Proof.Machine
end

