-- ==== Sys2Proof/Machine/SyncWords.lean ====
section
/-! DEFINITION. The synchronising words: barriers, async barrier objects, line locks, fences (R254-R277). -/

namespace Sys2Proof.Machine

/-- A condition of a uniform word at an address. -/
def Env.at_ (e : Env) (cause : Cause) (va : W64) (acc : Acc) (info detail : W64) : Cond := e.condOn cause e.c.x.path va acc info detail

/-! ### Barriers (R254-R257) -/

/-- BAR words are OPERAND while a live lane lies outside the path (R254). -/
def Env.barWord (e : Env) (w : Word) : Word := if e.c.x.path = e.c.x.live then w else e.operand

/-- The count of an arrival (R255): `z` gives the block's or gang's own. -/
def Env.count (e : Env) (b : Reg) (own : Nat) : Nat := if b.toNat = 120 then own else (e.srcS b).toNat % 2 ^ 32

/-- A word that arrives with a count. -/
def Env.arriveWord (e : Env) (c : Nat) (t : Term) : Word := e.barWord (if c = 0 ∨ 4096 < c then e.operand else .ofTerm t)

/-- `nbwait` and `nbarv`. -/
def Env.nb (e : Env) (wait : Bool) (i : BitVec 4) (b : Reg) : Word :=
  let c := e.count b e.c.grid.k.bwarps
  e.arriveWord c (.nb wait i.toNat c)

/-- `gbwait`. -/
def Env.gb (e : Env) (b : Reg) : Word :=
  let c := e.count b (e.c.grid.k.bwarps * (e.c.grid.l.gangm1 + 1))
  e.arriveWord c (.gb c)

def execNbwait (i : BitVec 4) (b : Reg) (s : State) : Result := withWord s (.nbwait i b) (fun _ e => e.nb true i b)
def execNbarv (i : BitVec 4) (b : Reg) (s : State) : Result := withWord s (.nbarv i b) (fun _ e => e.nb false i b)
def execGbwait (b : Reg) (s : State) : Result := withWord s (.gbwait b) (fun _ e => e.gb b)

/-! ### Async barrier objects (R260-R264) -/

/-- The object that an address names: its place and whether it is reached through a cluster window, or its condition (R260). One whose reserved bits are not 0 is rejected
by every word but `abinit` with OPERAND, which R5 leaves to the record's chapter and R260 does not say (DESIGN CHOICE, log 18). -/
def State.objectAt (s : State) (e : Env) (va : W64) (acc : Acc) (need : Need) : Except Cond (Loc × Bool) :=
  match regionOf va with
  | .global => .error (e.cond .operand 0 e.iss.detail)
  | .none => .error (e.at_ .xlate va acc 0 0)
  | r =>
    match (s.part e.q).scratchLoc e.c.blk (decide (r = .cluster)) va.toNat 16 with
    | none => .error (e.at_ .prot va acc 0 (protFail need none).detail)
    | some l =>
      if va.toNat % 16 ≠ 0 then .error (e.at_ .align va acc 4 0)
      else if s.ueBelow e.q none l then .error (e.at_ .memue va acc 0 (BitVec.ofNat 64 l.addr))
      else if (s.abObj e.q l).rest != 0 && acc != .write then .error (e.cond .operand 0 e.iss.detail)
      else .ok (l, decide (r = .cluster))

/-- A word on an object: OPERAND where its operand is bad, the object's condition, or the operation. -/
def State.objectWord (s : State) (e : Env) (a : Reg) (acc : Acc) (need : Need) (ok : Bool) (f : Loc → Bool → Term) : Word :=
  e.barWord (if !ok then e.operand
    else match s.objectAt e (e.srcS a) acc need with
      | .error c => .ofCond c
      | .ok (l, g) => .ofTerm (f l g))

def execAbinit (a b : Reg) (s : State) : Result :=
  withWord s (.abinit a b) (fun s e =>
    let n := (e.srcS b).toNat
    s.objectWord e a .write ⟨false, true, false⟩ (decide (1 ≤ n ∧ n ≤ 65535)) (fun l _ => .abinit l n))
def execAbarv (d a b : Reg) (s : State) : Result :=
  withWord s (.abarv d a b) (fun s e =>
    s.objectWord e a .rmw ⟨true, true, false⟩ (decide ((e.srcS b).toNat < 2 ^ 49)) (fun l g => .abarv d l g (e.srcS b)))
def execAbwait (a b : Reg) (s : State) : Result :=
  withWord s (.abwait a b) (fun s e =>
    s.objectWord e a .read ⟨true, false, false⟩ (decide ((e.srcS b).toNat < 2 ^ 16)) (fun l g => .abwait l g (e.srcS b).toNat))
def execAbtest (d a b : Reg) (s : State) : Result :=
  withWord s (.abtest d a b) (fun s e =>
    s.objectWord e a .read ⟨true, false, false⟩ (decide ((e.srcS b).toNat < 2 ^ 16)) (fun l g => .abtest d l g (e.srcS b).toNat))

/-! ### Line locks (R265-R275) -/

/-- The line that a lock word names, if it is lockable, with the page used; or its condition (R265, R266). A page without R or W raises PROT, also where it is
not lockable (DESIGN CHOICE, log 21). -/
def State.lockLine (s : State) (e : Env) (va : W64) : Except Cond (Option Loc × Option Leaf) :=
  match regionOf va with
  | .loc => .ok (none, none)
  | .cluster => .ok (none, none)
  | _ =>
    match s.resolve e.q e.c.blk va 1 ⟨true, true, false⟩ with
    | .error f => .error (e.at_ f.cause va .rmw 0 f.detail)
    | .ok (l, some f) => .ok (if f.lockable then some l else none, some f)
    | .ok (_, none) => .ok (none, none)

/-- A word of the LOCK group. -/
def State.lockWord (s : State) (e : Env) (op : LockOp) (d a : Reg) (b : W64) (ok : Option Loc → Bool) : Word :=
  match s.lockLine e (e.srcS a) with
  | .error c => .ofCond c
  | .ok (l, f) => if ok l then { Word.ofActs (f.toList.map Act.tlb) with term := .lock op d l (e.srcS a) b } else e.operand

/-- `llock`'s operand, and its one waiter entry, which binds `ltry` too (R268, R274). -/
def State.llockOk (s : State) (e : Env) (b : W64) (l : Option Loc) : Bool :=
  let n := b.toNat
  bits n 31 24 == 0 && n / 2 ^ 33 == 0 && !(bitN n 32 && bits n 23 0 != 0) &&
  (match l, (s.part e.q).waitsOn e.c.x.uid with
   | some (.dev pa), some line => line == pa / 128
   | _, some _ => false
   | _, none => true)

/-- `llock`: a bad operand goes before the address's faults (R54). -/
def State.llock (s : State) (e : Env) (d a b : Reg) : Word :=
  let n := (e.srcS b).toNat
  if bits n 31 24 != 0 || n / 2 ^ 33 != 0 || (bitN n 32 && bits n 23 0 != 0) then e.operand
  else s.lockWord e .llock d a (e.srcS b) (s.llockOk e (e.srcS b))

def execLlock (d a b : Reg) (s : State) : Result := withWord s (.llock d a b) (fun s e => s.llock e d a b)
def execLtry (d a : Reg) (s : State) : Result := withWord s (.ltry d a) (fun s e => s.lockWord e .ltry d a 0 (s.llockOk e 0))
def execLunlk (d a : Reg) (s : State) : Result := withWord s (.lunlk d a) (fun s e => s.lockWord e .lunlk d a 0 (fun _ => true))
def execLqry (d a : Reg) (s : State) : Result := withWord s (.lqry d a) (fun s e => s.lockWord e .lqry d a 0 (fun _ => true))
def execLabnd (d a : Reg) (s : State) : Result := withWord s (.labnd d a) (fun s e => s.lockWord e .labnd d a 0 (fun _ => true))

/-! ### Fences (R277) -/

def fenceKind (k : BitVec 2) : FenceKind :=
  match k.toNat with
  | 0 => .acq
  | 1 => .rel
  | 2 => .ar
  | _ => .sc

def execFence (k : BitVec 2) (sc : BitVec 3) (f t : BitVec 4) (s : State) : Result :=
  withWord s (.fence k sc f t) (fun _ _ => .ofTerm (.fence (fenceKind k) (scopeOf sc.toNat) f t))

end Sys2Proof.Machine
end

