-- ==== Sys2Proof/Machine/Work.lean ====
section
/-! DEFINITION. Words that shape warps and their work: widths, items, registers, launches, collectives (R90-R92, R99-R113, R340-R350). -/

namespace Sys2Proof.Machine

/-! ### WARP (R108-R113) -/

/-- A word that a handler may not run (R314). -/
def Env.notInHandler (e : Env) (w : Word) : Word := if e.c.x.trap.inh then e.operand else w

def execSplit (d a : Reg) (s : State) : Result := withWord s (.split d a) (fun _ e => e.notInHandler (.ofTerm (.split d (e.srcS a))))
def execFuse (d a : Reg) (s : State) : Result := withWord s (.fuse d a) (fun _ e => e.notInHandler (.ofTerm (.fuse d (e.srcS a) false)))
def execFuseR (d a : Reg) (s : State) : Result := withWord s (.fuse_r d a) (fun _ e => e.notInHandler (.ofTerm (.fuse d (e.srcS a) true)))
def execYield (s : State) : Result := withWord s .yield (fun _ _ => .ofTerm .yield)
def execSleep (a : Reg) (s : State) : Result :=
  withWord s (.sleep a) (fun _ e => if 2 ^ 20 < (e.srcS a).toNat then e.operand else .ofTerm (.sleep (e.srcS a).toNat))

/-! ### ITEM (R99-R102) -/

def execExit (s : State) : Result := withWord s .exit (fun _ e => if e.act = 0 then .nil else .ofTerm (.exit e.act))
def execExitw (s : State) : Result := withWord s .exitw (fun _ e => e.notInHandler (.ofTerm .exitw))

/-- `refill`: OPERAND in a kernel without a refill point, or with a record on the stack (R101). -/
def Env.refillWord (e : Env) : Word := e.notInHandler (if e.c.grid.k.refill = 0 ∨ e.c.x.rd ≠ 0 then e.operand else .ofTerm .refill)

def execRefill (s : State) : Result := withWord s .refill (fun _ e => e.refillWord)
def execIqry (d : Reg) (s : State) : Result := withWord s (.iqry d) (fun _ _ => .ofTerm (.iqry d))

/-! ### REGS (R104-R106) -/

/-- `racq`: 1 to 15 blocks; B[0] is the mode, and no other bit of B may be set. -/
def Env.racqWord (e : Env) (d a b : Reg) : Word :=
  let n := (e.srcS a).toNat
  let m := (e.srcS b).toNat
  if n = 0 ∨ 15 < n ∨ 1 < m then e.operand else .ofActs [.racq d n (m == 1)]

def execRacq (d a b : Reg) (s : State) : Result := withWord s (.racq d a b) (fun _ e => e.racqWord d a b)

/-- `rrel`: the base block stays. -/
def Env.rrelWord (e : Env) (d a : Reg) : Word :=
  let n := (e.srcS a).toNat
  if n = 0 ∨ e.c.x.n < 16 * e.c.grid.k.bregs + 16 * n then e.operand else .ofActs [.rrel d n]

def execRrel (d a : Reg) (s : State) : Result := withWord s (.rrel d a) (fun _ e => e.rrelWord d a)
def execWbase (a : Reg) (s : State) : Result :=
  withWord s (.wbase a) (fun _ e =>
    let v := (e.srcS a).toNat
    if v % 16 ≠ 0 ∨ 160 < v then e.operand else .ofActs [.wbase v])

/-! ### Reads by uniform words (R90, R341) -/

/-- Bytes read at an address beyond the L1, with a load's checks, race checks among them, and what such a load does at its commit (R90, R341; log 36); or the
condition, with the accesses that stand beside it (R54). -/
def State.uniRead (s : State) (e : Env) (va : W64) (n align : Nat) : Except (Cond × List Act) (List Byte × List Act) :=
  let pieces := (List.range ((va.toNat % 128 + n + 127) / 128)).map (fun i =>
    let lo := if i = 0 then va.toNat else (va.toNat / 128 + i) * 128
    (BitVec.ofNat 64 lo, min (va.toNat + n) ((va.toNat / 128 + i + 1) * 128) - lo))
  let tried := pieces.map (fun x => (s.access e 0 x.1 x.2 1 ⟨true, false, false⟩, x.2))
  let found := tried.filterMap (fun t => t.1.2.map (fun p => (p, t.2)))
  let mis : List LFail := if va.toNat % align = 0 then [] else [⟨0, .align, va, BitVec.ofNat 64 (Nat.log2 align), 0⟩]
  let ps := found.map (fun x => { x.1 with bytes := s.loadL e.q e.c.w.core true x.1.loc x.2 })
  let acts := tlbActs ps ++ [.load ps ⟨e.run.words, .sys, .plain, 4⟩ false]
  match e.failCond .read (tried.flatMap (fun t => t.1.1) ++ mis ++ found.flatMap (fun x => s.locateFail e x.1 ++ ueFail (s.ueLoad e.q e.c.w.core true) x.1 x.2)) with
  | some c => .error ({ c with mask := e.c.x.path }, acts)
  | none => .ok (ps.flatMap (fun x => x.bytes), acts)

/-- A word whose read has failed. -/
def Word.ofFail (f : Cond × List Act) : Word := (Word.ofActs f.2).checked (some f.1)

/-- A word that reads and then does something with the bytes. -/
def Word.ofRead (l : List Act) (t : Term) : Word := { Word.ofActs l with term := t }

/-! ### LAUNCH (R90-R92) -/

def execLaunch (d a b : Reg) (s : State) : Result :=
  withWord s (.launch d a b) (fun s e =>
    match s.uniRead e (e.srcS a) 64 64 with
    | .error f => .ofFail f
    | .ok (bs, ls) => .ofRead ls (.launch d (e.srcS b) bs))
def execLwait (d a b : Reg) (s : State) : Result :=
  withWord s (.lwait d a b) (fun _ e =>
    let n := (e.srcS a).toNat
    if 4095 < n then e.operand else .ofTerm (.lwait d n (e.srcS b)))
def execTrig (s : State) : Result := withWord s .trig (fun _ _ => .ofTerm .trig)

/-- `safept` (R326). -/
def execSafept (i : BitVec 18) (s : State) : Result := withWord s (.safept i) (fun _ _ => { Word.nil with safept := some i })

/-! ### COLL (R340-R343, R350) -/

/-- A word of the COLL group: handles above 63 are OPERAND (R340). -/
def Env.handleWord (e : Env) (a : Reg) (f : Nat → Word) : Word := if 63 < (e.srcS a).toNat then e.operand else f (e.srcS a).toNat

/-- The size that `coll` asks of its tile (R342). -/
def Handle.sizeOk (h : Handle) (n : Nat) : Bool :=
  if h.opc = 6 then decide (1 ≤ n ∧ n ≤ 65535) else n % 64 == 0 && decide (64 ≤ n ∧ n ≤ 327680)

/-- The park's checks of a tile (R342). -/
def State.collWord (s : State) (e : Env) (d : Reg) (h : Nat) (v : W64) (b : W64 × W64) : Word :=
  let t := tileOf b
  let x := (s.part e.q).handle h
  let r := (x.rankAt e.c.w.core).getD 0
  let within (o n : Nat) : Bool := decide (o + n ≤ e.c.blk.scrLen)
  let place (o : Nat) : W64 := BitVec.ofNat 64 (0xFFFF * 2 ^ 48 + o)
  if !x.sizeOk t.n then e.operand
  else if !within t.src (x.srcLen r t.n) then .ofCond (e.at_ .prot (place t.src) .read 0 (protFail ⟨true, false, false⟩ none).detail)
  else if !within t.dst (x.dstLen t.n) then .ofCond (e.at_ .prot (place t.dst) .write 0 (protFail ⟨false, true, false⟩ none).detail)
  else if !within t.obj 32 then .ofCond (e.at_ .prot (place t.obj) .rmw 0 (protFail ⟨true, true, false⟩ none).detail)
  else if t.obj % 16 ≠ 0 then .ofCond (e.at_ .align (place t.obj) .rmw 4 0)
  else .ofTerm (.coll d h v b)

def execColl (d a b : Reg) (s : State) : Result :=
  withWord s (.coll d a b) (fun s e => e.handleWord a (fun h => s.collWord e d h (e.srcS a) (e.srcS b, e.srcS1 b)))

/-- `cinit`: the descriptor, then the rank table that it names (R341). -/
def State.cinitWord (s : State) (e : Env) (d : Reg) (h : Nat) (va : W64) : Word :=
  match s.uniRead e va 64 64 with
  | .error f => .ofFail f
  | .ok (desc, ls) =>
    let r := descRanks desc
    match s.uniRead e r.2 (8 * (r.1 + 1)) 8 with
    | .error f => .ofFail (f.1, ls ++ f.2)
    | .ok (tbl, ls') => .ofRead (ls ++ ls') (.cinit d h desc tbl)

def execCinit (d a b : Reg) (s : State) : Result :=
  withWord s (.cinit d a b) (fun s e => e.handleWord a (fun h => s.cinitWord e d h (e.srcS b)))
def execCqry (d a : Reg) (s : State) : Result := withWord s (.cqry d a) (fun _ e => e.handleWord a (fun h => .ofTerm (.cqry d h)))

end Sys2Proof.Machine
end

