-- ==== Sys2Proof/Machine/System.lean ====
section
/-! DEFINITION. System words: traps, control registers, returns, and the supervisor's words (R315, R319-R329). -/

namespace Sys2Proof.Machine

/-! ### Traps and returns (R329, R315) -/

def execTrap (a : Reg) (s : State) : Result := withWord s (.trap a) (fun _ e => .ofTerm (.trap (e.srcS a)))
def execEret (s : State) : Result := withWord s .eret (fun _ e => if e.c.x.eretOk e.c.grid.k then .ofTerm .eret else e.operand)
def execClock (d : Reg) (s : State) : Result := withWord s (.clock d) (fun _ e => .ofActs (putS d (BitVec.ofNat 64 e.run.clk0)))

/-! ### Control and status registers (R4, R328) -/

/-- The level may reach a CSR: from 0x100 the supervisor, from 0x200 the machine alone (R4, R359). -/
def Env.mayCsr (e : Env) (n : Nat) : Bool := decide (n < 0x100) || (e.sup && decide (n < 0x200))

/-- A CSR write, judged in the park (R328). -/
def State.csrWord (s : State) (e : Env) (op : CsrOp) (d : Reg) (n : Nat) : Word :=
  if !e.mayCsr n then e.priv n
  else if s.csrOk e.q n e.sup op (s.csrRead e n) (e.srcS d) then .ofTerm (.csr op n (e.srcS d))
  else e.operand

def execCsrr (d : Reg) (c : BitVec 14) (s : State) : Result :=
  withWord s (.csrr d c) (fun s e => if e.mayCsr c.toNat then .ofActs (putS d (s.csrRead e c.toNat)) else e.priv c.toNat)
def execCsrw (d : Reg) (c : BitVec 14) (s : State) : Result := withWord s (.csrw d c) (fun s e => s.csrWord e .write d c.toNat)
def execCsrs (d : Reg) (c : BitVec 14) (s : State) : Result := withWord s (.csrs d c) (fun s e => s.csrWord e .set d c.toNat)
def execCsrc (d : Reg) (c : BitVec 14) (s : State) : Result := withWord s (.csrc d c) (fun s e => s.csrWord e .clear d c.toNat)

/-! ### SYSM (R319, R320, R325, R327) -/

/-- A word of the SYSM group: PRIV at user level, OPERAND where its operands are bad. -/
def Env.sysm (e : Env) (ok : Bool) (w : Word) : Word := if !e.sup then e.priv 0 else if ok then w else e.operand

def execTlbi (a b : Reg) (s : State) : Result :=
  withWord s (.tlbi a b) (fun _ e => e.sysm (decide ((e.srcS b).toNat ≤ 1)) (.ofActs [.tlbi (e.srcS b == 1) (e.srcS a)]))
def execTlbsync (s : State) : Result :=
  withWord s .tlbsync (fun _ e => e.sysm true { Word.nil with waits := [.tlbsync] })
def execBswap (d a b : Reg) (s : State) : Result :=
  withWord s (.bswap d a b) (fun _ e =>
    let v := (e.srcS b).toNat
    e.sysm ((targetOf (e.srcS a)).isSome && bits v 7 3 == 0 && bits v 1 0 != 3) (.ofActs [.bswap d (e.srcS a) (e.srcS b)]))
def execBresume (d a b : Reg) (s : State) : Result :=
  withWord s (.bresume d a b) (fun _ e =>
    let v := (e.srcS b).toNat
    e.sysm (decide (v < 2 ^ 14) && bits v 7 2 == 0 && bits v 1 0 != 3 && (bits v 1 0 == 0 || (targetOf (e.srcS a)).isSome))
      (.ofActs [.bresume d (e.srcS a) (e.srcS b)]))

end Sys2Proof.Machine
end

