-- ==== Sys2Proof/Machine/Device.lean ====
section
/-! DEFINITION. The device in service: register writes from outside, the fault-record ring, merging and dividing partitions, boot, attestation, health and the
thermal stop (R75, R318, R319, R351, R359-R372, R374). -/

namespace Sys2Proof.Machine

/-! ### Queue registers (R75) -/

/-- A write that breaks a register's rules: OPERAND through the supervisor's view, dropped through BAR0 (R75). -/
def State.refuse (s : State) (q : Nat) (view : View) : State :=
  match view with
  | .mmio => { s with outbox := s.outbox ++ [.operand q] }
  | .bar0 => s

/-- BUSY (R75). -/
def Part.busy (p : Part) (i : Nat) : Bool := (p.queue i).qhead != (p.queue i).qtail || p.active i != 0

/-- The register at an offset of a queue's block (R75); a queue that does not serve the partition reads EN = 0 (R359). -/
def State.queueReg (s : State) (q i off : Nat) : W64 :=
  let p := s.part q
  let u := p.queue i
  match off with
  | 0x00 => u.qbase
  | 0x08 => BitVec.ofNat 64 u.qlog
  | 0x10 => u.qtail.setWidth 64
  | 0x18 => u.qhead.setWidth 64
  | 0x20 => BitVec.ofNat 64 (u.pmax + u.rcls * 2 ^ 3 + b2n u.dlaunch * 2 ^ 7 + b2n (u.en && s.owns q i) * 2 ^ 8)
  | 0x28 => BitVec.ofNat 64 (b2n (p.busy i) + b2n u.halt * 2 + u.err * 2 ^ 4 + p.active i * 2 ^ 16 + u.hidx.toNat * 2 ^ 32)
  | _ => 0

/-- The bits of a queue's register that a write may change, judged on EN as it stands (R75). -/
def queueRw (off : Nat) (en : Bool) : W64 :=
  match off with
  | 0x00 => if en then 0 else span 63 12
  | 0x08 => if en then 0 else span 4 0
  | 0x20 => if en then span 8 8 else span 8 0
  | _ => 0

/-- A value of a queue's register is in its range: QLOG is 4 to 16 (R75). -/
def queueRange (off : Nat) (v : W64) : Bool := off != 0x08 || decide (4 ≤ v.toNat ∧ v.toNat ≤ 16)

/-- A queue's register takes a value. -/
def Queue.setReg (u : Queue) (off : Nat) (v : W64) : Queue :=
  match off with
  | 0x00 => { u with qbase := v }
  | 0x08 => { u with qlog := v.toNat }
  | 0x20 => { u with pmax := bits v.toNat 2 0, rcls := bits v.toNat 6 3, dlaunch := v.getLsbD 7, en := v.getLsbD 8 }
  | _ => u

/-- Writes to a queue's block arrive: the partition's PART bit is set, and the queue serves the partition (R359, R368). -/
def State.queueOpen (s : State) (q i : Nat) : Bool := s.rdyPart.getLsbD q && s.owns q i && decide (i < 64)

/-- A write to QTAIL (R75): accepted between the present tail and the ring's size; else the queue halts with ERR 7. -/
def State.writeTail (s : State) (q i : Nat) (v : BitVec 32) : State :=
  if !s.queueOpen q i then s
  else s.modPart q (fun p =>
    let u := p.queue i
    let d := (v - u.qhead).toNat
    p.setQueue i (if (u.qtail - u.qhead).toNat ≤ d ∧ d ≤ 2 ^ u.qlog then { u with qtail := v } else { u with halt := true, err := 7, hidx := u.qhead }))

/-- RESUME and SKIP (R75): a halt with ERR 7 has no record to skip. -/
def State.unhalt (s : State) (q i : Nat) (skip : Bool) : State :=
  if !s.queueOpen q i then s
  else s.modPart q (fun p =>
    let u := p.queue i
    if u.halt then p.setQueue i { u with halt := false, err := 0, qhead := if skip && u.err != 7 then u.qhead + 1 else u.qhead } else p)

/-- A write of 64 bits to a register of a queue's block (R75). -/
def State.writeQueue (s : State) (q i off : Nat) (v : W64) (view : View) : State :=
  if !s.queueOpen q i then s
  else if off = 0x10 ∧ v.toNat < 2 ^ 32 then s.writeTail q i (v.setWidth 32)
  else if off = 0x30 then
    match v.toNat with
    | 0 => s
    | 1 => s.unhalt q i false
    | 2 => s.unhalt q i true
    | _ => s.refuse q view
  else
    let old := s.queueReg q i off
    if v = old then s
    else if ((v ^^^ old) &&& ~~~(queueRw off ((s.part q).queue i).en)) != 0 || !queueRange off v then s.refuse q view
    else s.modPart q (fun p => p.setQueue i ((p.queue i).setReg off v))

/-! ### The peer table (R351) -/

/-- The words of an entry. -/
def Peer.word (x : Peer) (off : Nat) : W64 :=
  match off with
  | 0x00 => x.w0
  | 0x08 => x.w1
  | 0x10 => x.w2
  | 0x18 => x.w3
  | 0x20 => x.w4
  | _ => 0

def Peer.setWord (x : Peer) (off : Nat) (v : W64) : Peer :=
  match off with
  | 0x00 => { x with w0 := v }
  | 0x08 => { x with w1 := v }
  | 0x10 => { x with w2 := v }
  | 0x18 => { x with w3 := v }
  | 0x20 => { x with w4 := v }
  | _ => x

/-- The bits of an entry's word that a write may change; DOWN, bit 5 of the first word, is W1C. -/
def peerRw (off : Nat) : W64 :=
  match off with
  | 0x00 => span 4 0 ||| span 6 6 ||| span 63 16
  | 0x08 => span 63 0
  | 0x10 => span 63 0
  | 0x18 => span 63 0
  | 0x20 => span 23 0
  | _ => 0

/-- A port belongs to a partition (R7). -/
def State.portOf (s : State) (q port : Nat) : Bool := (s.reg q).quarters.getLsbD (port / 2)

/-- A write to a peer entry (R351): a port of another partition, and EN without a timeout and a retry limit, drop it. -/
def State.writePeer (s : State) (q i off : Nat) (v : W64) (view : View) : State :=
  if 4095 < i then s
  else
    let x := (s.part q).peer i
    let old := x.word off
    let v' := if off = 0 then (if v.getLsbD 5 then v &&& ~~~0x20 else v ||| (old &&& 0x20)) else v
    let y := x.setWord off v'
    if ((v' ^^^ old) &&& ~~~(peerRw off ||| (if off = 0 then 0x20 else 0))) != 0 then s.refuse q view
    else if off = 0 ∧ !s.portOf q (Peer.port y) then s
    else if y.en && (y.rto == 0 || y.retry == 0) then s
    else s.modPart q (fun p => p.setPeer i y)

/-! ### The fault-record ring (R317-R319) -/

/-- A record as its 64 bytes (R317). -/
def FaultRec.bytes (r : FaultRec) (time seq : Nat) : List Byte :=
  [r.cause + r.kind * 2 ^ 8 + r.gcore * 2 ^ 16 + r.slot * 2 ^ 32 + r.tag * 2 ^ 40 + r.acc * 2 ^ 46 + r.grp * 2 ^ 48, r.pc.toNat, r.addr.toNat, r.mask.toNat,
    r.gridh.toNat, r.detail.toNat, time, seq].flatMap (fun n => leBytes 8 n)

/-- The number of the oldest record that waits (R319). -/
def Part.headRec (p : Part) : Nat := p.postSeq - p.posts.length

/-- A record of a number stands for a swap, a kill or a restoration that has not taken place (R319). -/
def Part.heldRec (p : Part) (n : Nat) : Bool := p.swaps.any (fun x => x.record == some n) || p.restores.any (fun x => x.record == some n)

/-- The oldest record stands for a swap, a kill or a restoration that can take place now: it does so first (R319). -/
def State.headHeld (s : State) (q : Nat) : Bool :=
  let p := s.part q
  p.swaps.any (fun x => x.record == some p.headRec && (p.imageReady x || p.killReady x)) ||
    (match p.firstRestore p.restores with
     | some r => r.record == some p.headRec && s.restoreDue q
     | none => false)

/-- A record waits, its event has taken place, and the ring has room (R319). -/
def State.recordDue (s : State) (q : Nat) : Bool := !(s.part q).posts.isEmpty && (s.part q).csr.ringRoom && !s.headHeld q

/-- The record of a swap, a kill or a restoration that cannot take place now leaves the queue; its event arises anew. -/
def Part.unhold (p : Part) (n : Nat) : Part :=
  { p with
    swaps := updIf (fun x => x.record == some n) (fun x => { x with record := none }) p.swaps
    restores := updIf (fun x => x.record == some n) (fun x => { x with record := none }) p.restores }

/-- The warp whose FAULT record enters the posting buffer starts its FLTTO then (R319). -/
def Part.recordEnters (p : Part) (now : Nat) : Part :=
  match p.posts[postRoom]? with
  | some r => if r.kind = 0 then p.modWarp ⟨r.gcore, r.slot⟩ (fun x => match x.wait with | .fault e _ a k => { x with wait := .fault e now a k } | _ => x) else p
  | none => p

/-- The oldest record leaves the queue, and what a full buffer has held back goes on; FULL stays while records are left that wait for room (log 49). -/
def Part.popPost (p : Part) (now : Nat) : Part :=
  let p := p.recordEnters now
  ({ p with posts := p.posts.drop 1 } : Part).refull

/-- The oldest waiting record is written to the ring (R319): its bytes, TAIL, SEQ, FULL, then the event counter and the interrupt. One whose swap, kill or restoration has
waited for its place and cannot take place now is taken out instead (DESIGN CHOICE, log 49). -/
def State.recordPost (s : State) (q : Nat) : State :=
  let p := s.part q
  match p.posts with
  | [] => s
  | r :: _ =>
    if !s.recordDue q then s
    else if p.heldRec p.headRec then s.modPart q (fun p => ((p.unhold p.headRec).popPost s.now).productsFailed)
    else
      let slot := p.csr.fqtail.toNat % 2 ^ bits p.csr.fqbase.toNat 5 1
      let s := s.engStore q noPayer none (.dev (p.csr.fqbase.toNat / 4096 * 4096 + 64 * slot)) (r.bytes (s.clkc q) p.seq)
      let s := s.modPart q (fun p =>
        let p : Part := { p with seq := p.seq + 1, csr := { p.csr with fqtail := BitVec.ofNat 64 ((p.csr.fqtail.toNat + 1) % 2 ^ 32) } }
        let p := p.popPost s.now
        (if p.csr.fqstat.getLsbD 2 then p.bumpEvent (bits p.csr.fqstat.toNat 14 3) else p).productsFailed)
      if (s.part q).csr.fqAlarm then { s with outbox := s.outbox ++ [.faultIrq q] } else s

/-- A fault-parked warp's record has been outstanding for FLTTO cc since it entered the posting buffer (R319; log 49). -/
def Part.agedDue (p : Part) (w : WRef) (now : Nat) : Bool :=
  match p.warp w with
  | some x => (match x.wait with
    | .fault _ since aged _ => !aged && p.faultPosted w && decide (since + 2 * p.csr.fltto.toNat ≤ now)
    | _ => false)
  | none => false

/-- The AGED record (R317, R319): what the FAULT record of the same condition holds, as KIND 2. -/
def Part.postAged (p : Part) (w : WRef) (now : Nat) : Part :=
  if !p.agedDue w now then p
  else match p.ctx w with
    | none => p
    | some c =>
      match c.x.wait with
      | .fault e t _ k => (p.setWarp w { c.x with wait := .fault e t true k }).post { faultRec c k c.x.pc with kind := 2 }
      | _ => p

/-! ### Merging and dividing (R359-R365) -/

/-- The stacks of a set of quarters (R359). -/
def stackMask (quarters : Nat) : Nat := (List.range 4).foldl (fun m i => if bitN quarters i then m + 3 * 4 ^ i else m) 0

/-- BND of a set of quarters (R361). -/
def bndOf (quarters : Nat) : Nat := match quarters with | 3 => 1 | 12 => 8 | 15 => 15 | _ => 0

/-- The other partner of a partition's merge: the neighbouring quarter, or the other half. -/
def State.partner (s : State) (q : Nat) : Option Nat :=
  match s.nq q with
  | 1 => some (q ^^^ 1)
  | 2 => some (q ^^^ 2)
  | _ => none

/-- Two sets of quarters form one of the pairs of R362. -/
def mergePair (a b : Nat) : Bool := (a == 1 && b == 2) || (a == 4 && b == 8) || (a == 3 && b == 12)

/-- A queue of the partition is busy (R362). -/
def Part.anyBusy (p : Part) : Bool := p.queues.any (fun x => p.busy x.1) || !p.grids.isEmpty

/-- A block is resident, a restoration is queued, or an instance is in flight (R362). -/
def Part.occupied (p : Part) : Bool := !p.blocks.isEmpty || !p.restores.isEmpty || p.handles.any (fun h => !h.2.flight.isEmpty)

/-- Swaps and kills of units that have retired report what they would have reported. -/
def Part.settleSwaps (p : Part) : Part :=
  (p.swaps.filter (fun x => x.record.isNone)).foldl (fun p x => p.post (unitRec (if x.kill then 5 else 3) x.target x.gridh x.area none)) { p with swaps := [] }

/-- A core after a merge or a division: no copies, no translations, its boundary 4; its B-stores and tuns stay (R84, R363). -/
def Core.emptied (k : Core) : Core := { k with bnd := 4, g := 0, sc := 0, shadow := [], l1 := [], tlb := [], buckets := [] }

/-- Steps 1, 2 and 4 of R363 and R365: parked stores land, every parked line is unparked, and every cache, directory, record, lock table and TLB is empty. -/
def State.quiesce (s : State) (q : Nat) : State :=
  let s := s.drainAll q
  let s := ((s.part q).dir.map (fun d => d.line)).foldl (fun (s : State) n => s.unpark q noPayer n) s
  s.modPart q (fun p =>
    { p.settleSwaps with
      dir := []
      races := []
      closed := []
      merged := []
      locks := []
      lag := []
      shoot := []
      cores := p.cores.map (fun x => (x.1, x.2.emptied))
      clusters := p.clusters.map (fun x => (x.1, { x.2 with cc := [], tlb := [] })) })

/-- The CSRs after a merge or a division: every supervisor CSR at its reset value; RSBASE and the counters stay (R330, R363). -/
def PCsr.resume (c : PCsr) : PCsr := { PCsr.reset with rsbase := c.rsbase, racedrop := c.racedrop, locmiss := c.locmiss, pkfall := c.pkfall }

/-- Step 5 of R363 and R365. -/
def Part.resumed (p : Part) : Part :=
  { p with
    csr := p.csr.resume.setFull (!p.posts.isEmpty)
    queues := []
    events := []
    headGang := none
    reserved := []
    handles := []
    peers := [] }

/-- Entries moved by a number of keys. -/
def shift {α : Type} (n : Nat) (m : AMap α) : AMap α := m.map (fun x => (x.1 + n, x.2))

/-- The partition that two make (R363): the upper partner's clusters follow the lower's; the records that wait are kept in order. -/
def Part.join (a b : Part) (nclu : Nat) : Part :=
  { a with
    cores := a.cores ++ shift (48 * nclu) b.cores
    clusters := a.clusters ++ shift nclu b.clusters
    posts := a.posts ++ b.posts
    postSeq := a.postSeq + b.postSeq
    errlog := a.errlog ++ b.errlog }

/-- Update a quarter's registers. -/
def State.modReg (s : State) (q : Nat) (f : QRegs → QRegs) : State := { s with regs := s.regs.wr q (f (s.reg q)) }

/-- Set or clear RDY.PART of a partition. -/
def State.setPartBit (s : State) (q : Nat) (b : Bool) : State :=
  let m : BitVec 4 := BitVec.ofNat 4 (2 ^ q)
  { s with rdyPart := if b then s.rdyPart ||| m else s.rdyPart &&& ~~~m }

/-- A part's registers after a merge or a division. -/
def QRegs.formed (quarters : Nat) : QRegs := ⟨BitVec.ofNat 64 (stackMask quarters), BitVec.ofNat 64 (bndOf quarters), BitVec.allOnes 64, 2, BitVec.ofNat 4 quarters, 0, 0⟩

/-- An accepted merge of partition `b` into `a` (R363). -/
def State.merge (s : State) (a b : Nat) : State :=
  let n := s.nclu a
  let s := (s.quiesce a).quiesce b
  let p := ((s.part a).join (s.part b) n).resumed
  let u := (s.reg a).quarters.toNat + (s.reg b).quarters.toNat
  let s := (s.modReg a (fun _ => QRegs.formed u)).modReg b (fun r => { r with state := 0, mst := 0, pmerge := 0 })
  let s := ((s.setPart a p).setPart b Part.reset).setPartBit b false
  { s with outbox := s.outbox ++ [.faultIrq a] }

/-- The first failing check of a merge of `a` and `b`, or 0 (R362). -/
def State.mergeCode (s : State) (a b : Nat) : Nat :=
  if !mergePair (s.reg a).quarters.toNat (s.reg b).quarters.toNat then 1
  else if !s.up a || !s.up b then 2
  else if (s.part a).anyBusy || (s.part b).anyBusy then 3
  else if (s.part a).occupied || (s.part b).occupied then 4
  else 0

/-- PMERGE.OP = 1 (R362): at the second partner's write the merge is checked, and runs or is refused. -/
def State.mergeRequest (s : State) (q : Nat) : State :=
  let s := s.modReg q (fun r => { r with pmerge := 1 })
  match s.partner q with
  | none => s
  | some r =>
    if (s.reg r).pmerge ≠ 1 then s
    else
      let a := min q r
      let b := max q r
      let code := s.mergeCode a b
      if code = 0 then s.merge a b
      else (s.modReg a (fun r => { r with mst := code, pmerge := 0 })).modReg b (fun r => { r with mst := code, pmerge := 0 })

/-- Every stack of a partition is ready (R368). -/
def State.stacksReady (s : State) (q : Nat) : Bool := (s.stacks q).all (fun i => s.rdyHbm.getLsbD i)

/-- The lowest quarter of a partition's upper part. -/
def State.upper (s : State) (q : Nat) : Nat := if s.nq q = 4 then q + 2 else q + 1

/-- An accepted division of a partition (R365). -/
def State.divide (s : State) (q : Nat) : State :=
  let r := s.upper q
  let all := (s.reg q).quarters.toNat
  let hi := if s.nq q = 4 then 12 else 2 ^ r
  let n := s.nclu q / 2
  let s := s.quiesce q
  let p := s.part q
  let lo : Part := { p with cores := p.cores.filter (fun x => decide (x.1 < 48 * n)), clusters := p.clusters.filter (fun x => decide (x.1 < n)) }
  let up : Part := { Part.reset with
    t0 := p.t0
    carved := p.carved
    cores := (p.cores.filter (fun x => decide (48 * n ≤ x.1))).map (fun x => (x.1 - 48 * n, x.2))
    clusters := (p.clusters.filter (fun x => decide (n ≤ x.1))).map (fun x => (x.1 - n, x.2)) }
  let s := (s.modReg q (fun _ => QRegs.formed (all - hi))).modReg r (fun _ => QRegs.formed hi)
  let s := (s.setPart q lo.resumed).setPart r up
  let s := s.setPartBit r (s.stacksReady r)
  { s with outbox := s.outbox ++ [.faultIrq q, .faultIrq r] }

/-- PMERGE.OP = 2 (R364). -/
def State.divideRequest (s : State) (q : Nat) : State :=
  let p := s.part q
  let code := if s.nq q ≤ 1 then 5 else if !s.up q then 2 else if p.anyBusy then 3 else if p.occupied then 4 else 0
  if code = 0 then s.divide q else s.modReg q (fun r => { r with mst := code, pmerge := 0 })

/-! ### Machine registers (R359) -/

/-- PSTAT. -/
def QRegs.pstat (r : QRegs) : W64 := BitVec.ofNat 64 (r.state + r.quarters.toNat * 2 ^ 4 + r.mst * 2 ^ 8)

/-- RDY. -/
def State.rdy (s : State) : W64 :=
  BitVec.ofNat 64 (s.rdyHbm.toNat + s.rdyClu.toNat * 2 ^ 8 + s.rdyPort.toNat * 2 ^ 32 + s.rdyPart.toNat * 2 ^ 40 + s.gradeNum * 2 ^ 48)

/-- A machine register or a supervisor CSR of quarter `q` is written by firmware (R4, R318, R359). -/
def State.writeMachine (s : State) (q n : Nat) (v : W64) : State :=
  let bad := s.refuse q .mmio
  match n with
  | 0x104 => s.modPart q (fun p => { p with csr := { p.csr with sqmask := v } })
  | 0x200 => if v = (s.reg q).pmemil ∨ (v.toNat < 256 ∧ [2, 4, 8].contains (popNat 8 v.toNat)) then s.modReg q (fun r => { r with pmemil := v }) else bad
  | 0x201 => if v.toNat < 16 then s.modReg q (fun r => { r with pnetb := v }) else bad
  | 0x202 => s.modReg q (fun r => { r with pqmask := v })
  | 0x203 => if v = (s.reg q).pstat then s else bad
  | 0x204 => if v = s.rdy then s else bad
  | 0x205 => if v = 1 then s.mergeRequest q else if v = 2 then s.divideRequest q else bad
  | n => if hostCsr n && s.csrOk q n true .write ((s.part q).csr.get n) v then s.setPCsr q n v else bad

/-- A write through the CSR window: what a warp's `csrw` would refuse is dropped, as is every other offset (R374). -/
def State.writeWindow (s : State) (q n : Nat) (v : W64) : State :=
  if hostCsr n && s.csrOk q n true .write ((s.part q).csr.get n) v then s.setPCsr q n v else s

/-- The functions of a partition answer the host: the Maltster of its first die is not in recovery (R366; log 47). -/
def State.served (s : State) (q : Nat) : Bool := !(s.dies.rd q).recovery

/-- A write to a register that has no step of its own. -/
def State.registerWrite (s : State) (q : Nat) (r : RegAddr) (v : W64) (view : View) : State :=
  match r with
  | .queue i off => s.writeQueue q i off v view
  | .csr n => s.writeWindow q n v
  | .machine k n => s.writeMachine (k % 4) n v
  | .peer i off => s.writePeer q i off v view
  | .errHead => if v.toNat < 2 ^ 32 then s.modPart q (fun p => { p with errHead := v.setWidth 32 }) else s.refuse q view

/-- A register as the host reads it: queue blocks, the CSR window, the peer table; every other offset of the window, each machine CSR among them, reads 0 (R75,
R351, R370, R374). -/
def State.registerRead (s : State) (q : Nat) (r : RegAddr) : W64 :=
  match r with
  | .queue i off => if i < 64 then s.queueReg q i off else 0
  | .csr n => if hostCsr n then (s.part q).csr.get n else 0
  | .machine .. => 0
  | .peer i off => if i < 4096 then ((s.part q).peer i).word off else 0
  | .errHead => (s.part q).errHead.setWidth 64

/-! ### The error log (R370) -/

/-- A record of the error log as its 64 bytes. -/
def ErrRec.bytes (e : ErrRec) : List Byte := [e.kind, e.site, e.detail.toNat, e.time, 0, 0, 0, 0].flatMap (fun n => leBytes 8 n)

/-- The records of a partition's error log, log2: at most 2^16, as for a queue (R75). -/
def errLog2 (q : Nat) : Nat := Config.errSize q % 17

/-- The error-log ring has room. -/
def Part.errRoom (p : Part) (q : Nat) : Bool := decide ((p.errTail - p.errHead).toNat < 2 ^ errLog2 q)

/-- The physical address of the slot that the next record takes. -/
def Part.errSlot (p : Part) (q : Nat) : Nat := Config.errBase q + 64 * (p.errTail.toNat % 2 ^ errLog2 q)

/-- One error record is written at its slot, if the slot lies in the partition's memory, and TAIL rises (R370). -/
def State.errPost (s : State) (q : Nat) : State :=
  let p := s.part q
  match p.errlog with
  | [] => s
  | e :: rest =>
    if !p.errRoom q then s
    else
      let s := if s.paOk q (p.errSlot q + 63) then s.engStore q noPayer none (.dev (p.errSlot q)) e.bytes else s
      s.modPart q (fun p => { p with errlog := rest, errTail := p.errTail + 1 })

/-- Error records that have arisen go into the ring, and wait while it is full (R370; log 48). -/
def State.errPosts (s : State) (q : Nat) : State := (List.range (s.part q).errlog.length).foldl (fun s _ => s.errPost q) s

/-- The same for every partition. -/
def State.logged (s : State) : State := (List.range 4).foldl (fun s q => s.errPosts q) s

/-- The error log's registers, as a queue's (R75, R370): its base and size, and the records written and consumed. -/
def State.logRead (s : State) (q off : Nat) : W64 :=
  match off with
  | 0x00 => BitVec.ofNat 64 (Config.errBase q)
  | 0x08 => BitVec.ofNat 64 (errLog2 q)
  | 0x10 => (s.part q).errTail.setWidth 64
  | 0x18 => (s.part q).errHead.setWidth 64
  | _ => 0

/-! ### Reset, boot and attestation (R366-R368) -/

/-- Clear the RDY bits of a die's units (R366, R368). -/
def State.dieDown (s : State) (d : Nat) : State :=
  { s with
    rdyHbm := s.rdyHbm &&& ~~~(BitVec.ofNat 8 (3 * 4 ^ d))
    rdyClu := s.rdyClu &&& ~~~(BitVec.ofNat 24 ((2 ^ s.cpd - 1) * 2 ^ (s.cpd * d)))
    rdyPort := s.rdyPort &&& ~~~(BitVec.ofNat 8 (3 * 4 ^ d))
    rdyPart := s.rdyPart &&& ~~~(BitVec.ofNat 4 (2 ^ d)) }

/-- Physical clusters of a die, and physical cores of a cluster (R8). -/
def dieClusters : Nat := 7
def cluCores : Nat := 52

/-- A physical cluster is in working order: it is not harvested, and spare cores replace those that are (R8). -/
def State.clusterOk (s : State) (c : Nat) : Bool :=
  !s.harvested.contains (.cluster c) && decide (48 ≤ ((List.range cluCores).filter (fun k => !s.harvested.contains (.core c k))).length)

/-- A device cluster number has an enabled cluster behind it (R8): those of a die are numbered densely over its clusters in working order, up to the grade's number. -/
def State.cluEnabled (s : State) (c : Nat) : Bool :=
  decide (c < 4 * s.cpd) && decide (c % s.cpd < ((List.range dieClusters).filter (fun j => s.clusterOk (dieClusters * (c / s.cpd) + j))).length)

/-- Harvesting excludes the units of a die's lasting sites that were recorded (R8, R369). -/
def State.harvest (s : State) (d : Nat) : State :=
  let x := s.dies.rd d
  { s with
    harvested := (s.harvested ++ x.lasting.map (fun y => y.unit)).dedup
    dies := s.dies.wr d { x with lasting := [] } }

/-- Partition reset: each quarter that the partition holds takes its reset registers and an empty partition, and harvesting goes before its units come up
(R8, R359, R369). -/
def State.partitionReset (s : State) (q : Nat) : State :=
  ((List.range 4).filter (fun i => (s.reg q).quarters.getLsbD i)).foldl (fun s i =>
    (((s.modReg i (fun _ => QRegs.reset i)).setPart i { Part.reset with t0 := s.now }).harvest i).dieDown i) s

/-- Power-on or device reset (R366): every Maltster starts its boot ROM; DRAM, host memory, the clocks and what has left the device stay. -/
def State.deviceReset (s : State) : State :=
  let s := (List.range 4).foldl (fun (s : State) d => s.harvest d) s
  { State.reset with
    harvested := s.harvested
    grade := s.grade
    now := s.now
    tick := s.tick
    inbox := s.inbox
    outbox := s.outbox
    dram := s.dram
    hostMem := s.hostMem
    ue := s.ue
    parts := .all { Part.reset with t0 := s.now }
    margins := s.margins
    thermal := s.thermal
    clkPct := s.clkPct }

/-- A firmware stage (R366, R367): verified, measured into M and run; a stage that fails leaves the die in recovery. -/
def State.bootStage (s : State) (die : Nat) (im : BootImage) : State :=
  let x := s.dies.rd die
  if 3 < die ∨ x.recovery ∨ x.up then s
  else if Config.verifies im.bytes im.signature && decide (Config.minVersion die ≤ im.version) then
    { s with dies := s.dies.wr die { x with
      m := shake256 (x.m ++ shake256 im.bytes)
      stages := x.stages + 1
      up := im.last
      versions := x.versions ++ [im.version] } }
  else { s with dies := s.dies.wr die { x with recovery := true } }.dieDown die

/-- An attestation report over the host's 32-byte nonce (R367); a die in recovery gives none (R366). -/
def State.attest (s : State) (q : Nat) (nonce : List Byte) : State :=
  let map := Config.harvestMap s.harvested
  let ds := [s.dies.a, s.dies.b, s.dies.c, s.dies.d]
  let ms := ds.map (fun d => d.m)
  let vs := ds.map (fun d => d.versions)
  let body := nonce ++ ms.flatMap id ++ [BitVec.ofNat 8 s.gradeNum] ++ map ++ (vs.flatMap id).flatMap (fun v => leBytes 8 v)
  if nonce.length = 32 && s.served q then { s with outbox := s.outbox ++ [.report q nonce ms s.gradeNum map vs (Config.sign body)] } else s

/-- The partition that holds a die. -/
def State.partOfDie (s : State) (d : Nat) : Nat :=
  ((List.range 4).find? (fun q => (s.reg q).state != 0 && (s.reg q).quarters.getLsbD d)).getD d

/-- A die's firmware runs, so that it can set RDY bits (R366). -/
def Maltster.serves (m : Maltster) : Bool := !m.recovery && decide (0 < m.stages)

/-- A partition whose stacks are all ready has its PART bit, and is up (R359, R368). -/
def State.raisePart (s : State) (q : Nat) : State :=
  if (s.reg q).state ≠ 0 && s.stacksReady q then
    (s.setPartBit q true).modReg q (fun r => if r.state = 1 then { r with state := 2 } else r)
  else s

/-- A unit's RDY bit is set (R368): a cluster's by its device cluster number, if an enabled cluster stands behind it (R8), a stack's and a port's unless harvesting has
excluded it (R369); frames that a port held go out. A core has no such bit. -/
def State.unitReady (s : State) (u : UnitId) : State :=
  match u with
  | .stack i =>
    if i < 8 ∧ !s.harvested.contains u ∧ (s.dies.rd (i / 2)).serves then
      { s with rdyHbm := s.rdyHbm ||| BitVec.ofNat 8 (2 ^ i) }.raisePart (s.partOfDie (i / 2))
    else s
  | .cluster c => if s.cluEnabled c ∧ (s.dies.rd (c / s.cpd)).serves then { s with rdyClu := s.rdyClu ||| BitVec.ofNat 24 (2 ^ c) } else s
  | .core .. => s
  | .port p =>
    if p < 8 ∧ !s.harvested.contains u ∧ (s.dies.rd (p / 2)).serves then
      let s := { s with rdyPort := s.rdyPort ||| BitVec.ofNat 8 (2 ^ p) }
      if s.portUp p then s.releaseHeld (s.partOfDie (p / 2)) p else s
    else s

/-! ### Health, power and pauses (R352, R369-R372) -/

/-- The monitors' window of 10 minutes, in fc at a clock setting (R3, R369). -/
def healthWindow (clkPct : Nat) : Nat := 600 * 14000000 * clkPct

/-- A corrected error at a site of die `d` (R369, R370): counted; a fourth in the window makes the site lasting. A row is spared where a spare is there, a link lane is
removed, and any other site is recorded until the next partition reset. -/
def State.correctedError (s : State) (d : Nat) (site : Site) (spare : Bool) : State :=
  let x := s.dies.rd d
  let errs := x.errors.filter (fun e => decide (s.now < e.2 + healthWindow s.clkPct)) ++ [(site, s.now)]
  let n := (errs.filter (fun e => e.1 == site)).length
  let q := s.partOfDie d
  let log (kind : Nat) (s : State) : State := s.modPart q (fun p => p.logErr ⟨kind, site.name, BitVec.ofNat 64 n, s.clkc q⟩)
  let row := decide (site.kind = .hbmRow) || decide (site.kind = .sramRow)
  if x.narrow.contains site then s
  else
  let s := log 0 s
  if n < 4 ∨ x.lasting.contains site then { s with dies := s.dies.wr d { x with errors := errs } }
  else if row && spare then log 3 (log 2 { s with dies := s.dies.wr d { x with errors := errs.filter (fun e => e.1 != site) } })
  else if site.kind = .linkLane then log 2 { s with dies := s.dies.wr d { x with errors := errs.filter (fun e => e.1 != site), narrow := x.narrow ++ [site] } }
  else log 2 { s with dies := s.dies.wr d { x with errors := errs, lasting := x.lasting ++ [site] } }

/-- Maltster re-plans a cluster's voltage margin (R371). -/
def State.replan (s : State) (cluster margin : Nat) : State :=
  let q := s.partOfDie (cluster / s.cpd)
  { s with margins := AMap.wr s.margins cluster margin }.modPart q (fun p => p.logErr ⟨7, cluster, BitVec.ofNat 64 margin, s.clkc q⟩)

/-- A junction sensor reads 110 °C (R372). -/
def State.thermalStop (s : State) : State := { s with stopped := true, thermal := s.thermal ++ [s.now] }
def State.thermalResume (s : State) : State := { s with stopped := false }

/-- Firmware sets both clocks to a share of their nominal rates (R3, R372). -/
def State.throttle (s : State) (pct : Nat) : State := if 1 ≤ pct ∧ pct ≤ 100 then { s with clkPct := pct } else s

/-- A received PAUSE frame (R352). -/
def State.pausePort (s : State) (port : Nat) (on : Bool) : State :=
  if 7 < port ∨ !Config.pauseEnabled port then s
  else
    let m : BitVec 8 := BitVec.ofNat 8 (2 ^ port)
    if on then { s with paused := s.paused ||| m }
    else
      let s := { s with paused := s.paused &&& ~~~m }
      if s.portUp port then s.releaseHeld (s.partOfDie (port / 2)) port else s

/-! ### The host's windows (R374) -/

/-- A host write at a physical address of the partition, through the memory window. -/
def State.hostWrite (s : State) (q pa : Nat) (bs : List Byte) : State :=
  if bs.isEmpty ∨ !s.served q ∨ !s.paOk q (pa + bs.length - 1) then s else s.engStore q noPayer none (.dev pa) bs

/-- A host read: the bytes leave the device. -/
def State.hostRead (s : State) (q : Nat) (r : HostRead) : State :=
  let give (bs : List Byte) : State := { s with outbox := s.outbox ++ [.data q bs] }
  if !s.served q then s
  else match r with
    | .mem pa n => if n = 0 ∨ !s.paOk q (pa + n - 1) then s else give (s.rdHomeL q pa n)
    | .reg r => give (leBytes 8 (s.registerRead q r).toNat)
    | .log off => give (leBytes 8 (s.logRead q off).toNat)
    | .event e => give (leBytes 8 (if e < 4096 then (Sparse.rd (s.part q).events e).toNat else 0))
    | .rdy => give (leBytes 8 s.rdy.toNat)

/-- A write from the host, which a die in recovery does not serve (R366). -/
def State.fromHost (s : State) (q : Nat) (view : View) (t : State) : State := if view = .bar0 ∧ !s.served q then s else t

end Sys2Proof.Machine
end

