-- ==== Sys2Proof/Machine/Events.lean ====
section
/-! DEFINITION. The steps of the device that have no instruction word: one meaning each, over the operands that `ev` holds
(95_what_each_step_holds.md). A step whose moment has not come changes nothing. -/

namespace Sys2Proof.Machine

/-! ### Helpers -/

/-- An IFC may have fallen: a `coll` that it held (R234), splits that wait for theirs, and fuses that wait for one of the group's are looked at again (R108, R110);
a swap stops the sub-warps (R321). -/
def State.resumeSplits (s : State) (q : Nat) : State :=
  ((s.part q).warps.foldl (fun s y =>
    let w := keyRef y.1
    match (s.part q).ctx w with
    | none => s
    | some c =>
      if c.x.ifc ≠ 0 then s
      else match c.x.wait with
        | .split d v _ a => s.lateSplit q c d v a
        | .fuse .. => s.tryFuse q w
        | _ => s) (s.retestHeld q)).modPart q (fun p => p.swapStops s.now)

/-- A warp of a partition, read by a test. -/
def Part.warpIs (p : Part) (w : WRef) (f : Warp → Bool) : Bool := match p.warp w with | some x => f x | none => false

/-- A wait of R108 or R110 has lasted 4,096 cc. -/
def Warp.splitDue (x : Warp) (now : Nat) : Bool := match x.wait with | .split _ _ t _ => decide (t + 8192 ≤ now) | _ => false
def Warp.fuseDue (x : Warp) (now : Nat) : Bool := match x.wait with | .fuse _ _ _ t _ => x.stopped.isNone && decide (t + 8192 ≤ now) | _ => false

/-- A sleep is over (R113). -/
def Warp.sleepDue (x : Warp) (now : Nat) : Bool := match x.wait with | .sleep t => x.stopped.isNone && decide (t ≤ now) | _ => false

/-- A wait for a lock has reached its time (R271). -/
def Part.lockDue (p : Part) (x : Warp) (now : Nat) : Bool :=
  match x.wait with
  | .llock _ n _ _ => x.stopped.isNone && (p.lock n).waiters.any (fun w => w.uid == x.uid && (match w.left with | some t => decide (t ≤ now) | none => false))
  | _ => false

/-- A blocking `racq` has waited 65,536 cc (R104). -/
def Warp.racqDue (x : Warp) (now : Nat) : Bool :=
  match x.run with
  | some r => r.closed && r.acts.any (fun a => match a with | .racq _ _ b => !b | _ => false) && decide (r.since + 131072 ≤ now)
  | none => false

/-- A blocking `racq` gives up: it is judged as one that does not wait (R104). -/
def Run.racqNow (r : Run) : Run := { r with acts := r.acts.map (fun a => match a with | .racq d n _ => .racq d n true | a => a) }

/-- What a warp inherits now (R253, R270). -/
def Part.inherits (p : Part) (w : WRef) (x : Warp) : Nat × Nat := (p.lockInherit 8 x.uid, p.barInherit w x)

/-- The block of a grid by `bid`. -/
def Part.blockAt (p : Part) (g bid : Nat) : Option Block := p.blocks.find? (fun b => b.grid == g && b.bid == bid)

/-- The retirement of a warp, and the rendezvous that it may complete (R98, R343). -/
def State.warpRetire (s : State) (q : Nat) (w : WRef) : State :=
  match (s.part q).warp w with
  | none => s
  | some x => if decide (x.wait = .retire) && x.ifc == 0 then (s.modPart q (fun p => p.retireWarp w)).retestColl q x.block else s

/-! ### Runs and queues (R35, R75-R78) -/

def execCommit (s : State) : Result := withEvent s (fun s q e => match e with | .commit w => some (s.tryCommit q w) | _ => none)
def execQtail (s : State) : Result := withEvent s (fun s q e => match e with | .qtail i v view => some (s.fromHost q view (s.writeTail q i v)) | _ => none)
def execResume (s : State) : Result := withEvent s (fun s q e => match e with | .resume i view => some (s.fromHost q view (s.unhalt q i false)) | _ => none)
def execSkip (s : State) : Result := withEvent s (fun s q e => match e with | .skip i view => some (s.fromHost q view (s.unhalt q i true)) | _ => none)
def execRegisterWrite (s : State) : Result :=
  withEvent s (fun s q e => match e with | .register_write r v view => some (s.fromHost q view (s.registerWrite q r v view)) | _ => none)
def execEventCounterWrite (s : State) : Result :=
  withEvent s (fun s q e => match e with
    | .event_counter_write n v => some (if n < 4096 then s.fromHost q .bar0 (s.modPart q (fun p => p.setEvent n v)) else s)
    | _ => none)

/-! ### Launching and placing (R76-R87, R189) -/

def execRecordAccept (s : State) : Result := withEvent s (fun s q e => match e with | .record_accept i => some (s.recordAccept q i) | _ => none)
def execGridStart (s : State) : Result := withEvent s (fun s q e => match e with | .grid_start g => some (s.modPart q (fun p => p.startGrid g)) | _ => none)
def execPlacementPass (s : State) : Result :=
  withEvent s (fun s q e => match e with | .placement_pass => some (s.placementPass q (s.restoreFloor q)) | _ => none)
def execHeadGangReserve (s : State) : Result := withEvent s (fun s q e => match e with | .head_gang_reserve => some (s.reserveHead q) | _ => none)
def execDonation (s : State) : Result :=
  withEvent s (fun s q e => match e with | .donation g c => some (s.modPart q (fun p => p.modGrid g (fun x => x.donate c))) | _ => none)
def execReservedInject (s : State) : Result :=
  withEvent s (fun s q e => match e with | .reserved_inject w => some (if s.injectDue q w then (s.injectOne q w).tryCommit q w else s) | _ => none)
def execCarveoutInterval (s : State) : Result :=
  withEvent s (fun s q e => match e with | .carveout_interval => some (if s.carveDue q then s.carveInterval q else s) | _ => none)

/-! ### Retirement (R98, R358) -/

def execWarpRetire (s : State) : Result := withEvent s (fun s q e => match e with | .warp_retire w => some (s.warpRetire q w) | _ => none)
def execBlockRetire (s : State) : Result :=
  withEvent s (fun s q e => match e with
    | .block_retire g bid => some (match (s.part q).blockAt g bid with
      | some b => if (s.part q).blockDone b then s.modPart q (fun p => p.retireBlock b s.now) else s
      | none => s)
    | _ => none)
def execGridComplete (s : State) : Result :=
  withEvent s (fun s q e => match e with
    | .grid_complete g => some (match (s.part q).grid? g with
      | some x => if (s.part q).gridDone x then s.completeGrid q x else s
      | none => s)
    | _ => none)

/-! ### Engines (R197, R233-R250) -/

def execParkedPlacement (s : State) : Result := withEvent s (fun s q e => match e with | .parked_placement => some (s.drainOne q) | _ => none)
def execCopyUnit (s : State) : Result := withEvent s (fun s q e => match e with | .copy_unit c => some ((s.copyStep q c).wakeAb q) | _ => none)
def execCopyCompletion (s : State) : Result :=
  withEvent s (fun s q e => match e with | .copy_completion c => some ((s.copyDone q c).resumeSplits q) | _ => none)
def execProductStart (s : State) : Result :=
  withEvent s (fun s q e => match e with | .product_start g t => some (s.modPart q (fun p => p.productStart g t s.now)) | _ => none)
def execProductLand (s : State) : Result :=
  withEvent s (fun s q e => match e with | .product_land g t chk => some ((s.productLand q g t chk).resumeSplits q) | _ => none)

/-! ### Locks and waits (R104, R108, R110, R113, R269-R271) -/

def execLockReleaseArrive (s : State) : Result :=
  withEvent s (fun s q e => match e with | .lock_release_arrive => some (s.releaseArrives q) | _ => none)
def execLockGrant (s : State) : Result := withEvent s (fun s q e => match e with | .lock_grant => some (s.grantArrives q) | _ => none)
def execLockTimeout (s : State) : Result :=
  withEvent s (fun s q e => match e with
    | .lock_timeout w => some (if (s.part q).warpIs w (fun x => (s.part q).lockDue x s.now) then s.modPart q (fun p => p.lockTimeout w) else s)
    | _ => none)
def execInheritHop (s : State) : Result :=
  withEvent s (fun s q e => match e with
    | .inherit_hop w => some (s.modPart q (fun p => p.modWarp w (fun x => let i := p.inherits w x; { x with linh := i.1, binh := i.2 })))
    | _ => none)
def execRacqTimeout (s : State) : Result :=
  withEvent s (fun s q e => match e with
    | .racq_timeout w => some (if (s.part q).warpIs w (fun x => x.racqDue s.now) then
        (s.modW q w (fun x => { x with run := x.run.map Run.racqNow })).tryCommit q w
      else s)
    | _ => none)
def execSplitTimeout (s : State) : Result :=
  withEvent s (fun s q e => match e with
    | .split_timeout w => some (match (s.part q).ctx w with
      | some c => (match c.x.wait with
        | .split d v _ a => if c.x.splitDue s.now then (s.lateSplit q c d v a).modPart q (fun p => p.swapStops s.now) else s
        | _ => s)
      | none => s)
    | _ => none)
def execFuseTimeout (s : State) : Result :=
  withEvent s (fun s q e => match e with
    | .fuse_timeout w => some (if (s.part q).warpIs w (fun x => x.fuseDue s.now) then s.modPart q (fun p => p.fuseTimeout w) else s)
    | _ => none)
def execSleepExpiry (s : State) : Result :=
  withEvent s (fun s q e => match e with
    | .sleep_expiry w => some (if (s.part q).warpIs w (fun x => x.sleepDue s.now) then s.modW q w (fun x => { x with wait := .none }) else s)
    | _ => none)

/-! ### Swapping and the supervisor (R319-R327) -/

def execSafepointForce (s : State) : Result :=
  withEvent s (fun s q e => match e with
    | .safepoint_force w => some (if (s.part q).forceDue w s.now then s.modPart q (fun p => p.stopWarp w 0x3FFFF s.now) else s)
    | _ => none)
def execSwapImageWrite (s : State) : Result :=
  withEvent s (fun s q e => match e with | .swap_image_write u => some ((s.imageWrite q u).resumeSplits q) | _ => none)
def execRestore (s : State) : Result :=
  withEvent s (fun s q e => match e with | .restore => some (if s.restoreDue q then (s.restoreUnit q).resumeSplits q else s) | _ => none)
def execUnitKill (s : State) : Result := withEvent s (fun s q e => match e with | .unit_kill u => some (s.killUnit q u) | _ => none)
def execTlbiComplete (s : State) : Result := withEvent s (fun s q e => match e with | .tlbi_complete => some (s.modPart q (fun p => p.tlbiComplete)) | _ => none)
def execRecordPost (s : State) : Result := withEvent s (fun s q e => match e with | .record_post => some (s.recordPost q) | _ => none)
def execAged (s : State) : Result := withEvent s (fun s q e => match e with | .aged w => some (s.modPart q (fun p => p.postAged w s.now)) | _ => none)

/-! ### Collectives and frames (R343-R352) -/

def execCollInstanceEnd (s : State) : Result :=
  withEvent s (fun s q e => match e with
    | .coll_instance_end h g => some (if (s.part q).instReady h g then (s.instEnd q h g).resumeSplits q else s)
    | _ => none)
def execCollTimeout (s : State) : Result := withEvent s (fun s q e => match e with | .coll_timeout h g => some (s.instTimeout q h g) | _ => none)
def execData (s : State) : Result := withEvent s (fun s q e => match e with | .data f => some (s.rxData q f false) | _ => none)
def execCounts (s : State) : Result := withEvent s (fun s q e => match e with | .counts f => some (s.rxData q f true) | _ => none)
def execAck (s : State) : Result := withEvent s (fun s q e => match e with | .ack f => some (s.rxAck q f) | _ => none)
def execAbortFrame (s : State) : Result := withEvent s (fun s q e => match e with | .abort_frame f => some (s.rxAbort q f) | _ => none)
def execRetransmit (s : State) : Result :=
  withEvent s (fun s q e => match e with | .retransmit i => some (if s.resendDue q i then s.resend q i else s) | _ => none)
def execPause (s : State) : Result := withEvent s (fun s _ e => match e with | .pause i on => some (s.pausePort i on) | _ => none)

/-! ### The host and the firmware (R359-R374) -/

def execHostWrite (s : State) : Result := withEvent s (fun s q e => match e with | .host_write pa bs => some (s.hostWrite q pa bs) | _ => none)
def execHostRead (s : State) : Result := withEvent s (fun s q e => match e with | .host_read r => some (s.hostRead q r) | _ => none)
def execMergeRequest (s : State) : Result := withEvent s (fun s _ e => match e with | .merge_request q => some (s.mergeRequest (q % 4)) | _ => none)
def execDivideRequest (s : State) : Result := withEvent s (fun s _ e => match e with | .divide_request q => some (s.divideRequest (q % 4)) | _ => none)
def execDeviceReset (s : State) : Result := withEvent s (fun s _ e => match e with | .device_reset => some s.deviceReset | _ => none)
def execBootStage (s : State) : Result := withEvent s (fun s _ e => match e with | .boot_stage d im => some (s.bootStage d im) | _ => none)
def execPartitionReset (s : State) : Result := withEvent s (fun s _ e => match e with | .partition_reset q => some (s.partitionReset (q % 4)) | _ => none)
def execAttestationReport (s : State) : Result := withEvent s (fun s q e => match e with | .attestation_report n => some (s.attest q n) | _ => none)
def execUnitReady (s : State) : Result := withEvent s (fun s _ e => match e with | .unit_ready u => some (s.unitReady u) | _ => none)
def execCorrectedError (s : State) : Result :=
  withEvent s (fun s d e => match e with | .corrected_error x spare => some (s.correctedError d x spare) | _ => none)
def execKilnReplan (s : State) : Result := withEvent s (fun s _ e => match e with | .kiln_replan c m => some (s.replan c m) | _ => none)
def execThermalStop (s : State) : Result := withEvent s (fun s _ e => match e with | .thermal_stop => some s.thermalStop | _ => none)
def execThermalResume (s : State) : Result := withEvent s (fun s _ e => match e with | .thermal_resume => some s.thermalResume | _ => none)
def execPowerThrottle (s : State) : Result := withEvent s (fun s _ e => match e with | .power_throttle n => some (s.throttle n) | _ => none)

end Sys2Proof.Machine
end

