-- ==== Sys2Proof/Machine/Fetch.lean ====
section
/-! DEFINITION. Fetching code: the words that R116 admits, and the decoding of what is fetched. -/

namespace Sys2Proof.Machine

/-- One word of a kernel's code, translated with permission X (R116): OPERAND with DETAIL 0 outside the code; an uncorrectable sector is MEMUE (R208).
R116 lets a fetch after a store to running code see the old or the new word: the model reads the bytes that the home holds now, on each pass (DESIGN CHOICE,
log 35). -/
def State.fetchWord (s : State) (q : Nat) (c : Ctx) (va : W64) : Except Fail W32 :=
  if !c.grid.k.target va then .error ⟨.operand, 0⟩
  else match regionOf va with
    | .global =>
      match s.translate q c.w.core va.toNat with
      | .error f => .error f
      | .ok l =>
        if !l.x then .error (protFail ⟨false, false, true⟩ (some l))
        else
          let x := l.place va.toNat
          if s.ueBelow q (some (cluOf c.w.core)) x then .error ⟨.memue, BitVec.ofNat 64 x.addr⟩
          else match x with
            | .dev pa => .ok (BitVec.ofNat 32 (leNat (s.rdHomeL q pa 4)))
            | .host pa => .ok (BitVec.ofNat 32 (leNat ((List.range 4).map (fun i => s.rdHost (pa + i)))))
            | .scratch .. => .error (xlateFail 0)
    | _ => .error (xlateFail 0)

/-- The address of the packet of a fetch that a router drops, if any (R338, R361): of its page walk, or of the fetch itself, which its cluster's cache does not serve. -/
def State.fetchBarred (s : State) (q : Nat) (c : Ctx) (va : W64) : Option Nat :=
  if !c.grid.k.target va then none
  else match s.barredWalk q c.w.core va with
    | pa :: _ => some pa
    | [] => match s.translate q c.w.core va.toNat with
      | .error _ => none
      | .ok l => match regionOf va, l.place va.toNat with
        | .global, .dev pa => if l.x && (((s.part q).clu (cluOf c.w.core)).copy false pa).isNone && s.barred q c.w.core pa then some pa else none
        | _, _ => none

/-- The translations of the words that are fetched enter the TLBs (R187). -/
def State.fetchFill (s : State) (iss : Issue) : State :=
  (List.range (iss.len / 4)).foldl (fun s i =>
    match s.translate iss.q iss.w.core (iss.addr + BitVec.ofNat 64 (4 * i)).toNat with
    | .ok l => s.modPart iss.q (fun p => p.tlbFill iss.w.core l)
    | .error _ => s) s

end Sys2Proof.Machine
end

