-- ==== Sys2Proof/Machine/Agents.lean ====
section
/-! DEFINITION. What can happen next: the warps that the cores grant issue to, with their fetched words, and the device's own steps whose moment has
come (R116-R119, 95_what_each_step_holds.md). The machine takes one of them a step (log 3). -/

namespace Sys2Proof.Machine

/-! ### Fetching a warp's word (R116) -/

/-- What a warp's fetch brings: an instruction, a condition of the word at its pc, or nothing, because a router has dropped its packet, to an address (R338, R361). -/
inductive Supply where
  | run (iss : Issue) (i : Instr)
  | lost (iss : Issue) (pa : Nat)
  | fail (iss : Issue) (cause : Cause) (acc : Acc) (addr : W64) (detail : W64)
  deriving DecidableEq, Repr

/-- The address of the next word: the run's next, or the pc between runs. -/
def Warp.nextPc (x : Warp) : W64 := match x.run with | some r => r.next | none => x.pc

/-- A fetch that failed at an address: OPERAND has no address of its own. -/
def failedFetch (q : Nat) (w : WRef) (a at_ : W64) (len : Nat) (pfxWord : W32) (f : Fail) : Supply :=
  .fail ⟨q, w, a, len, false, .none, 0, pfxWord⟩ f.cause .fetch (if f.cause = .operand then 0 else at_) f.detail

/-- What decoded words are to a warp: an illegal word is ILLEGAL with the words as DETAIL (R53, R317). -/
def supplyOf (q : Nat) (w : WRef) (a : W64) (f : Fetched) : Supply :=
  match f with
  | .ok x v p n => .run ⟨q, w, a, n, x.bung, x.pfx, v, p⟩ x.i
  | .illegal v p n => .fail ⟨q, w, a, n, false, .none, v, p⟩ .illegal .read 0 (BitVec.ofNat 64 (v.toNat + p.toNat * 2 ^ 32))
  | .short => .fail ⟨q, w, a, 4, false, .none, 0, 0⟩ .illegal .read 0 0

/-- Fetch and decode a warp's next word, with the word that its prefix word stands before; a prefix word that ends its run stands before none (R43, R116). -/
def State.supply (s : State) (q : Nat) (c : Ctx) : Supply :=
  let a := c.x.nextPc
  match s.fetchBarred q c a, s.fetchWord q c a with
  | some pa, _ => .lost ⟨q, c.w, a, 4, false, .none, 0, 0⟩ pa
  | none, .error f => failedFetch q c.w a a 4 0 f
  | none, .ok v =>
    if isPfx v && !bungOf v then
      match s.fetchBarred q c (a + 4), s.fetchWord q c (a + 4) with
      | some pa, _ => .lost ⟨q, c.w, a, 8, false, .none, 0, v⟩ pa
      | none, .error f => failedFetch q c.w a (a + 4) 8 v f
      | none, .ok u => supplyOf q c.w a (decodeBytes (bytesOfWord v ++ bytesOfWord u))
    else supplyOf q c.w a (decodeBytes (bytesOfWord v))

/-- A word that does not reach its meaning: its condition stops the run (R54, R116). -/
def Env.fetchCond (e : Env) (cause : Cause) (acc : Acc) (addr detail : W64) : Word :=
  { Word.ofCond (e.condOn cause e.c.x.path addr acc 0 detail) with fatal := true }

/-- The warp takes the condition of its fetch. -/
def State.failWord (s : State) (iss : Issue) (cause : Cause) (acc : Acc) (addr detail : W64) : State :=
  match (s.part iss.q).ctx iss.w with
  | none => s
  | some c => s.issueWord iss c ([], []) true (fun _ e => e.fetchCond cause acc addr detail)

/-- The packet of the warp's fetch has been dropped: that is logged, and its word never comes, so that its run never commits (R338, R361; log 61). -/
def State.lostWord (s : State) (iss : Issue) (pa : Nat) : State :=
  match (s.part iss.q).ctx iss.w with
  | none => s
  | some c => (s.logBarred iss.q [pa]).issueWord iss c ([], []) true (fun _ _ => { Word.nil with waits := [.dropped], fatal := true })

/-! ### Ready warps and the grant (R118, R119) -/

/-- The registers that a supplied word names. -/
def Supply.regs (x : Supply) (wb : Nat) : List Nat × List Nat := match x with | .run iss i => physRegs wb i iss.pfx | _ => ([], [])

/-- A warp with the word it would issue. -/
structure Ready where
  c : Ctx
  word : Supply
  deriving DecidableEq, Repr

/-- A warp of a context, if it is ready (R118); under a thermal stop only a run that is open goes on (R372). -/
def State.ready (s : State) (q : Nat) (w : WRef) : Option Ready :=
  match (s.part q).ctx w with
  | none => none
  | some c =>
    if s.stopped && c.x.run.isNone then none
    else if !c.x.takes ([], []) then none
    else
      let v := s.supply q c
      if c.x.takes (v.regs c.x.wb) then some ⟨c, v⟩ else none

/-- One ready warp goes before another: priority, age, base (R119). -/
def Ready.before (a b : Ready) : Bool :=
  decide (b.c.x.eff < a.c.x.eff) || (a.c.x.eff == b.c.x.eff && (decide (a.c.x.last < b.c.x.last) || (a.c.x.last == b.c.x.last && decide (a.c.x.base < b.c.x.base))))

/-- Insert a ready warp in the order of R119; of two equal in all of it, which can be where warps share lanes, the one of the lower context goes first, of which R119 says
nothing (DESIGN CHOICE, log 66). -/
def insReady (a : Ready) : List Ready → List Ready
  | [] => [a]
  | b :: l => if a.before b then a :: b :: l else b :: insReady a l

/-- Those that one cc grants: in order, each whose slices no earlier one has (R119). -/
def grants (l : List Ready) : List Ready :=
  (l.foldl (fun (r : List Ready × List Nat) a => if a.c.x.slices.any (fun i => r.2.contains i) then r else (r.1 ++ [a], r.2 ++ a.c.x.slices)) ([], [])).1

/-- The words that the cores of a partition grant. -/
def State.granted (s : State) (q : Nat) : List Ready :=
  let ws := ((s.part q).warps.map (fun y => keyRef y.1)).filterMap (fun w => s.ready q w)
  ((ws.map (fun a => a.c.w.core)).dedup).flatMap (fun g => grants ((ws.filter (fun a => a.c.w.core == g)).foldl (fun l a => insReady a l) []))

/-! ### The device's own steps -/

/-- A list of one, or none. -/
def onlyIf {α : Type} (b : Bool) (x : α) : List α := if b then [x] else []

/-- A refill that waits for a donation: the grid and the cluster (R85, R101). -/
def Part.donationFor (p : Part) (c : Ctx) : List Event :=
  match c.x.run with
  | some r => onlyIf (r.closed && decide (r.term = .refill) && !p.termReady c r.term) (.donation c.grid.seq (cluOf c.w.core))
  | none => []

/-- Steps of a warp. -/
def State.warpEvents (s : State) (q : Nat) (w : WRef) : List Event :=
  let p := s.part q
  match p.ctx w with
  | none => []
  | some c =>
    let x := c.x
    let closed : List Event := match x.run with
      | some r => if r.closed then
          onlyIf (p.runReady c r) (.commit w) ++ onlyIf (s.injectDue q w) (.reserved_inject w) ++ onlyIf (x.racqDue s.now) (.racq_timeout w)
        else []
      | none => []
    closed ++ p.donationFor c ++
    onlyIf (decide (x.wait = .retire) && x.ifc == 0) (.warp_retire w) ++
    onlyIf (p.lockDue x s.now) (.lock_timeout w) ++
    onlyIf (p.inherits w x != (x.linh, x.binh)) (.inherit_hop w) ++
    onlyIf (x.splitDue s.now) (.split_timeout w) ++
    onlyIf (x.fuseDue s.now) (.fuse_timeout w) ++
    onlyIf (x.sleepDue s.now) (.sleep_expiry w) ++
    onlyIf (p.forceDue w s.now) (.safepoint_force w) ++
    onlyIf (p.agedDue w s.now) (.aged w)

/-- Steps of grids, blocks and the placer. -/
def State.gridEvents (s : State) (q : Nat) : List Event :=
  let p := s.part q
  (p.queues.flatMap (fun u => onlyIf (s.hasRecord q u.1) (.record_accept u.1))) ++
  (p.grids.flatMap (fun g => onlyIf (p.mayStartGrid g) (.grid_start g.seq) ++ onlyIf (p.gridDone g) (.grid_complete g.seq))) ++
  (p.blocks.flatMap (fun b => onlyIf (p.blockDone b) (.block_retire b.grid b.bid))) ++
  onlyIf (s.passDue q (s.restoreFloor q)) .placement_pass ++
  onlyIf (s.reserveDue q) .head_gang_reserve ++
  onlyIf (s.carveDue q) .carveout_interval

/-- The clusters whose copy engines may have something to do. -/
def Part.copyClusters (p : Part) : List Nat :=
  (((p.cores.filter (fun k => !k.2.copyQ.isEmpty)).map (fun k => cluOf k.1)) ++ ((p.clusters.filter (fun k => !k.2.active.isEmpty)).map (fun k => k.1))).dedup

/-- Steps of a core's tuns (R249); the self-test's outcome is the outside world's, and a check that nothing makes fail passes (R250). -/
def tunEvents (g : Nat) (k : Core) (now : Nat) : List Event :=
  (List.range 4).flatMap (fun i =>
    let t := k.tuns.rd i
    if t.queue.isEmpty then []
    else match t.landing with
      | none => [.product_start g i]
      | some at_ => onlyIf (decide (at_ ≤ now)) (.product_land g i .pass))

/-- Steps of the engines. -/
def State.engineEvents (s : State) (q : Nat) : List Event :=
  let p := s.part q
  onlyIf (!p.placeQ.isEmpty) .parked_placement ++
  p.copyClusters.flatMap (fun c => onlyIf (p.copyReady c) (.copy_unit c) ++ onlyIf ((p.clu c).active.any (fun x => p.cmdOver x)) (.copy_completion c)) ++
  p.cores.flatMap (fun k => tunEvents k.1 k.2 s.now) ++
  onlyIf (p.locks.any (fun l => p.handReady l)) .lock_release_arrive ++
  onlyIf (p.locks.any (fun l => l.grant.isSome)) .lock_grant

/-- Steps of the supervisor's machinery and of the links. -/
def State.serviceEvents (s : State) (q : Nat) : List Event :=
  let p := s.part q
  (p.swaps.flatMap (fun x => onlyIf (p.imageReady x) (.swap_image_write x.gang) ++ onlyIf (p.killReady x) (.unit_kill x.gang))) ++
  onlyIf (s.restoreDue q) .restore ++
  onlyIf (p.shoot.any (fun x => p.tlbiDone x)) .tlbi_complete ++
  onlyIf (s.recordDue q) .record_post ++
  (p.handles.flatMap (fun h => ((h.2.flight.map (fun i => i.gcore)).dedup).flatMap (fun g =>
    onlyIf (p.instReady h.1 g) (.coll_instance_end h.1 g) ++
    onlyIf (h.2.flight.any (fun i => i.gcore == g && i.overdue h.2.tmo s.now)) (.coll_timeout h.1 g)))) ++
  (p.peers.flatMap (fun x => onlyIf (s.resendDue q x.1) (.retransmit x.1)))

/-- Something that can happen next: a device step of a partition, or the issue of a word. -/
inductive Agent where
  | event (q : Nat) (e : Event)
  | word (q : Nat) (w : WRef) (x : Supply)
  deriving DecidableEq, Repr

/-- Everything that can happen next in a partition. -/
def State.agentsOf (s : State) (q : Nat) : List Agent :=
  let p := s.part q
  (((p.warps.flatMap (fun y => s.warpEvents q (keyRef y.1))) ++ s.gridEvents q ++ s.engineEvents q ++ s.serviceEvents q).map (fun e => .event q e)) ++
  (s.granted q).map (fun a => .word q a.c.w a.word)

/-- Everything that can happen next. -/
def State.agents (s : State) : List Agent := ((List.range 4).filter (fun q => (s.reg q).state != 0)).flatMap (fun q => s.agentsOf q)

/-- The one that happens: the only one, or one that the schedule picks (log 3). -/
def State.pick (s : State) (l : List Agent) : Option Agent :=
  match l with
  | [] => none
  | [a] => some a
  | l => l[Config.schedule s.tick % l.length]?

/-- A step's passing of time: the model counts one cc (log 2). -/
def State.ticked (s : State) : State := { s with now := s.now + 2, tick := s.tick + 1 }

/-- Time passes, and error records that have arisen go into their rings (R370). -/
def State.elapsed (s : State) : State := s.ticked.logged

/-! ### A device that fetches one given instruction next -/

/-- The code address of the model's own fetch state. -/
def probeVa : Nat := 0x10000

/-- A kernel whose code is one instruction. -/
def probeKernel : KDesc where
  addr := 0x1000
  entry := BitVec.ofNat 64 probeVa
  refill := 0
  thnd := 0
  bregs := 8
  xregs := 8
  width := 32
  bwarps := 1
  gangm1 := 0
  oct := false
  race := false
  scr := 8
  cvlo := 4
  cvhi := 20
  spill := 0
  spillBase := 0
  safegap := 1
  codeBase := BitVec.ofNat 64 probeVa
  codeSz := 8

/-- A started grid whose supply is exhausted. -/
def probeGrid : Grid where
  seq := 0
  queue := 0
  k := probeKernel
  l := ⟨0x1000, 32, 0, 0, 0, [], none, none, 0, 0, false, false⟩
  prio := 0
  held := []
  started := true
  pooled := false
  ranges := [⟨0, 32, 32⟩]
  gangs := 1
  triggered := false

/-- Its one warp: 32 live lanes at the first word. -/
def probeWarp (now : Nat) : Warp :=
  let x := (freshWarp 0 0 0 0 now probeGrid (0, 0)).1
  { x with lanes := (List.range 32).map (fun l => ⟨.live, BitVec.ofNat 32 l, lfsrBase ^^^ BitVec.ofNat 32 (l + 1), 0x40⟩) }

/-- A partition that holds only that warp, with page tables at 0x2000. -/
def probePart (now : Nat) : Part :=
  { Part.reset with
    csr := { PCsr.reset with ptbase := 0x2001 }
    t0 := now
    grids := [probeGrid]
    gridSeq := 1
    gangs := [⟨0, 0, [0], ⟨0, 0, 0⟩, 1⟩]
    gangSeq := 1
    blocks := [⟨0, 0, 0, 0, 0, 0, 0, 1024, freshBars, true⟩]
    blockSeq := 1
    warps := [(0, probeWarp now)]
    warpSeq := 1 }

/-- The two table entries: a pointer to 0x3000, and a leaf that maps the first GiB onto itself with R, W and X. -/
def probeTables : List (Nat × Nat) := [(0x2000, 0x3001), (0x3000, 0x101F)]

/-- Quarter 0 holds that warp, the other quarters are idle, nothing waits from outside, and the bytes stand at the warp's pc. -/
def State.probe (s : State) (bytes : List Byte) : State :=
  let s := { s with
    cur := none
    ev := none
    inbox := []
    stopped := false
    ue := []
    regs := ⟨{ QRegs.reset 0 with state := 2 }, QRegs.reset 1, QRegs.reset 2, QRegs.reset 3⟩
    parts := ⟨probePart s.now, { Part.reset with t0 := s.now }, { Part.reset with t0 := s.now }, { Part.reset with t0 := s.now }⟩ }
  let s := probeTables.foldl (fun s x => s.wrDramL 0 x.1 (leBytes 8 x.2)) s
  s.wrDramL 0 probeVa bytes

end Sys2Proof.Machine
end

