-- ==== Sys2Proof/Machine/AsyncWords.lean ====
section
/-! DEFINITION. The asynchronous words: copies, tags and the matrix tuns (R238-R251). -/

namespace Sys2Proof.Machine

/-! ### ASYNC (R238-R242) -/

/-- The PROT condition of a scratchpad range that a copy names, if it is one and does not fit (R183, R184, R239). -/
def State.rangeFail (s : State) (e : Env) (va : W64) (n : Nat) (acc : Acc) (need : Need) : Option Cond :=
  let test (cluster : Bool) : Option Cond :=
    if ((s.part e.q).scratchLoc e.c.blk cluster va.toNat n).isSome then none else some (e.at_ .prot va acc 0 (protFail need none).detail)
  match regionOf va with
  | .loc => test false
  | .cluster => test true
  | _ => none

/-- A copy word: OPERAND where its limits are broken, the condition of its ranges, or the command. -/
def Env.copyWord (e : Env) (t : BitVec 6) (ok : Bool) (fail : Option Cond) (k : CopyKind) : Word :=
  if !ok then e.operand else match fail with | some c => .ofCond c | none => .ofTerm (.copy t.toNat k)

/-- What a copy asks of its source and its destination. -/
def needR : Need := ⟨true, false, false⟩
def needW : Need := ⟨false, true, false⟩

/-- `cpy` (R239). Where the destination and the source range both fail, the condition holds the destination's address (DESIGN CHOICE, log 57). -/
def State.cpyWord (s : State) (e : Env) (t : BitVec 6) (a b : Reg) : Word :=
  let dst := e.srcS a
  let src := e.srcS1 a
  let n := (e.srcS b).toNat
  e.copyWord t (n % 16 == 0 && decide (16 ≤ n ∧ n ≤ 2 ^ 24) && dst.toNat % 16 == 0 && src.toNat % 16 == 0)
    (Cond.first (s.rangeFail e dst n .write needW) (s.rangeFail e src n .read needR)) (.cpy dst src n)

/-- `cpy2d` (R240). -/
def State.cpy2dWord (s : State) (e : Env) (t : BitVec 6) (a b : Reg) : Word :=
  let dst := e.srcS a
  let src := e.srcS1 a
  let pd := bits (e.srcS b).toNat 31 0
  let ps := bits (e.srcS b).toNat 63 32
  let l := bits (e.srcS1 b).toNat 31 0
  let r := bits (e.srcS1 b).toNat 63 32
  e.copyWord t (l % 16 == 0 && decide (16 ≤ l ∧ l ≤ 65536) && decide (1 ≤ r ∧ r ≤ 65536) && pd % 16 == 0 && ps % 16 == 0 && decide (l ≤ pd ∧ l ≤ ps) &&
      dst.toNat % 16 == 0 && src.toNat % 16 == 0)
    (Cond.first (s.rangeFail e dst ((r - 1) * pd + l) .write needW) (s.rangeFail e src ((r - 1) * ps + l) .read needR)) (.cpy2d dst src pd ps l r)

/-- The target of `cpybs` and `bsz` (R241). -/
def State.bstoreOk (s : State) (e : Env) (v n : Nat) : Bool :=
  bits v 31 20 == 0 && v / 2 ^ 36 == 0 && bits v 19 0 % 128 == 0 && n % 128 == 0 && decide (128 ≤ n ∧ bits v 19 0 + n ≤ 2 ^ 20) && bits v 35 32 != 0 &&
  (List.range 4).all (fun i => !bitN v (32 + i) || ((s.part e.q).blockStrips e.c.blk.id).contains i)

/-- `cpybs` and `bsz`. -/
def State.cpybsWord (s : State) (e : Env) (t : BitVec 6) (a b : Reg) : Word :=
  let v := (e.srcS a).toNat
  let src := e.srcS1 a
  let n := (e.srcS b).toNat
  e.copyWord t (s.bstoreOk e v n && src.toNat % 16 == 0) (s.rangeFail e src n .read needR) (.cpybs (bits v 19 0) (bits v 35 32) src n)
def State.bszWord (s : State) (e : Env) (t : BitVec 6) (a b : Reg) : Word :=
  let v := (e.srcS a).toNat
  let n := (e.srcS b).toNat
  e.copyWord t (s.bstoreOk e v n) none (.bsz (bits v 19 0) (bits v 35 32) n)

/-- The block of the issuer's gang on core `k` of its cluster. -/
def State.gangBlock (s : State) (e : Env) (k : Nat) : Option Block :=
  (s.part e.q).blocks.find? (fun x => x.gang == e.c.gang.id && x.core == cluOf e.c.w.core * 48 + k)

/-- What `mcrd` checks of its source's region (R242). -/
def Env.mcrdSource (e : Env) (va : W64) : Option Cond :=
  match regionOf va with
  | .global => none
  | .none => some (e.at_ .xlate va .read 0 0)
  | _ => some (e.at_ .prot va .read 0 (protFail needR none).detail)

/-- `mcrd` (R242). -/
def State.mcrdWord (s : State) (e : Env) (t : BitVec 6) (a b : Reg) : Word :=
  let src := e.srcS a
  let o := (e.srcS1 a).toNat
  let v := (e.srcS b).toNat
  let n := bits v 56 48 + 1
  let cores := (List.range 48).filter (fun k => bitN v k)
  let ok := src.toNat % 128 == 0 && decide (o < 2 ^ 32) && o % 128 == 0 && v / 2 ^ 57 == 0 && !cores.isEmpty && cores.all (fun k => (s.gangBlock e k).isSome)
  let fits := cores.all (fun k => match s.gangBlock e k with | some x => decide (o + 128 * n ≤ x.scrLen) | none => true)
  e.copyWord t ok
    (Cond.first (e.mcrdSource src) (if fits then none else some (e.at_ .prot (BitVec.ofNat 64 (0xFFFF * 2 ^ 48 + o)) .write 0 (protFail needW none).detail)))
    (.mcrd src o (bits v 47 0) n)

def execCpy (t : BitVec 6) (a b : Reg) (s : State) : Result := withWord s (.cpy t a b) (fun s e => s.cpyWord e t a b)
def execCpy2d (t : BitVec 6) (a b : Reg) (s : State) : Result := withWord s (.cpy2d t a b) (fun s e => s.cpy2dWord e t a b)
def execCpybs (t : BitVec 6) (a b : Reg) (s : State) : Result := withWord s (.cpybs t a b) (fun s e => s.cpybsWord e t a b)
def execBsz (t : BitVec 6) (a b : Reg) (s : State) : Result := withWord s (.bsz t a b) (fun s e => s.bszWord e t a b)
def execMcrd (t : BitVec 6) (a b : Reg) (s : State) : Result := withWord s (.mcrd t a b) (fun s e => s.mcrdWord e t a b)

/-! ### Tags (R243-R245) -/

/-- A word that waits in its run's park. -/
def Word.ofWait (k : ParkWait) : Word := { Word.nil with waits := [k] }

def execTwall (a : Reg) (s : State) : Result := withWord s (.twall a) (fun _ e => .ofWait (.twall (e.srcS a)))
def execTwany (a : Reg) (s : State) : Result :=
  withWord s (.twany a) (fun _ e => if e.srcS a = 0 then e.operand else .ofWait (.twany (e.srcS a)))
def execTff (d a : Reg) (s : State) : Result :=
  withWord s (.tff d a) (fun _ e => .ofActs (putS d (BitVec.ofNat 64 ((lowBit 64 0 (e.run.trdy0 &&& e.srcS a).toNat).getD 64))))
def execTclr (a : Reg) (s : State) : Result := withWord s (.tclr a) (fun _ e => .ofActs [.tclr (e.srcS a)])
def execTrd (d : Reg) (s : State) : Result := withWord s (.trd d) (fun _ e => .ofActs (putS d e.run.trdy0))

/-! ### The matrix tuns (R246-R251) -/

/-- Bytes of a tile (R246). -/
def tileBytes (nb : Nat) : Nat := 2048 * nb + 512

/-- `mma`: OPERAND where the groups meet, the tile offset is bad or no tun can run a strip; WIDTH below 32 lanes (R247, R248, R250). -/
def Env.mmaWord (e : Env) (z : BitVec 1) (x : BitVec 2) (y : BitVec 1) (d a b : Reg) : Word :=
  let na := actWidth x
  let nb := weightWidth y
  let wb := e.c.x.wb
  let d0 := physReg wb d.toNat
  let a0 := physReg wb a.toNat
  let sc := scaleAt wb e.iss.pfx a na
  let tile := (e.srcS b).toNat
  let apart := ((List.range (8 * na)).map (fun k => a0 + k) ++ scaleRegs sc).all (fun r => !decide (d0 ≤ r ∧ r < d0 + 64))
  if !apart || tile % 512 != 0 || decide (2 ^ 20 < tile + tileBytes nb) || e.c.x.strips.any e.core.noTun then e.operand
  else if e.c.x.width < 32 then e.width
  else .ofTerm (.mma (z == 1) na nb d0 a0 sc tile e.act)

def execMma (z : BitVec 1) (x : BitVec 2) (y : BitVec 1) (d a b : Reg) (s : State) : Result :=
  withWord s (.mma z x y d a b) (fun _ e => e.mmaWord z x y d a b)

/-- `mxst` (R251): the state at run start, and the sticky bits that it reports cleared. -/
def execMxst (d : Reg) (s : State) : Result :=
  withWord s (.mxst d) (fun _ e => .ofActs (putS d e.run.mx0 ++ [.mxclr (BitVec.ofNat 4 (bits e.run.mx0.toNat 35 32))]))

end Sys2Proof.Machine
end

