-- ==== Sys2Proof/Machine/Control.lean ====
section
/-! DEFINITION. Control flow: branches, calls, tables, joins, loops (R125-R134). -/

namespace Sys2Proof.Machine

/-! ### Branches and calls (R125-R129) -/

/-- The target of a J-format word (R126). -/
def Env.jump (e : Env) (o : BitVec 20) : W64 := e.iss.addr + (o.signExtend 64 <<< 2)

/-- A word with a fixed target: OPERAND where R125 does not admit it, taken or not. -/
def Env.jumpWord (e : Env) (o : BitVec 20) (taken : Bool) (f : W64 → Term) : Word :=
  if !e.c.grid.k.target (e.jump o) then e.operand else if taken then .ofTerm (f (e.jump o)) else .nil

/-- The condition of `bra` and `call` (R126, R129). -/
def Env.branchTaken (e : Env) (n : BitVec 1) (p : BitVec 3) : Bool := p == 7 || e.qpred p != (n == 1)

def execBra (n : BitVec 1) (p : BitVec 3) (o : BitVec 20) (s : State) : Result :=
  withWord s (.bra n p o) (fun _ e => e.jumpWord o (e.branchTaken n p) .jump)
def execCall (n : BitVec 1) (p : BitVec 3) (o : BitVec 20) (s : State) : Result :=
  withWord s (.call n p o) (fun _ e => e.jumpWord o (e.branchTaken n p) .call)

/-- What a push of a record would raise (R122). -/
def State.pushCond (s : State) (e : Env) : Option Cond :=
  (s.pushFail e.q e.c).map (fun f => (spillFail e.c.grid.k e.c.w e.c.x.width e.c.x.spilled .write f).cond e.run.words e.c.x.path)

/-- `brv` (R127). -/
def State.brvWord (s : State) (e : Env) (n : BitVec 1) (p : BitVec 3) (o : BitVec 20) : Word :=
  if !e.c.grid.k.target (e.jump o) then e.operand
  else match s.pushCond e with
    | some c => .ofCond c
    | none => .ofTerm (.brv (e.jump o) (e.c.x.path &&& maskOf e.c.x.width (fun l => e.pred l p != (n == 1))))

def execBrv (n : BitVec 1) (p : BitVec 3) (o : BitVec 20) (s : State) : Result := withWord s (.brv n p o) (fun s e => s.brvWord e n p o)

/-- `ret` (R129): the target is s23 at run start. -/
def execRet (s : State) : Result :=
  withWord s .ret (fun _ e =>
    let t := Sparse.rd e.c.x.s 23
    if e.c.grid.k.target t then .ofTerm (.jump t) else e.operand)

/-! ### join (R128) -/

/-- `join`: OPERAND without a record; the reload that a pop needs may fail (R122). -/
def State.joinWord (s : State) (e : Env) : Word :=
  match e.c.x.stack with
  | [] => e.operand
  | r :: _ =>
    if r.pmask &&& e.c.x.live ≠ 0 then .ofTerm .join
    else match s.popFail e.q e.c with
      | some f =>
        if f.cause = .operand then e.operand
        else .ofCond ((spillFail e.c.grid.k e.c.w e.c.x.width (e.c.x.spilled - 1) .read f).cond e.run.words e.c.x.path)
      | none => .ofTerm .join

def execJoin (s : State) : Result := withWord s .join (fun s e => s.joinWord e)

/-! ### Tables (R130, R131) -/

/-- A table as the word reads it: the count, the join's address, and for the indices asked for their targets, or the failure of the read. -/
structure Table where
  n : Nat
  join : W64
  targets : List (Nat × W64)
  fails : List (Nat × Fail)
  deriving DecidableEq, Repr

/-- The address of the entry of an index. -/
def tableEntry (a : W64) (i : Nat) : W64 := a + BitVec.ofNat 64 (4 * (1 + i))

/-- A table at an address with the targets of some indices; OPERAND unless it is aligned and wholly in the code (R130). -/
def State.table (s : State) (e : Env) (a : W64) (idx : List Nat) : Except Fail Table :=
  match s.fetchWord e.q e.c a with
  | .error f => .error f
  | .ok w0 =>
    let n := bits w0.toNat 15 0
    let k := e.c.grid.k
    if k.codeBase.toNat + k.codeSz < a.toNat + 4 * (1 + n) then .error ⟨.operand, 0⟩
    else
      let jo : W64 := BitVec.ofInt 64 (4 * sxt 16 (w0.toNat / 2 ^ 16))
      .ok ((idx.dedup.filter (fun i => decide (i < n))).foldl (fun (t : Table) i =>
        match s.fetchWord e.q e.c (tableEntry a i) with
        | .error f => { t with fails := t.fails ++ [(i, f)] }
        | .ok w => { t with targets := t.targets ++ [(i, a + BitVec.ofInt 64 (4 * w.toInt))] }) ⟨n, a + jo, [], []⟩)

/-- The packets of the fetches of a table's words that a router drops (R338, R361). -/
def State.tableBarred (s : State) (e : Env) (a : W64) (n : Nat) (idx : List Nat) : List Nat :=
  (a :: (idx.dedup.filter (fun i => decide (i < n))).map (tableEntry a)).filterMap (s.fetchBarred e.q e.c)

/-- A word that reads a table and then performs `t`. -/
def Word.ofTable (bad : List Nat) (t : Term) : Word := { Word.ofActs (if bad.isEmpty then [] else [.lost bad]) with term := t }

/-- The target of an index. -/
def Table.target (t : Table) (i : Nat) : Option W64 := (t.targets.find? (fun x => x.1 == i)).map (fun x => x.2)

/-- The condition of a table that cannot be read or used. -/
def Env.tableCond (e : Env) (a : W64) (f : Fail) : Cond :=
  if f.cause = .operand then e.cond .operand 0 e.iss.detail else e.at_ f.cause a .fetch 0 f.detail

/-- What a lane of index `i` meets in a table: BRXRANGE, or the failure of its entry's read (R131, R313). -/
def Table.laneFail (t : Table) (k : KDesc) (a : W64) (joins : Bool) (l i : Nat) : List LFail :=
  let range : LFail := ⟨l, .brxrange, a, BitVec.ofNat 64 t.n, 0⟩
  if joins && !k.target t.join then [range]
  else match t.fails.find? (fun x => x.1 == i) with
    | some f => [⟨l, f.2.cause, tableEntry a i, 0, f.2.detail⟩]
    | none => match t.target i with
      | some v => if k.target v then [] else [range]
      | none => [range]

/-- `brx`: every lane of the path has the one index. -/
def State.brxWord (s : State) (e : Env) (a b : Reg) : Word :=
  let t := e.srcS a
  let i := (e.srcS b).toNat % 2 ^ 32
  match s.table e t [i] with
  | .error f => .ofCond (e.tableCond t f)
  | .ok tb =>
    match e.failCond .fetch ((Mask.lanes e.c.x.path).flatMap (fun l => tb.laneFail e.c.grid.k t false l i)) with
    | some c => .ofCond c
    | none => .ofTable (s.tableBarred e t tb.n [i]) (.jump ((tb.target i).getD 0))

def execBrx (a b : Reg) (s : State) : Result := withWord s (.brx a b) (fun s e => s.brxWord e a b)

/-- `brxv`: the lanes of the lowest index go first. What the push would raise takes its place in R54's order beside the table's conditions. -/
def State.brxvWord (s : State) (e : Env) (a b : Reg) : Word :=
  let t := e.srcS a
  let path := e.c.x.path
  let idx (l : Nat) : Nat := (e.src b l).toNat
  let ls := Mask.lanes path
  let push := if e.c.x.resuming then none else s.pushCond e
  match s.table e t (ls.map idx) with
  | .error f => { Word.nil with cond := Cond.first (some (e.tableCond t f)) push }
  | .ok tb =>
    match Cond.first (e.failCond .fetch (ls.flatMap (fun l => tb.laneFail e.c.grid.k t true l (idx l)))) push with
    | some c => .ofCond c
    | none =>
      let low := ls.foldl (fun m l => min m (idx l)) (2 ^ 32)
      .ofTable (s.tableBarred e t tb.n (ls.map idx)) (.brxv (path &&& maskOf e.c.x.width (fun l => idx l == low)) ((tb.target low).getD 0) tb.join)

def execBrxv (a b : Reg) (s : State) : Result := withWord s (.brxv a b) (fun s e => s.brxvWord e a b)

/-! ### loop and nop (R132-R134) -/

/-- `loop`: OPERAND in a handler (R314), beyond three levels, beyond the enclosing body, or where it skips to a target that R125 does not admit. -/
def Env.loopWord (e : Env) (n : W32) (len : Nat) : Word :=
  let past := e.iss.addr + 4 + BitVec.ofNat 64 (4 * len)
  let outer := match e.c.x.levels with
    | l :: _ => decide (l.stop.toNat < (e.iss.addr + BitVec.ofNat 64 (4 * len)).toNat)
    | [] => false
  if e.c.x.trap.inh then e.operand
  else if n = 0 then (if e.c.grid.k.target past then .ofTerm (.loop 0 len) else e.operand)
  else if decide (3 ≤ e.c.x.levels.length) || outer then e.operand
  else .ofTerm (.loop n len)

def execLoop (hi : BitVec 7) (a : Reg) (lo : BitVec 7) (s : State) : Result :=
  withWord s (.loop hi a lo) (fun _ e => e.loopWord ((e.srcS a).setWidth 32) (hi.toNat * 128 + lo.toNat))

def execNop (s : State) : Result := withWord s .nop (fun _ _ => .ofTerm .nop)

end Sys2Proof.Machine
end

