-- ==== Sys2Proof/Machine/Sfu.lean ====
section
/-! DEFINITION. The special functions (R164-R166). Where the spec states an error bound and no value, the delivered value is
`Config.special` wherever that lies within the bound (log 12). -/

namespace Sys2Proof.Machine

/-! ### Values near the exact results, in fixed point -/

/-- Fraction bits of the fixed-point values below. -/
def fixP : Nat := 640

/-- π·2^700 and ln 2·2^700, rounded down. -/
def piFix : Nat :=
  0x3243f6a8885a308d313198a2e03707344a4093822299f31d0082efa98ec4e6c89452821e638d01377be5466cf34e90c6cc0ac29b7c97c50dd3f84d5b5b54709179216d5d98979fb1bd1310ba698dfb5ac2ffd72dbd01adfb
def ln2Fix : Nat :=
  0xb17217f7d1cf79abc9e3b39803f2f6af40f343267298b62d8a0d175b8baafa2be7b876206debac98559552fb4afa1b10ed2eae35c138214427573b291169b8253e96ca16224ae8c51acbda11317c387eb9ea9bc3b136603

/-- Product of two fixed-point values. -/
def fixMul (a b : Int) : Int := a * b / ((2 ^ fixP : Nat) : Int)

/-- A finite value in fixed point. -/
def toFix (neg : Bool) (m : Nat) (e : Int) : Int :=
  let q := e + fixP
  sgn neg (if 0 ≤ q then m * 2 ^ q.toNat else m / 2 ^ (-q).toNat)

/-- e^x for 0 ≤ x < 1, by its series. -/
def expFix (x : Int) : Int :=
  ((List.range 160).foldl (fun (t : Int × Int) (k : Nat) => let u := fixMul t.1 x / ((k : Int) + 1); (u, t.2 + u)) ((2 ^ fixP : Nat), (2 ^ fixP : Nat))).2

/-- 2^x for a fixed-point x: a magnitude and an exponent. -/
def exp2Fix (x : Int) : Nat × Int :=
  let n := x / ((2 ^ fixP : Nat) : Int)
  let f := x - n * ((2 ^ fixP : Nat) : Int)
  ((expFix (f * (ln2Fix : Int) / ((2 ^ 700 : Nat) : Int))).toNat, n - fixP)

/-- sin r (`c` false) or cos r for 0 ≤ r < π/2, by their series. -/
def sinFix (c : Bool) (r : Int) : Int :=
  let r2 := fixMul r r
  let start : Int := if c then (2 ^ fixP : Nat) else r
  ((List.range 80).foldl (fun (t : Int × Int) (k : Nat) =>
    let a : Int := 2 * k + (if c then 1 else 2)
    let u := -(fixMul t.1 r2) / (a * (a + 1))
    (u, t.2 + u)) (start, start)).2

/-- sin of a fixed-point angle after `quarter` more right angles. -/
def sinOf (x : Int) (quarter : Int) : Int :=
  let h : Int := (piFix : Int) / 2 / ((2 ^ 60 : Nat) : Int)
  let k := x * ((2 ^ 60 : Nat) : Int) / ((piFix : Int) / 2)
  let r := x - k * (piFix : Int) / 2 / ((2 ^ 60 : Nat) : Int)
  let r := if r < 0 then 0 else if h < r then h else r
  match (k + quarter) % 4 with
  | 0 => sinFix false r
  | 1 => sinFix true r
  | 2 => -(sinFix false r)
  | _ => -(sinFix true r)

/-- log2 of m ≠ 0 times 2^e in fixed point with 220 digits. -/
def log2Fix (m : Nat) (e : Int) : Int :=
  let l := Nat.log2 m
  let y := m * 2 ^ (fixP - l)
  let d := ((List.range 220).foldl (fun (t : Nat × Nat) _ =>
    let z := t.1 * t.1 / 2 ^ fixP
    if 2 ^ (fixP + 1) ≤ z then (z / 2, 2 * t.2 + 1) else (z, 2 * t.2)) (y, 0)).2
  ((l : Int) + e) * ((2 ^ fixP : Nat) : Int) + ((d * 2 ^ (fixP - 220) : Nat) : Int)

/-- tanh of a magnitude. -/
def tanhFix (m : Nat) (e : Int) : Int :=
  let one : Int := (2 ^ fixP : Nat)
  let x := toFix false m e
  if 200 * one ≤ x then one - 1
  else
    let p := exp2Fix (2 * x * ((2 ^ 700 : Nat) : Int) / (ln2Fix : Int))
    let v : Int := toFix false p.1 p.2
    (v - one) * one / (v + one)

/-! ### The bound -/

/-- A fixed-point value as a number. -/
def ofFix (v : Int) : Num := numOfInt v (-(fixP : Int)) false

/-- |v − x| ≤ k·2^q for two finite values. -/
def Num.within (v x : Num) (k : Nat) (q : Int) : Bool :=
  match v, x with
  | .fin n m e, .fin s l d =>
    let b := min e (min d q)
    decide ((sgn n (m * 2 ^ (e - b).toNat) - sgn s (l * 2 ^ (d - b).toNat)).natAbs ≤ k * 2 ^ (q - b).toNat)
  | _, _ => false

/-- The exponent of an ulp at a value (R164). -/
def ulpExp (x : Num) : Int :=
  match x with
  | .fin _ m e => max ((Nat.log2 m : Int) + e) (-126) - 23
  | _ => -149

/-- A result that the spec bounds and does not fix (R164, R165; log 12): the free value within k·2^q of x, with NX and, where x itself is tiny as R61 defines it, UF;
an overflow under RNE is the infinity of R63. -/
def boundedTo (fn : Nat) (a : W32) (x : Num) (k : Nat) (q : Int) : W32 × Flags :=
  let r := fp32.near x
  if r.2 &&& fOF ≠ 0 then (BitVec.ofNat 32 r.1, fOF ||| fNX)
  else
    let v := Config.special fn a
    let c := if (fp32.decode v.toNat).within x k q then v else BitVec.ofNat 32 r.1
    (c, fNX ||| (r.2 &&& fUF))

def bounded (fn : Nat) (a : W32) (x : Num) (k : Nat) : W32 × Flags := boundedTo fn a x k (ulpExp x)

/-- An exact result, where it lies within range. -/
def exactly (fn : Nat) (a : W32) (x : Num) (k : Nat) : W32 × Flags :=
  let r := fp32.near x
  if r.2 = 0 then (BitVec.ofNat 32 r.1, 0) else bounded fn a x k

/-! ### The functions (R164-R166) -/

def nan32 : W32 := 0x7FC00000
def inf32 (neg : Bool) : W32 := if neg then 0xFF800000 else 0x7F800000
def zero32 (neg : Bool) : W32 := if neg then 0x80000000 else 0
def one32 (neg : Bool) : W32 := if neg then 0xBF800000 else 0x3F800000

/-- m is a power of two. -/
def pow2? (m : Nat) : Bool := m == 2 ^ Nat.log2 m

/-- `frcp`. -/
def sfuRcp (a : W32) (n : Bool) (m : Nat) (e : Int) : W32 × Flags :=
  if m = 0 then (inf32 n, fDZ)
  else if pow2? m then exactly 0 a (.fin n 1 (-(e + Nat.log2 m))) 1
  else bounded 0 a (.fin n (2 ^ 300 / m * 2 + 1) (-e - 301)) 1

/-- `frsq`. -/
def sfuRsq (a : W32) (n : Bool) (m : Nat) (e : Int) : W32 × Flags :=
  if m = 0 then (inf32 n, fDZ)
  else if n then (nan32, fNV)
  else
    let e' := e + Nat.log2 m
    if pow2? m ∧ e' % 2 = 0 then exactly 1 a (.fin false 1 (-(e' / 2))) 1
    else
      let m' := if e % 2 = 0 then m else 2 * m
      let h := if e % 2 = 0 then e / 2 else (e - 1) / 2
      bounded 1 a (.fin false (isqrt (2 ^ 400 / m') 201 0 * 2 + 1) (-h - 201)) 1

/-- `fex2`. -/
def sfuEx2 (a : W32) (n : Bool) (m : Nat) (e : Int) : W32 × Flags :=
  if m = 0 then (one32 false, 0)
  else if roundQ 1 n m e 0 0 = ((roundQ 1 n m e 0 0).1, true) then
    exactly 3 a (.fin false 1 (max (-1000) (min 1000 (sgn n (roundQ 1 n m e 0 0).1)))) 2
  else
    let x := max (-1000 * ((2 ^ fixP : Nat) : Int)) (min (1000 * ((2 ^ fixP : Nat) : Int)) (toFix n m e))
    let p := exp2Fix x
    bounded 3 a (.fin false p.1 p.2) 2

/-- `flg2`. -/
def sfuLg2 (a : W32) (n : Bool) (m : Nat) (e : Int) : W32 × Flags :=
  if m = 0 then (inf32 true, fDZ)
  else if n then (nan32, fNV)
  else if pow2? m then exactly 4 a (numOf (e + Nat.log2 m)) 2
  else bounded 4 a (ofFix (log2Fix m e)) 2

/-- `fsin` and `fcos` (`quarter` 1). Beyond 2^20 the exact value is no tiny one, since no FP32 number stands so near a multiple of π/2 (R61, R166). -/
def sfuSin (fn : Nat) (quarter : Int) (a : W32) (n : Bool) (m : Nat) (e : Int) : W32 × Flags :=
  if m = 0 then (if quarter = 0 then zero32 n else one32 false, 0)
  else
    let mag := toFix false m e
    if ((2 ^ (20 + fixP) : Nat) : Int) < mag then
      let v := Config.special fn a
      (if (fp32.decode v.toNat).within .zero 1 0 then v else 0, fNX)
    else
      let x := ofFix (sinOf (toFix n m e) quarter)
      if (piFix : Int) * 2 ^ 10 < mag * 2 ^ 60 then boundedTo fn a x 1 (-16)
      else bounded fn a x 2

/-- `ftanh`. -/
def sfuTanh (a : W32) (n : Bool) (m : Nat) (e : Int) : W32 × Flags :=
  if m = 0 then (zero32 n, 0)
  else bounded 7 a (ofFix (sgn n (tanhFix m e).toNat)) 2

/-- FSFU but `fsqrt`, into FP32 (R164-R166). -/
def sfu (fn : Nat) (a : W32) : W32 × Flags :=
  match fp32.decode a.toNat with
  | .nan s => (nan32, flagIf s fNV)
  | .inf n =>
    match fn with
    | 0 => (zero32 n, 0)
    | 1 => if n then (nan32, fNV) else (zero32 false, 0)
    | 3 => if n then (zero32 false, 0) else (inf32 false, 0)
    | 4 => if n then (nan32, fNV) else (inf32 false, 0)
    | 7 => (one32 n, 0)
    | _ => (nan32, fNV)
  | .fin n m e =>
    match fn with
    | 0 => sfuRcp a n m e
    | 1 => sfuRsq a n m e
    | 3 => sfuEx2 a n m e
    | 4 => sfuLg2 a n m e
    | 5 => sfuSin 5 0 a n m e
    | 6 => sfuSin 6 1 a n m e
    | _ => sfuTanh a n m e

/-- `fsqrt` before its rounding (R165). -/
def sqrtOf (a : Num) : Num × Flags :=
  match a with
  | .nan s => (.nan false, flagIf s fNV)
  | .inf n => if n then (.nan false, fNV) else (.inf false, 0)
  | .fin n m e => if m = 0 then (.fin n 0 e, 0) else if n then (.nan false, fNV) else (sqrtNum m e, 0)

end Sys2Proof.Machine
end

