-- ==== Sys2Proof/Machine/FloatWords.lean ====
section
/-! DEFINITION. The floating-point words: FARITH, FSFU, HARITH, fcmp and CVT, and the LFSR seed (R158-R170, R175). -/

namespace Sys2Proof.Machine

/-! ### FARITH (R159-R163) -/

/-- A rounded result of both sources. -/
def Env.flt2 (e : Env) (d a b : Reg) (f : Num → Num → Num × Flags) : Word :=
  e.fltWord d (fun l =>
    let x := e.fltA a l
    let y := e.fltB b l
    let r := f x.1 y.1
    (r.1, r.2 ||| x.2 ||| y.2))

/-- A rounded result of one source. -/
def Env.flt1 (e : Env) (d a : Reg) (f : Num → Num × Flags) : Word :=
  e.fltWord d (fun l =>
    let x := e.fltA a l
    let r := f x.1
    (r.1, r.2 ||| x.2))

/-- A rounded result of both sources and the accumulator (R160). -/
def Env.flt3 (e : Env) (d a b : Reg) (f : Num → Num → Num → Num × Flags) : Word :=
  e.fltWord d (fun l =>
    let x := e.fltA a l
    let y := e.fltB b l
    let z := e.fltD d l
    let r := f x.1 y.1 z.1
    (r.1, r.2 ||| x.2 ||| y.2 ||| z.2))

/-- A value as a conversion takes it: NV if it is a signalling NaN (R58). -/
def Num.quiet (a : Num) : Num × Flags := (a, flagIf a.isSig fNV)

def execFadd (d a b : Reg) (s : State) : Result := withWord s (.fadd d a b) (fun _ e => e.flt2 d a b (fun x y => x.add y e.rm))
def execFsub (d a b : Reg) (s : State) : Result := withWord s (.fsub d a b) (fun _ e => e.flt2 d a b (fun x y => x.add y.negate e.rm))
def execFmul (d a b : Reg) (s : State) : Result := withWord s (.fmul d a b) (fun _ e => e.flt2 d a b Num.mul)
def execFma (d a b : Reg) (s : State) : Result := withWord s (.fma d a b) (fun _ e => e.flt3 d a b (fun x y z => x.fma y z e.rm))
def execFnma (d a b : Reg) (s : State) : Result := withWord s (.fnma d a b) (fun _ e => e.flt3 d a b (fun x y z => x.negate.fma y z e.rm))
def execFmin (d a b : Reg) (s : State) : Result := withWord s (.fmin d a b) (fun _ e => e.flt2 d a b (Num.minmax false))
def execFmax (d a b : Reg) (s : State) : Result := withWord s (.fmax d a b) (fun _ e => e.flt2 d a b (Num.minmax true))

/-- Whether A and D are full 32-bit registers. -/
def Env.full (e : Env) : Bool := e.pc.saf == 0 && e.pc.dnf == 0

/-- A word that changes the sign of A: of the pattern where A and D are full, of the widened value otherwise (R161). Of a narrow B, `fcpys` takes the sign bit as it stands: a
signalling NaN there raises no NV, of which R161 says nothing (DESIGN CHOICE, log 66). -/
def Env.signWord (e : Env) (d a : Reg) (f : Nat → Bool → Bool) : Word :=
  if e.full then e.regWord d (fun l => (if f l ((e.src a l).getLsbD 31) then 0x80000000 else 0) ||| (e.src a l &&& 0x7FFFFFFF))
  else e.fltWord d (fun l =>
    let x := e.fltA a l
    let c := e.fltCode a e.pc.saf.toNat e.pc.sap.toNat l
    (x.1.withSign (f l (bitN c.2 (c.1.w - 1))), x.2 ||| flagIf x.1.isSig fNV))

def execFabs (d a : Reg) (s : State) : Result := withWord s (.fabs d a) (fun _ e => e.signWord d a (fun _ _ => false))
def execFneg (d a : Reg) (s : State) : Result := withWord s (.fneg d a) (fun _ e => e.signWord d a (fun _ n => !n))
def execFcpys (d a b : Reg) (s : State) : Result :=
  withWord s (.fcpys d a b) (fun _ e => e.signWord d a (fun l _ =>
    let c := e.fltCode b e.pc.sbf.toNat e.pc.sbp.toNat l
    bitN c.2 (c.1.w - 1)))
def execFmov (d a : Reg) (s : State) : Result :=
  withWord s (.fmov d a) (fun _ e => if e.full then e.regWord d (fun l => e.src a l) else e.flt1 d a Num.quiet)

/-- `frnd`: the integral rounding, and a second one into a narrow D; each takes a step of the LFSR under SR (R161). -/
def Env.frnd (e : Env) (d a : Reg) : Word :=
  let f := fmtOf e.pc.dnf.toNat
  let r (l : Nat) : Nat × Flags × W32 :=
    let x := e.fltA a l
    let s1 := if e.rm = 5 then lfsrStep (e.lfsr l) else e.lfsr l
    let i := x.1.integral e.rm (s1.toNat % 2 ^ 24)
    let z : Nat × Flags × W32 := if e.pc.dnf = 0 then ((f.encode e.rm i.1 0).1, 0, s1) else f.round e.rm i.1 s1
    (z.1, x.2 ||| i.2 ||| z.2.1, z.2.2)
  .ofActs (e.lanes.flatMap (fun l => e.putFlt d l (r l).1 ++ e.putLfsr l (r l).2.2) ++
    putFlags (e.lanes.foldl (fun (v : Flags) l => v ||| (r l).2.1) 0))

def execFrnd (d a : Reg) (s : State) : Result := withWord s (.frnd d a) (fun _ e => e.frnd d a)

/-- The class mask of a code in its own format (R162). -/
def Fmt.classOf (f : Fmt) (c : Nat) : Nat :=
  let k := match f.decode c with
    | .nan true => 6
    | .nan false => 5
    | .inf _ => 4
    | .fin _ m _ => if m = 0 then 1 else if bits c (f.w - 2) f.m = 0 then 2 else 3
  b2n (bitN c (f.w - 1)) + 2 ^ k

def execFclass (d a : Reg) (s : State) : Result :=
  withWord s (.fclass d a) (fun _ e => .ofActs (e.lanes.flatMap (fun l =>
    let c := e.fltCode a e.pc.saf.toNat e.pc.sap.toNat l
    e.putFlt d l (c.1.classOf c.2 % 2 ^ (fmtOf e.pc.dnf.toNat).w))))

/-- a·2^n (R163). -/
def Num.fscale (a b : Num) : Num × Flags :=
  if b.isNan then (.nan false, fNV) else if a.isNan then (.nan false, flagIf a.isSig fNV) else (a.scale b.exponent, 0)

def execFscale (d a b : Reg) (s : State) : Result := withWord s (.fscale d a b) (fun _ e => e.flt2 d a b Num.fscale)

/-! ### FSFU (R164-R166) -/

/-- A source as an FP32 pattern, with the flags of its widening (R59). -/
def Env.fltBits (e : Env) (a : Reg) (l : Nat) : W32 × Flags :=
  if e.pc.saf = 0 then (e.src a l, 0)
  else
    let x := e.fltA a l
    (BitVec.ofNat 32 (fp32.near x.1).1, x.2)

/-- A special function: its FP32 value, rounded into a narrow D under RNE. -/
def Env.sfuWord (e : Env) (d a : Reg) (fn : Nat) : Word :=
  let f := fmtOf e.pc.dnf.toNat
  let r (l : Nat) : Nat × Flags :=
    let x := e.fltBits a l
    let v := sfu fn x.1
    if e.pc.dnf = 0 then (v.1.toNat, x.2 ||| v.2)
    else
      let z := f.near (fp32.decode v.1.toNat)
      (z.1, x.2 ||| v.2 ||| z.2)
  .ofActs (e.lanes.flatMap (fun l => e.putFlt d l (r l).1) ++ putFlags (e.lanes.foldl (fun (v : Flags) l => v ||| (r l).2) 0))

def execFrcp (d a : Reg) (s : State) : Result := withWord s (.frcp d a) (fun _ e => e.sfuWord d a 0)
def execFrsq (d a : Reg) (s : State) : Result := withWord s (.frsq d a) (fun _ e => e.sfuWord d a 1)
def execFsqrt (d a : Reg) (s : State) : Result := withWord s (.fsqrt d a) (fun _ e => e.flt1 d a sqrtOf)
def execFex2 (d a : Reg) (s : State) : Result := withWord s (.fex2 d a) (fun _ e => e.sfuWord d a 3)
def execFlg2 (d a : Reg) (s : State) : Result := withWord s (.flg2 d a) (fun _ e => e.sfuWord d a 4)
def execFsin (d a : Reg) (s : State) : Result := withWord s (.fsin d a) (fun _ e => e.sfuWord d a 5)
def execFcos (d a : Reg) (s : State) : Result := withWord s (.fcos d a) (fun _ e => e.sfuWord d a 6)
def execFtanh (d a : Reg) (s : State) : Result := withWord s (.ftanh d a) (fun _ e => e.sfuWord d a 7)

/-! ### HARITH (R167) -/

/-- Half `j` of a source. -/
def Env.half (e : Env) (f : Fmt) (r : Reg) (l j : Nat) : Num := f.decode (bits (e.src r l).toNat (16 * j + 15) (16 * j))

/-- A word on halves: half 0, then half 1, each rounded into its format (R167, R64). -/
def Env.halfWord (e : Env) (f : Fmt) (d : Reg) (op : Nat → Nat → Num × Flags) : Word :=
  let r (l : Nat) : W32 × Flags × W32 :=
    let a := op l 0
    let b := op l 1
    let x := f.round e.rm a.1 (e.lfsr l)
    let y := f.round e.rm b.1 x.2.2
    (BitVec.ofNat 32 (x.1 + y.1 * 2 ^ 16), a.2 ||| b.2 ||| x.2.1 ||| y.2.1, y.2.2)
  .ofActs (e.lanes.flatMap (fun l => e.putFull d l (r l).1 ++ e.putLfsr l (r l).2.2) ++
    putFlags (e.lanes.foldl (fun (v : Flags) l => v ||| (r l).2.1) 0))

/-- A word on halves of A and B. -/
def Env.half2 (e : Env) (f : Fmt) (d a b : Reg) (op : Num → Num → Num × Flags) : Word :=
  e.halfWord f d (fun l j => op (e.half f a l j) (e.half f b l j))

/-- The fused form, with D as it stood at run start. -/
def Env.half3 (e : Env) (f : Fmt) (d a b : Reg) : Word :=
  e.halfWord f d (fun l j => (e.half f a l j).fma (e.half f b l j) (e.half f d l j) e.rm)

def execHadd2 (d a b : Reg) (s : State) : Result := withWord s (.hadd2 d a b) (fun _ e => e.half2 fp16 d a b (fun x y => x.add y e.rm))
def execHmul2 (d a b : Reg) (s : State) : Result := withWord s (.hmul2 d a b) (fun _ e => e.half2 fp16 d a b Num.mul)
def execHfma2 (d a b : Reg) (s : State) : Result := withWord s (.hfma2 d a b) (fun _ e => e.half3 fp16 d a b)
def execHmin2 (d a b : Reg) (s : State) : Result := withWord s (.hmin2 d a b) (fun _ e => e.half2 fp16 d a b (Num.minmax false))
def execHmax2 (d a b : Reg) (s : State) : Result := withWord s (.hmax2 d a b) (fun _ e => e.half2 fp16 d a b (Num.minmax true))
def execHadd2Bf (d a b : Reg) (s : State) : Result := withWord s (.hadd2_bf d a b) (fun _ e => e.half2 bf16 d a b (fun x y => x.add y e.rm))
def execHmul2Bf (d a b : Reg) (s : State) : Result := withWord s (.hmul2_bf d a b) (fun _ e => e.half2 bf16 d a b Num.mul)
def execHfma2Bf (d a b : Reg) (s : State) : Result := withWord s (.hfma2_bf d a b) (fun _ e => e.half3 bf16 d a b)
def execHmin2Bf (d a b : Reg) (s : State) : Result := withWord s (.hmin2_bf d a b) (fun _ e => e.half2 bf16 d a b (Num.minmax false))
def execHmax2Bf (d a b : Reg) (s : State) : Result := withWord s (.hmax2_bf d a b) (fun _ e => e.half2 bf16 d a b (Num.minmax true))

/-! ### fcmp (R168) -/

/-- `fcmp`: the predicates and the flags. -/
def Env.fcmp (e : Env) (c d : BitVec 3) (a b : Reg) : Word :=
  let t (l : Nat) : Bool × Flags :=
    let x := e.fltA a l
    let y := e.fltB b l
    let r := Num.test c.toNat x.1 y.1
    (r.1, r.2 ||| x.2 ||| y.2)
  .ofActs (e.lanes.flatMap (fun l => putP d l (t l).1) ++ putFlags (e.lanes.foldl (fun (v : Flags) l => v ||| (t l).2) 0))

def execFcmp (c d : BitVec 3) (a b : Reg) (s : State) : Result := withWord s (.fcmp c d a b) (fun _ e => e.fcmp c d a b)

/-! ### CVT (R169, R170) -/

/-- A conversion to an integer: one step of the LFSR under SR, the value rounded and clamped (R65); `put` queues the result. -/
def Env.toIntWord (e : Env) (a : Reg) (lo hi : Int) (put : Nat → Int → List Act) : Word :=
  let r (l : Nat) : Int × Flags × W32 :=
    let x := e.fltA a l
    let s := if e.rm = 5 then lfsrStep (e.lfsr l) else e.lfsr l
    let v := x.1.toInt e.rm (s.toNat % 2 ^ 24) lo hi
    (v.1, x.2 ||| v.2, s)
  .ofActs (e.lanes.flatMap (fun l => put l (r l).1 ++ e.putLfsr l (r l).2.2) ++
    putFlags (e.lanes.foldl (fun (v : Flags) l => v ||| (r l).2.1) 0))

/-- `f2i` and `f2z`: the range is that of a narrow D, or the given one. -/
def Env.toIntField (e : Env) (d a : Reg) (lo hi : Int) : Word :=
  let f := e.pc.dnf.toNat
  let w := intW f
  let p := e.pc.dnp.toNat
  e.toIntWord a (rangeI f lo hi).1 (rangeI f lo hi).2 (fun l v => e.put d l (fieldMask w p) (fieldVal w p (BitVec.ofInt 32 v).toNat))

def execF2i (d a : Reg) (s : State) : Result := withWord s (.f2i d a) (fun _ e => e.toIntField d a (-2147483648) 2147483647)
def execF2z (d a : Reg) (s : State) : Result := withWord s (.f2z d a) (fun _ e => e.toIntField d a 0 4294967295)
def execI2f (d a : Reg) (s : State) : Result := withWord s (.i2f d a) (fun _ e => e.fltWord d (fun l => (numOf (e.intA a l).toInt, 0)))
def execZ2f (d a : Reg) (s : State) : Result := withWord s (.z2f d a) (fun _ e => e.fltWord d (fun l => (numOf (e.intA a l).toNat, 0)))

/-- `pkh2` and `pkbf2`: A into half 0, then B into half 1. -/
def Env.pack (e : Env) (f : Fmt) (d a b : Reg) : Word :=
  e.halfWord f d (fun l j =>
    let x := if j = 0 then e.fltA a l else e.fltB b l
    (x.1, x.2 ||| flagIf x.1.isSig fNV))

def execPkh2 (d a b : Reg) (s : State) : Result := withWord s (.pkh2 d a b) (fun _ e => e.pack fp16 d a b)
def execPkbf2 (d a b : Reg) (s : State) : Result := withWord s (.pkbf2 d a b) (fun _ e => e.pack bf16 d a b)
def execF2l (d a : Reg) (s : State) : Result :=
  withWord s (.f2l d a) (fun _ e => e.toIntWord a (-9223372036854775808) 9223372036854775807 (fun l v =>
    let x := BitVec.ofInt 64 v
    e.putAt d 0 l (x.setWidth 32) ++ e.putAt d 1 l ((x >>> 32).setWidth 32)))

/-- The 64-bit source of `l2f`: a vector pair, a uniform register or z. -/
def Env.long (e : Env) (a : Reg) (l : Nat) : W64 := if a.toNat < 96 then e.srcAt a 1 l ++ e.srcAt a 0 l else e.srcS a

def execL2f (d a : Reg) (s : State) : Result := withWord s (.l2f d a) (fun _ e => e.fltWord d (fun l => (numOf (e.long a l).toInt, 0)))

/-! ### seed (R175) -/

def execSeed (a : Reg) (s : State) : Result :=
  withWord s (.seed a) (fun _ e => .ofActs (e.lanes.map (fun l => Act.lfsr l (if e.src a l = 0 then lfsrBase else e.src a l))))

end Sys2Proof.Machine
end

