-- ==== Sys2Proof/Machine/Integer.lean ====
section
/-! DEFINITION. The vector integer words: IARITH, LOGIC, IARITHI, constants, compares, moves (R138-R148). -/

namespace Sys2Proof.Machine

/-! ### Shared forms (R138) -/

/-- A result from both sources on each active lane. -/
def Env.int2 (e : Env) (d a b : Reg) (f : W32 → W32 → W32) : Word := e.intWord d (fun l => f (e.intA a l) (e.intB b l))

/-- A result from one source. -/
def Env.int1 (e : Env) (d a : Reg) (f : W32 → W32) : Word := e.intWord d (fun l => f (e.intA a l))

/-- A result from both sources and the destination as it stood at run start (R140). -/
def Env.int3 (e : Env) (d a b : Reg) (f : W32 → W32 → W32 → W32) : Word := e.intWord d (fun l => f (e.intA a l) (e.intB b l) (e.intD d l))

/-- A saturating signed result (R141). -/
def Env.satS (e : Env) (d a b : Reg) (f : Int → Int → Int) : Word :=
  e.satWord d (-2147483648) 2147483647 (fun l => f (e.intA a l).toInt (e.intB b l).toInt)

/-- A saturating unsigned result (R141). -/
def Env.satU (e : Env) (d a b : Reg) (f : Int → Int → Int) : Word :=
  e.satWord d 0 4294967295 (fun l => f (e.intA a l).toNat (e.intB b l).toNat)

/-- The smaller, or the larger, of two signed or unsigned values of any width. -/
def minS {n : Nat} (a b : BitVec n) : BitVec n := if b.toInt < a.toInt then b else a
def maxS {n : Nat} (a b : BitVec n) : BitVec n := if a.toInt < b.toInt then b else a
def minU {n : Nat} (a b : BitVec n) : BitVec n := if b.toNat < a.toNat then b else a
def maxU {n : Nat} (a b : BitVec n) : BitVec n := if a.toNat < b.toNat then b else a

/-- Leading zero bits (R142, R151). -/
def clzOf {n : Nat} (a : BitVec n) : Nat := if a = 0 then n else n - 1 - Nat.log2 a.toNat

/-- The bits of a word in the other order. -/
def brevOf (a : W32) : W32 := BitVec.ofNat 32 ((List.range 32).foldl (fun v j => v + b2n (a.getLsbD j) * 2 ^ (31 - j)) 0)

/-- `bfx` and `bfi` (R143). -/
def bfxOf (a b : W32) : W32 :=
  let pos := bits b.toNat 7 0
  let len := bits b.toNat 15 8
  if pos < 32 then BitVec.ofNat 32 (a.toNat / 2 ^ pos % 2 ^ min len 32) else 0
def bfiOf (a b d : W32) : W32 :=
  let pos := bits b.toNat 7 0
  let m : W32 := BitVec.ofNat 32 (2 ^ min (bits b.toNat 15 8) 32 - 1)
  if 32 ≤ pos then d else (d &&& ~~~(m <<< pos)) ||| ((a &&& m) <<< pos)

/-- `prmb` (R144). -/
def prmbOf (a b d : W32) : W32 :=
  let src := a.toNat + d.toNat * 2 ^ 32
  let byte (j : Nat) : Nat := let n := bits b.toNat (4 * j + 3) (4 * j); if 8 ≤ n then 0 else bits src (8 * n + 7) (8 * n)
  BitVec.ofNat 32 (byte 0 + byte 1 * 2 ^ 8 + byte 2 * 2 ^ 16 + byte 3 * 2 ^ 24)

/-- The integer conditions (R147), at any width. -/
def intTest {n : Nat} (c : Nat) (a b : BitVec n) : Bool :=
  match c with
  | 0 => a == b
  | 1 => a != b
  | 2 => decide (a.toInt < b.toInt)
  | 3 => decide (a.toInt ≤ b.toInt)
  | 4 => decide (b.toInt < a.toInt)
  | 5 => decide (b.toInt ≤ a.toInt)
  | 6 => decide (a.toNat < b.toNat)
  | 7 => decide (a.toNat ≤ b.toNat)
  | 8 => decide (b.toNat < a.toNat)
  | _ => decide (b.toNat ≤ a.toNat)

/-! ### IARITH (R139-R141) -/

def execIadd (d a b : Reg) (s : State) : Result := withWord s (.iadd d a b) (fun _ e => e.int2 d a b (· + ·))
def execIsub (d a b : Reg) (s : State) : Result := withWord s (.isub d a b) (fun _ e => e.int2 d a b (· - ·))
def execImin (d a b : Reg) (s : State) : Result := withWord s (.imin d a b) (fun _ e => e.int2 d a b minS)
def execImax (d a b : Reg) (s : State) : Result := withWord s (.imax d a b) (fun _ e => e.int2 d a b maxS)
def execUmin (d a b : Reg) (s : State) : Result := withWord s (.umin d a b) (fun _ e => e.int2 d a b minU)
def execUmax (d a b : Reg) (s : State) : Result := withWord s (.umax d a b) (fun _ e => e.int2 d a b maxU)
def execIabsd (d a b : Reg) (s : State) : Result :=
  withWord s (.iabsd d a b) (fun _ e => e.int2 d a b (fun x y => BitVec.ofNat 32 (x.toInt - y.toInt).natAbs))
def execIavg (d a b : Reg) (s : State) : Result :=
  withWord s (.iavg d a b) (fun _ e => e.int2 d a b (fun x y => BitVec.ofInt 32 ((x.toInt + y.toInt + 1) / 2)))
def execIadds (d a b : Reg) (s : State) : Result := withWord s (.iadds d a b) (fun _ e => e.satS d a b (· + ·))
def execIsubs (d a b : Reg) (s : State) : Result := withWord s (.isubs d a b) (fun _ e => e.satS d a b (· - ·))
def execUadds (d a b : Reg) (s : State) : Result := withWord s (.uadds d a b) (fun _ e => e.satU d a b (· + ·))
def execUsubs (d a b : Reg) (s : State) : Result := withWord s (.usubs d a b) (fun _ e => e.satU d a b (· - ·))
def execImul (d a b : Reg) (s : State) : Result := withWord s (.imul d a b) (fun _ e => e.int2 d a b (· * ·))
def execImulh (d a b : Reg) (s : State) : Result :=
  withWord s (.imulh d a b) (fun _ e => e.int2 d a b (fun x y => BitVec.ofInt 32 (x.toInt * y.toInt / 4294967296)))
def execUmulh (d a b : Reg) (s : State) : Result :=
  withWord s (.umulh d a b) (fun _ e => e.int2 d a b (fun x y => BitVec.ofNat 32 (x.toNat * y.toNat / 4294967296)))
def execImad (d a b : Reg) (s : State) : Result := withWord s (.imad d a b) (fun _ e => e.int3 d a b (fun x y z => x * y + z))

/-! ### LOGIC (R142-R144) -/

def execAnd (d a b : Reg) (s : State) : Result := withWord s (.and d a b) (fun _ e => e.int2 d a b (· &&& ·))
def execOr (d a b : Reg) (s : State) : Result := withWord s (.or d a b) (fun _ e => e.int2 d a b (· ||| ·))
def execXor (d a b : Reg) (s : State) : Result := withWord s (.xor d a b) (fun _ e => e.int2 d a b (· ^^^ ·))
def execAndn (d a b : Reg) (s : State) : Result := withWord s (.andn d a b) (fun _ e => e.int2 d a b (fun x y => x &&& ~~~y))
def execOrn (d a b : Reg) (s : State) : Result := withWord s (.orn d a b) (fun _ e => e.int2 d a b (fun x y => x ||| ~~~y))
def execXnor (d a b : Reg) (s : State) : Result := withWord s (.xnor d a b) (fun _ e => e.int2 d a b (fun x y => ~~~(x ^^^ y)))
/-- Shifts by any count: BitVec's own shifts give 0, or the sign, from the width on (R142, R151). -/
def shlBy {n : Nat} (a : BitVec n) (k : Nat) : BitVec n := if k < n then a <<< k else 0
def shrBy {n : Nat} (a : BitVec n) (k : Nat) : BitVec n := if k < n then a >>> k else 0
def sarBy {n : Nat} (a : BitVec n) (k : Nat) : BitVec n := if k < n then a.sshiftRight k else if a.msb then BitVec.allOnes n else 0
def execShl (d a b : Reg) (s : State) : Result := withWord s (.shl d a b) (fun _ e => e.int2 d a b (fun x y => shlBy x y.toNat))
def execShr (d a b : Reg) (s : State) : Result := withWord s (.shr d a b) (fun _ e => e.int2 d a b (fun x y => shrBy x y.toNat))
def execSar (d a b : Reg) (s : State) : Result := withWord s (.sar d a b) (fun _ e => e.int2 d a b (fun x y => sarBy x y.toNat))
def execRol (d a b : Reg) (s : State) : Result := withWord s (.rol d a b) (fun _ e => e.int2 d a b (fun x y => x.rotateLeft (y.toNat % 32)))
def execPopc (d a : Reg) (s : State) : Result := withWord s (.popc d a) (fun _ e => e.int1 d a (fun x => BitVec.ofNat 32 (popNat 32 x.toNat)))
def execClz (d a : Reg) (s : State) : Result := withWord s (.clz d a) (fun _ e => e.int1 d a (fun x => BitVec.ofNat 32 (clzOf x)))
def execBrev (d a : Reg) (s : State) : Result := withWord s (.brev d a) (fun _ e => e.int1 d a brevOf)
def execBfx (d a b : Reg) (s : State) : Result := withWord s (.bfx d a b) (fun _ e => e.int2 d a b bfxOf)
def execBfi (d a b : Reg) (s : State) : Result := withWord s (.bfi d a b) (fun _ e => e.int3 d a b bfiOf)
def execPrmb (d a b : Reg) (s : State) : Result := withWord s (.prmb d a b) (fun _ e => e.int3 d a b prmbOf)

/-! ### IARITHI (R145) -/

def execIaddi (d a : Reg) (i : BitVec 7) (s : State) : Result := withWord s (.iaddi d a i) (fun _ e => e.int1 d a (fun x => x + i.signExtend 32))
def execAndi (d a : Reg) (i : BitVec 7) (s : State) : Result := withWord s (.andi d a i) (fun _ e => e.int1 d a (fun x => x &&& i.signExtend 32))
def execOri (d a : Reg) (i : BitVec 7) (s : State) : Result := withWord s (.ori d a i) (fun _ e => e.int1 d a (fun x => x ||| i.signExtend 32))
def execXori (d a : Reg) (i : BitVec 7) (s : State) : Result := withWord s (.xori d a i) (fun _ e => e.int1 d a (fun x => x ^^^ i.signExtend 32))
def execShli (d a : Reg) (i : BitVec 5) (s : State) : Result := withWord s (.shli d a i) (fun _ e => e.int1 d a (fun x => shlBy x i.toNat))
def execShri (d a : Reg) (i : BitVec 5) (s : State) : Result := withWord s (.shri d a i) (fun _ e => e.int1 d a (fun x => shrBy x i.toNat))
def execSari (d a : Reg) (i : BitVec 5) (s : State) : Result := withWord s (.sari d a i) (fun _ e => e.int1 d a (fun x => sarBy x i.toNat))
def execRoli (d a : Reg) (i : BitVec 5) (s : State) : Result := withWord s (.roli d a i) (fun _ e => e.int1 d a (fun x => x.rotateLeft i.toNat))
def execImini (d a : Reg) (i : BitVec 7) (s : State) : Result := withWord s (.imini d a i) (fun _ e => e.int1 d a (fun x => minS x (i.signExtend 32)))
def execImaxi (d a : Reg) (i : BitVec 7) (s : State) : Result := withWord s (.imaxi d a i) (fun _ e => e.int1 d a (fun x => maxS x (i.signExtend 32)))

/-! ### Constants (R146) -/

/-- A constant into a vector register on the active lanes, or into a uniform register once. -/
def Env.constWord (e : Env) (d : Reg) (f : W32 → W32) : Word :=
  if 96 ≤ d.toNat ∧ d.toNat < 120 then .ofActs (putS d ((f ((e.srcS d).setWidth 32)).signExtend 64))
  else e.regWord d (fun l => f (e.src d l))

def execMovl (d : Reg) (i : BitVec 18) (s : State) : Result := withWord s (.movl d i) (fun _ e => e.constWord d (fun _ => i.signExtend 32))
def execMovhi (d : Reg) (i : BitVec 18) (s : State) : Result :=
  withWord s (.movhi d i) (fun _ e => e.constWord d (fun x => i ++ (x.setWidth 14 : BitVec 14)))

/-! ### Compares (R147) -/

def execIcmp (c : BitVec 4) (d : BitVec 3) (a b : Reg) (s : State) : Result :=
  withWord s (.icmp c d a b) (fun _ e => e.predWord d (fun l => intTest c.toNat (e.intA a l) (e.intB b l)))
def execIcmpi (c : BitVec 4) (d : BitVec 3) (a : Reg) (i : BitVec 7) (s : State) : Result :=
  withWord s (.icmpi c d a i) (fun _ e => e.predWord d (fun l => intTest c.toNat (e.intA a l) (i.signExtend 32)))

/-! ### MOVSEL (R148) -/

def execMov (d a : Reg) (s : State) : Result := withWord s (.mov d a) (fun _ e => e.int1 d a id)
def execSel (n : BitVec 3) (d a b : Reg) (s : State) : Result :=
  withWord s (.sel n d a b) (fun _ e => e.intWord d (fun l => if e.pred l n then e.intA a l else e.intB b l))

end Sys2Proof.Machine
end

