-- ==== Sys2Proof/Machine/Lanes.lean ====
section
/-! DEFINITION. The words that cross lanes: the block family, lane gets, reductions, scans (R171-R174, R176-R180). -/

namespace Sys2Proof.Machine

/-! ### The block family (R171-R174) -/

/-- BLOCK words run at widths 32, 64 and 128 (R171). -/
def Env.blockWord (e : Env) (w : Word) : Word := if e.c.x.width < 32 then e.width else w

/-- The active lanes of a group of 32. -/
def Env.groupLanes (e : Env) (g : Nat) : List Nat := e.lanes.filter (fun l => l / 32 == g)

/-- `bexp` (R172). -/
def Env.bexp (e : Env) (d a : Reg) : Word :=
  .ofActs ((List.range (e.c.x.width / 32)).flatMap (fun g =>
    let c := scaleCode ((e.groupLanes g).map (fun l => (e.fltA a l).1))
    (e.groupLanes g).flatMap (fun l => e.putFull d l (BitVec.ofNat 32 c))))

def execBexp (d a : Reg) (s : State) : Result := withWord s (.bexp d a) (fun _ e => e.blockWord (e.bexp d a))

/-- A lane's mantissa under its own scale byte, with the flags and the LFSR after its one step (R173). -/
def Env.mantissa (e : Env) (n : Nat) (a b : Reg) (l : Nat) : Int × Flags × W32 :=
  let s := if e.rm = 5 then lfsrStep (e.lfsr l) else e.lfsr l
  let x := e.fltA a l
  let m := quantise x.1 (bits (e.src b l).toNat 7 0) n e.rm (s.toNat % 2 ^ 24)
  (m.1, x.2 ||| m.2, s)

/-- `bq` to n bits (R173): lane 32g + p receives plane p. -/
def Env.bq (e : Env) (n : Nat) (d a b : Reg) : Word :=
  let ms := e.lanes.map (fun l => (l, e.mantissa n a b l))
  let plane (g p : Nat) : Nat := ms.foldl (fun v m => if m.1 / 32 = g then v + b2n ((BitVec.ofInt 8 m.2.1).getLsbD p) * 2 ^ (m.1 % 32) else v) 0
  .ofActs (e.lanes.flatMap (fun l => e.putFull d l (if l % 32 < n then BitVec.ofNat 32 (plane (l / 32) (l % 32)) else 0)) ++
    ms.flatMap (fun m => e.putLfsr m.1 m.2.2.2) ++
    putFlags (ms.foldl (fun (v : Flags) m => v ||| m.2.2.1) 0))

def execBq8 (d a b : Reg) (s : State) : Result := withWord s (.bq_8 d a b) (fun _ e => e.blockWord (e.bq 8 d a b))
def execBq6 (d a b : Reg) (s : State) : Result := withWord s (.bq_6 d a b) (fun _ e => e.blockWord (e.bq 6 d a b))
def execBq4 (d a b : Reg) (s : State) : Result := withWord s (.bq_4 d a b) (fun _ e => e.blockWord (e.bq 4 d a b))
def execBq2 (d a b : Reg) (s : State) : Result := withWord s (.bq_2 d a b) (fun _ e => e.blockWord (e.bq 2 d a b))

/-- `bdq` from n planes, read from their lanes whatever their state (R174). -/
def Env.bdq (e : Env) (n : Nat) (d a b : Reg) : Word :=
  e.fltWord d (fun l =>
    let g := l / 32
    let m := (List.range n).foldl (fun v p => v + b2n ((e.vreg (32 * g + p) a.toNat).getLsbD (l % 32)) * 2 ^ p) 0
    (blockValue (sxt n m) (bits (e.src b l).toNat 7 0) n, 0))

def execBdq8 (d a b : Reg) (s : State) : Result := withWord s (.bdq_8 d a b) (fun _ e => e.blockWord (e.bdq 8 d a b))
def execBdq6 (d a b : Reg) (s : State) : Result := withWord s (.bdq_6 d a b) (fun _ e => e.blockWord (e.bdq 6 d a b))
def execBdq4 (d a b : Reg) (s : State) : Result := withWord s (.bdq_4 d a b) (fun _ e => e.blockWord (e.bdq 4 d a b))
def execBdq2 (d a b : Reg) (s : State) : Result := withWord s (.bdq_2 d a b) (fun _ e => e.blockWord (e.bdq 2 d a b))

/-! ### Lane gets (R176) -/

/-- Each active lane reads A of its source lane, if that lane is active, else of itself. -/
def Env.laneGet (e : Env) (d a : Reg) (src : Nat → Option Nat) : Word :=
  e.regWord d (fun l =>
    match src l with
    | some k => if e.act.getLsbD k then e.vreg k a.toNat else e.vreg l a.toNat
    | none => e.vreg l a.toNat)

/-- A lane number below W. -/
def Env.below (e : Env) (k : Nat) : Option Nat := if k < e.c.x.width then some k else none

def execLgetIdx (d a b : Reg) (s : State) : Result :=
  withWord s (.lget_idx d a b) (fun _ e => e.laneGet d a (fun l => some ((e.src b l).toNat % e.c.x.width)))
def execLgetUp (d a : Reg) (k : BitVec 7) (s : State) : Result :=
  withWord s (.lget_up d a k) (fun _ e => e.laneGet d a (fun l => if k.toNat ≤ l then some (l - k.toNat) else none))
def execLgetDn (d a : Reg) (k : BitVec 7) (s : State) : Result :=
  withWord s (.lget_dn d a k) (fun _ e => e.laneGet d a (fun l => e.below (l + k.toNat)))
def execLgetXor (d a b : Reg) (s : State) : Result :=
  withWord s (.lget_xor d a b) (fun _ e => e.laneGet d a (fun l => some (l ^^^ ((e.src b l).toNat % e.c.x.width))))
def execLgetWxor (d a : Reg) (k : BitVec 3) (s : State) : Result :=
  withWord s (.lget_wxor d a k) (fun _ e => e.laneGet d a (fun l => e.below (l ^^^ (e.c.x.width / 2 ^ k.toNat))))
def execLgetWrot (d a : Reg) (k : BitVec 3) (s : State) : Result :=
  withWord s (.lget_wrot d a k) (fun _ e => e.laneGet d a (fun l => some ((l + e.c.x.width / 2 ^ k.toNat) % e.c.x.width)))

/-! ### Reductions and scans (R177-R180) -/

/-- One operation of a reduction: the value and its flags, under a mode, with the LFSR before and after. -/
abbrev RedOp := W32 → W32 → W32 → W32 × Flags × W32

/-- An operation that raises nothing and draws nothing. -/
def plainOp (f : W32 → W32 → W32) : RedOp := fun x y s => (f x y, 0, s)

/-- FP32 addition under a mode (R159, R64). -/
def addOp (rm : Nat) : RedOp := fun x y s =>
  let v := (fp32.decode x.toNat).add (fp32.decode y.toNat) rm
  let r := fp32.round rm v.1 s
  (BitVec.ofNat 32 r.1, v.2 ||| r.2.1, r.2.2)

/-- IEEE minimum and maximum. -/
def minmaxOp (mx : Bool) : RedOp := fun x y s =>
  let v := (fp32.decode x.toNat).minmax mx (fp32.decode y.toNat)
  (BitVec.ofNat 32 (fp32.near v.1).1, v.2, s)

/-- One stride of the tree of R178, lanes ascending. -/
def redPass (op : RedOp) (k : Nat) (x : List W32) (f : Flags) (s : W32) : List W32 × Flags × W32 :=
  (List.range k).foldl (fun (t : List W32 × Flags × W32) l =>
    let r := op (x.getD l 0) (x.getD (l + k) 0) t.2.2
    (t.1 ++ [r.1], t.2.1 ||| r.2.1, r.2.2)) ([], f, s)

/-- The tree of R178 over 2^n values. -/
def redTree (op : RedOp) : Nat → List W32 → Flags → W32 → W32 × Flags × W32
  | 0, x, f, s => (x.getD 0 0, f, s)
  | n + 1, x, f, s => let r := redPass op (2 ^ n) x f s; redTree op n r.1 r.2.1 r.2.2

/-- A reduction (R177, R178): a uniform D takes the result once, a vector D on each active lane. -/
def Env.reduce (e : Env) (d a : Reg) (op : RedOp) (ident : W32) (signed : Bool) : Word :=
  let put (v : W32) : List Act :=
    if 96 ≤ d.toNat ∧ d.toNat < 120 then putS d (if signed then v.signExtend 64 else v.setWidth 64) else e.lanes.flatMap (fun l => e.putFull d l v)
  match Mask.low e.act with
  | none => .ofActs (put ident)
  | some low =>
    let x := (List.range e.c.x.width).map (fun l => if e.act.getLsbD l then e.vreg l a.toNat else ident)
    let r := redTree op (Nat.log2 e.c.x.width) x 0 (e.lfsr low)
    .ofActs (put r.1 ++ e.putLfsr low r.2.2 ++ putFlags r.2.1)

def execRadd (d a : Reg) (s : State) : Result := withWord s (.radd d a) (fun _ e => e.reduce d a (plainOp (· + ·)) 0 true)
def execRmin (d a : Reg) (s : State) : Result := withWord s (.rmin d a) (fun _ e => e.reduce d a (plainOp minS) 0x7FFFFFFF true)
def execRmax (d a : Reg) (s : State) : Result := withWord s (.rmax d a) (fun _ e => e.reduce d a (plainOp maxS) 0x80000000 true)
def execRumin (d a : Reg) (s : State) : Result := withWord s (.rumin d a) (fun _ e => e.reduce d a (plainOp minU) 0xFFFFFFFF false)
def execRumax (d a : Reg) (s : State) : Result := withWord s (.rumax d a) (fun _ e => e.reduce d a (plainOp maxU) 0 false)
def execRfadd (d a : Reg) (s : State) : Result := withWord s (.rfadd d a) (fun _ e => e.reduce d a (addOp e.rm) 0x80000000 false)
def execRfmin (d a : Reg) (s : State) : Result := withWord s (.rfmin d a) (fun _ e => e.reduce d a (minmaxOp false) 0x7F800000 false)
def execRfmax (d a : Reg) (s : State) : Result := withWord s (.rfmax d a) (fun _ e => e.reduce d a (minmaxOp true) 0xFF800000 false)

/-- An inclusive scan in lane order (R179): the first active lane receives its own value; each other addition draws from its own lane's LFSR. -/
def Env.scan (e : Env) (d a : Reg) (op : RedOp) : Word :=
  let r := e.lanes.foldl (fun (t : Option W32 × List Act × Flags) l =>
    let v := e.vreg l a.toNat
    match t.1 with
    | none => (some v, t.2.1 ++ e.putFull d l v, t.2.2)
    | some acc =>
      let z := op acc v (e.lfsr l)
      (some z.1, t.2.1 ++ e.putFull d l z.1 ++ e.putLfsr l z.2.2, t.2.2 ||| z.2.1)) (none, [], 0)
  .ofActs (r.2.1 ++ putFlags r.2.2)

def execScanAdd (d a : Reg) (s : State) : Result := withWord s (.scan_add d a) (fun _ e => e.scan d a (plainOp (· + ·)))
def execScanFadd (d a : Reg) (s : State) : Result := withWord s (.scan_fadd d a) (fun _ e => e.scan d a (addOp e.rm))

/-- The stride that `rstep` takes on a lane (R180): `lid` and `iid` differ between lanes. Of a uniform register all 64 bits count, where R50 gives a vector word the low
32: the spec leaves open which (DESIGN CHOICE, log 56). -/
def Env.stride (e : Env) (b : Reg) (l : Nat) : Nat := if b.toNat = 121 ∨ b.toNat = 122 then (e.src b l).toNat else (e.srcS b).toNat

/-- A stride that R180 admits. -/
def Env.strideOk (e : Env) (k : Nat) : Bool := decide (1 ≤ k ∧ k ≤ e.c.x.width / 2) && k == 2 ^ Nat.log2 k

/-- One step of the tree (R180). -/
def Env.rstep (e : Env) (d a b : Reg) (op : RedOp) (ident : W32) : Word :=
  let ok := if b.toNat = 121 ∨ b.toNat = 122 then e.lanes.all (fun l => e.strideOk (e.stride b l)) else e.strideOk (e.stride b 0)
  if !ok then e.operand
  else
    let r (l : Nat) : W32 × Flags × W32 :=
      let k := l + e.stride b l
      op (e.vreg l a.toNat) (if e.act.getLsbD k then e.vreg k a.toNat else ident) (e.lfsr l)
    let ls := e.lanes.filter (fun l => decide (l < e.stride b l))
    .ofActs (ls.flatMap (fun l => e.putFull d l (r l).1 ++ e.putLfsr l (r l).2.2) ++ putFlags (ls.foldl (fun (v : Flags) l => v ||| (r l).2.1) 0))

def execRstepAdd (d a b : Reg) (s : State) : Result := withWord s (.rstep_add d a b) (fun _ e => e.rstep d a b (plainOp (· + ·)) 0)
def execRstepFadd (d a b : Reg) (s : State) : Result := withWord s (.rstep_fadd d a b) (fun _ e => e.rstep d a b (addOp e.rm) 0x80000000)
def execRstepFmax (d a b : Reg) (s : State) : Result := withWord s (.rstep_fmax d a b) (fun _ e => e.rstep d a b (minmaxOp true) 0xFF800000)

end Sys2Proof.Machine
end

