-- ==== Sys2Proof/Machine/Uniform.lean ====
section
/-! DEFINITION. Predicate logic, the uniform words and the warp queries (R149-R156). -/

namespace Sys2Proof.Machine

/-! ### PRED (R149) -/

def execPand (d a b : BitVec 3) (s : State) : Result := withWord s (.pand d a b) (fun _ e => e.predWord d (fun l => e.pred l a && e.pred l b))
def execPor (d a b : BitVec 3) (s : State) : Result := withWord s (.por d a b) (fun _ e => e.predWord d (fun l => e.pred l a || e.pred l b))
def execPxor (d a b : BitVec 3) (s : State) : Result := withWord s (.pxor d a b) (fun _ e => e.predWord d (fun l => e.pred l a != e.pred l b))
def execPnot (d a : BitVec 3) (s : State) : Result := withWord s (.pnot d a) (fun _ e => e.predWord d (fun l => !e.pred l a))

/-- The predicates of a lane as a number; bit 7 reads 1. -/
def Env.preds (e : Env) (l : Nat) : W32 := BitVec.ofNat 32 ((List.range 8).foldl (fun v j => v + b2n ((e.lane l).pred j) * 2 ^ j) 0)

def execPtov (d : Reg) (s : State) : Result := withWord s (.ptov d) (fun _ e => e.regWord d e.preds)

/-- `vtop`: p0-p6 that B selects take bits of A. -/
def Env.vtop (e : Env) (a b : Reg) : Word :=
  .ofActs (e.lanes.flatMap (fun l => ((List.range 7).filter (fun j => (e.srcS b).getLsbD j)).map (fun j => Act.p l j ((e.src a l).getLsbD j))))

def execVtop (a b : Reg) (s : State) : Result := withWord s (.vtop a b) (fun _ e => e.vtop a b)

def execQand (d a b : BitVec 3) (s : State) : Result := withWord s (.qand d a b) (fun _ e => .ofActs (putQ d (e.qpred a && e.qpred b)))
def execQor (d a b : BitVec 3) (s : State) : Result := withWord s (.qor d a b) (fun _ e => .ofActs (putQ d (e.qpred a || e.qpred b)))
def execQxor (d a b : BitVec 3) (s : State) : Result := withWord s (.qxor d a b) (fun _ e => .ofActs (putQ d (e.qpred a != e.qpred b)))
def execQnot (d a : BitVec 3) (s : State) : Result := withWord s (.qnot d a) (fun _ e => .ofActs (putQ d (!e.qpred a)))

/-! ### SARITH and SARITHI (R150-R152) -/

/-- A uniform result from two uniform sources. -/
def Env.uni2 (e : Env) (d a b : Reg) (f : W64 → W64 → W64) : Word := .ofActs (putS d (f (e.srcS a) (e.srcS b)))
/-- A uniform result from one. -/
def Env.uni1 (e : Env) (d a : Reg) (f : W64 → W64) : Word := .ofActs (putS d (f (e.srcS a)))

def execSadd (d a b : Reg) (s : State) : Result := withWord s (.sadd d a b) (fun _ e => e.uni2 d a b (· + ·))
def execSsub (d a b : Reg) (s : State) : Result := withWord s (.ssub d a b) (fun _ e => e.uni2 d a b (· - ·))
def execSmul (d a b : Reg) (s : State) : Result := withWord s (.smul d a b) (fun _ e => e.uni2 d a b (· * ·))
def execSmulhu (d a b : Reg) (s : State) : Result :=
  withWord s (.smulhu d a b) (fun _ e => e.uni2 d a b (fun x y => BitVec.ofNat 64 (x.toNat * y.toNat / 18446744073709551616)))
def execSmin (d a b : Reg) (s : State) : Result := withWord s (.smin d a b) (fun _ e => e.uni2 d a b minS)
def execSmax (d a b : Reg) (s : State) : Result := withWord s (.smax d a b) (fun _ e => e.uni2 d a b maxS)
def execSminu (d a b : Reg) (s : State) : Result := withWord s (.sminu d a b) (fun _ e => e.uni2 d a b minU)
def execSmaxu (d a b : Reg) (s : State) : Result := withWord s (.smaxu d a b) (fun _ e => e.uni2 d a b maxU)
def execSand (d a b : Reg) (s : State) : Result := withWord s (.sand d a b) (fun _ e => e.uni2 d a b (· &&& ·))
def execSor (d a b : Reg) (s : State) : Result := withWord s (.sor d a b) (fun _ e => e.uni2 d a b (· ||| ·))
def execSxor (d a b : Reg) (s : State) : Result := withWord s (.sxor d a b) (fun _ e => e.uni2 d a b (· ^^^ ·))
def execSshl (d a b : Reg) (s : State) : Result := withWord s (.sshl d a b) (fun _ e => e.uni2 d a b (fun x y => shlBy x y.toNat))
def execSshr (d a b : Reg) (s : State) : Result := withWord s (.sshr d a b) (fun _ e => e.uni2 d a b (fun x y => shrBy x y.toNat))
def execSsar (d a b : Reg) (s : State) : Result := withWord s (.ssar d a b) (fun _ e => e.uni2 d a b (fun x y => sarBy x y.toNat))
def execSpopc (d a : Reg) (s : State) : Result := withWord s (.spopc d a) (fun _ e => e.uni1 d a (fun x => BitVec.ofNat 64 (popNat 64 x.toNat)))
def execSclz (d a : Reg) (s : State) : Result := withWord s (.sclz d a) (fun _ e => e.uni1 d a (fun x => BitVec.ofNat 64 (clzOf x)))
def execSaddi (d a : Reg) (i : BitVec 7) (s : State) : Result := withWord s (.saddi d a i) (fun _ e => e.uni1 d a (fun x => x + i.signExtend 64))
def execSandi (d a : Reg) (i : BitVec 7) (s : State) : Result := withWord s (.sandi d a i) (fun _ e => e.uni1 d a (fun x => x &&& i.signExtend 64))
def execSori (d a : Reg) (i : BitVec 7) (s : State) : Result := withWord s (.sori d a i) (fun _ e => e.uni1 d a (fun x => x ||| i.signExtend 64))
def execSxori (d a : Reg) (i : BitVec 7) (s : State) : Result := withWord s (.sxori d a i) (fun _ e => e.uni1 d a (fun x => x ^^^ i.signExtend 64))
def execSshli (d a : Reg) (i : BitVec 6) (s : State) : Result := withWord s (.sshli d a i) (fun _ e => e.uni1 d a (fun x => shlBy x i.toNat))
def execSshri (d a : Reg) (i : BitVec 6) (s : State) : Result := withWord s (.sshri d a i) (fun _ e => e.uni1 d a (fun x => shrBy x i.toNat))
def execSsari (d a : Reg) (i : BitVec 6) (s : State) : Result := withWord s (.ssari d a i) (fun _ e => e.uni1 d a (fun x => sarBy x i.toNat))

/-! ### scmp and scmpi (R153) -/

def execScmp (c : BitVec 4) (d : BitVec 3) (a b : Reg) (s : State) : Result :=
  withWord s (.scmp c d a b) (fun _ e => .ofActs (putQ d (intTest c.toNat (e.srcS a) (e.srcS b))))
def execScmpi (c : BitVec 4) (d : BitVec 3) (a : Reg) (i : BitVec 7) (s : State) : Result :=
  withWord s (.scmpi c d a i) (fun _ e => .ofActs (putQ d (intTest c.toNat (e.srcS a) (i.signExtend 64))))

/-! ### WARPQ (R154-R156) -/

/-- The active lanes on which a predicate holds. -/
def Env.where_ (e : Env) (p : BitVec 3) : Mask := e.act &&& maskOf e.c.x.width (fun l => e.pred l p)

def execVany (d a : BitVec 3) (s : State) : Result := withWord s (.vany d a) (fun _ e => .ofActs (putQ d (e.where_ a != 0)))
def execVall (d a : BitVec 3) (s : State) : Result := withWord s (.vall d a) (fun _ e => .ofActs (putQ d (e.where_ a == e.act)))

/-- `ballot` (R155): at W = 128 an even register and the one after it. -/
def Env.ballot (e : Env) (d : Reg) (a : BitVec 3) : Word :=
  let m := e.where_ a
  if e.c.x.width = 128 then
    if d.toNat < 120 ∧ d.toNat % 2 = 1 then e.operand
    else if d.toNat < 120 then .ofActs (putS d (m.setWidth 64) ++ putS (d + 1) ((m >>> 64).setWidth 64))
    else .nil
  else .ofActs (putS d (m.setWidth 64))

def execBallot (d : Reg) (a : BitVec 3) (s : State) : Result := withWord s (.ballot d a) (fun _ e => e.ballot d a)
def execVcnt (d : Reg) (a : BitVec 3) (s : State) : Result :=
  withWord s (.vcnt d a) (fun _ e => .ofActs (putS d (BitVec.ofNat 64 (popNat 128 (e.where_ a).toNat))))
def execVfirst (d : Reg) (a : BitVec 3) (s : State) : Result :=
  withWord s (.vfirst d a) (fun _ e => .ofActs (putS d (match Mask.low (e.where_ a) with | some l => BitVec.ofNat 64 l | none => BitVec.allOnes 64)))

/-- `rdlane` and `wrlane` (R156). -/
def Env.rdlane (e : Env) (d a b : Reg) : Word :=
  let k := (e.srcS b).toNat
  if e.c.x.width ≤ k then e.operand
  else if e.act = 0 then .nil
  else .ofActs (putS d ((e.vreg k a.toNat).setWidth 64))
def Env.wrlane (e : Env) (d a b : Reg) : Word :=
  let k := (e.srcS b).toNat
  if e.c.x.width ≤ k then e.operand
  else if e.act.getLsbD k then .ofActs (e.putFull d k ((e.srcS a).setWidth 32))
  else .nil

def execRdlane (d a b : Reg) (s : State) : Result := withWord s (.rdlane d a b) (fun _ e => e.rdlane d a b)
def execWrlane (d a b : Reg) (s : State) : Result := withWord s (.wrlane d a b) (fun _ e => e.wrlane d a b)

end Sys2Proof.Machine
end

