-- ==== Sys2Proof/Machine/Dispatch.lean ====
section
/-! DEFINITION. Every instruction and every device step has its meaning. -/

namespace Sys2Proof.Machine

/-- One instruction at a state. -/
def exec (i : Instr) (s : State) : Host.Outcome State Fault Refusal :=
  match i with
  | .iadd d a b => Sys2Proof.Machine.execIadd d a b s
  | .isub d a b => Sys2Proof.Machine.execIsub d a b s
  | .imin d a b => Sys2Proof.Machine.execImin d a b s
  | .imax d a b => Sys2Proof.Machine.execImax d a b s
  | .umin d a b => Sys2Proof.Machine.execUmin d a b s
  | .umax d a b => Sys2Proof.Machine.execUmax d a b s
  | .iabsd d a b => Sys2Proof.Machine.execIabsd d a b s
  | .iavg d a b => Sys2Proof.Machine.execIavg d a b s
  | .iadds d a b => Sys2Proof.Machine.execIadds d a b s
  | .isubs d a b => Sys2Proof.Machine.execIsubs d a b s
  | .uadds d a b => Sys2Proof.Machine.execUadds d a b s
  | .usubs d a b => Sys2Proof.Machine.execUsubs d a b s
  | .imul d a b => Sys2Proof.Machine.execImul d a b s
  | .imulh d a b => Sys2Proof.Machine.execImulh d a b s
  | .umulh d a b => Sys2Proof.Machine.execUmulh d a b s
  | .imad d a b => Sys2Proof.Machine.execImad d a b s
  | .and d a b => Sys2Proof.Machine.execAnd d a b s
  | .or d a b => Sys2Proof.Machine.execOr d a b s
  | .xor d a b => Sys2Proof.Machine.execXor d a b s
  | .andn d a b => Sys2Proof.Machine.execAndn d a b s
  | .orn d a b => Sys2Proof.Machine.execOrn d a b s
  | .xnor d a b => Sys2Proof.Machine.execXnor d a b s
  | .shl d a b => Sys2Proof.Machine.execShl d a b s
  | .shr d a b => Sys2Proof.Machine.execShr d a b s
  | .sar d a b => Sys2Proof.Machine.execSar d a b s
  | .rol d a b => Sys2Proof.Machine.execRol d a b s
  | .popc d a => Sys2Proof.Machine.execPopc d a s
  | .clz d a => Sys2Proof.Machine.execClz d a s
  | .brev d a => Sys2Proof.Machine.execBrev d a s
  | .bfx d a b => Sys2Proof.Machine.execBfx d a b s
  | .bfi d a b => Sys2Proof.Machine.execBfi d a b s
  | .prmb d a b => Sys2Proof.Machine.execPrmb d a b s
  | .iaddi d a im => Sys2Proof.Machine.execIaddi d a im s
  | .andi d a im => Sys2Proof.Machine.execAndi d a im s
  | .ori d a im => Sys2Proof.Machine.execOri d a im s
  | .xori d a im => Sys2Proof.Machine.execXori d a im s
  | .shli d a im => Sys2Proof.Machine.execShli d a im s
  | .shri d a im => Sys2Proof.Machine.execShri d a im s
  | .sari d a im => Sys2Proof.Machine.execSari d a im s
  | .roli d a im => Sys2Proof.Machine.execRoli d a im s
  | .imini d a im => Sys2Proof.Machine.execImini d a im s
  | .imaxi d a im => Sys2Proof.Machine.execImaxi d a im s
  | .movl d im => Sys2Proof.Machine.execMovl d im s
  | .movhi d im => Sys2Proof.Machine.execMovhi d im s
  | .icmp c d a b => Sys2Proof.Machine.execIcmp c d a b s
  | .icmpi c d a im => Sys2Proof.Machine.execIcmpi c d a im s
  | .mov d a => Sys2Proof.Machine.execMov d a s
  | .sel n d a b => Sys2Proof.Machine.execSel n d a b s
  | .pand d a b => Sys2Proof.Machine.execPand d a b s
  | .por d a b => Sys2Proof.Machine.execPor d a b s
  | .pxor d a b => Sys2Proof.Machine.execPxor d a b s
  | .pnot d a => Sys2Proof.Machine.execPnot d a s
  | .ptov d => Sys2Proof.Machine.execPtov d s
  | .vtop a b => Sys2Proof.Machine.execVtop a b s
  | .qand d a b => Sys2Proof.Machine.execQand d a b s
  | .qor d a b => Sys2Proof.Machine.execQor d a b s
  | .qxor d a b => Sys2Proof.Machine.execQxor d a b s
  | .qnot d a => Sys2Proof.Machine.execQnot d a s
  | .sadd d a b => Sys2Proof.Machine.execSadd d a b s
  | .ssub d a b => Sys2Proof.Machine.execSsub d a b s
  | .smul d a b => Sys2Proof.Machine.execSmul d a b s
  | .smulhu d a b => Sys2Proof.Machine.execSmulhu d a b s
  | .smin d a b => Sys2Proof.Machine.execSmin d a b s
  | .smax d a b => Sys2Proof.Machine.execSmax d a b s
  | .sminu d a b => Sys2Proof.Machine.execSminu d a b s
  | .smaxu d a b => Sys2Proof.Machine.execSmaxu d a b s
  | .sand d a b => Sys2Proof.Machine.execSand d a b s
  | .sor d a b => Sys2Proof.Machine.execSor d a b s
  | .sxor d a b => Sys2Proof.Machine.execSxor d a b s
  | .sshl d a b => Sys2Proof.Machine.execSshl d a b s
  | .sshr d a b => Sys2Proof.Machine.execSshr d a b s
  | .ssar d a b => Sys2Proof.Machine.execSsar d a b s
  | .spopc d a => Sys2Proof.Machine.execSpopc d a s
  | .sclz d a => Sys2Proof.Machine.execSclz d a s
  | .saddi d a im => Sys2Proof.Machine.execSaddi d a im s
  | .sandi d a im => Sys2Proof.Machine.execSandi d a im s
  | .sori d a im => Sys2Proof.Machine.execSori d a im s
  | .sxori d a im => Sys2Proof.Machine.execSxori d a im s
  | .sshli d a im => Sys2Proof.Machine.execSshli d a im s
  | .sshri d a im => Sys2Proof.Machine.execSshri d a im s
  | .ssari d a im => Sys2Proof.Machine.execSsari d a im s
  | .scmp c d a b => Sys2Proof.Machine.execScmp c d a b s
  | .scmpi c d a im => Sys2Proof.Machine.execScmpi c d a im s
  | .vany d a => Sys2Proof.Machine.execVany d a s
  | .vall d a => Sys2Proof.Machine.execVall d a s
  | .ballot d a => Sys2Proof.Machine.execBallot d a s
  | .vcnt d a => Sys2Proof.Machine.execVcnt d a s
  | .vfirst d a => Sys2Proof.Machine.execVfirst d a s
  | .rdlane d a b => Sys2Proof.Machine.execRdlane d a b s
  | .wrlane d a b => Sys2Proof.Machine.execWrlane d a b s
  | .lget_idx d a b => Sys2Proof.Machine.execLgetIdx d a b s
  | .lget_up d a k => Sys2Proof.Machine.execLgetUp d a k s
  | .lget_dn d a k => Sys2Proof.Machine.execLgetDn d a k s
  | .lget_xor d a b => Sys2Proof.Machine.execLgetXor d a b s
  | .lget_wxor d a k => Sys2Proof.Machine.execLgetWxor d a k s
  | .lget_wrot d a k => Sys2Proof.Machine.execLgetWrot d a k s
  | .radd d a => Sys2Proof.Machine.execRadd d a s
  | .rmin d a => Sys2Proof.Machine.execRmin d a s
  | .rmax d a => Sys2Proof.Machine.execRmax d a s
  | .rumin d a => Sys2Proof.Machine.execRumin d a s
  | .rumax d a => Sys2Proof.Machine.execRumax d a s
  | .rfadd d a => Sys2Proof.Machine.execRfadd d a s
  | .rfmin d a => Sys2Proof.Machine.execRfmin d a s
  | .rfmax d a => Sys2Proof.Machine.execRfmax d a s
  | .scan_add d a => Sys2Proof.Machine.execScanAdd d a s
  | .scan_fadd d a => Sys2Proof.Machine.execScanFadd d a s
  | .rstep_add d a b => Sys2Proof.Machine.execRstepAdd d a b s
  | .rstep_fadd d a b => Sys2Proof.Machine.execRstepFadd d a b s
  | .rstep_fmax d a b => Sys2Proof.Machine.execRstepFmax d a b s
  | .fadd d a b => Sys2Proof.Machine.execFadd d a b s
  | .fsub d a b => Sys2Proof.Machine.execFsub d a b s
  | .fmul d a b => Sys2Proof.Machine.execFmul d a b s
  | .fma d a b => Sys2Proof.Machine.execFma d a b s
  | .fnma d a b => Sys2Proof.Machine.execFnma d a b s
  | .fmin d a b => Sys2Proof.Machine.execFmin d a b s
  | .fmax d a b => Sys2Proof.Machine.execFmax d a b s
  | .fabs d a => Sys2Proof.Machine.execFabs d a s
  | .fneg d a => Sys2Proof.Machine.execFneg d a s
  | .fcpys d a b => Sys2Proof.Machine.execFcpys d a b s
  | .fmov d a => Sys2Proof.Machine.execFmov d a s
  | .frnd d a => Sys2Proof.Machine.execFrnd d a s
  | .fclass d a => Sys2Proof.Machine.execFclass d a s
  | .fscale d a b => Sys2Proof.Machine.execFscale d a b s
  | .frcp d a => Sys2Proof.Machine.execFrcp d a s
  | .frsq d a => Sys2Proof.Machine.execFrsq d a s
  | .fsqrt d a => Sys2Proof.Machine.execFsqrt d a s
  | .fex2 d a => Sys2Proof.Machine.execFex2 d a s
  | .flg2 d a => Sys2Proof.Machine.execFlg2 d a s
  | .fsin d a => Sys2Proof.Machine.execFsin d a s
  | .fcos d a => Sys2Proof.Machine.execFcos d a s
  | .ftanh d a => Sys2Proof.Machine.execFtanh d a s
  | .hadd2 d a b => Sys2Proof.Machine.execHadd2 d a b s
  | .hmul2 d a b => Sys2Proof.Machine.execHmul2 d a b s
  | .hfma2 d a b => Sys2Proof.Machine.execHfma2 d a b s
  | .hmin2 d a b => Sys2Proof.Machine.execHmin2 d a b s
  | .hmax2 d a b => Sys2Proof.Machine.execHmax2 d a b s
  | .hadd2_bf d a b => Sys2Proof.Machine.execHadd2Bf d a b s
  | .hmul2_bf d a b => Sys2Proof.Machine.execHmul2Bf d a b s
  | .hfma2_bf d a b => Sys2Proof.Machine.execHfma2Bf d a b s
  | .hmin2_bf d a b => Sys2Proof.Machine.execHmin2Bf d a b s
  | .hmax2_bf d a b => Sys2Proof.Machine.execHmax2Bf d a b s
  | .fcmp c d a b => Sys2Proof.Machine.execFcmp c d a b s
  | .f2i d a => Sys2Proof.Machine.execF2i d a s
  | .f2z d a => Sys2Proof.Machine.execF2z d a s
  | .i2f d a => Sys2Proof.Machine.execI2f d a s
  | .z2f d a => Sys2Proof.Machine.execZ2f d a s
  | .pkh2 d a b => Sys2Proof.Machine.execPkh2 d a b s
  | .pkbf2 d a b => Sys2Proof.Machine.execPkbf2 d a b s
  | .f2l d a => Sys2Proof.Machine.execF2l d a s
  | .l2f d a => Sys2Proof.Machine.execL2f d a s
  | .bexp d a => Sys2Proof.Machine.execBexp d a s
  | .bq_8 d a b => Sys2Proof.Machine.execBq8 d a b s
  | .bq_6 d a b => Sys2Proof.Machine.execBq6 d a b s
  | .bq_4 d a b => Sys2Proof.Machine.execBq4 d a b s
  | .bq_2 d a b => Sys2Proof.Machine.execBq2 d a b s
  | .bdq_8 d a b => Sys2Proof.Machine.execBdq8 d a b s
  | .bdq_6 d a b => Sys2Proof.Machine.execBdq6 d a b s
  | .bdq_4 d a b => Sys2Proof.Machine.execBdq4 d a b s
  | .bdq_2 d a b => Sys2Proof.Machine.execBdq2 d a b s
  | .ld z im d a b => Sys2Proof.Machine.execLd z im d a b s
  | .st z im d a b => Sys2Proof.Machine.execSt z im d a b s
  | .ldf6 d a b => Sys2Proof.Machine.execLdf6 d a b s
  | .ldloc_w d a b => Sys2Proof.Machine.execLdlocW d a b s
  | .ldloc_d d a b => Sys2Proof.Machine.execLdlocD d a b s
  | .ldloc_q d a b => Sys2Proof.Machine.execLdlocQ d a b s
  | .stp z d a b => Sys2Proof.Machine.execStp z d a b s
  | .rsdef d a b => Sys2Proof.Machine.execRsdef d a b s
  | .rsadd d a b => Sys2Proof.Machine.execRsadd d a b s
  | .rsdel d a b => Sys2Proof.Machine.execRsdel d a b s
  | .rsqry d a b => Sys2Proof.Machine.execRsqry d a b s
  | .unpark a => Sys2Proof.Machine.execUnpark a s
  | .atom_add d a b => Sys2Proof.Machine.execAtomAdd d a b s
  | .atom_min d a b => Sys2Proof.Machine.execAtomMin d a b s
  | .atom_max d a b => Sys2Proof.Machine.execAtomMax d a b s
  | .atom_umin d a b => Sys2Proof.Machine.execAtomUmin d a b s
  | .atom_umax d a b => Sys2Proof.Machine.execAtomUmax d a b s
  | .atom_and d a b => Sys2Proof.Machine.execAtomAnd d a b s
  | .atom_or d a b => Sys2Proof.Machine.execAtomOr d a b s
  | .atom_xor d a b => Sys2Proof.Machine.execAtomXor d a b s
  | .atom_xchg d a b => Sys2Proof.Machine.execAtomXchg d a b s
  | .atom_cas d a b => Sys2Proof.Machine.execAtomCas d a b s
  | .atom_fadd d a b => Sys2Proof.Machine.execAtomFadd d a b s
  | .atom_bfadd2 d a b => Sys2Proof.Machine.execAtomBfadd2 d a b s
  | .atom_inc d a b => Sys2Proof.Machine.execAtomInc d a b s
  | .atom_add64 d a b => Sys2Proof.Machine.execAtomAdd64 d a b s
  | .atom_cas64 d a b => Sys2Proof.Machine.execAtomCas64 d a b s
  | .llock d a b => Sys2Proof.Machine.execLlock d a b s
  | .ltry d a => Sys2Proof.Machine.execLtry d a s
  | .lunlk d a => Sys2Proof.Machine.execLunlk d a s
  | .lqry d a => Sys2Proof.Machine.execLqry d a s
  | .labnd d a => Sys2Proof.Machine.execLabnd d a s
  | .nbwait im b => Sys2Proof.Machine.execNbwait im b s
  | .nbarv im b => Sys2Proof.Machine.execNbarv im b s
  | .gbwait b => Sys2Proof.Machine.execGbwait b s
  | .abinit a b => Sys2Proof.Machine.execAbinit a b s
  | .abarv d a b => Sys2Proof.Machine.execAbarv d a b s
  | .abwait a b => Sys2Proof.Machine.execAbwait a b s
  | .abtest d a b => Sys2Proof.Machine.execAbtest d a b s
  | .fence k z f t => Sys2Proof.Machine.execFence k z f t s
  | .pref a b => Sys2Proof.Machine.execPref a b s
  | .cwb a b => Sys2Proof.Machine.execCwb a b s
  | .cinv a b => Sys2Proof.Machine.execCinv a b s
  | .cpy t a b => Sys2Proof.Machine.execCpy t a b s
  | .cpy2d t a b => Sys2Proof.Machine.execCpy2d t a b s
  | .cpybs t a b => Sys2Proof.Machine.execCpybs t a b s
  | .bsz t a b => Sys2Proof.Machine.execBsz t a b s
  | .mcrd t a b => Sys2Proof.Machine.execMcrd t a b s
  | .twall a => Sys2Proof.Machine.execTwall a s
  | .twany a => Sys2Proof.Machine.execTwany a s
  | .tff d a => Sys2Proof.Machine.execTff d a s
  | .tclr a => Sys2Proof.Machine.execTclr a s
  | .trd d => Sys2Proof.Machine.execTrd d s
  | .mma z x y d a b => Sys2Proof.Machine.execMma z x y d a b s
  | .mxst d => Sys2Proof.Machine.execMxst d s
  | .bra n p o => Sys2Proof.Machine.execBra n p o s
  | .brv n p o => Sys2Proof.Machine.execBrv n p o s
  | .call n p o => Sys2Proof.Machine.execCall n p o s
  | .brx a b => Sys2Proof.Machine.execBrx a b s
  | .loop e a e2 => Sys2Proof.Machine.execLoop e a e2 s
  | .brxv a b => Sys2Proof.Machine.execBrxv a b s
  | .split d a => Sys2Proof.Machine.execSplit d a s
  | .fuse d a => Sys2Proof.Machine.execFuse d a s
  | .fuse_r d a => Sys2Proof.Machine.execFuseR d a s
  | .sleep a => Sys2Proof.Machine.execSleep a s
  | .iqry d => Sys2Proof.Machine.execIqry d s
  | .racq d a b => Sys2Proof.Machine.execRacq d a b s
  | .rrel d a => Sys2Proof.Machine.execRrel d a s
  | .wbase a => Sys2Proof.Machine.execWbase a s
  | .launch d a b => Sys2Proof.Machine.execLaunch d a b s
  | .lwait d a b => Sys2Proof.Machine.execLwait d a b s
  | .safept im => Sys2Proof.Machine.execSafept im s
  | .trap a => Sys2Proof.Machine.execTrap a s
  | .csrr d c => Sys2Proof.Machine.execCsrr d c s
  | .csrw d c => Sys2Proof.Machine.execCsrw d c s
  | .csrs d c => Sys2Proof.Machine.execCsrs d c s
  | .csrc d c => Sys2Proof.Machine.execCsrc d c s
  | .clock d => Sys2Proof.Machine.execClock d s
  | .tlbi a b => Sys2Proof.Machine.execTlbi a b s
  | .bswap d a b => Sys2Proof.Machine.execBswap d a b s
  | .bresume d a b => Sys2Proof.Machine.execBresume d a b s
  | .coll d a b => Sys2Proof.Machine.execColl d a b s
  | .cinit d a b => Sys2Proof.Machine.execCinit d a b s
  | .cqry d a => Sys2Proof.Machine.execCqry d a s
  | .seed a => Sys2Proof.Machine.execSeed a s
  | .ret => Sys2Proof.Machine.execRet s
  | .join => Sys2Proof.Machine.execJoin s
  | .nop => Sys2Proof.Machine.execNop s
  | .yield => Sys2Proof.Machine.execYield s
  | .exit => Sys2Proof.Machine.execExit s
  | .refill => Sys2Proof.Machine.execRefill s
  | .exitw => Sys2Proof.Machine.execExitw s
  | .trig => Sys2Proof.Machine.execTrig s
  | .eret => Sys2Proof.Machine.execEret s
  | .tlbsync => Sys2Proof.Machine.execTlbsync s
  | .commit => Sys2Proof.Machine.execCommit s
  | .qtail => Sys2Proof.Machine.execQtail s
  | .resume => Sys2Proof.Machine.execResume s
  | .skip => Sys2Proof.Machine.execSkip s
  | .register_write => Sys2Proof.Machine.execRegisterWrite s
  | .event_counter_write => Sys2Proof.Machine.execEventCounterWrite s
  | .record_accept => Sys2Proof.Machine.execRecordAccept s
  | .grid_start => Sys2Proof.Machine.execGridStart s
  | .placement_pass => Sys2Proof.Machine.execPlacementPass s
  | .head_gang_reserve => Sys2Proof.Machine.execHeadGangReserve s
  | .donation => Sys2Proof.Machine.execDonation s
  | .reserved_inject => Sys2Proof.Machine.execReservedInject s
  | .carveout_interval => Sys2Proof.Machine.execCarveoutInterval s
  | .warp_retire => Sys2Proof.Machine.execWarpRetire s
  | .block_retire => Sys2Proof.Machine.execBlockRetire s
  | .grid_complete => Sys2Proof.Machine.execGridComplete s
  | .parked_placement => Sys2Proof.Machine.execParkedPlacement s
  | .copy_unit => Sys2Proof.Machine.execCopyUnit s
  | .copy_completion => Sys2Proof.Machine.execCopyCompletion s
  | .product_start => Sys2Proof.Machine.execProductStart s
  | .product_land => Sys2Proof.Machine.execProductLand s
  | .lock_release_arrive => Sys2Proof.Machine.execLockReleaseArrive s
  | .lock_grant => Sys2Proof.Machine.execLockGrant s
  | .lock_timeout => Sys2Proof.Machine.execLockTimeout s
  | .inherit_hop => Sys2Proof.Machine.execInheritHop s
  | .racq_timeout => Sys2Proof.Machine.execRacqTimeout s
  | .split_timeout => Sys2Proof.Machine.execSplitTimeout s
  | .fuse_timeout => Sys2Proof.Machine.execFuseTimeout s
  | .sleep_expiry => Sys2Proof.Machine.execSleepExpiry s
  | .safepoint_force => Sys2Proof.Machine.execSafepointForce s
  | .swap_image_write => Sys2Proof.Machine.execSwapImageWrite s
  | .restore => Sys2Proof.Machine.execRestore s
  | .unit_kill => Sys2Proof.Machine.execUnitKill s
  | .tlbi_complete => Sys2Proof.Machine.execTlbiComplete s
  | .record_post => Sys2Proof.Machine.execRecordPost s
  | .aged => Sys2Proof.Machine.execAged s
  | .coll_instance_end => Sys2Proof.Machine.execCollInstanceEnd s
  | .coll_timeout => Sys2Proof.Machine.execCollTimeout s
  | .data => Sys2Proof.Machine.execData s
  | .counts => Sys2Proof.Machine.execCounts s
  | .ack => Sys2Proof.Machine.execAck s
  | .abort_frame => Sys2Proof.Machine.execAbortFrame s
  | .retransmit => Sys2Proof.Machine.execRetransmit s
  | .pause => Sys2Proof.Machine.execPause s
  | .host_write => Sys2Proof.Machine.execHostWrite s
  | .host_read => Sys2Proof.Machine.execHostRead s
  | .merge_request => Sys2Proof.Machine.execMergeRequest s
  | .divide_request => Sys2Proof.Machine.execDivideRequest s
  | .device_reset => Sys2Proof.Machine.execDeviceReset s
  | .boot_stage => Sys2Proof.Machine.execBootStage s
  | .partition_reset => Sys2Proof.Machine.execPartitionReset s
  | .attestation_report => Sys2Proof.Machine.execAttestationReport s
  | .unit_ready => Sys2Proof.Machine.execUnitReady s
  | .corrected_error => Sys2Proof.Machine.execCorrectedError s
  | .kiln_replan => Sys2Proof.Machine.execKilnReplan s
  | .thermal_stop => Sys2Proof.Machine.execThermalStop s
  | .thermal_resume => Sys2Proof.Machine.execThermalResume s
  | .power_throttle => Sys2Proof.Machine.execPowerThrottle s

end Sys2Proof.Machine
end

