-- ==== Sys2Proof/Machine/Step.lean ====
section
/-! DEFINITION. One step of the machine: what the outside world has put in first, else one thing that can happen next, else time passes. -/

namespace Sys2Proof.Machine

/-- A device step of a partition. -/
def State.happen (s : State) (q : Nat) (e : Event) : Host.Outcome State Fault Refusal := exec e.instr { s with ev := some (q, e) }

/-- A granted word issues, or its fetch fails (R55, R116). -/
def State.issue (s : State) (x : Supply) : Host.Outcome State Fault Refusal :=
  match x with
  | .run iss i => exec i { s.fetchFill iss with cur := some iss }
  | .fail iss cause acc addr detail => .next (s.failWord iss cause acc addr detail)
  | .lost iss pa => .next (s.lostWord iss pa)

/-- One step. -/
def step (s : State) : Host.Outcome State Fault Refusal :=
  match s.inbox with
  | (q, e) :: rest => ({ s with inbox := rest } : State).elapsed.happen q e
  | [] =>
    match s.pick s.agents with
    | none => .next s.elapsed
    | some (.event q e) => s.elapsed.happen q e
    | some (.word _ _ x) => s.elapsed.issue x

/-- The device with an instruction of `nbits` bits where its only warp fetches next. -/
def State.withFetchWord (s : State) (nbits w : Nat) : State := s.probe (tableBytes 8 (w % 2 ^ nbits))

end Sys2Proof.Machine
end

