-- ==== Sys2Proof/Safety.lean ====
section
/-! DEFINITION. What the claims about the machine are said in: canonical memories, a word that issues and the run it joins, a run of one word in a quiet
partition, and what such a run may change. -/

namespace Sys2Proof.Machine

/-! ### Memories -/

/-- Every memory of the device is in its canonical form: DRAM and host memory. -/
def State.memWf (s : State) : Bool := Memory.wf s.dram && Memory.wf s.hostMem

/-! ### A word and the run it joins (R31-R36, R55) -/

/-- The state as a word finds it: before a run opens, parked stores on their way are performed (log 27). -/
def State.begun (s : State) (iss : Issue) (c : Ctx) : State :=
  match c.x.run with
  | some _ => { s with cur := none }
  | none => ({ s with cur := none } : State).drainAll iss.q

/-- The run that a word joins: the warp's open run, or one that the word opens. -/
def State.runAt (s : State) (iss : Issue) (c : Ctx) : Run :=
  let t := s.begun iss c
  match c.x.run with
  | some r => r
  | none => openRun c.x ((t.part iss.q).core c.w.core) (t.part iss.q).csr (t.clkc iss.q) t.now iss.addr

/-- What a word is evaluated against (R55). -/
def State.env (s : State) (iss : Issue) (c : Ctx) : Env :=
  let t := s.begun iss c
  ⟨iss.q, c, iss, s.runAt iss c, (t.part iss.q).core c.w.core, c.x.active (Pfx.guard iss.pfx), (t.part iss.q).isSup c.grid⟩

/-- The state with a word queued on its run (R33), not yet closed. -/
def State.queued (s : State) (iss : Issue) (c : Ctx) (w : Word) : State :=
  let t := s.begun iss c
  t.modPart iss.q (fun p => p.setWarp c.w { c.x with last := t.now, run := some ((s.runAt iss c).add iss w) })

/-- The state after a word has issued: queued, and with the bung or a condition that stops the issue, its run closed (R35, R54). -/
def State.issued (s : State) (iss : Issue) (c : Ctx) (w : Word) : State :=
  if w.fatal || iss.bung then (s.queued iss c w).closeRun iss.q c.w (s.runAt iss c).words iss.detail else s.queued iss c w

/-- A warp is given word `i` and takes it (R36, R118, R121). -/
structure Takes (s : State) (i : Instr) (iss : Issue) (c : Ctx) : Prop where
  cur : s.cur = some iss
  ctx : (s.part iss.q).ctx iss.w = some c
  takes : c.x.takes (physRegs c.x.wb i iss.pfx) = true

/-- Word `i` issues and reaches its own meaning: room in the run (R31), inside the loop body (R133), registers below N (R49), and not in the run without
effect of R96 unless it is the `refill`. -/
structure Issues (s : State) (i : Instr) (iss : Issue) (c : Ctx) : Prop extends Takes s i iss c where
  room : (s.runAt iss c).words + iss.len / 4 ≤ 32
  body : c.x.beyond (s.runAt iss c).start (iss.addr + BitVec.ofNat 64 (iss.len - 4)) = false
  effect : c.x.refillRun = false ∨ i = .refill
  bound : regBound c.x.n (physRegs c.x.wb i iss.pfx) = none

/-- A word that issues, on operands that `ok` admits, is queued with what `w` gives of its environment. -/
def Queues (i : Instr) (ok : State → Env → Prop) (w : State → Env → Word) : Prop :=
  ∀ s iss c, Issues s i iss c → ok (s.begun iss c) (s.env iss c) →
    exec i s = .next (s.issued iss c (w (s.begun iss c) (s.env iss c)))

/-! ### A run of one word in a quiet partition -/

/-- The word with the bung is the whole run, and nothing else of the partition is involved: no parked store on its way, no swap under way, no reservation, and no warp
waits on an async barrier object. -/
structure Alone (s : State) (i : Instr) (iss : Issue) (c : Ctx) : Prop extends Issues s i iss c where
  fresh : c.x.run = none
  bung : iss.bung = true
  placed : (s.part iss.q).placeQ = []
  unswapped : (s.part iss.q).swaps = []
  unreserved : (s.part iss.q).csr.resv = []
  noObject : ∀ y ∈ (s.part iss.q).warps, ∀ l g t, y.2.wait ≠ .abwait l g t

/-- The same, outside every loop body. -/
structure Lone (s : State) (i : Instr) (iss : Issue) (c : Ctx) : Prop extends Alone s i iss c where
  noLoop : c.x.levels = []

/-- A queued effect on the warp's own registers alone. -/
def Act.isReg (a : Act) : Bool :=
  match a with
  | .v .. | .s .. | .p .. | .q .. | .lfsr .. | .flags _ | .wbase _ | .mxclr _ => true
  | _ => false

/-- What a register effect leaves of the warp. -/
def Warp.took (x : Warp) (a : Act) : Warp :=
  match a with
  | .s i v => { x with s := Sparse.wr x.s i v }
  | .p l i b => x.setP l i b
  | .q i b => x.setQ i b
  | .lfsr l v => { x with lanes := modAt x.lanes l (fun y => { y with lfsr := v }) }
  | .flags f => { x with fflags := x.fflags ||| f }
  | .wbase v => { x with wb := v }
  | .mxclr m => { x with mx := x.mx &&& ~~~m }
  | _ => x

/-- What a register effect leaves of entry `k` (lane·512 + entry) of the core's register file. -/
def Act.file (k : Nat) (v : W32) (a : Act) : W32 :=
  match a with
  | .v lane e mask val => if lane * 512 + e = k then (v &&& ~~~mask) ||| (val &&& mask) else v
  | _ => v

/-- The warp between runs: past the word, and no run open. -/
def Warp.passed (x : Warp) (iss : Issue) (now : Nat) : Warp :=
  { x with last := now, run := none, pc := iss.addr + BitVec.ofNat 64 iss.len, refillRun := false }

/-- Nothing changes but one warp and the register file of its core: the warp becomes `x`, entry `k` of the file becomes `rf k`. -/
structure OnlyWarp (s t : State) (q : Nat) (w : WRef) (x : Warp) (rf : Nat → W32) : Prop where
  device : t.setPart q (s.part q) = { s with cur := none }
  part : { t.part q with warps := (s.part q).warps, cores := (s.part q).cores } = s.part q
  warp : (t.part q).warp w = some x
  others : ∀ k, k ≠ wkey w → AMap.find (t.part q).warps k = AMap.find (s.part q).warps k
  cores : ∀ g, g ≠ w.core → (t.part q).core g = (s.part q).core g
  core : { (t.part q).core w.core with rf := ((s.part q).core w.core).rf } = (s.part q).core w.core
  file : ∀ k, Sparse.rd ((t.part q).core w.core).rf k = rf k
  bytes : ∀ v g b l, t.rdLoc v g b l = s.rdLoc v g b l

/-- The word is taken, its warp becomes `y`, and nothing else changes. -/
def Became (s : State) (i : Instr) (iss : Issue) (c : Ctx) (y : Warp) : Prop :=
  ∃ t, exec i s = .next t ∧ OnlyWarp s t iss.q c.w y (Sparse.rd ((s.part iss.q).core c.w.core).rf)

/-- A run of register effects commits (R33, R35): they are performed in order, the warp stands past the word, and nothing else changes. -/
def RegStep (s t : State) (iss : Issue) (c : Ctx) (l : List Act) : Prop :=
  OnlyWarp s t iss.q c.w (l.foldl Warp.took (c.x.passed iss s.now)) (fun k => l.foldl (Act.file k) (Sparse.rd ((s.part iss.q).core c.w.core).rf k))

/-- A word whose effect is register writes: it is queued with them, and as a run of its own it performs them and nothing else. -/
def Writes (i : Instr) (ok : State → Env → Prop) (acts : State → Env → List Act) : Prop :=
  Queues i ok (fun s e => .ofActs (acts s e)) ∧
  ∀ s iss c, Lone s i iss c → ok (s.begun iss c) (s.env iss c) →
    ∃ t, exec i s = .next t ∧ RegStep s t iss c (acts (s.begun iss c) (s.env iss c))

/-- No condition on the operands. -/
def always (_ : State) (_ : Env) : Prop := True

/-! ### Words with one result -/

/-- A word's bits by number. -/
def HasBits {n : Nat} (x : BitVec n) (f : Nat → Bool) : Prop := ∀ j, j < n → x.getLsbD j = f j

/-- The writes of a 32-bit result on the active lanes: the whole register, or the destination's narrow field (R60, R138). -/
def Env.field (e : Env) (d : Reg) (r : Nat → W32) : List Act :=
  e.lanes.flatMap (fun l => e.put d l (fieldMask (intW e.pc.dnf.toNat) e.pc.dnp.toNat) (fieldVal (intW e.pc.dnf.toNat) e.pc.dnp.toNat (r l).toNat))

/-- A word that writes `r` to D, or to its narrow field, on each active lane. -/
def Gives (i : Instr) (d : Reg) (r : Env → Nat → W32) : Prop := Writes i always (fun _ e => e.field d (r e))

/-- A word that writes `r` to the whole of D on each active lane. -/
def GivesWhole (i : Instr) (d : Reg) (r : Env → Nat → W32) : Prop := Writes i always (fun _ e => e.lanes.flatMap (fun l => e.putFull d l (r e l)))

/-- A word that writes a lane predicate on each active lane. -/
def GivesPred (i : Instr) (d : BitVec 3) (r : Env → Nat → Bool) : Prop := Writes i always (fun _ e => e.lanes.flatMap (fun l => putP d l (r e l)))

/-- A word that writes a uniform register. -/
def GivesUni (i : Instr) (d : Reg) (r : Env → W64) : Prop := Writes i always (fun _ e => putS d (r e))

/-- A word that writes a uniform predicate. -/
def GivesQ (i : Instr) (d : BitVec 3) (r : Env → Bool) : Prop := Writes i always (fun _ e => putQ d (r e))

/-- A word that writes a 32-bit result given bit by bit. -/
def GivesBits (i : Instr) (d : Reg) (f : Env → Nat → Nat → Bool) : Prop := ∃ r : Env → Nat → W32, Gives i d r ∧ ∀ e l, HasBits (r e l) (f e l)

/-- A word that writes a uniform result given bit by bit. -/
def GivesUniBits (i : Instr) (d : Reg) (f : Env → Nat → Bool) : Prop := ∃ r : Env → W64, GivesUni i d r ∧ ∀ e, HasBits (r e) (f e)

/-- The range that a saturating result is clamped to: that of a narrow integer destination, or the given one (R60, R141). -/
def Env.range (e : Env) (lo hi : Int) : Int × Int :=
  match e.pc.dnf.toNat with
  | 0 => (lo, hi)
  | 1 => (-(2 ^ 15), 2 ^ 15 - 1)
  | 2 => (0, 2 ^ 16 - 1)
  | 3 => (-(2 ^ 7), 2 ^ 7 - 1)
  | 4 => (0, 2 ^ 8 - 1)
  | 5 => (-(2 ^ 3), 2 ^ 3 - 1)
  | _ => (0, 2 ^ 4 - 1)

/-- A word that writes its exact result clamped, and sets SAT where a lane's result is changed (R141, R72). -/
def GivesClamped (i : Instr) (d : Reg) (lo hi : Int) (f : Env → Nat → Int) : Prop :=
  Writes i (fun _ e => e.pc.dnf.toNat ≤ 6) (fun _ e =>
    let r := e.range lo hi
    e.field d (fun l => BitVec.ofInt 32 (max r.1 (min r.2 (f e l)))) ++
      (if e.lanes.any (fun l => decide (f e l < r.1 ∨ r.2 < f e l)) then [.flags fSAT] else []))

/-- A word that rounds an exact value into D on each active lane, once, and raises the flags of value and rounding (R158). -/
def GivesFloat (i : Instr) (d : Reg) (ok : Env → Nat → Num × Flags → Prop) : Prop :=
  ∃ r : Env → Nat → Num × Flags, (∀ e l, ok e l (r e l)) ∧ Writes i always (fun _ e => (e.fltWord d (r e)).acts)

/-- The ten integer conditions by code (R147). -/
def conditions {n : Nat} (a b : BitVec n) : List Bool :=
  [decide (a = b), decide (a ≠ b), decide (a.toInt < b.toInt), decide (a.toInt ≤ b.toInt), decide (a.toInt > b.toInt), decide (a.toInt ≥ b.toInt),
   decide (a.toNat < b.toNat), decide (a.toNat ≤ b.toNat), decide (a.toNat > b.toNat), decide (a.toNat ≥ b.toNat)]

/-! ### Values -/

/-- A finite number and its value. -/
def Num.Is (x : Num) (v : Rat) : Prop :=
  match x with
  | .fin n m e => v = (if n then -1 else 1) * (m : Rat) * (2 : Rat) ^ e
  | _ => False

/-! ### Exact results and roundings -/

/-- A value rounded to an integer under a mode (R62), SR apart. -/
def roundTo (rm : Nat) (v : Rat) : Int :=
  match rm with
  | 1 => if v < 0 then ⌈v⌉ else ⌊v⌋
  | 2 => ⌈v⌉
  | 3 => ⌊v⌋
  | 4 => if v < 0 then -⌊-v + 1 / 2⌋ else ⌊v + 1 / 2⌋
  | _ => if v - ⌊v⌋ = 1 / 2 then (if ⌊v⌋ % 2 = 0 then ⌊v⌋ else ⌊v⌋ + 1) else ⌊v + 1 / 2⌋

/-- A value rounded to an integer under SR with a draw (R64): away from zero where its fraction, in 24 bits, passes the draw. -/
def roundSR (draw : Nat) (v : Rat) : Int :=
  let k : Int := ⌊|v|⌋ + if draw < ⌊(|v| - ⌊|v|⌋) * 2 ^ 24⌋.toNat then 1 else 0
  if v < 0 then -k else k

/-- A value rounded to an integer under any mode (R62, R64). -/
def rounded (rm draw : Nat) (v : Rat) : Int := if rm = 5 then roundSR draw v else roundTo rm v

/-- A NaN operand gives a NaN, and NV if one is signalling (R159). -/
def NanRule (a b : Num) (r : Num × Flags) : Prop := a.isNan = true ∨ b.isNan = true → r.1.isNan = true ∧ r.2 = flagIf (a.isSig || b.isSig) fNV

/-- The exact sum of two numbers (R159): the sign of an exact zero, infinities, NaNs. -/
def SumOf (rm : Nat) (a b : Num) (r : Num × Flags) : Prop :=
  (∀ u v, a.Is u → b.Is v → r.1.Is (u + v) ∧ r.2 = 0 ∧ (u + v = 0 → r.1.neg? = if a.neg? = b.neg? then a.neg? else decide (rm = 3))) ∧
  (∀ n k, a = .inf n → b = .inf k → if n = k then r = (.inf n, 0) else r.1.isNan = true ∧ r.2 = fNV) ∧
  (∀ n v, (a = .inf n ∧ b.Is v) ∨ (a.Is v ∧ b = .inf n) → r = (.inf n, 0)) ∧ NanRule a b r

/-- The exact product of two numbers (R159). -/
def ProductOf (a b : Num) (r : Num × Flags) : Prop :=
  (∀ u v, a.Is u → b.Is v → r.1.Is (u * v) ∧ r.2 = 0 ∧ r.1.neg? = (a.neg? != b.neg?)) ∧
  (∀ n k, a = .inf n → b = .inf k → r = (.inf (n != k), 0)) ∧
  (∀ n v, (a = .inf n ∧ b.Is v) ∨ (a.Is v ∧ b = .inf n) → if v = 0 then r.1.isNan = true ∧ r.2 = fNV else r = (.inf (a.neg? != b.neg?), 0)) ∧ NanRule a b r

/-- The fused a·b + d (R159): the product is not rounded. -/
def FusedOf (rm : Nat) (a b d : Num) (r : Num × Flags) : Prop := ∃ p z, ProductOf a b p ∧ SumOf rm p.1 d z ∧ r = (z.1, p.2 ||| z.2)

/-- A value stands at or below another: infinities at the ends. -/
def Num.Below (a b : Num) : Prop := a = .inf true ∨ b = .inf false ∨ a = b ∨ ∃ u v, a.Is u ∧ b.Is v ∧ u ≤ v

/-- IEEE minimum, or maximum where `mx` (R159): −0 is less than +0. -/
def ExtremeOf (mx : Bool) (a b : Num) (r : Num × Flags) : Prop :=
  NanRule a b r ∧
  (a.isNan = false → b.isNan = false →
    r.2 = 0 ∧ (r.1 = a ∨ r.1 = b) ∧ (if mx then a.Below r.1 ∧ b.Below r.1 else r.1.Below a ∧ r.1.Below b) ∧
    (a.Is 0 → b.Is 0 → r.1.neg? = if mx then a.neg? && b.neg? else a.neg? || b.neg?))

/-- What an operation on two widened sources must give, their flags ORed in (R59, R73). -/
def OnPair (p : Num → Num → Num × Flags → Prop) (x y : Num × Flags) (r : Num × Flags) : Prop := ∃ z, p x.1 y.1 z ∧ r = (z.1, z.2 ||| x.2 ||| y.2)

/-- A word on the halves of its registers: each half's exact result rounded into its own half, half 0 first (R167). -/
def GivesHalves (i : Instr) (f : Fmt) (d : Reg) (ok : Env → Nat → Nat → Num × Flags → Prop) : Prop :=
  ∃ op : Env → Nat → Nat → Num × Flags, (∀ e l j, ok e l j (op e l j)) ∧ Writes i always (fun _ e => (e.halfWord f d (op e)).acts)

/-! ### Tables of the spec -/

def Num.isFin (x : Num) : Bool := match x with | .fin .. => true | _ => false
def Num.isZero (x : Num) : Bool := match x with | .fin _ m _ => m == 0 | _ => false

/-- The special functions by number (R164). -/
def sfuInstr (f : Nat) (d a : Reg) : Instr :=
  match f with
  | 0 => .frcp d a
  | 1 => .frsq d a
  | 3 => .fex2 d a
  | 4 => .flg2 d a
  | 5 => .fsin d a
  | 6 => .fcos d a
  | _ => .ftanh d a

/-- R165's table: the results and flags of special inputs, and of negative ones where the table gives them. -/
def sfuSpecial (f : Nat) (x : W32) : Option (W32 × Flags) :=
  let nan : Option (W32 × Flags) := some (0x7FC00000, fNV)
  let row (a b c d e g h : Option (W32 × Flags)) : Option (W32 × Flags) := [a, b, none, c, d, e, g, h].getD f none
  if x = 0 then row (some (0x7F800000, fDZ)) (some (0x7F800000, fDZ)) (some (0x3F800000, 0)) (some (0xFF800000, fDZ)) (some (0, 0)) (some (0x3F800000, 0)) (some (0, 0))
  else if x = 0x80000000 then
    row (some (0xFF800000, fDZ)) (some (0xFF800000, fDZ)) (some (0x3F800000, 0)) (some (0xFF800000, fDZ)) (some (0x80000000, 0)) (some (0x3F800000, 0)) (some (0x80000000, 0))
  else if x = 0x7F800000 then row (some (0, 0)) (some (0, 0)) (some (0x7F800000, 0)) (some (0x7F800000, 0)) nan nan (some (0x3F800000, 0))
  else if x = 0xFF800000 then row (some (0x80000000, 0)) nan (some (0, 0)) nan nan nan (some (0xBF800000, 0))
  else if 0x80000000 < x.toNat ∧ x.toNat < 0xFF800000 then row none nan none nan none none none
  else none

/-- The block words by their mantissa's width. -/
def bqInstr (n : Nat) (d a b : Reg) : Instr := match n with | 8 => .bq_8 d a b | 6 => .bq_6 d a b | 4 => .bq_4 d a b | _ => .bq_2 d a b
def bdqInstr (n : Nat) (d a b : Reg) : Instr := match n with | 8 => .bdq_8 d a b | 6 => .bdq_6 d a b | 4 => .bdq_4 d a b | _ => .bdq_2 d a b

/-! ### Other lanes -/

/-- The address of a word itself, after its prefix. -/
def Env.self (e : Env) : W64 := e.iss.addr + BitVec.ofNat 64 e.iss.len - 4

/-- What a lane get gives a lane (R176): A of the source lane if it exists and is active, else its own. -/
def Env.seen (e : Env) (a : Reg) (l : Nat) (k : Option Nat) : W32 :=
  match k with
  | some j => if j ∈ e.lanes then e.vreg j a.toNat else e.vreg l a.toNat
  | none => e.vreg l a.toNat

/-- A legal width with the active lanes inside it (R9). -/
def Env.legal (e : Env) : Prop := e.c.x.width ∈ [8, 16, 32, 64, 128]

/-- A result delivered once to a uniform D, extended as the word says, or on each active lane to a vector D (R177). -/
def Env.deliver (e : Env) (d : Reg) (signed : Bool) (v : W32) : List Act :=
  if d.isS then putS d (if signed then BitVec.ofInt 64 v.toInt else BitVec.ofNat 64 v.toNat) else e.lanes.flatMap (fun l => e.putFull d l v)

/-- The values of A on the active lanes. -/
def Env.values (e : Env) (a : Reg) : List W32 := e.lanes.map (fun l => e.vreg l a.toNat)

/-- The stride of `rstep` on a lane, and its legality (R180). -/
def Env.strideAt (e : Env) (b : Reg) (l : Nat) : Nat := if b.toNat = 121 ∨ b.toNat = 122 then (e.src b l).toNat else (e.srcS b).toNat
def Env.stridesOk (e : Env) (b : Reg) : Prop :=
  if b.toNat = 121 ∨ b.toNat = 122 then ∀ l ∈ e.lanes, ∃ j, e.strideAt b l = 2 ^ j ∧ 2 ^ j ≤ e.c.x.width / 2
  else ∃ j, (e.srcS b).toNat = 2 ^ j ∧ 2 ^ j ≤ e.c.x.width / 2

/-! ### Runs that abort (R37, R311, R316) -/

/-- A run of one word aborts on a supervisor's condition: the warp stands at the word, parked, TEPC is the word, the record is posted, and nothing else changes. -/
structure FaultStep (s t : State) (iss : Issue) (c : Ctx) (k : Cond) : Prop where
  device : t.setPart iss.q (s.part iss.q) = { s with cur := none }
  part : { t.part iss.q with
    warps := (s.part iss.q).warps, posts := (s.part iss.q).posts, postSeq := (s.part iss.q).postSeq, csr := (s.part iss.q).csr } = s.part iss.q
  warp : (t.part iss.q).warp c.w =
    some { c.x with last := s.now, run := none, pc := iss.addr, wait := .fault c.x.trap.epc s.now false k, trap := { c.x.trap with epc := iss.addr } }
  others : ∀ j, j ≠ wkey c.w → AMap.find (t.part iss.q).warps j = AMap.find (s.part iss.q).warps j
  posted : (t.part iss.q).posts = (s.part iss.q).posts ++ [faultRec c k iss.addr]
  counted : (t.part iss.q).postSeq = (s.part iss.q).postSeq + 1
  csr : (t.part iss.q).csr = (s.part iss.q).csr.setFull ((s.part iss.q).csr.fqstat.getLsbD 0 || !(s.part iss.q).csr.ringRoom)
  bytes : ∀ v g b l, t.rdLoc v g b l = s.rdLoc v g b l

/-- A word that raises a supervisor's condition, as a run of its own. -/
def Faults (i : Instr) (ok : State → Env → Prop) (k : State → Env → Cond) : Prop :=
  ∀ s iss c, Lone s i iss c → ok (s.begun iss c) (s.env iss c) →
    ∃ t, exec i s = .next t ∧ FaultStep s t iss c (k (s.begun iss c) (s.env iss c))

/-- A user trap is delivered: a handler at an admitted address, and the warp not in it (R311). -/
def Ctx.deliverable (c : Ctx) : Prop := c.x.trap.thnd ≠ 0 ∧ c.grid.k.target c.x.trap.thnd = true ∧ c.x.trap.inh = false

/-- The warp in its handler after a condition (R311, R313). -/
def Ctx.trapped (c : Ctx) (k : Cond) (epc : W64) (now : Nat) : Warp :=
  { c.x with
    last := now
    run := none
    pc := c.x.trap.thnd
    trap := { c.x.trap with
      cause := BitVec.ofNat 8 k.cause.code, addr := k.addr, info := k.tinfo, epc := epc, inh := true, rd0 := c.x.rd, count := min (c.x.trap.count + 1) 0xFFFF
      savedM := c.x.m } }

/-- A word that raises a user trap, as a run of its own: the handler is entered, and nothing else changes. -/
def Traps (i : Instr) (ok : State → Env → Prop) (k : State → Env → Cond) : Prop :=
  ∀ s iss c, Lone s i iss c → ok (s.begun iss c) (s.env iss c) → c.deliverable →
    ∃ t, exec i s = .next t ∧
      OnlyWarp s t iss.q c.w (c.trapped (k (s.begun iss c) (s.env iss c)) iss.addr s.now) (Sparse.rd ((s.part iss.q).core c.w.core).rf)

/-! ### Words that change their warp alone -/

/-- A run of one word after which the warp is `f` of the warp past the word, and nothing else changes. -/
def Turns (i : Instr) (ok : State → Env → Prop) (f : State → Env → Warp → Warp) : Prop :=
  ∀ s iss c, Lone s i iss c → ok (s.begun iss c) (s.env iss c) →
    ∃ t, exec i s = .next t ∧
      OnlyWarp s t iss.q c.w (f (s.begun iss c) (s.env iss c) (c.x.passed iss s.now)) (Sparse.rd ((s.part iss.q).core c.w.core).rf)

/-! ### Words that commit an effect -/

/-- The context with a run queued on its warp. -/
def Warp.queued (x : Warp) (now : Nat) (r : Run) : Warp := { x with last := now, run := some r }
def Ctx.queued (c : Ctx) (now : Nat) (r : Run) : Ctx := { c with x := c.x.queued now r }

/-- The run with a word queued. -/
def State.runWith (s : State) (iss : Issue) (c : Ctx) (w : Word) : Run := (s.runAt iss c).add iss w

/-- Nothing keeps a run of one word from its commit: no condition, no line locked by another, no race, no request that a router drops, and nothing to wait for (R35, R54,
R272, R302, R361). -/
structure Settled (s : State) (iss : Issue) (c : Ctx) (w : Word) : Prop where
  clear : w.cond = none
  unlocked : (s.queued iss c w).lockCond iss.q (c.queued s.now (s.runWith iss c w)) (s.runWith iss c w) = none
  raceless : (s.queued iss c w).raceCond iss.q (c.queued s.now (s.runWith iss c w)) (s.runWith iss c w) = none
  routed : (s.queued iss c w).runBarred iss.q (c.queued s.now (s.runWith iss c w)) (s.runWith iss c w)
    ((s.queued iss c w).requests iss.q (c.queued s.now (s.runWith iss c w)) (s.runWith iss c w)) = []
  ready : ((s.queued iss c w).part iss.q).runReady (c.queued s.now (s.runWith iss c w)) { s.runWith iss c w with since := s.now } = true

/-- The state after the commit of a run of one word. -/
def State.committed (s : State) (iss : Issue) (c : Ctx) (w : Word) : State :=
  (s.queued iss c w).commit iss.q (c.queued s.now (s.runWith iss c w)) (s.runWith iss c w)

/-- A word that is queued with what `w` gives, and whose run, of this one word and settled, commits it at once. -/
def Commits (i : Instr) (ok : State → Env → Prop) (w : State → Env → Word) : Prop :=
  Queues i ok w ∧
  ∀ s iss c, Lone s i iss c → ok (s.begun iss c) (s.env iss c) → Settled s iss c (w (s.begun iss c) (s.env iss c)) →
    exec i s = .next (s.committed iss c (w (s.begun iss c) (s.env iss c)))

/-! ### Bytes of memory -/

/-- The bytes that pieces write, each at its place, in order. -/
def byteWrites (ps : List Piece) : List (Loc × Byte) := ps.flatMap (fun x => (List.range x.bytes.length).map (fun j => (x.loc.add j, x.bytes.getD j 0)))

/-- What byte `k` of DRAM, of host memory, or of core `g`'s scratchpad reads after writes to places of partition `q`. -/
def dramAfter (s : State) (q : Nat) (l : List (Loc × Byte)) (k : Nat) (v : Byte) : Byte :=
  l.foldl (fun v x => match x.1 with | .dev pa => if s.dramKey q pa = k then x.2 else v | _ => v) v
def hostAfter (l : List (Loc × Byte)) (k : Nat) (v : Byte) : Byte := l.foldl (fun v x => match x.1 with | .host pa => if pa = k then x.2 else v | _ => v) v
def scratchAfter (g : Nat) (l : List (Loc × Byte)) (k : Nat) (v : Byte) : Byte :=
  l.foldl (fun v x => match x.1 with | .scratch c o => if c = g ∧ o = k then x.2 else v | _ => v) v

/-- Memory after writes to places of partition `q`: each byte reads as its last write, or as before. -/
structure Wrote (s t : State) (q : Nat) (l : List (Loc × Byte)) : Prop where
  dram : ∀ k, Sparse.rd t.dram k = dramAfter s q l k (Sparse.rd s.dram k)
  host : ∀ k, Sparse.rd t.hostMem k = hostAfter l k (Sparse.rd s.hostMem k)
  scratch : ∀ g k, Sparse.rd ((t.part q).core g).scratch k = scratchAfter g l k (Sparse.rd ((s.part q).core g).scratch k)

/-- The registers of the warp and its core as a run of loads leaves them: the writes performed, the warp past the word. -/
structure Loaded (s t : State) (iss : Issue) (c : Ctx) (l : List Act) : Prop where
  warp : (t.part iss.q).warp c.w = some (l.foldl Warp.took (c.x.passed iss s.now))
  others : ∀ k, k ≠ wkey c.w → AMap.find (t.part iss.q).warps k = AMap.find (s.part iss.q).warps k
  file : ∀ k, Sparse.rd ((t.part iss.q).core c.w.core).rf k = l.foldl (Act.file k) (Sparse.rd ((s.part iss.q).core c.w.core).rf k)
  files : ∀ g, g ≠ c.w.core → ((t.part iss.q).core g).rf = ((s.part iss.q).core g).rf

/-- The atomics by operation. -/
def atomInstr (op : AtomOp) (d a b : Reg) : Instr :=
  match op with
  | .add => .atom_add d a b
  | .min => .atom_min d a b
  | .max => .atom_max d a b
  | .umin => .atom_umin d a b
  | .umax => .atom_umax d a b
  | .and => .atom_and d a b
  | .or => .atom_or d a b
  | .xor => .atom_xor d a b
  | .xchg => .atom_xchg d a b
  | .cas => .atom_cas d a b
  | .fadd => .atom_fadd d a b
  | .bfadd2 => .atom_bfadd2 d a b
  | .inc => .atom_inc d a b
  | .add64 => .atom_add64 d a b
  | .cas64 => .atom_cas64 d a b

/-! ### Asynchronous work, control registers and device steps -/

/-- A copy word commits: its command joins the core's queue, its tag's bits fall, IFC rises, and nothing else changes (R233-R235). -/
structure CopyStep (s t : State) (iss : Issue) (c : Ctx) (tag : Nat) (k : CopyKind) : Prop where
  device : t.setPart iss.q (s.part iss.q) = { s with cur := none }
  part : { t.part iss.q with warps := (s.part iss.q).warps, cores := (s.part iss.q).cores } = s.part iss.q
  warp : (t.part iss.q).warp c.w =
    some { c.x.passed iss s.now with
      trdy := c.x.trdy &&& ~~~(BitVec.ofNat 64 (2 ^ tag))
      terr := c.x.terr &&& ~~~(BitVec.ofNat 64 (2 ^ tag))
      ifc := c.x.ifc + 1 }
  others : ∀ j, j ≠ wkey c.w → AMap.find (t.part iss.q).warps j = AMap.find (s.part iss.q).warps j
  cores : ∀ g, g ≠ c.w.core → (t.part iss.q).core g = (s.part iss.q).core g
  queue : (t.part iss.q).core c.w.core =
    { (s.part iss.q).core c.w.core with
      copyQ := ((s.part iss.q).core c.w.core).copyQ ++ [⟨c.w, c.blk.id, c.gang.id, tag, c.x.eff, k, k.units, none, 0, false, false⟩] }

/-- A copy word whose operands `ok` admits, where the core's queue has a place. -/
def Copies (i : Instr) (tag : Nat) (ok : State → Env → Prop) (k : Env → CopyKind) : Prop :=
  ∀ s iss c, Lone s i iss c → ok (s.begun iss c) (s.env iss c) → ((s.part iss.q).core c.w.core).copyQ.length < 16 → c.x.ifc < 4096 →
    ∃ t, exec i s = .next t ∧ CopyStep s t iss c tag (k (s.env iss c))

/-- The words that write a control register, by what they do to its value. -/
def csrInstr (op : CsrOp) (d : Reg) (n : BitVec 14) : Instr := match op with | .write => .csrw d n | .set => .csrs d n | .clear => .csrc d n

/-- A wait that the end of engine work or of a collective instance can end: of `split`, of `fuse`, or of a `coll` that is held. -/
def Wait.regroups (x : Wait) : Bool := match x with | .split .. => true | .fuse .. => true | .coll .. => true | _ => false

/-- A partition whose warps wait in no such wait, and whose supervisor has no swap under way. -/
def Part.noRegroup (p : Part) : Prop := p.swaps = [] ∧ ∀ y ∈ p.warps, y.2.wait.regroups = false

/-- A present warp waits for a lock that a warp holds, both by identity, directly or along a chain of up to `k` such waits (R270). -/
def Part.Chain (p : Part) : Nat → Nat → Nat → Prop
  | 0, _, _ => False
  | k + 1, u, v => ∃ l ∈ p.locks, l.holder = some u ∧ ∃ w ∈ l.waiters, p.present w.uid = true ∧ (w.uid = v ∨ p.Chain k w.uid v)

/-- Keys of a map, each once. -/
def onceEach {α : Type} (m : AMap α) : Prop := (m.map (fun x => x.1)).Nodup

/-- A warp's run is closed, without a run-terminal operation, and its commit involves nothing else of the partition (as `Lone` says of a run of one word). -/
structure Parks (s : State) (q : Nat) (w : WRef) (c : Ctx) (r : Run) : Prop where
  ctx : (s.part q).ctx w = some c
  run : c.x.run = some r
  closed : r.closed = true
  term : r.term = .none
  path : c.x.path ≠ 0
  wait : c.x.wait = .none
  placed : (s.part q).placeQ = []
  unswapped : (s.part q).swaps = []
  noLoop : c.x.levels = []
  noObject : ∀ y ∈ (s.part q).warps, ∀ l g t, y.2.wait ≠ .abwait l g t

/-- A device step with its operands answers a state. -/
def Happens (s : State) (q : Nat) (e : Event) (t : State) : Prop := exec e.instr { s with ev := some (q, e) } = .next t

end Sys2Proof.Machine
end

