-- ==== Sys2Proof/Certificates/Slice0/Obligations.lean ====
section
/-! DEFINITION. The statements about the model, by family: each is one `Obligations.<Name>`. -/

open Sys2Proof Sys2Proof.Machine

/-! ### Vector integers (R138-R148) -/

/-- R139, R140, R141: the sixteen IARITH words. Twelve write their exact result modulo 2^32, or its low field bits, and raise no flag; four clamp it to the range of the
destination and set SAT on an active lane that the clamp changes. -/
def Obligations.IntegerArithmetic : Prop :=
  ∀ d a b : Reg,
    Gives (.iadd d a b) d (fun e l => BitVec.ofInt 32 ((e.intA a l).toInt + (e.intB b l).toInt)) ∧
    Gives (.isub d a b) d (fun e l => BitVec.ofInt 32 ((e.intA a l).toInt - (e.intB b l).toInt)) ∧
    Gives (.imin d a b) d (fun e l => BitVec.ofInt 32 (min (e.intA a l).toInt (e.intB b l).toInt)) ∧
    Gives (.imax d a b) d (fun e l => BitVec.ofInt 32 (max (e.intA a l).toInt (e.intB b l).toInt)) ∧
    Gives (.umin d a b) d (fun e l => BitVec.ofNat 32 (min (e.intA a l).toNat (e.intB b l).toNat)) ∧
    Gives (.umax d a b) d (fun e l => BitVec.ofNat 32 (max (e.intA a l).toNat (e.intB b l).toNat)) ∧
    Gives (.iabsd d a b) d (fun e l => BitVec.ofInt 32 |(e.intA a l).toInt - (e.intB b l).toInt|) ∧
    Gives (.iavg d a b) d (fun e l => BitVec.ofInt 32 (((e.intA a l).toInt + (e.intB b l).toInt + 1).fdiv 2)) ∧
    Gives (.imul d a b) d (fun e l => BitVec.ofInt 32 ((e.intA a l).toInt * (e.intB b l).toInt)) ∧
    Gives (.imulh d a b) d (fun e l => BitVec.ofInt 32 (((e.intA a l).toInt * (e.intB b l).toInt).fdiv (2 ^ 32))) ∧
    Gives (.umulh d a b) d (fun e l => BitVec.ofNat 32 ((e.intA a l).toNat * (e.intB b l).toNat / 2 ^ 32)) ∧
    Gives (.imad d a b) d (fun e l => BitVec.ofInt 32 ((e.intA a l).toInt * (e.intB b l).toInt + (e.intD d l).toInt)) ∧
    GivesClamped (.iadds d a b) d (-(2 ^ 31)) (2 ^ 31 - 1) (fun e l => (e.intA a l).toInt + (e.intB b l).toInt) ∧
    GivesClamped (.isubs d a b) d (-(2 ^ 31)) (2 ^ 31 - 1) (fun e l => (e.intA a l).toInt - (e.intB b l).toInt) ∧
    GivesClamped (.uadds d a b) d 0 (2 ^ 32 - 1) (fun e l => (e.intA a l).toNat + (e.intB b l).toNat) ∧
    GivesClamped (.usubs d a b) d 0 (2 ^ 32 - 1) (fun e l => (e.intA a l).toNat - (e.intB b l).toNat)

/-- R142: bitwise words, shifts by any count, rotation, and the bits reversed, bit by bit; `popc` and `clz` by what they count. -/
def Obligations.LogicAndShifts : Prop :=
  ∀ d a b : Reg,
    GivesBits (.and d a b) d (fun e l j => (e.intA a l).getLsbD j && (e.intB b l).getLsbD j) ∧
    GivesBits (.or d a b) d (fun e l j => (e.intA a l).getLsbD j || (e.intB b l).getLsbD j) ∧
    GivesBits (.xor d a b) d (fun e l j => (e.intA a l).getLsbD j != (e.intB b l).getLsbD j) ∧
    GivesBits (.andn d a b) d (fun e l j => (e.intA a l).getLsbD j && !(e.intB b l).getLsbD j) ∧
    GivesBits (.orn d a b) d (fun e l j => (e.intA a l).getLsbD j || !(e.intB b l).getLsbD j) ∧
    GivesBits (.xnor d a b) d (fun e l j => (e.intA a l).getLsbD j == (e.intB b l).getLsbD j) ∧
    GivesBits (.shl d a b) d (fun e l j => decide ((e.intB b l).toNat ≤ j) && (e.intA a l).getLsbD (j - (e.intB b l).toNat)) ∧
    GivesBits (.shr d a b) d (fun e l j => (e.intA a l).getLsbD (j + (e.intB b l).toNat)) ∧
    GivesBits (.sar d a b) d (fun e l j => (e.intA a l).getLsbD (min 31 (j + (e.intB b l).toNat))) ∧
    GivesBits (.rol d a b) d (fun e l j => (e.intA a l).getLsbD ((j + 32 - (e.intB b l).toNat % 32) % 32)) ∧
    GivesBits (.brev d a) d (fun e l j => (e.intA a l).getLsbD (31 - j)) ∧
    Gives (.popc d a) d (fun e l => BitVec.ofNat 32 ((List.range 32).countP (fun j => (e.intA a l).getLsbD j))) ∧
    ∃ n : Env → Nat → Nat, Gives (.clz d a) d (fun e l => BitVec.ofNat 32 (n e l)) ∧
      ∀ e l, n e l ≤ 32 ∧ (∀ j, 32 - n e l ≤ j → (e.intA a l).getLsbD j = false) ∧ (n e l < 32 → (e.intA a l).getLsbD (31 - n e l) = true)

/-- R143, R144: `bfx` takes `len` bits of a from bit `pos` on, zero-extended; `bfi` puts the low `len` bits of a over those of d, and loses what falls above bit 31; byte k of
`prmb` is 0 where bit 3 of nibble k of b is set, and else byte [2:0] of the eight bytes of a and d. -/
def Obligations.FieldsAndBytes : Prop :=
  ∀ d a b : Reg,
    GivesBits (.bfx d a b) d (fun e l j =>
      decide (j < bits (e.intB b l).toNat 15 8) && (e.intA a l).getLsbD (j + bits (e.intB b l).toNat 7 0)) ∧
    GivesBits (.bfi d a b) d (fun e l j =>
      if bits (e.intB b l).toNat 7 0 ≤ j ∧ j < bits (e.intB b l).toNat 7 0 + bits (e.intB b l).toNat 15 8 then
        (e.intA a l).getLsbD (j - bits (e.intB b l).toNat 7 0)
      else (e.intD d l).getLsbD j) ∧
    GivesBits (.prmb d a b) d (fun e l j =>
      let n := bits (e.intB b l).toNat (4 * (j / 8) + 3) (4 * (j / 8))
      if n < 4 then (e.intA a l).getLsbD (8 * n + j % 8) else if n < 8 then (e.intD d l).getLsbD (8 * (n - 4) + j % 8) else false)

/-- R145: the ten immediate words. -/
def Obligations.ImmediateArithmetic : Prop :=
  ∀ (d a : Reg) (i : BitVec 7) (n : BitVec 5),
    Gives (.iaddi d a i) d (fun e l => BitVec.ofInt 32 ((e.intA a l).toInt + i.toInt)) ∧
    GivesBits (.andi d a i) d (fun e l j => (e.intA a l).getLsbD j && i.getLsbD (min 6 j)) ∧
    GivesBits (.ori d a i) d (fun e l j => (e.intA a l).getLsbD j || i.getLsbD (min 6 j)) ∧
    GivesBits (.xori d a i) d (fun e l j => (e.intA a l).getLsbD j != i.getLsbD (min 6 j)) ∧
    GivesBits (.shli d a n) d (fun e l j => decide (n.toNat ≤ j) && (e.intA a l).getLsbD (j - n.toNat)) ∧
    GivesBits (.shri d a n) d (fun e l j => (e.intA a l).getLsbD (j + n.toNat)) ∧
    GivesBits (.sari d a n) d (fun e l j => (e.intA a l).getLsbD (min 31 (j + n.toNat))) ∧
    GivesBits (.roli d a n) d (fun e l j => (e.intA a l).getLsbD ((j + 32 - n.toNat) % 32)) ∧
    Gives (.imini d a i) d (fun e l => BitVec.ofInt 32 (min (e.intA a l).toInt i.toInt)) ∧
    Gives (.imaxi d a i) d (fun e l => BitVec.ofInt 32 (max (e.intA a l).toInt i.toInt))

/-- R146, R148: constants into vector registers on the active lanes and into uniform registers once; moves and selections. -/
def Obligations.ConstantsAndMoves : Prop :=
  ∀ (d a b : Reg) (i : BitVec 18) (n : BitVec 3),
    Writes (.movl d i) (fun _ _ => d.isS = false) (fun _ e => e.lanes.flatMap (fun l => e.putFull d l (BitVec.ofInt 32 i.toInt))) ∧
    Writes (.movl d i) (fun _ _ => d.isS = true) (fun _ _ => putS d (BitVec.ofInt 64 i.toInt)) ∧
    Writes (.movhi d i) (fun _ _ => d.isS = false)
      (fun _ e => e.lanes.flatMap (fun l => e.putFull d l (BitVec.ofNat 32 (i.toNat * 2 ^ 14 + (e.src d l).toNat % 2 ^ 14)))) ∧
    Writes (.movhi d i) (fun _ _ => d.isS = true)
      (fun _ e => putS d (BitVec.ofInt 64 (BitVec.ofNat 32 (i.toNat * 2 ^ 14 + (e.srcS d).toNat % 2 ^ 14)).toInt)) ∧
    Gives (.mov d a) d (fun e l => e.intA a l) ∧
    Gives (.sel n d a b) d (fun e l => if e.pred l n = true then e.intA a l else e.intB b l)

/-- R147, R153: integer compares write the condition of their code, on each active lane or once for the warp; the immediate is sign-extended, for the unsigned conditions
too. -/
def Obligations.IntegerCompares : Prop :=
  ∀ (c : BitVec 4) (d : BitVec 3) (a b : Reg) (i : BitVec 7), c.toNat ≤ 9 →
    GivesPred (.icmp c d a b) d (fun e l => (conditions (e.intA a l) (e.intB b l)).getD c.toNat false) ∧
    GivesPred (.icmpi c d a i) d (fun e l => (conditions (e.intA a l) (BitVec.ofInt 32 i.toInt)).getD c.toNat false) ∧
    GivesQ (.scmp c d a b) d (fun e => (conditions (e.srcS a) (e.srcS b)).getD c.toNat false) ∧
    GivesQ (.scmpi c d a i) d (fun e => (conditions (e.srcS a) (BitVec.ofInt 64 i.toInt)).getD c.toNat false)

/-- R149: predicate logic on lanes and on the warp, and predicates to and from registers. -/
def Obligations.PredicateLogic : Prop :=
  ∀ (d a b : BitVec 3) (v x y : Reg),
    GivesPred (.pand d a b) d (fun e l => e.pred l a && e.pred l b) ∧
    GivesPred (.por d a b) d (fun e l => e.pred l a || e.pred l b) ∧
    GivesPred (.pxor d a b) d (fun e l => e.pred l a != e.pred l b) ∧
    GivesPred (.pnot d a) d (fun e l => !e.pred l a) ∧
    (∃ r : Env → Nat → W32, GivesWhole (.ptov v) v r ∧ ∀ e l, HasBits (r e l) (fun j => if j < 7 then (e.lane l).p.getLsbD j else decide (j = 7))) ∧
    Writes (.vtop x y) always (fun _ e => e.lanes.flatMap (fun l =>
      ((List.range 7).filter (fun j => (e.srcS y).getLsbD j)).map (fun j => Act.p l j ((e.src x l).getLsbD j)))) ∧
    GivesQ (.qand d a b) d (fun e => e.qpred a && e.qpred b) ∧
    GivesQ (.qor d a b) d (fun e => e.qpred a || e.qpred b) ∧
    GivesQ (.qxor d a b) d (fun e => e.qpred a != e.qpred b) ∧
    GivesQ (.qnot d a) d (fun e => !e.qpred a)

/-! ### Uniform words and queries (R150-R156) -/

/-- R151, R152: the uniform arithmetic, modulo 2^64. -/
def Obligations.UniformArithmetic : Prop :=
  ∀ (d a b : Reg) (i : BitVec 7) (n : BitVec 6),
    GivesUni (.sadd d a b) d (fun e => BitVec.ofNat 64 ((e.srcS a).toNat + (e.srcS b).toNat)) ∧
    GivesUni (.ssub d a b) d (fun e => BitVec.ofInt 64 ((e.srcS a).toInt - (e.srcS b).toInt)) ∧
    GivesUni (.smul d a b) d (fun e => BitVec.ofNat 64 ((e.srcS a).toNat * (e.srcS b).toNat)) ∧
    GivesUni (.smulhu d a b) d (fun e => BitVec.ofNat 64 ((e.srcS a).toNat * (e.srcS b).toNat / 2 ^ 64)) ∧
    GivesUni (.smin d a b) d (fun e => BitVec.ofInt 64 (min (e.srcS a).toInt (e.srcS b).toInt)) ∧
    GivesUni (.smax d a b) d (fun e => BitVec.ofInt 64 (max (e.srcS a).toInt (e.srcS b).toInt)) ∧
    GivesUni (.sminu d a b) d (fun e => BitVec.ofNat 64 (min (e.srcS a).toNat (e.srcS b).toNat)) ∧
    GivesUni (.smaxu d a b) d (fun e => BitVec.ofNat 64 (max (e.srcS a).toNat (e.srcS b).toNat)) ∧
    GivesUniBits (.sand d a b) d (fun e j => (e.srcS a).getLsbD j && (e.srcS b).getLsbD j) ∧
    GivesUniBits (.sor d a b) d (fun e j => (e.srcS a).getLsbD j || (e.srcS b).getLsbD j) ∧
    GivesUniBits (.sxor d a b) d (fun e j => (e.srcS a).getLsbD j != (e.srcS b).getLsbD j) ∧
    GivesUniBits (.sshl d a b) d (fun e j => decide ((e.srcS b).toNat ≤ j) && (e.srcS a).getLsbD (j - (e.srcS b).toNat)) ∧
    GivesUniBits (.sshr d a b) d (fun e j => (e.srcS a).getLsbD (j + (e.srcS b).toNat)) ∧
    GivesUniBits (.ssar d a b) d (fun e j => (e.srcS a).getLsbD (min 63 (j + (e.srcS b).toNat))) ∧
    GivesUni (.spopc d a) d (fun e => BitVec.ofNat 64 ((List.range 64).countP (fun j => (e.srcS a).getLsbD j))) ∧
    (∃ n : Env → Nat, GivesUni (.sclz d a) d (fun e => BitVec.ofNat 64 (n e)) ∧
      ∀ e, n e ≤ 64 ∧ (∀ j, 64 - n e ≤ j → (e.srcS a).getLsbD j = false) ∧ (n e < 64 → (e.srcS a).getLsbD (63 - n e) = true)) ∧
    GivesUni (.saddi d a i) d (fun e => BitVec.ofInt 64 ((e.srcS a).toInt + i.toInt)) ∧
    GivesUniBits (.sandi d a i) d (fun e j => (e.srcS a).getLsbD j && i.getLsbD (min 6 j)) ∧
    GivesUniBits (.sori d a i) d (fun e j => (e.srcS a).getLsbD j || i.getLsbD (min 6 j)) ∧
    GivesUniBits (.sxori d a i) d (fun e j => (e.srcS a).getLsbD j != i.getLsbD (min 6 j)) ∧
    GivesUniBits (.sshli d a n) d (fun e j => decide (n.toNat ≤ j) && (e.srcS a).getLsbD (j - n.toNat)) ∧
    GivesUniBits (.sshri d a n) d (fun e j => (e.srcS a).getLsbD (j + n.toNat)) ∧
    GivesUniBits (.ssari d a n) d (fun e j => (e.srcS a).getLsbD (min 63 (j + n.toNat)))

/-- R154, R155, R156: what the warp queries read of the active lanes; `ballot` writes one register up to width 64 and a pair at width 128; `rdlane` reads any lane below W
where a lane is active, and `wrlane` writes its lane if that lane is active; on the other operands that R155 and R156 name the run aborts with OPERAND. -/
def Obligations.WarpQueries : Prop :=
  ∀ (d x y : Reg) (q a : BitVec 3),
    GivesQ (.vany q a) q (fun e => e.lanes.any (fun l => e.pred l a)) ∧
    GivesQ (.vall q a) q (fun e => e.lanes.all (fun l => e.pred l a)) ∧
    GivesUni (.vcnt d a) d (fun e => BitVec.ofNat 64 (e.lanes.countP (fun l => e.pred l a))) ∧
    GivesUni (.vfirst d a) d (fun e => match e.lanes.find? (fun l => e.pred l a) with | some l => BitVec.ofNat 64 l | none => BitVec.ofNat 64 (2 ^ 64 - 1)) ∧
    (∃ lo hi : Env → W64, (∀ e, HasBits (lo e) (fun j => e.act.getLsbD j && e.pred j a) ∧ HasBits (hi e) (fun j => e.act.getLsbD (64 + j) && e.pred (64 + j) a)) ∧
      Writes (.ballot d a) (fun _ e => e.c.x.width ≤ 64) (fun _ e => putS d (lo e)) ∧
      Writes (.ballot d a) (fun _ e => e.c.x.width = 128 ∧ (d.isZ = true ∨ d.isSPair = true))
        (fun _ e => if d.isZ = true then [] else putS d (lo e) ++ putS (d + 1) (hi e))) ∧
    Faults (.ballot d a) (fun _ e => e.c.x.width = 128 ∧ d.isS = true ∧ d.isSPair = false) (fun _ e => e.cond .operand 0 e.iss.detail) ∧
    Writes (.rdlane d x y) (fun _ e => (e.srcS y).toNat < e.c.x.width) (fun _ e =>
      if e.act = 0 then [] else putS d (BitVec.ofNat 64 (e.vreg (e.srcS y).toNat x.toNat).toNat)) ∧
    Writes (.wrlane d x y) (fun _ e => (e.srcS y).toNat < e.c.x.width) (fun _ e =>
      if e.act.getLsbD (e.srcS y).toNat = true then e.putFull d (e.srcS y).toNat ((e.srcS x).setWidth 32) else []) ∧
    Faults (.rdlane d x y) (fun _ e => e.c.x.width ≤ (e.srcS y).toNat) (fun _ e => e.cond .operand 0 e.iss.detail) ∧
    Faults (.wrlane d x y) (fun _ e => e.c.x.width ≤ (e.srcS y).toNat) (fun _ e => e.cond .operand 0 e.iss.detail)

/-! ### Floating point (R56-R69, R158-R175) -/

/-- R56, R57, R61-R64: a finite value rounds to a multiple of its unit as its mode says, and is exact just where nothing is lost; under SR it rounds away from zero where its
fraction, in 24 bits, passes the draw. Rounded into a format, a value is the multiple of the format's spacing there, with NX where that differs from it and UF where it is also tiny;
beyond the largest finite value R63's table gives the result and its flags, and so it does for infinities and NaNs. A finite code of any format, read as a value and rounded into the
same format under any mode, is the same code, without a flag. -/
def Obligations.RoundingAndFormats : Prop :=
  let w (k : Nat) : Nat := [32, 16, 16, 8, 8, 6, 6, 4].getD k 0
  let m (k : Nat) : Nat := [23, 7, 10, 3, 2, 3, 2, 1].getD k 0
  let emin (k : Nat) : Int := [-126, -126, -14, -6, -14, 0, -2, 0].getD k 0
  let most (k : Nat) : Rat := [(2 - (2 : Rat) ^ (-23 : Int)) * 2 ^ 127, (2 - (2 : Rat) ^ (-7 : Int)) * 2 ^ 127, 65504, 448, 57344, 15 / 2, 28, 6].getD k 0
  let mostCode (k : Nat) : Nat := [0x7F7FFFFF, 0x7F7F, 0x7BFF, 0x7E, 0x7B, 0x1F, 0x1F, 0x7].getD k 0
  let infCode (k : Nat) : Nat := [0x7F800000, 0x7F80, 0x7C00, 0, 0x7C].getD k 0
  let nanCode (k : Nat) : Nat := [0x7FC00000, 0x7FC0, 0x7E00, 0x7F, 0x7E].getD k 0
  let sign (k : Nat) (n : Bool) : Nat := if n then 2 ^ (w k - 1) else 0
  let hasInf (k : Nat) : Prop := k ≤ 2 ∨ k = 4
  (∀ (rm : Nat) (neg : Bool) (m : Nat) (e q : Int) (draw : Nat), rm ≤ 6 →
    let v : Rat := (if neg then -1 else 1) * (m : Rat) * (2 : Rat) ^ (e - q)
    let r := roundQ rm neg m e q draw
    (r.2 = true ↔ ((sgn neg r.1 : Int) : Rat) = v) ∧ sgn neg r.1 = rounded rm draw v) ∧
  (∀ (k rm draw : Nat) (x : Machine.Num) (v : Rat) (t : Int), k ≤ 7 → rm ≤ 6 → x.Is v → (2 : Rat) ^ t ≤ |v| → |v| < (2 : Rat) ^ (t + 1) →
    let step (a : Int) : Rat := rounded rm draw (v / (2 : Rat) ^ a) * (2 : Rat) ^ a
    let y := step (max t (emin k) - m k)
    let z := (fmtOf k).encode rm x draw
    (|y| ≤ most k → ((fmtOf k).decode z.1).Is y ∧ ((fmtOf k).decode z.1).neg? = x.neg? ∧
      z.2 = if y = v then 0 else fNX ||| flagIf (decide (|step (t - m k)| < (2 : Rat) ^ emin k)) fUF) ∧
    (most k < |y| →
      (hasInf k → z = ((if rm = 1 ∨ rm = 6 ∨ (rm = 2 ∧ v < 0) ∨ (rm = 3 ∧ 0 < v) then mostCode k else infCode k) + sign k x.neg?, fOF ||| fNX)) ∧
      (k = 3 → z = if rm = 6 then (mostCode k + sign k x.neg?, fOF ||| fNX ||| fSAT) else (nanCode k, fOF ||| fNX)) ∧
      (5 ≤ k → z = (mostCode k + sign k x.neg?, fOF ||| fNX ||| fSAT)))) ∧
  (∀ (k rm draw : Nat) (n : Bool), k ≤ 7 → rm ≤ 6 →
    (fmtOf k).encode rm (.nan n) draw = (if k ≤ 4 then (nanCode k, 0) else (mostCode k, fNV)) ∧
    (hasInf k → (fmtOf k).encode rm (.inf n) draw = (infCode k + sign k n, 0)) ∧
    (k = 3 → (fmtOf k).encode rm (.inf n) draw = if rm = 6 then (mostCode k + sign k n, fSAT) else (nanCode k, fNV)) ∧
    (5 ≤ k → (fmtOf k).encode rm (.inf n) draw = (mostCode k + sign k n, fSAT))) ∧
  ∀ (k rm code draw : Nat), k ≤ 7 → rm ≤ 6 → code < 2 ^ (fmtOf k).w → (∃ v, ((fmtOf k).decode code).Is v) →
    (fmtOf k).encode rm ((fmtOf k).decode code) draw = (code, 0)

/-- R159, R160: the arithmetic of FARITH. Each word rounds the exact result once; `fma` and `fnma` do not round the product. -/
def Obligations.FloatArithmetic : Prop :=
  ∀ d a b : Reg,
    GivesFloat (.fadd d a b) d (fun e l => OnPair (SumOf e.rm) (e.fltA a l) (e.fltB b l)) ∧
    GivesFloat (.fsub d a b) d (fun e l => OnPair (fun x y => SumOf e.rm x y.negate) (e.fltA a l) (e.fltB b l)) ∧
    GivesFloat (.fmul d a b) d (fun e l => OnPair ProductOf (e.fltA a l) (e.fltB b l)) ∧
    GivesFloat (.fma d a b) d (fun e l r => ∃ z, FusedOf e.rm (e.fltA a l).1 (e.fltB b l).1 (e.fltD d l).1 z ∧
      r = (z.1, z.2 ||| (e.fltA a l).2 ||| (e.fltB b l).2 ||| (e.fltD d l).2)) ∧
    GivesFloat (.fnma d a b) d (fun e l r => ∃ z, FusedOf e.rm (e.fltA a l).1.negate (e.fltB b l).1 (e.fltD d l).1 z ∧
      r = (z.1, z.2 ||| (e.fltA a l).2 ||| (e.fltB b l).2 ||| (e.fltD d l).2)) ∧
    GivesFloat (.fmin d a b) d (fun e l => OnPair (ExtremeOf false) (e.fltA a l) (e.fltB b l)) ∧
    GivesFloat (.fmax d a b) d (fun e l => OnPair (ExtremeOf true) (e.fltA a l) (e.fltB b l))

/-- R161: with a full source and destination the sign words change bit 31 alone and `fmov` nothing; else they act on the widened value and round it, `fmov` under its mode. (That
`fcpys` raises nothing for a signalling NaN in a narrow B, whose sign bit alone it takes, is the model's choice, log 66.) -/
def Obligations.FloatMovesAndSigns : Prop :=
  ∀ d a b : Reg,
    Writes (.fabs d a) (fun _ e => e.full = true) (fun _ e => e.lanes.flatMap (fun l => e.putFull d l (BitVec.ofNat 32 ((e.src a l).toNat % 2 ^ 31)))) ∧
    Writes (.fneg d a) (fun _ e => e.full = true) (fun _ e => e.lanes.flatMap (fun l => e.putFull d l (e.src a l ^^^ 0x80000000))) ∧
    Writes (.fcpys d a b) (fun _ e => e.full = true ∧ e.pc.sbf = 0 ∧ e.pc.sbp = 0) (fun _ e => e.lanes.flatMap (fun l =>
      e.putFull d l (BitVec.ofNat 32 ((e.src a l).toNat % 2 ^ 31 + (e.src b l).toNat / 2 ^ 31 * 2 ^ 31)))) ∧
    Writes (.fmov d a) (fun _ e => e.full = true) (fun _ e => e.lanes.flatMap (fun l => e.putFull d l (e.src a l))) ∧
    Writes (.fabs d a) (fun _ e => e.full = false) (fun _ e => (e.fltWord d (fun l =>
      ((e.fltA a l).1.withSign false, (e.fltA a l).2 ||| flagIf (e.fltA a l).1.isSig fNV))).acts) ∧
    Writes (.fneg d a) (fun _ e => e.full = false) (fun _ e => (e.fltWord d (fun l =>
      ((e.fltA a l).1.withSign (!bitN (e.fltCode a e.pc.saf.toNat e.pc.sap.toNat l).2 ((fmtOf e.pc.saf.toNat).w - 1)),
        (e.fltA a l).2 ||| flagIf (e.fltA a l).1.isSig fNV))).acts) ∧
    Writes (.fcpys d a b) (fun _ e => e.full = false) (fun _ e => (e.fltWord d (fun l =>
      ((e.fltA a l).1.withSign (bitN (e.fltCode b e.pc.sbf.toNat e.pc.sbp.toNat l).2 ((fmtOf e.pc.sbf.toNat).w - 1)),
        (e.fltA a l).2 ||| flagIf (e.fltA a l).1.isSig fNV))).acts) ∧
    Writes (.fcpys d a b) (fun _ e => e.full = true ∧ e.pc.sbf ≠ 0) (fun _ e => e.lanes.flatMap (fun l =>
      e.putFull d l (BitVec.ofNat 32 ((e.src a l).toNat % 2 ^ 31 +
        b2n (bitN (e.fltCode b e.pc.sbf.toNat e.pc.sbp.toNat l).2 ((fmtOf e.pc.sbf.toNat).w - 1)) * 2 ^ 31)))) ∧
    Writes (.fmov d a) (fun _ e => e.full = false) (fun _ e => (e.fltWord d (fun l => ((e.fltA a l).1, (e.fltA a l).2 ||| flagIf (e.fltA a l).1.isSig fNV))).acts)

/-- R161, R65: a finite value rounded to an integral value, or to an integer and clamped. NX marks what differs; a NaN converts to 0 with NV. That a clamp sets NV and NX and not
SAT is the model's reading of R72's SAT row beside R65 and R170 (log 60). -/
def Obligations.RoundingToIntegers : Prop :=
  ∀ (x : Machine.Num) (v : Rat) (rm draw : Nat) (lo hi : Int), x.Is v → rm ≤ 6 → lo ≤ 0 → 0 ≤ hi →
    ((x.integral rm draw).1.Is (rounded rm draw v) ∧ (x.integral rm draw).1.neg? = x.neg? ∧
      (x.integral rm draw).2 = flagIf (decide (((rounded rm draw v : Int) : Rat) ≠ v)) fNX) ∧
    (x.toInt rm draw lo hi =
      if rounded rm draw v < lo then (lo, fNV ||| fNX) else if hi < rounded rm draw v then (hi, fNV ||| fNX)
      else (rounded rm draw v, flagIf (decide (((rounded rm draw v : Int) : Rat) ≠ v)) fNX)) ∧
    ∀ s, ((.nan s : Machine.Num).toInt rm draw lo hi = (0, fNV)) ∧ ((.inf s : Machine.Num).toInt rm draw lo hi = (if s then lo else hi, fNV ||| fNX))

/-- R162, R168: the class mask, of the source as it stands in its own format, without a flag. `fcmp` writes the condition of its code, unordered on a NaN, and raises NV on any
NaN for the four ordered conditions and on a signalling one for the others. -/
def Obligations.FloatClassesAndCompares : Prop :=
  (∀ d a : Reg, ∃ r : Env → Nat → Nat,
    Writes (.fclass d a) always (fun _ e => e.lanes.flatMap (fun l => e.putFlt d l (r e l % 2 ^ (fmtOf e.pc.dnf.toNat).w))) ∧
    ∀ e l,
      let f := fmtOf e.pc.saf.toNat
      let c := (e.fltCode a e.pc.saf.toNat e.pc.sap.toNat l).2
      r e l < 2 ^ 7 ∧ HasBits (BitVec.ofNat 7 (r e l)) (fun j => match j with
        | 0 => c.testBit (f.w - 1)
        | 1 => decide (f.decode c).isZero
        | 2 => decide ((f.decode c).isFin ∧ ¬ (f.decode c).isZero ∧ c / 2 ^ f.m % 2 ^ f.e = 0)
        | 3 => decide ((f.decode c).isFin ∧ c / 2 ^ f.m % 2 ^ f.e ≠ 0)
        | 4 => decide (f.decode c = .inf (c.testBit (f.w - 1)))
        | 5 => decide (f.decode c = .nan false)
        | _ => decide (f.decode c = .nan true))) ∧
  ∀ (c d : BitVec 3) (a b : Reg), ∃ t : Env → Nat → Bool × Flags,
    Writes (.fcmp c d a b) always (fun _ e =>
      e.lanes.flatMap (fun l => putP d l (t e l).1) ++ putFlags (e.lanes.foldl (fun (v : Flags) l => v ||| (t e l).2) 0)) ∧
    ∀ e l,
      let x := e.fltA a l
      let y := e.fltB b l
      let un := x.1.isNan || y.1.isNan
      (t e l).2 = flagIf (if 2 ≤ c.toNat ∧ c.toNat ≤ 5 then un else x.1.isSig || y.1.isSig) fNV ||| x.2 ||| y.2 ∧
      (un = true → (t e l).1 = decide (c = 1 ∨ c = 6)) ∧
      (un = false → (c = 6 → (t e l).1 = false) ∧ (c = 7 → (t e l).1 = true)) ∧
      (∀ u v, x.1.Is u → y.1.Is v → c.toNat < 6 → (t e l).1 =
        [decide (u = v), decide (u ≠ v), decide (u < v), decide (u ≤ v), decide (v < u), decide (v ≤ u)].getD c.toNat false) ∧
      (un = false → (∃ n, x.1 = .inf n ∨ y.1 = .inf n) → c.toNat < 6 →
        let lt (u v : Machine.Num) : Bool := decide ((u = .inf true ∧ v ≠ .inf true) ∨ (v = .inf false ∧ u ≠ .inf false))
        (t e l).1 = [decide (x.1 = y.1), decide (x.1 ≠ y.1), lt x.1 y.1, !lt y.1 x.1, lt y.1 x.1, !lt x.1 y.1].getD c.toNat false)

/-- R163: `fscale` gives a·2^n, rounded once, for b truncated towards zero and clamped to ±65,536. -/
def Obligations.FloatScale : Prop :=
  ∀ d a b : Reg,
    GivesFloat (.fscale d a b) d (fun e l => OnPair (fun x y z =>
      (y.isNan = true → z.1.isNan = true ∧ z.2 = fNV) ∧
      (y.isNan = false → x.isNan = true → z.1.isNan = true ∧ z.2 = flagIf x.isSig fNV) ∧
      (∀ u v, x.Is u → y.Is v → z.1.Is (u * (2 : Rat) ^ (max (-65536) (min 65536 (roundTo 1 v)))) ∧ z.1.neg? = x.neg? ∧ z.2 = 0) ∧
      (∀ u n, x.Is u → y = .inf n → z.1.Is (u * (2 : Rat) ^ (if n then (-65536 : Int) else 65536)) ∧ z.1.neg? = x.neg? ∧ z.2 = 0) ∧
      (∀ n, x = .inf n → y.isNan = false → z = (.inf n, 0))) (e.fltA a l) (e.fltB b l))

/-- R164, R165: the special functions write one FP32 value for each input, with the values and flags of R165's table on special inputs, rounded into a narrow D under RNE. `frcp`
and `frsq` lie within an ulp of the exact result, `fex2` of an integer and `flg2` of a power of two are exact, and `fsin` and `fcos` past 2^20 lie within 1 of zero (which values within
the bounds is open: the model's free value, log 12). `fsqrt`: its special inputs, the sign of a zero, and a value that stands to every number of 90 bits as the exact root does; every
result is rounded once. -/
def Obligations.SpecialFunctions : Prop :=
  (∀ (d a : Reg) (f : Nat), f ∈ [0, 1, 3, 4, 5, 6, 7] → ∃ v : W32 → W32 × Flags,
    Writes (sfuInstr f d a) always (fun _ e =>
      let r (l : Nat) : Nat × Flags :=
        let x : W32 × Flags := if e.pc.saf = 0 then (e.src a l, 0) else (BitVec.ofNat 32 (fp32.encode 0 (e.fltA a l).1 0).1, (e.fltA a l).2)
        let z := v x.1
        if e.pc.dnf = 0 then (z.1.toNat, x.2 ||| z.2)
        else
          let n := (fmtOf e.pc.dnf.toNat).encode 0 (fp32.decode z.1.toNat) 0
          (n.1, x.2 ||| z.2 ||| n.2)
      e.lanes.flatMap (fun l => e.putFlt d l (r l).1) ++ putFlags (e.lanes.foldl (fun (x : Flags) l => x ||| (r l).2) 0)) ∧
    (∀ x z, sfuSpecial f x = some z → v x = z) ∧
    (∀ x s, fp32.decode x.toNat = .nan s → v x = (0x7FC00000, flagIf s fNV)) ∧
    (∀ x u, (fp32.decode x.toNat).Is u → u ≠ 0 →
      (f = 0 → ∀ t : Int, t ≤ 126 → (2 : Rat) ^ t ≤ |u⁻¹| → |u⁻¹| < (2 : Rat) ^ (t + 1) →
        ∃ w, (fp32.decode (v x).1.toNat).Is w ∧ |w - u⁻¹| ≤ (2 : Rat) ^ (max t (-126) - 23) ∧ (-126 ≤ t → (v x).2 = if w * u = 1 then 0 else fNX)) ∧
      (f = 1 → 0 < u → ∀ t : Int, ((2 : Rat) ^ t) ^ 2 * u ≤ 1 → 1 < ((2 : Rat) ^ (t + 1)) ^ 2 * u →
        let g : Rat := (2 : Rat) ^ (t - 23)
        ∃ w, (fp32.decode (v x).1.toNat).Is w ∧ g < w ∧ (w - g) ^ 2 * u ≤ 1 ∧ 1 ≤ (w + g) ^ 2 * u ∧ (v x).2 = if w ^ 2 * u = 1 then 0 else fNX) ∧
      (f = 3 → ∀ k : Int, u = k → -126 ≤ k → k ≤ 127 → (fp32.decode (v x).1.toNat).Is ((2 : Rat) ^ k) ∧ (v x).2 = 0) ∧
      (f = 4 → ∀ k : Int, u = (2 : Rat) ^ k → (fp32.decode (v x).1.toNat).Is k ∧ (v x).2 = 0) ∧
      (f = 5 ∨ f = 6 → 2 ^ 20 < |u| → ∃ w, (fp32.decode (v x).1.toNat).Is w ∧ |w| ≤ 1 ∧ (v x).2 = fNX))) ∧
  ∀ d a : Reg,
    GivesFloat (.fsqrt d a) d (fun e l r => ∃ z : Machine.Num × Flags, r = (z.1, z.2 ||| (e.fltA a l).2) ∧
      (∀ s, (e.fltA a l).1 = .nan s → z.1.isNan = true ∧ z.2 = flagIf s fNV) ∧
      ((e.fltA a l).1 = .inf false → z = (.inf false, 0)) ∧
      ((e.fltA a l).1 = .inf true → z.1.isNan = true ∧ z.2 = fNV) ∧
      ((e.fltA a l).1.Is 0 → z.1.Is 0 ∧ z.1.neg? = (e.fltA a l).1.neg? ∧ z.2 = 0) ∧
      (∀ v, (e.fltA a l).1.Is v → v < 0 → z.1.isNan = true ∧ z.2 = fNV) ∧
      (∀ v : Rat, 0 < v → (e.fltA a l).1.Is (v * v) → z.1.Is v ∧ z.2 = 0) ∧
      (∀ v : Rat, 0 < v → (e.fltA a l).1.Is v → ∃ w, z.1.Is w ∧ 0 < w ∧ z.2 = 0 ∧
        ∀ (k : Nat) (j : Int), k < 2 ^ 90 → ((k : Rat) * (2 : Rat) ^ j < w ↔ ((k : Rat) * (2 : Rat) ^ j) ^ 2 < v) ∧ (w < (k : Rat) * (2 : Rat) ^ j ↔ v < ((k : Rat) * (2 : Rat) ^ j) ^ 2)))

/-- R167: the words on halves, in FP16 and BF16. -/
def Obligations.HalfArithmetic : Prop :=
  ∀ d a b : Reg,
    GivesHalves (.hadd2 d a b) fp16 d (fun e l j => SumOf e.rm (e.half fp16 a l j) (e.half fp16 b l j)) ∧
    GivesHalves (.hmul2 d a b) fp16 d (fun e l j => ProductOf (e.half fp16 a l j) (e.half fp16 b l j)) ∧
    GivesHalves (.hfma2 d a b) fp16 d (fun e l j => FusedOf e.rm (e.half fp16 a l j) (e.half fp16 b l j) (e.half fp16 d l j)) ∧
    GivesHalves (.hmin2 d a b) fp16 d (fun e l j => ExtremeOf false (e.half fp16 a l j) (e.half fp16 b l j)) ∧
    GivesHalves (.hmax2 d a b) fp16 d (fun e l j => ExtremeOf true (e.half fp16 a l j) (e.half fp16 b l j)) ∧
    GivesHalves (.hadd2_bf d a b) bf16 d (fun e l j => SumOf e.rm (e.half bf16 a l j) (e.half bf16 b l j)) ∧
    GivesHalves (.hmul2_bf d a b) bf16 d (fun e l j => ProductOf (e.half bf16 a l j) (e.half bf16 b l j)) ∧
    GivesHalves (.hfma2_bf d a b) bf16 d (fun e l j => FusedOf e.rm (e.half bf16 a l j) (e.half bf16 b l j) (e.half bf16 d l j)) ∧
    GivesHalves (.hmin2_bf d a b) bf16 d (fun e l j => ExtremeOf false (e.half bf16 a l j) (e.half bf16 b l j)) ∧
    GivesHalves (.hmax2_bf d a b) bf16 d (fun e l j => ExtremeOf true (e.half bf16 a l j) (e.half bf16 b l j))

/-- R169, R170, R161, R64, R175: conversions; `frnd`, which rounds to an integral value and, into a narrow D, once more; under SR each rounding takes a step of the lane's LFSR,
x^32 + x^22 + x^2 + x + 1, and is decided by its low 24 bits; and `seed`, which never leaves an LFSR at zero. -/
def Obligations.FloatConversions : Prop :=
  (∀ s : W32, HasBits (lfsrStep s) (fun j => if j = 0 then s.getLsbD 31 ^^ s.getLsbD 21 ^^ s.getLsbD 1 ^^ s.getLsbD 0 else s.getLsbD (j - 1))) ∧
  ∀ d a b : Reg,
    let next (e : Env) (s : W32) : W32 := if e.rm = 5 then lfsrStep s else s
    let st (e : Env) (l : Nat) : W32 := next e (e.lfsr l)
    let draw (s : W32) : Nat := s.toNat % 2 ^ 24
    let stepped (e : Env) (l : Nat) (s : W32) : List Act := if e.rm = 5 then [.lfsr l s] else []
    let int (e : Env) (lo hi : Int) (l : Nat) := (e.fltA a l).1.toInt e.rm (draw (st e l)) lo hi
    let flags (e : Env) (lo hi : Int) := putFlags (e.lanes.foldl (fun (v : Flags) l => v ||| ((e.fltA a l).2 ||| (int e lo hi l).2)) 0)
    let narrow (i : Instr) (lo hi : Int) := Writes i (fun _ e => e.pc.dnf.toNat ≤ 6) (fun _ e =>
      let r := e.range lo hi
      let f := intW e.pc.dnf.toNat
      e.lanes.flatMap (fun l => e.put d l (fieldMask f e.pc.dnp.toNat) (fieldVal f e.pc.dnp.toNat (BitVec.ofInt 32 (int e r.1 r.2 l).1).toNat) ++ stepped e l (st e l)) ++
        flags e r.1 r.2)
    GivesFloat (.i2f d a) d (fun e l r => r.1.Is ((e.intA a l).toInt : Rat) ∧ r.1.neg? = decide ((e.intA a l).toInt < 0) ∧ r.2 = 0) ∧
    GivesFloat (.z2f d a) d (fun e l r => r.1.Is ((e.intA a l).toNat : Rat) ∧ r.1.neg? = false ∧ r.2 = 0) ∧
    GivesFloat (.l2f d a) d (fun e l r => r.1.Is ((e.long a l).toInt : Rat) ∧ r.1.neg? = decide ((e.long a l).toInt < 0) ∧ r.2 = 0) ∧
    GivesHalves (.pkh2 d a b) fp16 d (fun e l j r => let x := if j = 0 then e.fltA a l else e.fltB b l; r = (x.1, x.2 ||| flagIf x.1.isSig fNV)) ∧
    GivesHalves (.pkbf2 d a b) bf16 d (fun e l j r => let x := if j = 0 then e.fltA a l else e.fltB b l; r = (x.1, x.2 ||| flagIf x.1.isSig fNV)) ∧
    narrow (.f2i d a) (-(2 ^ 31)) (2 ^ 31 - 1) ∧ narrow (.f2z d a) 0 (2 ^ 32 - 1) ∧
    Writes (.f2l d a) always (fun _ e =>
      let r (l : Nat) := int e (-(2 ^ 63)) (2 ^ 63 - 1) l
      e.lanes.flatMap (fun l => e.putAt d 0 l (BitVec.ofInt 32 (r l).1) ++ e.putAt d 1 l (BitVec.ofInt 32 ((r l).1 / 2 ^ 32)) ++ stepped e l (st e l)) ++
        flags e (-(2 ^ 63)) (2 ^ 63 - 1)) ∧
    Writes (.frnd d a) always (fun _ e =>
      let i (l : Nat) := (e.fltA a l).1.integral e.rm (draw (st e l))
      let s2 (l : Nat) := if e.pc.dnf = 0 then st e l else next e (st e l)
      let z (l : Nat) := (fmtOf e.pc.dnf.toNat).encode e.rm (i l).1 (draw (s2 l))
      e.lanes.flatMap (fun l => e.putFlt d l (z l).1 ++ stepped e l (s2 l)) ++
        putFlags (e.lanes.foldl (fun (v : Flags) l => v ||| ((e.fltA a l).2 ||| (i l).2 ||| (if e.pc.dnf = 0 then 0 else (z l).2))) 0)) ∧
    Writes (.seed a) always (fun _ e => e.lanes.map (fun l => Act.lfsr l (if e.src a l = 0 then 0x2545F491 else e.src a l)))

/-- R66-R69, R171-R174: at widths from 32 on the block words act on each group of 32 lanes; below, the run aborts with WIDTH. `bexp` gives a group's active lanes its scale code;
`bq` gives lane 32g + p plane p of the mantissas, and 0 beyond, with a step of each active lane's LFSR under SR; `bdq` rounds the block value of the planes read from its group, whatever
their lanes' states. R68: the scale code is floor(log2 M) + 127 within 0 … 255, 255 for an infinity and 0 for zeros; a mantissa is its scaled element rounded and clamped. -/
def Obligations.BlockWords : Prop :=
  let legal (e : Env) := e.c.x.width = 32 ∨ e.c.x.width = 64 ∨ e.c.x.width = 128
  (∀ (d a b : Reg) (n : Nat), n ∈ [8, 6, 4, 2] →
    Writes (.bexp d a) (fun _ e => legal e) (fun _ e => e.lanes.flatMap (fun l =>
      e.putFull d l (BitVec.ofNat 32 (scaleCode ((e.lanes.filter (fun k => decide (k / 32 = l / 32))).map (fun k => (e.fltA a k).1)))))) ∧
    (∃ p : Env → Nat → Nat → W32,
      let st (e : Env) (l : Nat) : W32 := if e.rm = 5 then lfsrStep (e.lfsr l) else e.lfsr l
      let q (e : Env) (l : Nat) := quantise (e.fltA a l).1 ((e.src b l).toNat % 256) n e.rm ((st e l).toNat % 2 ^ 24)
      Writes (bqInstr n d a b) (fun _ e => legal e) (fun _ e =>
        e.lanes.flatMap (fun l => e.putFull d l (if l % 32 < n then p e (l / 32) (l % 32) else 0)) ++
          (if e.rm = 5 then e.lanes.map (fun l => Act.lfsr l (st e l)) else []) ++
          putFlags (e.lanes.foldl (fun (v : Flags) l => v ||| ((e.fltA a l).2 ||| (q e l).2)) 0)) ∧
      ∀ e g j, HasBits (p e g j) (fun k => e.act.getLsbD (32 * g + k) && decide (g < 4) && (BitVec.ofInt 8 (q e (32 * g + k)).1).getLsbD j)) ∧
    (∃ m : Env → Nat → BitVec 8,
      Writes (bdqInstr n d a b) (fun _ e => legal e) (fun _ e =>
        (e.fltWord d (fun l => (blockValue (sxt n (m e l).toNat) ((e.src b l).toNat % 256) n, 0))).acts) ∧
      ∀ e l, HasBits (m e l) (fun p => decide (p < n) && (e.vreg (32 * (l / 32) + p) a.toNat).getLsbD (l % 32))) ∧
    Traps (.bexp d a) (fun _ e => e.c.x.width < 32) (fun _ e => e.cond .width (BitVec.ofNat 64 e.c.x.width) 0) ∧
    Traps (bqInstr n d a b) (fun _ e => e.c.x.width < 32) (fun _ e => e.cond .width (BitVec.ofNat 64 e.c.x.width) 0) ∧
    Traps (bdqInstr n d a b) (fun _ e => e.c.x.width < 32) (fun _ e => e.cond .width (BitVec.ofNat 64 e.c.x.width) 0)) ∧
  (∀ xs : List Machine.Num,
    ((∃ n, Num.inf n ∈ xs) → scaleCode xs = 255) ∧
    ((∀ n, Num.inf n ∉ xs) → (∀ x ∈ xs, ∀ v, x.Is v → v = 0) → scaleCode xs = 0) ∧
    ∀ (M : Rat) (t : Int), (∀ n, Num.inf n ∉ xs) → (∀ x ∈ xs, ∀ v, x.Is v → |v| ≤ M) → (∃ x ∈ xs, ∃ v, x.Is v ∧ |v| = M) → (2 : Rat) ^ t ≤ M → M < (2 : Rat) ^ (t + 1) →
      (scaleCode xs : Int) = max 0 (min 255 (t + 127))) ∧
  ∀ (n c rm draw : Nat), n ∈ [8, 6, 4, 2] → rm ≤ 6 →
    let lo : Int := -(2 ^ (n - 1))
    let hi : Int := 2 ^ (n - 1) - 1
    (∀ s, quantise (.nan s) c n rm draw = (0, fNV) ∧ quantise (.inf s) c n rm draw = (if s then lo else hi, fNX)) ∧
    (∀ (x : Machine.Num) (v : Rat), x.Is v →
      let y : Rat := v * (2 : Rat) ^ (127 + ((n : Int) - 2) - (c : Int))
      let r := rounded rm draw y
      quantise x c n rm draw = if r < lo then (lo, fSAT ||| fNX) else if hi < r then (hi, fSAT ||| fNX) else (r, flagIf (decide ((r : Rat) ≠ y)) fNX)) ∧
    ∀ m : Int, (blockValue m c n).Is ((m : Rat) * (2 : Rat) ^ ((c : Int) - 127 - ((n : Int) - 2)))

/-! ### Across lanes (R176-R180) -/

/-- R176: each active lane receives A of its source lane if that lane exists and is active, else its own. -/
def Obligations.LaneGets : Prop :=
  ∀ (d a b : Reg) (k : BitVec 7) (n : BitVec 3),
    GivesWhole (.lget_idx d a b) d (fun e l => e.seen a l (some ((e.src b l).toNat % e.c.x.width))) ∧
    GivesWhole (.lget_xor d a b) d (fun e l => e.seen a l (some (l ^^^ ((e.src b l).toNat % e.c.x.width)))) ∧
    GivesWhole (.lget_up d a k) d (fun e l => e.seen a l (if k.toNat ≤ l then some (l - k.toNat) else none)) ∧
    GivesWhole (.lget_dn d a k) d (fun e l => e.seen a l (if l + k.toNat < e.c.x.width then some (l + k.toNat) else none)) ∧
    GivesWhole (.lget_wxor d a n) d (fun e l =>
      e.seen a l (if l ^^^ (e.c.x.width >>> n.toNat) < e.c.x.width then some (l ^^^ (e.c.x.width >>> n.toNat)) else none)) ∧
    GivesWhole (.lget_wrot d a n) d (fun e l => e.seen a l (some ((l + (e.c.x.width >>> n.toNat)) % e.c.x.width)))

/-- R177, R178: the integer reductions over the active lanes: the sum modulo 2^32, and the extremes, with the identity where no lane is active. The floating ones: a fixed tree
over all lanes, an inactive lane giving the identity; the lowest active lane's LFSR rounds the sums under SR, one step for each; where no lane is active a uniform D takes the identity. Each pass of the tree combines every lane below its
stride with the lane a stride above. -/
def Obligations.Reductions : Prop :=
  ∀ d a : Reg,
    Writes (.radd d a) (fun _ e => e.legal ∧ e.rm ≠ 5) (fun _ e => e.deliver d true (BitVec.ofNat 32 ((e.values a).map BitVec.toNat).sum)) ∧
    Writes (.rmin d a) (fun _ e => e.legal ∧ e.rm ≠ 5) (fun _ e => e.deliver d true (BitVec.ofInt 32 (((e.values a).map BitVec.toInt).foldl min (2 ^ 31 - 1)))) ∧
    Writes (.rmax d a) (fun _ e => e.legal ∧ e.rm ≠ 5) (fun _ e => e.deliver d true (BitVec.ofInt 32 (((e.values a).map BitVec.toInt).foldl max (-(2 ^ 31))))) ∧
    Writes (.rumin d a) (fun _ e => e.legal ∧ e.rm ≠ 5) (fun _ e => e.deliver d false (BitVec.ofNat 32 (((e.values a).map BitVec.toNat).foldl min (2 ^ 32 - 1)))) ∧
    Writes (.rumax d a) (fun _ e => e.legal ∧ e.rm ≠ 5) (fun _ e => e.deliver d false (BitVec.ofNat 32 (((e.values a).map BitVec.toNat).foldl max 0))) ∧
    (∀ (i : Instr) (op : Env → RedOp) (ident : W32),
      (i = .rfadd d a ∧ op = (fun e => addOp e.rm) ∧ ident = 0x80000000) ∨ (i = .rfmin d a ∧ op = (fun _ => minmaxOp false) ∧ ident = 0x7F800000) ∨
        (i = .rfmax d a ∧ op = (fun _ => minmaxOp true) ∧ ident = 0xFF800000) →
      Writes i (fun _ e => e.legal ∧ e.lanes = []) (fun _ e => e.deliver d false ident) ∧
      Writes i (fun _ e => e.legal ∧ e.lanes ≠ []) (fun _ e =>
        let r := redTree (op e) (Nat.log2 e.c.x.width) ((List.range e.c.x.width).map (fun l => if l ∈ e.lanes then e.vreg l a.toNat else ident)) 0 (e.lfsr (e.lanes.headD 0))
        e.deliver d false r.1 ++ e.putLfsr (e.lanes.headD 0) r.2.2 ++ putFlags r.2.1)) ∧
    (∀ x y s rm, rm ≠ 5 → ∃ z, SumOf rm (fp32.decode x.toNat) (fp32.decode y.toNat) z ∧
      addOp rm x y s = (BitVec.ofNat 32 (fp32.encode rm z.1 0).1, z.2 ||| (fp32.encode rm z.1 0).2, s)) ∧
    (∀ x y s mx, ∃ z, ExtremeOf mx (fp32.decode x.toNat) (fp32.decode y.toNat) z ∧ minmaxOp mx x y s = (BitVec.ofNat 32 (fp32.encode 0 z.1 0).1, z.2, s)) ∧
    (∀ x y s, ∃ z, SumOf 5 (fp32.decode x.toNat) (fp32.decode y.toNat) z ∧
      let r := fp32.encode 5 z.1 ((lfsrStep s).toNat % 2 ^ 24)
      addOp 5 x y s = (BitVec.ofNat 32 r.1, z.2 ||| r.2, lfsrStep s)) ∧
    (∀ (op : RedOp) (x : List W32) (f : Flags) (s : W32), redTree op 0 x f s = (x.getD 0 0, f, s)) ∧
    ∀ (op : RedOp) (n : Nat) (x : List W32) (f : Flags) (s : W32), ∃ st : Nat → W32, st 0 = s ∧
      let z (l : Nat) := op (x.getD l 0) (x.getD (l + 2 ^ n) 0) (st l)
      (∀ l, l < 2 ^ n → st (l + 1) = (z l).2.2) ∧
      redTree op (n + 1) x f s = redTree op n ((List.range (2 ^ n)).map (fun l => (z l).1)) ((List.range (2 ^ n)).foldl (fun (v : Flags) l => v ||| (z l).2.1) f) (st (2 ^ n))

/-- R179, R180: scans in lane order: an active lane receives the sum of the active lanes up to it; the first keeps its own value, and each later float sum is rounded once. One step
of the tree with the stride that B gives: lanes below the stride take the result of their value and that of the lane a stride above; a stride that is no power of two from 1 to W/2
aborts the run with OPERAND. (B may be `lid` or `iid`: the stride is then each lane's own, a reading of the model's, log 32; that a uniform B counts with all its 64 bits, so that
one with bits above 31 is OPERAND, is the model's choice, log 56.) -/
def Obligations.ScansAndSteps : Prop :=
  (∀ d a : Reg,
    Writes (.scan_add d a) (fun _ e => e.rm ≠ 5) (fun _ e => e.lanes.flatMap (fun l =>
      e.putFull d l (BitVec.ofNat 32 (((e.lanes.filter (fun k => decide (k ≤ l))).map (fun k => (e.vreg k a.toNat).toNat)).sum)))) ∧
    ∃ r : Env → Nat → W32 × Flags,
      Writes (.scan_fadd d a) (fun _ e => e.rm ≠ 5) (fun _ e =>
        e.lanes.flatMap (fun l => e.putFull d l (r e l).1) ++ putFlags (e.lanes.foldl (fun (v : Flags) l => v ||| (r e l).2) 0)) ∧
      ∀ e l, e.rm ≠ 5 → l ∈ e.lanes →
        ((∀ k ∈ e.lanes, l ≤ k) → r e l = (e.vreg l a.toNat, 0)) ∧
        (∀ k ∈ e.lanes, k < l → (∀ j ∈ e.lanes, j ≤ k ∨ l ≤ j) → (r e l) = ((addOp e.rm (r e k).1 (e.vreg l a.toNat) 0).1, (addOp e.rm (r e k).1 (e.vreg l a.toNat) 0).2.1))) ∧
  ∀ (d a b : Reg) (i : Instr) (op : Env → RedOp) (ident : W32),
    (i = .rstep_add d a b ∧ op = (fun _ => plainOp (· + ·)) ∧ ident = 0) ∨ (i = .rstep_fadd d a b ∧ op = (fun e => addOp e.rm) ∧ ident = 0x80000000) ∨
      (i = .rstep_fmax d a b ∧ op = (fun _ => minmaxOp true) ∧ ident = 0xFF800000) →
    Writes i (fun _ e => e.stridesOk b ∧ e.rm ≠ 5) (fun _ e =>
      let ls := e.lanes.filter (fun l => decide (l < e.strideAt b l))
      let r (l : Nat) := op e (e.vreg l a.toNat) (if l + e.strideAt b l ∈ e.lanes then e.vreg (l + e.strideAt b l) a.toNat else ident) (e.lfsr l)
      ls.flatMap (fun l => e.putFull d l (r l).1) ++ putFlags (ls.foldl (fun (v : Flags) l => v ||| (r l).2.1) 0)) ∧
    Faults i (fun _ e => ¬ e.stridesOk b) (fun _ e => e.cond .operand 0 e.iss.detail)

/-! ### Warp-local words (R104-R106, R125-R134, R243-R251, R315, R328) -/

/-- R243, R245, R328, R329: words that read machine state into a uniform register: the lowest ready tag of a mask, the ready tags, the clock, and a control register that the
warp's level may read; one that it may not read aborts the run with PRIV, whose DETAIL holds the word and the register's number. -/
def Obligations.StateReads : Prop :=
  ∀ (d a : Reg) (n : BitVec 14),
    GivesUni (.tff d a) d (fun e => BitVec.ofNat 64 (((List.range 64).find? (fun j => e.run.trdy0.getLsbD j && (e.srcS a).getLsbD j)).getD 64)) ∧
    GivesUni (.trd d) d (fun e => e.run.trdy0) ∧
    GivesUni (.clock d) d (fun e => BitVec.ofNat 64 e.run.clk0) ∧
    Writes (.csrr d n) (fun _ e => n.toNat < 0x100 ∨ (e.sup = true ∧ n.toNat < 0x200)) (fun s e => putS d (s.csrRead e n.toNat)) ∧
    Faults (.csrr d n) (fun _ e => ¬ (n.toNat < 0x100 ∨ (e.sup = true ∧ n.toNat < 0x200)))
      (fun _ e => e.cond .priv 0 (BitVec.ofNat 64 (e.iss.word.toNat + n.toNat * 2 ^ 32))) ∧
    ∀ s i iss c, Lone s i iss c → (s.env iss c).run.trdy0 = c.x.trdy ∧ (s.env iss c).run.clk0 = s.clkc iss.q

/-- R106, R243, R244, R245, R251: `wbase` sets the window, `tclr` clears tags, `mxst` reports its strips' tuns, fenced, on a spare group, served by the partner and with their products, and the
warp's sticky bits, which it clears, and `twall` and `twany` go on where their tags
are ready; bad operands abort the run with OPERAND. -/
def Obligations.WarpRegisters : Prop :=
  ∀ d a : Reg,
    Turns (.wbase a) (fun _ e => (e.srcS a).toNat ∈ [0, 16, 32, 48, 64, 80, 96, 112, 128, 144, 160]) (fun _ e x => { x with wb := (e.srcS a).toNat }) ∧
    Faults (.wbase a) (fun _ e => (e.srcS a).toNat ∉ [0, 16, 32, 48, 64, 80, 96, 112, 128, 144, 160]) (fun _ e => e.cond .operand 0 e.iss.detail) ∧
    Turns (.tclr a) always (fun _ e x => { x with trdy := e.c.x.trdy &&& ~~~(e.c.x.trdy &&& e.srcS a), terr := e.c.x.terr &&& ~~~(e.c.x.terr &&& e.srcS a) }) ∧
    (∀ s iss c, Lone s (.mxst d) iss c →
      let k := (s.part iss.q).core c.w.core
      let fen (j : Nat) : Bool := (k.tuns.rd j).fenced
      let r := (s.env iss c).run.mx0
      (∀ j, j < 4 → r.getLsbD (8 * j) = fen j ∧ r.getLsbD (8 * j + 1) = (k.tuns.rd j).spare ∧ r.getLsbD (8 * j + 2) = (fen j && !fen (j ^^^ 1)) ∧
        r.toNat / 2 ^ (8 * j + 3) % 16 = min 15 (k.tuns.rd (if fen j then j ^^^ 1 else j)).queue.length ∧ r.getLsbD (8 * j + 7) = false) ∧
      r.toNat / 2 ^ 32 = c.x.mx.toNat) ∧
    Turns (.mxst d) always (fun _ e x =>
      { (if d.isS then { x with s := Sparse.wr x.s (d.toNat - 96) e.run.mx0 } else x) with mx := x.mx &&& ~~~(BitVec.ofNat 4 (e.run.mx0.toNat / 2 ^ 32)) }) ∧
    Turns (.twall a) (fun _ e => e.c.x.trdy &&& e.srcS a = e.srcS a) (fun _ _ x => x) ∧
    Turns (.twany a) (fun _ e => e.c.x.trdy &&& e.srcS a ≠ 0) (fun _ _ x => x) ∧
    Faults (.twany a) (fun _ e => e.srcS a = 0) (fun _ e => e.cond .operand 0 e.iss.detail)

/-- R125, R126, R129, R130, R135: direct branches and calls go to their target where their condition holds, a call leaving the next word's address in s23; `ret` goes to s23; `brx` to
the table's target; a target that R125 does not admit aborts the run, with OPERAND or, for a table's entry, with BRXRANGE; a table that is not wholly in the code is OPERAND. A branch,
`ret` or `brx` out of open loop bodies ends their levels, and a call keeps them. (As everywhere, the condition of a uniform word holds the lanes of the path: the model's reading,
log 40. A table of whose words a router drops the packet ends no run, R361, log 61.) -/
def Obligations.JumpsAndCalls : Prop :=
  ∀ (n : BitVec 1) (p : BitVec 3) (o : BitVec 20) (a b : Reg),
    let goal (e : Env) : W64 := e.iss.addr + (o.signExtend 64 <<< 2)
    let taken (e : Env) := p = 7 ∨ e.qpred p ≠ decide (n = 1)
    let index (e : Env) := (e.srcS b).toNat % 2 ^ 32
    let left (x : Warp) (v : W64) : Warp :=
      { x with pc := v, levels := if x.trap.inh then x.levels else x.levels.dropWhile (fun l => !decide (l.start.toNat ≤ v.toNat ∧ v.toNat ≤ l.stop.toNat)) }
    Turns (.bra n p o) (fun _ e => e.c.grid.k.target (goal e) = true) (fun _ e x => if taken e then { x with pc := goal e } else x) ∧
    Turns (.call n p o) (fun _ e => e.c.grid.k.target (goal e) = true) (fun _ e x =>
      if taken e then { x with s := Sparse.wr x.s 23 x.pc, pc := goal e } else x) ∧
    Turns .ret (fun _ e => e.c.grid.k.target (Sparse.rd e.c.x.s 23) = true) (fun _ e x => { x with pc := Sparse.rd e.c.x.s 23 }) ∧
    (∀ tb v, Turns (.brx a b) (fun s e => s.table e (e.srcS a) [index e] = .ok tb ∧ tb.target (index e) = some v ∧
      e.c.grid.k.target v = true ∧ s.tableBarred e (e.srcS a) tb.n [index e] = []) (fun _ _ x => { x with pc := v })) ∧
    (∀ tb, Traps (.brx a b) (fun s e => s.table e (e.srcS a) [index e] = .ok tb ∧
        (tb.n ≤ index e ∨ ∃ v, tb.target (index e) = some v ∧ e.c.grid.k.target v = false))
      (fun _ e => e.condOn .brxrange e.c.x.path (e.srcS a) .fetch (BitVec.ofNat 64 tb.n) 0)) ∧
    Faults (.bra n p o) (fun _ e => e.c.grid.k.target (goal e) = false) (fun _ e => e.cond .operand 0 e.iss.detail) ∧
    Faults (.call n p o) (fun _ e => e.c.grid.k.target (goal e) = false) (fun _ e => e.cond .operand 0 e.iss.detail) ∧
    Faults .ret (fun _ e => e.c.grid.k.target (Sparse.rd e.c.x.s 23) = false) (fun _ e => e.cond .operand 0 e.iss.detail) ∧
    (∀ i, i = .brx a b ∨ i = .brxv a b → Faults i (fun s e => (i = .brxv a b → e.c.x.resuming = true ∨ e.c.x.stack.length < 16) ∧
        (e.c.grid.k.target (e.srcS a) = false ∨ ∃ v, s.fetchWord e.q e.c (e.srcS a) = .ok v ∧
          e.c.grid.k.codeBase.toNat + e.c.grid.k.codeSz < (e.srcS a).toNat + 4 * (1 + v.toNat % 2 ^ 16)))
      (fun _ e => e.cond .operand 0 e.iss.detail)) ∧
    (∀ s i iss c, Alone s i iss c → (∀ l ∈ c.x.levels.head?, l.stop ≠ iss.addr + BitVec.ofNat 64 (iss.len - 4)) →
      let e := s.env iss c
      (i = .bra n p o → c.grid.k.target (goal e) = true → taken e → Became s i iss c (left (c.x.passed iss s.now) (goal e))) ∧
      (i = .ret → c.grid.k.target (Sparse.rd c.x.s 23) = true → Became s i iss c (left (c.x.passed iss s.now) (Sparse.rd c.x.s 23))) ∧
      (∀ tb v, i = .brx a b → s.table e (e.srcS a) [index e] = .ok tb → tb.target (index e) = some v → c.grid.k.target v = true →
        s.tableBarred e (e.srcS a) tb.n [index e] = [] →
        Became s i iss c (left (c.x.passed iss s.now) v)) ∧
      (i = .call n p o → c.grid.k.target (goal e) = true → taken e →
        Became s i iss c { c.x.passed iss s.now with s := Sparse.wr c.x.s 23 (iss.addr + BitVec.ofNat 64 iss.len), pc := goal e }))

/-- R122, R123, R127, R128, R131: `brv` pushes a record and goes on with the lanes that fall through, or, where every lane is taken, with those that wait at its target; `join` turns to
the pending lanes, or pops and takes up the record's lanes past itself, and turns to the next index's lanes of a `brxv`; `brxv` takes the lanes of the lowest index first. With 16
records on chip a push writes the oldest into the spill area, as R123 lays it out (shown at widths up to 32), or is STACKOVF where it has no room. -/
def Obligations.Divergence : Prop :=
  ∀ (n : BitVec 1) (p : BitVec 3) (o : BitVec 20) (a b : Reg),
    let goal (e : Env) : W64 := e.iss.addr + (o.signExtend 64 <<< 2)
    let takenIs (e : Env) (g : Mask) := ∀ l, l < 128 → g.getLsbD l = (e.c.x.path.getLsbD l && (e.pred l p != decide (n = 1)))
    let lowIs (e : Env) (low : Nat) := (∃ l ∈ Machine.Mask.lanes e.c.x.path, (e.src b l).toNat = low) ∧ ∀ l ∈ Machine.Mask.lanes e.c.x.path, low ≤ (e.src b l).toNat
    let groupIs (e : Env) (low : Nat) (g : Mask) := ∀ l, l < 128 → g.getLsbD l = (e.c.x.path.getLsbD l && decide ((e.src b l).toNat = low))
    let usable (s : State) (e : Env) (tb : Table) := s.table e (e.srcS a) ((Machine.Mask.lanes e.c.x.path).map (fun l => (e.src b l).toNat)) = .ok tb ∧
      s.tableBarred e (e.srcS a) tb.n ((Machine.Mask.lanes e.c.x.path).map (fun l => (e.src b l).toNat)) = [] ∧ e.c.grid.k.target tb.join = true ∧ ∀ l ∈ Machine.Mask.lanes e.c.x.path, ∃ t, tb.target (e.src b l).toNat = some t ∧ e.c.grid.k.target t = true
    let spillNeed (e : Env) := if e.c.x.width ≤ 32 then 1 else if e.c.x.width = 64 then 2 else 3
    (∀ g, Turns (.brv n p o) (fun _ e => e.c.grid.k.target (goal e) = true ∧ e.c.x.stack.length < 16 ∧ takenIs e g ∧ e.c.x.path &&& ~~~g ≠ 0)
      (fun _ e x => { x with stack := ⟨false, e.c.x.path, g, goal e, false, 0⟩ :: x.stack, m := e.c.x.path &&& ~~~g })) ∧
    Turns (.brv n p o) (fun _ e => e.c.grid.k.target (goal e) = true ∧ e.c.x.stack.length < 16 ∧ takenIs e e.c.x.path)
      (fun _ e x => { x with stack := ⟨false, e.c.x.path, 0, goal e, false, 0⟩ :: x.stack, m := e.c.x.path, pc := goal e }) ∧
    Turns .join (fun _ e => ∃ r rest, e.c.x.stack = r :: rest ∧ r.brxv = false ∧ r.pmask &&& e.c.x.live ≠ 0) (fun _ e x => match e.c.x.stack with
      | r :: rest => { x with
          m := r.pmask &&& e.c.x.live, pc := r.tpc, stack := { r with pmask := 0, jpc := if r.jv then r.jpc else e.self, jv := true } :: rest }
      | [] => x) ∧
    Turns .join (fun _ e => ∃ r rest, e.c.x.stack = r :: rest ∧ r.brxv = true ∧ r.pmask &&& e.c.x.live ≠ 0) (fun _ e x => match e.c.x.stack with
      | r :: _ => { x with m := r.pmask &&& e.c.x.live, pc := r.tpc, resuming := true }
      | [] => x) ∧
    Turns .join (fun _ e => ∃ r rest, e.c.x.stack = r :: rest ∧ r.pmask &&& e.c.x.live = 0 ∧ r.rmask &&& e.c.x.live ≠ 0 ∧ (rest ≠ [] ∨ e.c.x.spilled = 0))
      (fun _ e x => match e.c.x.stack with
      | r :: rest => { x with m := r.rmask &&& e.c.x.live, stack := rest }
      | [] => x) ∧
    Faults .join (fun _ e => e.c.x.stack = []) (fun _ e => e.cond .operand 0 e.iss.detail) ∧
    (∀ tb low v g, Turns (.brxv a b)
      (fun s e => usable s e tb ∧ e.c.x.resuming = false ∧ e.c.x.stack.length < 16 ∧ lowIs e low ∧ tb.target low = some v ∧ groupIs e low g)
      (fun _ e x => { x with stack := ⟨true, e.c.x.path, e.c.x.path &&& ~~~g, e.self, true, tb.join⟩ :: x.stack, m := g, pc := v })) ∧
    (∀ tb low v g r rest, Turns (.brxv a b)
      (fun s e => usable s e tb ∧ e.c.x.resuming = true ∧ e.c.x.stack = r :: rest ∧ lowIs e low ∧ tb.target low = some v ∧ groupIs e low g)
      (fun _ e x => { x with stack := { r with pmask := e.c.x.path &&& ~~~g } :: rest, resuming := false, m := g, pc := v })) ∧
    Faults (.brv n p o) (fun _ e => e.c.grid.k.target (goal e) = true ∧ 16 ≤ e.c.x.stack.length ∧ e.c.grid.k.spill < (e.c.x.spilled + 1) * spillNeed e)
      (fun _ e => e.condOn .stackovf e.c.x.path 0 .write 0 (BitVec.ofNat 64 e.c.grid.k.spill)) ∧
    ∀ s iss c g o16 pa lf, Lone s (.brv n p o) iss c → c.grid.k.target (goal (s.env iss c)) = true → takenIs (s.env iss c) g → c.x.path &&& ~~~g ≠ 0 →
      c.x.stack.length = 16 → c.x.stack.getLast? = some o16 → c.x.width ≤ 32 → c.x.spilled + 1 ≤ c.grid.k.spill → (s.part iss.q).dir = [] → s.anyBad iss.q = false →
      let at_ := c.grid.k.spillBase + BitVec.ofNat 64 ((wkey c.w * c.grid.k.spill + c.x.spilled) * 16)
      (s.begun iss c).resolve iss.q c.blk at_ 16 ⟨false, true, false⟩ = .ok (.dev pa, lf) → s.barredWalk iss.q c.w.core at_ = [] →
      (∀ j, j < 16 → s.barred iss.q c.w.core (pa + j) = false) →
      let words (x : W64) := (x - c.grid.k.codeBase).toNat / 4 % 2 ^ 30
      let entry := o16.rmask.toNat % 2 ^ 32 + o16.pmask.toNat % 2 ^ 32 * 2 ^ 32 +
        (words o16.tpc + (if o16.brxv then 2 ^ 30 else 0) + (if o16.jv then 2 ^ 31 else 0)) * 2 ^ 64 + (if o16.jv then words o16.jpc else 0) * 2 ^ 96
      ∃ t, exec (.brv n p o) s = .next t ∧ (t.part iss.q).warp c.w = some { c.x.passed iss s.now with
          stack := ⟨false, c.x.path, g, goal (s.env iss c), false, 0⟩ :: c.x.stack.dropLast, spilled := c.x.spilled + 1, m := c.x.path &&& ~~~g } ∧
        Wrote s t iss.q ((List.range 16).map (fun j => (.dev (pa + j), BitVec.ofNat 8 (entry / 2 ^ (8 * j)))))

/-- R133, R134, R314: `loop` with a count opens a level whose body is the given number of words; with 0 it goes past them (which count it is, and that a count of 0 opens no level,
is the model's reading, log 28); in a handler, beyond three levels, with a body beyond the enclosing one's end or with a bad target it aborts the run with OPERAND. The run that ends a
body goes back to its start while its count is above 1, and else ends the level, and with it an enclosing level that ends at the same word is counted; with a record that was pushed
inside the body still there the run aborts with OPERAND. (Shown on `nop`.) -/
def Obligations.LoopsOpen : Prop :=
  (∀ (hi lo : BitVec 7) (a : Reg),
    let len := hi.toNat * 128 + lo.toNat
    let count (e : Env) : W32 := (e.srcS a).setWidth 32
    let past (e : Env) : W64 := e.iss.addr + 4 + BitVec.ofNat 64 (4 * len)
    let stop (e : Env) : W64 := e.iss.addr + BitVec.ofNat 64 (4 * len)
    Turns (.loop hi a lo) (fun _ e => e.iss.len = 4 ∧ count e = 0 ∧ e.c.x.trap.inh = false ∧ e.c.grid.k.target (past e) = true) (fun _ e x => { x with pc := past e }) ∧
    Faults (.loop hi a lo) (fun _ e => e.c.x.trap.inh = true ∨ (count e = 0 ∧ e.c.grid.k.target (past e) = false)) (fun _ e => e.cond .operand 0 e.iss.detail) ∧
    (0 < len → ∀ s iss c, Lone s (.loop hi a lo) iss c → iss.len = 4 → c.x.trap.inh = false → count (s.env iss c) ≠ 0 →
      ∃ t, exec (.loop hi a lo) s = .next t ∧ OnlyWarp s t iss.q c.w
        { c.x.passed iss s.now with
          lc0 := count (s.env iss c)
          levels := [⟨iss.addr + 4, stop (s.env iss c), c.x.rd⟩]
          pc := iss.addr + 4 } (Sparse.rd ((s.part iss.q).core c.w.core).rf)) ∧
    ∀ s iss c l rest, Alone s (.loop hi a lo) iss c → iss.len = 4 → c.x.trap.inh = false → count (s.env iss c) ≠ 0 → c.x.levels = l :: rest → l.stop ≠ iss.addr →
      (rest.length ≤ 1 → (stop (s.env iss c)).toNat ≤ l.stop.toNat → 0 < len →
        let x := { c.x.passed iss s.now with levels := ⟨iss.addr + 4, stop (s.env iss c), c.x.rd⟩ :: l :: rest, pc := iss.addr + 4 }
        Became s (.loop hi a lo) iss c (if rest = [] then { x with lc1 := count (s.env iss c) } else { x with lc2 := count (s.env iss c) })) ∧
      (2 ≤ rest.length ∨ l.stop.toNat < (stop (s.env iss c)).toNat →
        ∃ t, exec (.loop hi a lo) s = .next t ∧ FaultStep s t iss c ((s.env iss c).cond .operand 0 iss.detail))) ∧
  ∀ s iss c l rest, Alone s .nop iss c → iss.len = 4 → c.x.trap.inh = false → c.x.levels = l :: rest → l.stop = iss.addr →
    let lc (k : Nat) : W32 := if k = 0 then c.x.lc0 else if k = 1 then c.x.lc1 else c.x.lc2
    let less (x : Warp) (k : Nat) : Warp := if k = 0 then { x with lc0 := lc k - 1 } else if k = 1 then { x with lc1 := lc k - 1 } else { x with lc2 := lc k - 1 }
    let x := c.x.passed iss s.now
    (c.x.rd = l.rd0 → 1 < (lc rest.length).toNat → Became s .nop iss c { less x rest.length with pc := l.start }) ∧
    (c.x.rd = l.rd0 → (lc rest.length).toNat ≤ 1 → (∀ m ∈ rest.head?, m.stop ≠ iss.addr) → Became s .nop iss c { x with levels := rest, pc := iss.addr + 4 }) ∧
    (∀ m out, c.x.rd = l.rd0 → (lc rest.length).toNat ≤ 1 → rest = m :: out → m.stop = iss.addr → m.rd0 = c.x.rd → 1 < (lc out.length).toNat →
      Became s .nop iss c { less x out.length with levels := m :: out, pc := m.start }) ∧
    (c.x.rd ≠ l.rd0 → ∃ t, exec .nop s = .next t ∧ FaultStep s t iss c ((s.env iss c).cond .operand 0 iss.detail))

/-- R38, R99, R113, R132, R315, R326: words that end a run and change little: `nop`, `yield` and `safept` nothing, `sleep` the wait, `exit` the lanes that it ends (a lane
left on the path), `eret` the warp as R315 says; and where their operands are bad or there is nothing to return from the run aborts with OPERAND. -/
def Obligations.RunEnds : Prop :=
  ∀ (a : Reg) (i : BitVec 18),
    Turns .nop always (fun _ _ x => x) ∧
    Turns .yield always (fun _ _ x => x) ∧
    Turns (.safept i) always (fun _ _ x => x) ∧
    Turns (.sleep a) (fun _ e => 0 < (e.srcS a).toNat ∧ (e.srcS a).toNat ≤ 2 ^ 20) (fun s e x => { x with wait := .sleep (s.now + 2 * (e.srcS a).toNat) }) ∧
    Turns (.sleep a) (fun _ e => e.srcS a = 0) (fun _ _ x => x) ∧
    Faults (.sleep a) (fun _ e => 2 ^ 20 < (e.srcS a).toNat) (fun _ e => e.cond .operand 0 e.iss.detail) ∧
    Turns .exit (fun _ e => e.c.x.path &&& ~~~e.act ≠ 0) (fun _ e x => { x with lanes := x.lanes.mapIdx (fun j l =>
      if e.act.getLsbD j then { l with st := if e.c.grid.k.refill = 0 then .drained else .vacant } else l) }) ∧
    Turns .eret (fun _ e => e.c.x.trap.inh = true ∧ e.c.x.rd = e.c.x.trap.rd0 ∧ e.c.grid.k.target e.c.x.trap.epc = true ∧ e.c.x.trap.savedM &&& e.c.x.live ≠ 0)
      (fun _ e x => { x with pc := e.c.x.trap.epc, m := e.c.x.trap.savedM &&& e.c.x.live, trap := { e.c.x.trap with inh := false } }) ∧
    Faults .eret (fun _ e => e.c.x.trap.inh = false ∨ e.c.x.rd ≠ e.c.x.trap.rd0 ∨ e.c.grid.k.target e.c.x.trap.epc = false)
      (fun _ e => e.cond .operand 0 e.iss.detail)

/-! ### Memory (R182-R230) -/

/-- R33, R210-R230: the memory words, the cache words and the fifteen atomics are queued with their accesses, or with the condition of their checks, and a settled run of one
commits. R222-R224: `rsdef`, `rsadd` and `rsdel` give the entry its new image or mask, GEN one more or, with INIT, 0, D the new GEN and the table in memory the entry's 16 bytes, and
change nothing else where no line is parked; with INIT no line stays parked under the RSID; with the table disabled, and with the operands that R222-R224 name, they abort with
OPERAND. R225: `rsqry` reports an entry, a line or its replicas. R204, R226: `unpark` frees the line's directory entry and writes the line's bytes to its home. R230: the cache words
change no byte, and `cinv` leaves no copy of an active lane's unparked line in the core's L1 or the cluster's cache. (That `rsqry` modes 0 and 3 of any address of a scratchpad
aperture answer 3 and 0 with no check of a bound is the model's reading, log 23.) A word of which a router drops a packet does not end (R361), and is not stated here. -/
def Obligations.MemoryWordsCommit : Prop :=
  ∀ (z : BitVec 3) (i : BitVec 1) (d a b : Reg),
    let bad : State → Env → Cond := fun _ e => e.cond .operand 0 e.iss.detail
    let id (e : Env) := (e.srcS a).toNat
    let entry (s : State) (e : Env) := (s.part e.q).rdesc (id e)
    let on (s : State) (e : Env) := (s.part e.q).csr.rsEn = true
    let bits_ (e : Env) := e.srcS b
    let init (e : Env) := (e.srcS1 b).getLsbD 48 = true
    let defines (s : State) (e : Env) := on s e ∧ id e ≤ 1023 ∧ (e.srcS1 b).toNat / 2 ^ 49 = 0 ∧ RDesc.ok ⟨e.srcS b, BitVec.ofNat 64 ((e.srcS1 b).toNat % 2 ^ 32)⟩ (s.nclu e.q) = true
    let masks (s : State) (e : Env) (f : W64 → W64 → W64) := on s e ∧ id e ≤ 1023 ∧
      (((entry s e).kind = 1 ∧ (bits_ e).toNat < 2 ^ 48 ∧ (f (entry s e).lo (bits_ e <<< 16)).toNat / 2 ^ 16 ≠ 0) ∨
        ((entry s e).kind = 2 ∧ (bits_ e).toNat < 2 ^ min 24 (s.nclu e.q) ∧ (f (entry s e).hi (bits_ e)).toNat % 2 ^ 24 ≠ 0))
    let or_ (x y : W64) := x ||| y
    let less (x y : W64) := x &&& ~~~y
    let revised (s : State) (iss : Issue) (c : Ctx) (i : Instr) (lo : W64) (hi gen : Nat) :=
      let e := s.env iss c
      let p := s.part iss.q
      let y : RDesc := ⟨lo, BitVec.ofNat 64 (hi + gen * 2 ^ 32)⟩
      let at_ := p.csr.rsbase.toNat / 2 ^ 14 % 2 ^ 38 * 2 ^ 14 + 16 * id e
      ∃ t, exec i s = .next t ∧ (∀ n, (t.part iss.q).rdesc n = if n = id e then y else p.rdesc n) ∧
        (t.part iss.q).warp c.w = some ((c.x.passed iss s.now).setS d (BitVec.ofNat 64 gen)) ∧
        (p.dir = [] → Wrote s t iss.q (if s.paOk iss.q (at_ + 15) = true then
          (List.range 16).map (fun j => (.dev (at_ + j), BitVec.ofNat 8 ((if j < 8 then y.lo else y.hi).toNat / 2 ^ (8 * (j % 8))))) else [])) ∧
        ((i = .rsdef d a b ∧ init e) → ∀ k ∈ (t.part iss.q).dir, k.rsid ≠ id e)
    let routed (s : State) (iss : Issue) (c : Ctx) (f : Option Leaf) := ∀ l, f = some l → s.barredWalk iss.q c.w.core (BitVec.ofNat 64 l.va) = []
    let gen1 (s : State) (e : Env) := ((entry s e).gen + 1) % 2 ^ 16
    (∀ s iss c, Lone s (.rsdef d a b) iss c → let e := s.env iss c; defines s e → (init e → e.sup = true) →
      revised s iss c (.rsdef d a b) (e.srcS b) ((e.srcS1 b).toNat % 2 ^ 32) (if (e.srcS1 b).getLsbD 48 then 0 else gen1 s e)) ∧
    (∀ s iss c, Lone s (.rsadd d a b) iss c → let e := s.env iss c; let x := entry s e; masks s e or_ →
      revised s iss c (.rsadd d a b) (if x.kind = 1 then x.lo ||| bits_ e <<< 16 else x.lo) ((if x.kind = 1 then x.hi else x.hi ||| bits_ e).toNat % 2 ^ 32) (gen1 s e)) ∧
    (∀ s iss c, Lone s (.rsdel d a b) iss c → let e := s.env iss c; let x := entry s e; masks s e less →
      revised s iss c (.rsdel d a b) (if x.kind = 1 then x.lo &&& ~~~(bits_ e <<< 16) else x.lo) ((if x.kind = 1 then x.hi else x.hi &&& ~~~(bits_ e)).toNat % 2 ^ 32) (gen1 s e)) ∧
    Faults (.rsdef d a b) (fun s e => (init e → e.sup = true) ∧ ¬ defines s e) bad ∧
    Faults (.rsadd d a b) (fun s e => ¬ masks s e or_) bad ∧ Faults (.rsdel d a b) (fun s e => ¬ masks s e less) bad ∧
    Writes (.rsqry d a b) (fun s e => on s e ∧ bits_ e = 1 ∧ id e ≤ 1023) (fun s e => putS d (entry s e).lo) ∧
    Writes (.rsqry d a b) (fun s e => on s e ∧ bits_ e = 2 ∧ id e ≤ 1023) (fun s e => putS d (entry s e).hi) ∧
    Writes (.rsqry d a b) (fun s e => on s e ∧ (bits_ e = 0 ∨ bits_ e = 3) ∧ (regionOf (e.srcS a) = .loc ∨ regionOf (e.srcS a) = .cluster))
      (fun _ e => putS d (if bits_ e = 0 then 3 else 0)) ∧
    Faults (.rsqry d a b) (fun s e => ¬ on s e ∨ 3 < (bits_ e).toNat ∨ ((bits_ e = 1 ∨ bits_ e = 2) ∧ 1023 < id e)) bad ∧
    (∀ s iss c pa f, Lone s (.rsqry d a b) iss c → let e := s.env iss c; on s e → (bits_ e = 0 ∨ bits_ e = 3) →
      (s.begun iss c).uniAccess e (e.srcS a) .read ⟨true, false, false⟩ = .ok (.dev pa, f) → routed s iss c f →
      let home := s.homeOf iss.q pa
      let r := match (s.part iss.q).parked pa with
        | none => if bits_ e = 0 then 3 + home * 2 ^ 48 else 0
        | some k => if bits_ e = 0 then k.level + (if k.fell then 4 else 0) + (if k.gen ≠ ((s.part iss.q).rdesc k.rsid).gen then 8 else 0) + k.rsid * 2 ^ 4 + k.gen * 2 ^ 16 +
            (if k.level = 0 then k.unit % 48 * 2 ^ 32 + cluOf k.unit * 2 ^ 40 else if k.level = 1 then k.unit * 2 ^ 40 else 0) + home * 2 ^ 48
          else (k.replicas.map (fun c => 2 ^ c)).sum
      ∃ t, exec (.rsqry d a b) s = .next t ∧ Loaded s t iss c (putS d (BitVec.ofNat 64 r)) ∧ Wrote s t iss.q []) ∧
    (∀ s iss c pa f, Lone s (.unpark a) iss c → let e := s.env iss c; on s e →
      (s.begun iss c).uniAccess e (e.srcS a) .write ⟨false, true, false⟩ = .ok (.dev pa, f) → routed s iss c f → s.barred iss.q c.w.core pa = false →
      ∃ t, exec (.unpark a) s = .next t ∧ Loaded s t iss c [] ∧ (t.part iss.q).dir = (s.part iss.q).dir.filter (fun k => k.line != pa / 128) ∧
        Wrote s t iss.q (match (s.part iss.q).dir.find? (fun k => k.line == pa / 128) with
          | some k => (List.range k.data.length).map (fun j => (.dev (pa / 128 * 128 + j), k.data.getD j 0))
          | none => [])) ∧
    (∀ s iss c op i, (op, i) ∈ [(CacheOp.pref, Instr.pref a b), (.cwb, .cwb a b), (.cinv, .cinv a b)] → Lone s i iss c → let e := s.env iss c;
      Settled s iss c ((s.begun iss c).cacheWord e op a b) →
      ∃ t, exec i s = .next t ∧ Loaded s t iss c [] ∧ Wrote s t iss.q [] ∧ (t.part iss.q).dir = (s.part iss.q).dir ∧
        (op = .cinv → ∀ l ∈ e.lanes, ∀ x pa, ((s.begun iss c).access e l (e.addr 0 a b 1 l) 1 1 ⟨false, true, false⟩).2 = some x → x.loc = .dev pa → (s.part iss.q).parked pa = none →
          (∀ k ∈ ((t.part iss.q).core c.w.core).l1, k.host = true ∨ k.sector / 4 ≠ pa / 128) ∧
          ∀ k ∈ ((t.part iss.q).clu (cluOf c.w.core)).cc, k.host = true ∨ k.line ≠ pa / 128)) ∧
    Commits (.ld z i d a b) always (fun s e => s.ld e z i d a b) ∧
    Commits (.ldf6 d a b) always (fun s e => s.loadWord e e.lanes (e.addr 0 a b 3) 3 1 false (fun l bs => e.putFull d l (unpack6 bs))) ∧
    Commits (.ldloc_w d a b) always (fun s e => s.ldloc e 4 d a b) ∧
    Commits (.ldloc_d d a b) always (fun s e => s.ldloc e 5 d a b) ∧
    Commits (.ldloc_q d a b) always (fun s e => s.ldloc e 6 d a b) ∧
    Commits (.st z i d a b) always (fun s e => s.storeWord e z d (e.addr i a b (sizeBytes z)) (fun ps => .store ps e.mattr)) ∧
    Commits (.stp z d a b) always (fun s e => s.stpWord e z d a b) ∧
    Commits (.rsdef d a b) (fun _ e => (e.srcS1 b).getLsbD 48 = false ∨ e.sup = true) (fun s e => s.rsetWord e .define d a (e.srcS b) (e.srcS1 b)) ∧
    Faults (.rsdef d a b) (fun _ e => (e.srcS1 b).getLsbD 48 = true ∧ e.sup = false) (fun _ e => e.cond .priv 0 (BitVec.ofNat 64 e.iss.word.toNat)) ∧
    Commits (.rsadd d a b) always (fun s e => s.rsetWord e .add d a (e.srcS b) 0) ∧
    Commits (.rsdel d a b) always (fun s e => s.rsetWord e .del d a (e.srcS b) 0) ∧
    Commits (.rsqry d a b) always (fun s e => s.rsqry e d a b) ∧
    Commits (.unpark a) always (fun s e => s.unparkWord e a) ∧
    Commits (.pref a b) always (fun s e => s.cacheWord e .pref a b) ∧
    Commits (.cwb a b) always (fun s e => s.cacheWord e .cwb a b) ∧
    Commits (.cinv a b) always (fun s e => s.cacheWord e .cinv a b) ∧
    Commits (.atom_add d a b) always (fun s e => s.atomWord e .add d a b) ∧ Commits (.atom_min d a b) always (fun s e => s.atomWord e .min d a b) ∧
    Commits (.atom_max d a b) always (fun s e => s.atomWord e .max d a b) ∧ Commits (.atom_umin d a b) always (fun s e => s.atomWord e .umin d a b) ∧
    Commits (.atom_umax d a b) always (fun s e => s.atomWord e .umax d a b) ∧ Commits (.atom_and d a b) always (fun s e => s.atomWord e .and d a b) ∧
    Commits (.atom_or d a b) always (fun s e => s.atomWord e .or d a b) ∧ Commits (.atom_xor d a b) always (fun s e => s.atomWord e .xor d a b) ∧
    Commits (.atom_xchg d a b) always (fun s e => s.atomWord e .xchg d a b) ∧ Commits (.atom_cas d a b) always (fun s e => s.atomWord e .cas d a b) ∧
    Commits (.atom_fadd d a b) always (fun s e => s.atomWord e .fadd d a b) ∧ Commits (.atom_bfadd2 d a b) always (fun s e => s.atomWord e .bfadd2 d a b) ∧
    Commits (.atom_inc d a b) always (fun s e => s.atomWord e .inc d a b) ∧ Commits (.atom_add64 d a b) always (fun s e => s.atomWord e .add64 d a b) ∧
    Commits (.atom_cas64 d a b) always (fun s e => s.atomWord e .cas64 d a b)

/-- R228: the value that an atomic writes, from the old value, its operand and its compare value; a compare that fails writes none. -/
def Obligations.AtomicOperations : Prop :=
  ∀ (old v y : W32) (o w x : W64),
    AtomOp.new .add old.toNat v.toNat y.toNat = some (old + v).toNat ∧
    AtomOp.new .min old.toNat v.toNat y.toNat = some (BitVec.ofInt 32 (min old.toInt v.toInt)).toNat ∧
    AtomOp.new .max old.toNat v.toNat y.toNat = some (BitVec.ofInt 32 (max old.toInt v.toInt)).toNat ∧
    AtomOp.new .umin old.toNat v.toNat y.toNat = some (min old.toNat v.toNat) ∧
    AtomOp.new .umax old.toNat v.toNat y.toNat = some (max old.toNat v.toNat) ∧
    AtomOp.new .and old.toNat v.toNat y.toNat = some (old &&& v).toNat ∧
    AtomOp.new .or old.toNat v.toNat y.toNat = some (old ||| v).toNat ∧
    AtomOp.new .xor old.toNat v.toNat y.toNat = some (old ^^^ v).toNat ∧
    AtomOp.new .xchg old.toNat v.toNat y.toNat = some v.toNat ∧
    AtomOp.new .cas old.toNat v.toNat y.toNat = (if old = y then some v.toNat else none) ∧
    AtomOp.new .inc old.toNat v.toNat y.toNat = some (if v.toNat ≤ old.toNat then 0 else old.toNat + 1) ∧
    AtomOp.new .add64 o.toNat w.toNat x.toNat = some (o + w).toNat ∧
    AtomOp.new .cas64 o.toNat w.toNat x.toNat = (if o = x then some w.toNat else none) ∧
    (∃ z, SumOf 0 (fp32.decode old.toNat) (fp32.decode v.toNat) z ∧ AtomOp.new .fadd old.toNat v.toNat y.toNat = some (fp32.encode 0 z.1 0).1) ∧
    ∃ lo hi, SumOf 0 (bf16.decode (old.toNat % 2 ^ 16)) (bf16.decode (v.toNat % 2 ^ 16)) lo ∧ SumOf 0 (bf16.decode (old.toNat / 2 ^ 16)) (bf16.decode (v.toNat / 2 ^ 16)) hi ∧
      AtomOp.new .bfadd2 old.toNat v.toNat y.toNat = some ((bf16.encode 0 lo.1 0).1 + (bf16.encode 0 hi.1 0).1 * 2 ^ 16)

/-- R183, R188, R214: a load whose lanes' addresses lie aligned in their block's scratchpad reads those bytes, lowest first, into its registers, and changes nothing else; a load
of 1 to 8 bytes sign-extends for the signed sizes and zero-extends otherwise (of size w in a uniform register that is the model's choice, log 66). A settled load of any region, with
no parked line in the partition, gives its lanes the bytes that its checks read, and leaves every byte of DRAM, host memory and scratchpads as it was; so do R219's `ldf6`, whose
register takes the four 6-bit fields of 3 bytes one to a byte, and R220's `ldloc`. Those bytes are, of a global address, the ones that the core's L1 holds, if it has the sector and the
load's hint does not go beyond it, and else those at home. (Where a write on another path is not ordered before the load, its bytes are open, log 54: none is due here.) -/
def Obligations.LoadsReadTheirBytes : Prop :=
  (∀ (z : BitVec 3) (i : BitVec 1) (d a b : Reg) (s : State) (iss : Issue) (c : Ctx),
    Lone s (.ld z i d a b) iss c →
    let e := s.env iss c
    let n := sizeBytes z
    let off (l : Nat) := (e.addr i a b n l).toNat % 2 ^ 32
    let bytes (l : Nat) := (List.range n).map (fun j => Sparse.rd ((s.part iss.q).core c.blk.core).scratch (c.blk.scrOff + off l + j))
    let lanes := if d.isS then [0] else e.lanes
    s.anyBad iss.q = false → (s.part iss.q).lag = [] → e.mattr.order = .plain → (∀ l ∈ lanes, regionOf (e.addr i a b n l) = .loc ∧ (e.addr i a b n l).toNat % n = 0 ∧ off l + n ≤ c.blk.scrLen) →
    ∃ t, exec (.ld z i d a b) s = .next t ∧
      RegStep s t iss c (lanes.flatMap (fun l => if d.isS then putLoadS z d (bytes l) else e.putLoad z d l (bytes l)))) ∧
  (∀ (z : BitVec 3) (bs : List Byte), bs.length = sizeBytes z → z.toNat ≤ 5 →
    let v : Int := ((List.range bs.length).map (fun j => ((bs.getD j 0).toNat : Int) * 2 ^ (8 * j))).sum
    (loadVal z bs).toInt = if z = 1 ∧ 2 ^ 7 ≤ v then v - 2 ^ 8 else if z = 3 ∧ 2 ^ 15 ≤ v then v - 2 ^ 16 else if z = 5 ∧ 2 ^ 63 ≤ v then v - 2 ^ 64 else v) ∧
  (∀ bs : List Byte, bs.length = 3 →
    let v := ((List.range 3).map (fun j => (bs.getD j 0).toNat * 2 ^ (8 * j))).sum
    (unpack6 bs).toNat = ((List.range 4).map (fun k => v / 2 ^ (6 * k) % 2 ^ 6 * 2 ^ (8 * k))).sum) ∧
  ∀ (z : BitVec 3) (i : BitVec 1) (d a b : Reg) (s : State) (iss : Issue) (c : Ctx),
    let e := s.env iss c
    let b0 := s.begun iss c
    let reads (x : Instr) (w : Word) (l : List Act) := Lone s x iss c → Settled s iss c w → (s.part iss.q).dir = [] →
      ∃ t, exec x s = .next t ∧ Loaded s t iss c l ∧ Wrote s t iss.q []
    let n := sizeBytes z
    let at_ (loc : Bool) (x : BitVec 1) (lanes : List Nat) (n al : Nat) (l : Nat) := laneBytes (b0.loads e lanes (e.addr x a b n) n al loc).1 l
    let near (x : Instr) (z : BitVec 3) := reads x (b0.ldloc e z d a b) (e.lanes.flatMap (fun l => e.putLoad z d l (at_ true 0 e.lanes (sizeBytes z) (sizeBytes z) l)))
    reads (.ld z i d a b) (b0.ld e z i d a b)
      (if d.isS then putLoadS z d (at_ false i [0] n n 0) else e.lanes.flatMap (fun l => e.putLoad z d l (at_ false i e.lanes n n l))) ∧
    reads (.ldf6 d a b) (b0.loadWord e e.lanes (e.addr 0 a b 3) 3 1 false (fun l bs => e.putFull d l (unpack6 bs)))
      (e.lanes.flatMap (fun l => e.putFull d l (unpack6 (at_ false 0 e.lanes 3 1 l)))) ∧
    near (.ldloc_w d a b) 4 ∧ near (.ldloc_d d a b) 5 ∧ near (.ldloc_q d a b) 6 ∧
    ∀ (loc : Bool) (x : BitVec 1) (lanes : List Nat) (n al l pa : Nat) (host : Bool) (lf : Option Leaf), lanes.Nodup → l ∈ lanes → 0 < n →
      (e.addr x a b n l).toNat % 128 + n ≤ 128 → b0.resolve iss.q c.blk (e.addr x a b n l) n ⟨true, false, false⟩ = .ok (if host then .host pa else .dev pa, lf) →
      (b0.part iss.q).lag = [] → (b0.part iss.q).dir = [] →
      ∀ j, j < n → (at_ loc x lanes n al l).getD j 0 =
        match (if e.mattr.beyond then none else ((b0.part iss.q).core c.w.core).l1Find host ((pa + j) / 32)) with
        | some k => k.bytes.getD ((pa + j) % 32) 0
        | none => if host then b0.rdHost (pa + j) else b0.rdHome iss.q (pa + j)

/-- R216: a settled plain store, with no parked line in the partition, writes its lanes' bytes at their places, the last lane's where they meet, and leaves every other byte
and every register as it was. R192, R221: so does `stp` with the Reader Set Table disabled; on a page that parks, under an entry that is not KIND 0 and on a line that the warp has
not locked, the bytes of `stp` set out for the line's home slice with the entry, the core and the class of the page, and no byte changes yet (log 27). -/
def Obligations.StoresWriteTheirBytes : Prop :=
  ∀ (z : BitVec 3) (i : BitVec 1) (d a b : Reg) (s : State) (iss : Issue) (c : Ctx),
    let e := s.env iss c
    let p := s.part iss.q
    let n := sizeBytes z
    let ps (addr : Nat → W64) := ((s.begun iss c).stores e addr (e.storeBytes z d) n ⟨false, true, false⟩ false).1
    p.dir = [] → e.mattr.order = .plain →
    (Lone s (.st z i d a b) iss c → Settled s iss c ((s.begun iss c).storeWord e z d (e.addr i a b n) (fun ps => .store ps e.mattr)) →
      ∃ t, exec (.st z i d a b) s = .next t ∧ Loaded s t iss c [] ∧ Wrote s t iss.q (byteWrites (ps (e.addr i a b n)))) ∧
    (Lone s (.stp z d a b) iss c → Settled s iss c ((s.begun iss c).stpWord e z d a b) →
      (p.csr.rsEn = false → ∃ t, exec (.stp z d a b) s = .next t ∧ Loaded s t iss c [] ∧ Wrote s t iss.q (byteWrites (ps (e.base a)))) ∧
      ∀ x pa f, p.csr.rsEn = true → ps (e.base a) = [x] → x.loc = .dev pa → x.leaf = some f → f.park ≠ 0 →
        let id := (e.srcS b).toNat % 1024
        (p.rdesc id).kind ≠ 0 → (f.lockable = false ∨ (p.lock (pa / 128)).holder ≠ some c.x.uid) →
        ∃ t, exec (.stp z d a b) s = .next t ∧ Loaded s t iss c [] ∧ Wrote s t iss.q [] ∧
          (t.part iss.q).placeQ = [⟨pa / 128, id, p.rdesc id, c.w.core, p.warpCls c.w, c.gang.id, f.cls,
            (List.range x.bytes.length).map (fun j => (pa % 128 + j, x.bytes.getD j 0))⟩])

/-- R227: a settled plain atomic of one active lane on a byte range of device memory, with no parked line in the partition: D takes the old value, memory the new one if one is
written, and no other byte changes. -/
def Obligations.AtomicReadsThenWrites : Prop :=
  ∀ (op : AtomOp) (d a b : Reg) (s : State) (iss : Issue) (c : Ctx) (l pa : Nat),
    Lone s (atomInstr op d a b) iss c →
    let e := s.env iss c
    let n := op.size
    let old := leNat ((List.range n).map (fun j => s.rdDram iss.q (pa + j)))
    let new := op.new old (e.atomVal d 0 n l).toNat (e.atomVal d (n / 4) n l).toNat
    Settled s iss c ((s.begun iss c).atomWord e op d a b) → (s.part iss.q).dir = [] → e.mattr.order = .plain → e.lanes = [l] →
    (∃ lf, (s.begun iss c).resolve iss.q c.blk (e.addr 0 a b n l) n ⟨true, true, false⟩ = .ok (.dev pa, some lf)) →
    ∃ t, exec (atomInstr op d a b) s = .next t ∧
      Loaded s t iss c ((List.range (n / 4)).flatMap (fun k => e.putAt d k l (BitVec.ofNat 32 (old / 2 ^ (32 * k))))) ∧
      Wrote s t iss.q ((match new with | some v => (List.range n).map (fun j => (Loc.dev (pa + j), BitVec.ofNat 8 (v / 2 ^ (8 * j)))) | none => []))

/-! ### Synchronisation (R253-R277) -/

/-- R254, R256, R257, R260, R262, R263, R267, R277: the barrier words arrive with the count that B or the block gives; a live lane off the path, or a count of 0 or above 4,096, aborts the run with OPERAND. The
words on objects and locks, and fences, are queued as their run's last operation, or with the condition of their checks, and a settled run commits them. R296: a fence of kind sc, and
one of kind acq or ar of gang scope or wider, leaves no copy in its core's L1, and no byte of memory changes; a fence that is no release of a race-checked kernel and drops no
copies changes nothing else where no write is still unordered. R292: after a fence no read on its to-paths sees a byte that a write on its from-paths has replaced, but for those of
a copy command that has not completed. (That an access not ordered before a read may give it the old byte or the new one, and that a fence counts for every warp, is how the model
holds what R237 and R295 leave open, log 54.) -/
def Obligations.SyncWordsCommit : Prop :=
  ∀ (i : BitVec 4) (d a b : Reg) (k : BitVec 2) (z : BitVec 3) (f t : BitVec 4),
    let count (e : Env) (own : Nat) := if b.toNat = 120 then own else (e.srcS b).toNat % 2 ^ 32
    let blk (e : Env) := count e e.c.grid.k.bwarps
    let gng (e : Env) := count e (e.c.grid.k.bwarps * (e.c.grid.l.gangm1 + 1))
    let good (c : Env → Nat) (e : Env) := e.c.x.path = e.c.x.live ∧ 1 ≤ c e ∧ c e ≤ 4096
    Commits (.nbwait i b) (fun _ e => good blk e) (fun _ e => .ofTerm (.nb true i.toNat (blk e))) ∧
    Commits (.nbarv i b) (fun _ e => good blk e) (fun _ e => .ofTerm (.nb false i.toNat (blk e))) ∧
    Commits (.gbwait b) (fun _ e => good gng e) (fun _ e => .ofTerm (.gb (gng e))) ∧
    Faults (.nbwait i b) (fun _ e => ¬ good blk e) (fun _ e => e.cond .operand 0 e.iss.detail) ∧
    Faults (.nbarv i b) (fun _ e => ¬ good blk e) (fun _ e => e.cond .operand 0 e.iss.detail) ∧
    Faults (.gbwait b) (fun _ e => ¬ good gng e) (fun _ e => e.cond .operand 0 e.iss.detail) ∧
    Commits (.abinit a b) always (fun s e =>
      s.objectWord e a .write ⟨false, true, false⟩ (decide (1 ≤ (e.srcS b).toNat ∧ (e.srcS b).toNat ≤ 65535)) (fun l _ => .abinit l (e.srcS b).toNat)) ∧
    Commits (.abarv d a b) always (fun s e =>
      s.objectWord e a .rmw ⟨true, true, false⟩ (decide ((e.srcS b).toNat < 2 ^ 49)) (fun l g => .abarv d l g (e.srcS b))) ∧
    Commits (.abwait a b) always (fun s e =>
      s.objectWord e a .read ⟨true, false, false⟩ (decide ((e.srcS b).toNat < 2 ^ 16)) (fun l g => .abwait l g (e.srcS b).toNat)) ∧
    Commits (.abtest d a b) always (fun s e =>
      s.objectWord e a .read ⟨true, false, false⟩ (decide ((e.srcS b).toNat < 2 ^ 16)) (fun l g => .abtest d l g (e.srcS b).toNat)) ∧
    Commits (.llock d a b) always (fun s e => s.llock e d a b) ∧
    Commits (.ltry d a) always (fun s e => s.lockWord e .ltry d a 0 (s.llockOk e 0)) ∧
    Commits (.lunlk d a) always (fun s e => s.lockWord e .lunlk d a 0 (fun _ => true)) ∧
    Commits (.lqry d a) always (fun s e => s.lockWord e .lqry d a 0 (fun _ => true)) ∧
    Commits (.labnd d a) always (fun s e => s.lockWord e .labnd d a 0 (fun _ => true)) ∧
    Commits (.fence k z f t) always (fun _ _ => .ofTerm (.fence (fenceKind k) (scopeOf z.toNat) f t)) ∧
    (∀ s iss c, Lone s (.fence k z f t) iss c → k = 3 ∨ (k ≠ 1 ∧ 2 ≤ z.toNat) →
      ∃ u, exec (.fence k z f t) s = .next u ∧ ((u.part iss.q).core c.w.core).l1 = [] ∧ Loaded s u iss { c with x := { c.x with
        region := if c.grid.k.race = true ∧ k ≠ 0 then c.x.region + 1 else c.x.region } } [] ∧ Wrote s u iss.q []) ∧
    (∀ s iss c, Lone s (.fence k z f t) iss c → ∃ u, exec (.fence k z f t) s = .next u ∧
      ∀ x ∈ (u.part iss.q).lag, f.getLsbD x.by_ = true → (u.part iss.q).underWay x = false → ∀ j, t.getLsbD j = true → x.free.getLsbD j = false) ∧
    Turns (.fence k z f t) (fun s e => (s.part e.q).lag = [] ∧ e.c.grid.k.race = false ∧ k ≠ 3 ∧ (k = 1 ∨ z.toNat ≤ 1) ∧ (t.getLsbD 0 = false ∨ (f.getLsbD 1 = false ∧ f.getLsbD 3 = false)))
      (fun _ _ x => x)

/-- R255, R256, R257: an arrival at a named barrier, or at the gang's, starts a phase with its own count or keeps the phase's, and counts; a phase of at least its count of arrivals
and retired warps ends: the count of arrivals returns to 0 and every warp of the block, or of the gang, that waits at the barrier goes on; other waits stand. -/
def Obligations.BarrierArrival : Prop :=
  ∀ (i : BitVec 4) (b : Reg) (s : State) (iss : Issue) (c : Ctx),
    let p := s.part iss.q
    let e := s.env iss c
    let count (own : Nat) := if b.toNat = 120 then own else (e.srcS b).toNat % 2 ^ 32
    let good (n : Nat) := c.x.path = c.x.live ∧ 1 ≤ n ∧ n ≤ 4096
    let after (n : Nat) (r y : Bar) (ends : Bool) := y = ⟨if r.a = 0 then n else r.n, if ends then 0 else r.a + 1, r.r⟩ ∧
      (ends = true ↔ (if r.a = 0 then n else r.n) ≤ r.a + 1 + r.r)
    (∀ wait r, c.blk.bars[i.toNat]? = some r → good (count c.grid.k.bwarps) →
      let word := if wait then Instr.nbwait i b else .nbarv i b
      Lone s word iss c →
      ∃ t k y ends, exec word s = .next t ∧ (t.part iss.q).block? c.blk.id = some k ∧ k.bars[i.toNat]? = some y ∧ after (count c.grid.k.bwarps) r y ends ∧
        ∀ w x, p.warp w = some x → ∃ v, (t.part iss.q).warp w = some v ∧
          (w = c.w → v.wait = if wait && !ends then .nbar i.toNat (count c.grid.k.bwarps) else .none) ∧
          (wkey w ≠ wkey c.w → ((x.block = c.blk.id ∧ ends = true ∧ ∃ m, x.wait = .nbar i.toNat m) → v.wait = .none) ∧
            (¬ (x.block = c.blk.id ∧ ends = true ∧ ∃ m, x.wait = .nbar i.toNat m) → v.wait = x.wait))) ∧
    (Lone s (.gbwait b) iss c → good (count (c.grid.k.bwarps * (c.grid.l.gangm1 + 1))) →
      let mine (x : Warp) := ∃ k ∈ p.blocks, k.id = x.block ∧ k.gang = c.gang.id
      ∃ t g ends, exec (.gbwait b) s = .next t ∧ (t.part iss.q).gang? c.gang.id = some g ∧
        after (count (c.grid.k.bwarps * (c.grid.l.gangm1 + 1))) c.gang.bar g.bar ends ∧
        ∀ w x, p.warp w = some x → ∃ v, (t.part iss.q).warp w = some v ∧
          (w = c.w → v.wait = if ends then .none else .gbar (count (c.grid.k.bwarps * (c.grid.l.gangm1 + 1)))) ∧
          (wkey w ≠ wkey c.w → ((mine x ∧ ends = true ∧ ∃ m, x.wait = .gbar m) → v.wait = .none) ∧
            (¬ (mine x ∧ ends = true ∧ ∃ m, x.wait = .gbar m) → v.wait = x.wait)))

/-- R260-R263: words on an object in a scratchpad. `abinit` writes a fresh object; `abarv` adds its byte counts, each saturating, arrives unless it says otherwise, completes a phase
with no arrival and no byte due, and gives the phase's number as its token; `abtest` says whether its token's phase has completed, and `abwait` goes on if it has and waits if not.
No byte outside the object changes. A token's phase has completed when its distance is 1 to 32,767. -/
def Obligations.ObjectArrival : Prop :=
  (∀ (d a b : Reg) (s : State) (i : Instr) (iss : Issue) (c : Ctx) (g o : Nat) (far : Bool),
    Lone s i iss c → c.x.path = c.x.live →
    let e := s.env iss c
    let v := (e.srcS b).toNat
    let x := s.abObj iss.q (.scratch g o)
    let at_ (acc : Acc) (need : Need) := (s.begun iss c).objectAt e (e.srcS a) acc need = .ok (.scratch g o, far)
    let apart (t : State) := (∀ k, Sparse.rd t.dram k = Sparse.rd s.dram k) ∧ (∀ k, Sparse.rd t.hostMem k = Sparse.rd s.hostMem k) ∧
      ∀ h k, (h ≠ g ∨ k < o ∨ o + 16 ≤ k) → Sparse.rd ((t.part iss.q).core h).scratch k = Sparse.rd ((s.part iss.q).core h).scratch k
    let gives (t : State) (y : Warp) := (t.part iss.q).warp c.w = some y
    (i = .abinit a b → 1 ≤ v → v ≤ 65535 → at_ .write ⟨false, true, false⟩ →
      ∃ t, exec i s = .next t ∧ t.abObj iss.q (.scratch g o) = ⟨v, v, 0, false, false, 0, 0, 0⟩ ∧ apart t ∧ gives t (c.x.passed iss s.now)) ∧
    (i = .abarv d a b → v < 2 ^ 49 → at_ .rmw ⟨true, true, false⟩ →
      let stays := v / 2 ^ 48 % 2 = 1
      let ann := min (x.bann + v % 2 ^ 24) (2 ^ 32 - 1)
      let rcv := min (x.brcv + v / 2 ^ 24 % 2 ^ 24) (2 ^ 32 - 1)
      let sat := 2 ^ 32 ≤ x.bann + v % 2 ^ 24 ∨ 2 ^ 32 ≤ x.brcv + v / 2 ^ 24 % 2 ^ 24
      let pend := if stays then x.pend else x.pend - 1
      let done := pend = 0 ∧ ann ≤ rcv
      ∃ t y, exec i s = .next t ∧
        t.abObj iss.q (.scratch g o) = ⟨x.exp, if done then x.exp else pend, if done then (x.phase + 1) % 2 ^ 16 else x.phase, x.ovf || decide (¬ stays ∧ x.pend = 0),
          x.xs || decide (sat ∨ (done ∧ ann < rcv)), x.rest, if done then 0 else ann, if done then 0 else rcv⟩ ∧
        apart t ∧ gives t y ∧ y.wait = .none ∧ y.s = (c.x.setS d (BitVec.ofNat 64 x.phase)).s) ∧
    (i = .abtest d a b → v < 2 ^ 16 → at_ .read ⟨true, false, false⟩ →
      ∃ t, exec i s = .next t ∧ t.abObj iss.q (.scratch g o) = x ∧ apart t ∧
        gives t ((c.x.passed iss s.now).setS d (if tokenDone x.phase v = true then 1 else 0))) ∧
    (i = .abwait a b → v < 2 ^ 16 → at_ .read ⟨true, false, false⟩ →
      ∃ t, exec i s = .next t ∧ t.abObj iss.q (.scratch g o) = x ∧ apart t ∧
        gives t (if tokenDone x.phase v = true then c.x.passed iss s.now else { c.x.passed iss s.now with wait := .abwait (.scratch g o) far v }))) ∧
  ∀ phase tok : Nat, phase < 2 ^ 16 → tok < 2 ^ 16 → (tokenDone phase tok = true ↔ 1 ≤ ((phase : Int) - tok) % 2 ^ 16 ∧ ((phase : Int) - tok) % 2 ^ 16 ≤ 32767)

/-- R267-R271, R274, R275: the lock words on a lockable line with no release on its way; a grant on its way to the warp has reached it first (the model's reading, log 21). `ltry` and
`llock` take a free lock for which no present warp waits, with status BROKEN where the line is marked so, and report SELF, FULL, DEADLOCK, QUEUED or BUSY as R267 lists them; an
`llock` that does not get the lock enters the queue, and waits unless it only queues; where another run has reserved the free line (R212) an `llock` enters the queue, the grant due to
come after that run, and `ltry` is BUSY (the model's reading, log 62); `lunlk` gives up a lock that the warp holds, `labnd` a place in the queue, and else they
report; `lqry` reports the line. On a line that is not lockable each reports NOTLOCK, and `lqry` 0. -/
def Obligations.LocksTakenAndReleased : Prop :=
  ∀ (d a b : Reg) (s : State) (iss : Issue) (c : Ctx) (pa : Nat) (f : Option Leaf) (i : Instr),
    Lone s i iss c →
    let e := s.env iss c
    let p := s.part iss.q
    let n := pa / 128
    let me := c.x.uid
    let l0 := p.lock n
    let mine := l0.grant.any (fun g => g.1 == me)
    let l : Lock := if mine then { l0 with grant := none } else l0
    let p1 := if mine then p.setLock l else p
    let queued := ∃ w ∈ l.waiters, w.uid = me
    let free := l.holder = none ∧ l.grant = none ∧ ∀ w ∈ l.waiters, p.present w.uid = false
    let got := if 256 ≤ s.heldAt iss.q n then 5 else if l.broken then 2 else 0
    let taken : Lock := { l with holder := some me, broken := false, waiters := l.waiters.filter (fun w => w.uid != me) }
    let v := (e.srcS b).toNat
    let only := v / 2 ^ 32 % 2 = 1
    let left := if v % 2 ^ 24 = 0 then none else some (s.now + v % 2 ^ 24 * 512)
    let legal := v / 2 ^ 24 % 2 ^ 8 = 0 ∧ v < 2 ^ 33 ∧ ¬ (only ∧ v % 2 ^ 24 ≠ 0)
    let one := ∀ m, p.waitsOn me = some m → m = n
    let gives (t : State) (z : Nat) (k : Lock) := (t.part iss.q).lock n = k ∧
      ∃ y, (t.part iss.q).warp c.w = some y ∧ y.wait = .none ∧ y.s = (c.x.setS d (BitVec.ofNat 64 z)).s
    let waits (t : State) (k : Lock) := (t.part iss.q).lock n = k ∧ (t.part iss.q).warp c.w = some { c.x.passed iss s.now with wait := .llock d n (e.srcS a) (e.srcS b) }
    let held := p.reserved? c.w n = true
    (p.locks.map (fun x => x.line)).Nodup → l.rel = false → s.barred iss.q c.w.core pa = false →
    (∀ l, f = some l → s.barredWalk iss.q c.w.core (BitVec.ofNat 64 l.va) = []) →
    ((s.begun iss c).lockLine e (e.srcS a) = .ok (some (.dev pa), f) →
      (i = .ltry d a → one → ∃ t, exec i s = .next t ∧
        (l.holder = some me → gives t 7 l) ∧
        (free → ¬ held → gives t got (if got = 5 then l else taken)) ∧
        (free → held → gives t (if got = 5 then 5 else 6) l) ∧
        (l.holder ≠ some me → ¬ free → gives t (if ¬ queued ∧ 1024 ≤ s.waitersAt iss.q n then 5 else 6) l)) ∧
      (i = .llock d a b → legal → one → ∃ t, exec i s = .next t ∧
        (l.holder = some me → gives t 7 l) ∧
        (free → ¬ held → gives t got (if got = 5 then l else taken)) ∧
        (free → held → ¬ queued →
          (got = 5 ∨ 1024 ≤ s.waitersAt iss.q n → gives t 5 l) ∧
          (got ≠ 5 → s.waitersAt iss.q n < 1024 →
            let k : Lock := { l with waiters := l.waiters ++ [⟨me, p.stampSeq, decide only, left, 0⟩], rel := true }
            (only → gives t 9 k) ∧ (¬ only → waits t k))) ∧
        (l.holder ≠ some me → ¬ free → queued → (only → gives t 9 l) ∧
          (¬ only → waits t { l with waiters := l.waiters.map (fun w => if w.uid = me then { w with queue := false, left := left } else w) })) ∧
        (l.holder ≠ some me → ¬ free → ¬ queued →
          (p1.probe me 8 n ≠ [] → gives t 3 l) ∧
          (p1.probe me 8 n = [] → 1024 ≤ s.waitersAt iss.q n → gives t 5 l) ∧
          (p1.probe me 8 n = [] → s.waitersAt iss.q n < 1024 →
            let k : Lock := { l with waiters := l.waiters ++ [⟨me, p.stampSeq, decide only, left, 0⟩] }
            (only → gives t 9 k) ∧ (¬ only → waits t k)))) ∧
      (i = .lunlk d a → ∃ t, exec i s = .next t ∧
        gives t (if l.holder = some me then 0 else 8) (if l.holder = some me then { l with holder := none, grant := none, rel := decide (l.waiters ≠ []) } else l)) ∧
      (i = .labnd d a → ∃ t, exec i s = .next t ∧ (l.holder = some me → gives t 7 l) ∧
        (l.holder ≠ some me → queued → gives t 0 { l with waiters := l.waiters.filter (fun w => w.uid != me) }) ∧
        (l.holder ≠ some me → ¬ queued → gives t 8 l)) ∧
      (i = .lqry d a →
        let place := match l.waiters.find? (fun w => w.uid == me) with
          | some w => (l.waiters.filter (fun y => y.uid != me && p1.ahead y w)).length + 1
          | none => 0
        let base := (if l.broken then 4 else 0) + l.waiters.length * 2 ^ 4 + place * 2 ^ 16
        ∃ t, exec i s = .next t ∧ gives t (match l.holder with
          | none => base
          | some h => base + 1 + (if h = me then 2 else 0) + (p1.whereIs h).core * 2 ^ 32 + (p1.whereIs h).slot * 2 ^ 48 + p1.effOf h * 2 ^ 56) l)) ∧
    ((s.begun iss c).lockLine e (e.srcS a) = .ok (none, f) →
      (i = .lunlk d a ∨ i = .labnd d a ∨ (i = .ltry d a ∧ p.waitsOn me = none) ∨ (i = .llock d a b ∧ legal ∧ p.waitsOn me = none) →
        ∃ t, exec i s = .next t ∧ gives t 4 l0) ∧
      (i = .lqry d a → ∃ t, exec i s = .next t ∧ gives t 0 l0))

/-! ### Asynchronous work (R232-R251, R74) -/

/-- R233-R235, R239-R242: a copy word within its limits queues its command on its core, clears its tag's bits and counts in IFC, and nothing else changes; operands outside the
limits abort the run with OPERAND. -/
def Obligations.AsyncCopiesQueue : Prop :=
  ∀ (t : BitVec 6) (a b : Reg),
    let lim (e : Env) := (e.srcS b).toNat % 16 = 0 ∧ 16 ≤ (e.srcS b).toNat ∧ (e.srcS b).toNat ≤ 2 ^ 24 ∧ (e.srcS a).toNat % 16 = 0 ∧ (e.srcS1 a).toNat % 16 = 0
    let pd (e : Env) := (e.srcS b).toNat % 2 ^ 32
    let ps (e : Env) := (e.srcS b).toNat / 2 ^ 32
    let l (e : Env) := (e.srcS1 b).toNat % 2 ^ 32
    let r (e : Env) := (e.srcS1 b).toNat / 2 ^ 32
    let lim2 (e : Env) := l e % 16 = 0 ∧ 16 ≤ l e ∧ l e ≤ 65536 ∧ 1 ≤ r e ∧ r e ≤ 65536 ∧ pd e % 16 = 0 ∧ ps e % 16 = 0 ∧ l e ≤ pd e ∧ l e ≤ ps e ∧
      (e.srcS a).toNat % 16 = 0 ∧ (e.srcS1 a).toNat % 16 = 0
    let v (e : Env) := (e.srcS a).toNat
    let n (e : Env) := (e.srcS b).toNat
    let limB (s : State) (e : Env) := v e / 2 ^ 20 % 2 ^ 12 = 0 ∧ v e < 2 ^ 36 ∧ v e % 2 ^ 20 % 128 = 0 ∧ n e % 128 = 0 ∧ 128 ≤ n e ∧ v e % 2 ^ 20 + n e ≤ 2 ^ 20 ∧
      v e / 2 ^ 32 ≠ 0 ∧ ∀ i, i < 4 → v e / 2 ^ (32 + i) % 2 = 1 → i ∈ (s.part e.q).blockStrips e.c.blk.id
    let src (e : Env) := (e.srcS1 a).toNat
    let cores (e : Env) := (List.range 48).filter (fun k => (e.srcS b).getLsbD k)
    let lines (e : Env) := n e / 2 ^ 48 + 1
    let limM (s : State) (e : Env) := v e % 128 = 0 ∧ src e < 2 ^ 32 ∧ src e % 128 = 0 ∧ n e < 2 ^ 57 ∧ cores e ≠ [] ∧ ∀ k ∈ cores e, (s.gangBlock e k).isSome = true
    Copies (.cpy t a b) t.toNat (fun s e => lim e ∧ s.rangeFail e (e.srcS a) (n e) .write needW = none ∧ s.rangeFail e (e.srcS1 a) (n e) .read needR = none)
      (fun e => .cpy (e.srcS a) (e.srcS1 a) (n e)) ∧
    Faults (.cpy t a b) (fun _ e => ¬ lim e) (fun _ e => e.cond .operand 0 e.iss.detail) ∧
    Copies (.cpy2d t a b) t.toNat (fun s e => lim2 e ∧ s.rangeFail e (e.srcS a) ((r e - 1) * pd e + l e) .write needW = none ∧
        s.rangeFail e (e.srcS1 a) ((r e - 1) * ps e + l e) .read needR = none)
      (fun e => .cpy2d (e.srcS a) (e.srcS1 a) (pd e) (ps e) (l e) (r e)) ∧
    Faults (.cpy2d t a b) (fun _ e => ¬ lim2 e) (fun _ e => e.cond .operand 0 e.iss.detail) ∧
    Copies (.cpybs t a b) t.toNat (fun s e => limB s e ∧ src e % 16 = 0 ∧ s.rangeFail e (e.srcS1 a) (n e) .read needR = none)
      (fun e => .cpybs (v e % 2 ^ 20) (v e / 2 ^ 32) (e.srcS1 a) (n e)) ∧
    Faults (.cpybs t a b) (fun s e => ¬ (limB s e ∧ src e % 16 = 0)) (fun _ e => e.cond .operand 0 e.iss.detail) ∧
    Copies (.bsz t a b) t.toNat limB (fun e => .bsz (v e % 2 ^ 20) (v e / 2 ^ 32) (n e)) ∧
    Faults (.bsz t a b) (fun s e => ¬ limB s e) (fun _ e => e.cond .operand 0 e.iss.detail) ∧
    Copies (.mcrd t a b) t.toNat (fun s e => limM s e ∧ regionOf (e.srcS a) = .global ∧
        ∀ k ∈ cores e, ∀ x, s.gangBlock e k = some x → src e + 128 * lines e ≤ x.scrLen)
      (fun e => .mcrd (e.srcS a) (src e) (n e % 2 ^ 48) (lines e)) ∧
    Faults (.mcrd t a b) (fun s e => ¬ limM s e) (fun _ e => e.cond .operand 0 e.iss.detail)

/-- R247, R248, R250: `mma` is queued as its run's last operation, or with the condition of its checks, and a settled run commits it; bad operands abort the run with OPERAND, and else
a warp below width 32 traps with WIDTH. R70: an activation element is the two's
complement number of its planes' bits. R74: an output element is the fixed tree of FP32 sums, each rounded to nearest even, of the eight blocks' rounded exact values, and a
product writes it, or its sum with the accumulator, to every row of an active lane; R248: the accumulator is D as it stood at the run start. -/
def Obligations.MatrixProducts : Prop :=
  let plus (a b : W32) : W32 := (addOp 0 a b 0).1
  (∀ (z : BitVec 1) (x : BitVec 2) (y : BitVec 1) (d a b : Reg), Commits (.mma z x y d a b) always (fun _ e => e.mmaWord z x y d a b)) ∧
  (∀ (z : BitVec 1) (x : BitVec 2) (y : BitVec 1) (d a b : Reg),
    let na := [8, 6, 4, 2].getD x.toNat 0
    let nb := [8, 4].getD y.toNat 0
    let at_ (e : Env) (r : Reg) := physReg e.c.x.wb r.toNat
    let read (e : Env) := (List.range (8 * na)).map (fun k => at_ e a + k) ++ scaleRegs (scaleAt e.c.x.wb e.iss.pfx a na)
    let legal (e : Env) := (∀ r ∈ read e, r < at_ e d ∨ at_ e d + 64 ≤ r) ∧ (e.srcS b).toNat % 512 = 0 ∧ (e.srcS b).toNat + tileBytes nb ≤ 2 ^ 20 ∧
      ∀ k ∈ e.c.x.strips, (e.core.tuns.rd k).fenced = false ∨ (e.core.tuns.rd (k ^^^ 1)).fenced = false
    Faults (.mma z x y d a b) (fun _ e => ¬ legal e) (fun _ e => e.cond .operand 0 e.iss.detail) ∧
    Traps (.mma z x y d a b) (fun _ e => legal e ∧ e.c.x.width < 32) (fun _ e => e.cond .width (BitVec.ofNat 64 e.c.x.width) 0)) ∧
  (∀ (n : Nat) (plane : Nat → Nat) (j : Nat), 0 < n →
    let bit (p : Nat) : Int := if plane p / 2 ^ j % 2 = 1 then 2 ^ p else 0
    planeElem n plane j = ((List.range (n - 1)).map bit).sum - bit (n - 1)) ∧
  (∀ (x : Product) (row col : List (List Int × Nat)), x.na ∈ [8, 6, 4, 2] → x.nb ∈ [8, 4] → row.length = 8 → col.length = 8 →
    (∀ u ∈ row ++ col, u.1.length = 32) →
    let a (k : Nat) := row.getD k ([], 0)
    let b (k : Nat) := col.getD k ([], 0)
    let sum (k : Nat) : Int := ((List.range 32).map (fun j => (a k).1.getD j 0 * (b k).1.getD j 0)).sum
    ∃ r : Nat → W32,
      (∀ k, k < 8 → ∃ y : Machine.Num, y.Is ((sum k : Rat) * (2 : Rat) ^ ((a k).2 + (b k).2 - 254 - (x.na - 2) - (x.nb - 2) : Int)) ∧
        r k = BitVec.ofNat 32 (fp32.encode 0 y 0).1) ∧
      (element x row col).1 = plus (plus (plus (r 0) (r 1)) (plus (r 2) (r 3))) (plus (plus (r 4) (r 5)) (plus (r 6) (r 7)))) ∧
  ∀ (k : Core) (x : Product) (row n : Nat), row ∈ x.rows → n < 64 →
    let t := (element x (x.row row) (k.column x n)).1
    (row, x.d + n, if x.z then t else plus (x.accum row (x.d + n)) t) ∈ (k.product x).1 ∧
      ∀ k0 : Core, x.acc = k0.accOf x.rows x.d → x.d + 64 ≤ 512 → x.accum row (x.d + n) = k0.reg row (x.d + n)

/-! ### Work (R90-R113, R340-R350) -/

/-- R90-R92, R101, R108-R111, R314, R340-R343, R350: the words that shape warps and their work are queued, or carry the condition of their checks, and a settled run commits them;
in a handler `split`, `fuse`, `exitw` and `refill` abort the run with OPERAND, and so do handles above 63. `launch` writes R90's status, with 0 its grid accepted; `lwait` writes the
counter once it has reached B, and waits until then; `trig` marks the warp, once; `split` waits at its word for engine work, gives each sub-warp its lanes and its index, or writes −10
(records in the spill area are copied first: a read of one that fails aborts the run, R122); `fuse` writes −9 for a width that
is not above W or none (log 25), −8 for a group with a lane of no warp of the block, and waits for the others; `refill` gives the vacant lanes, ascending, the next items; `cinit`
configures its handle, or reports 1 or 2; `coll` waits for the block's other warps, or gives them R343's status, the instance's number rising with 0; `cqry` reports. -/
def Obligations.WorkWordsCommit : Prop :=
  ∀ d a b : Reg,
    let out (e : Env) := e.c.x.trap.inh = false
    let bad : State → Env → Cond := fun _ e => e.cond .operand 0 e.iss.detail
    Commits (.split d a) (fun _ e => out e) (fun _ e => .ofTerm (.split d (e.srcS a))) ∧ Faults (.split d a) (fun _ e => ¬ out e) bad ∧
    Commits (.fuse d a) (fun _ e => out e) (fun _ e => .ofTerm (.fuse d (e.srcS a) false)) ∧ Faults (.fuse d a) (fun _ e => ¬ out e) bad ∧
    Commits (.fuse_r d a) (fun _ e => out e) (fun _ e => .ofTerm (.fuse d (e.srcS a) true)) ∧ Faults (.fuse_r d a) (fun _ e => ¬ out e) bad ∧
    Faults .exitw (fun _ e => ¬ out e) bad ∧
    Commits .refill (fun _ e => out e ∧ e.c.grid.k.refill ≠ 0 ∧ e.c.x.rd = 0) (fun _ _ => .ofTerm .refill) ∧
    Faults .refill (fun _ e => ¬ (out e ∧ e.c.grid.k.refill ≠ 0 ∧ e.c.x.rd = 0)) bad ∧
    (∀ bs ls, Commits (.launch d a b) (fun s e => s.uniRead e (e.srcS a) 64 64 = .ok (bs, ls)) (fun _ e => .ofRead ls (.launch d (e.srcS b) bs))) ∧
    Commits (.lwait d a b) (fun _ e => (e.srcS a).toNat ≤ 4095) (fun _ e => .ofTerm (.lwait d (e.srcS a).toNat (e.srcS b))) ∧
    Faults (.lwait d a b) (fun _ e => 4095 < (e.srcS a).toNat) bad ∧
    Commits .trig always (fun _ _ => .ofTerm .trig) ∧
    Commits (.coll d a b) (fun _ e => (e.srcS a).toNat ≤ 63) (fun s e => s.collWord e d (e.srcS a).toNat (e.srcS a) (e.srcS b, e.srcS1 b)) ∧
    Commits (.cinit d a b) (fun _ e => (e.srcS a).toNat ≤ 63) (fun s e => s.cinitWord e d (e.srcS a).toNat (e.srcS b)) ∧
    Turns (.cqry d a) (fun _ e => (e.srcS a).toNat ≤ 63) (fun s e x =>
      let h := (s.part e.q).handle (e.srcS a).toNat
      x.setS d (BitVec.ofNat 64 ((if h.conf = false then 0 else if e.c.w.core ∈ h.broken then 2 else 1) + (h.flight.filter (fun i => i.gcore == e.c.w.core)).length * 2 ^ 2 +
        AMap.rd 0 h.inst e.c.w.core * 2 ^ 4 + h.epoch * 2 ^ 20 + (match h.rankAt e.c.w.core with | some r => r * 2 ^ 36 | none => 2 ^ 46)))) ∧
    Faults (.coll d a b) (fun _ e => 63 < (e.srcS a).toNat) bad ∧ Faults (.cinit d a b) (fun _ e => 63 < (e.srcS a).toNat) bad ∧
    Faults (.cqry d a) (fun _ e => 63 < (e.srcS a).toNat) bad ∧
    (∀ r : Bool, Turns (if r then .fuse_r d a else .fuse d a) (fun _ e => out e ∧ ((e.srcS a).toNat ∉ [8, 16, 32, 64, 128] ∨ (e.srcS a).toNat ≤ e.c.x.width))
      (fun _ _ x => x.setS d (BitVec.ofInt 64 (-9)))) ∧
    ∀ (s : State) (iss : Issue) (c : Ctx),
      let e := s.env iss c
      let p := s.part iss.q
      let y := c.x.passed iss s.now
      let n := (e.srcS a).toNat
      let v := (e.srcS b).toNat
      let lands (i : Instr) (f : State → Warp → Prop) := ∃ t z, exec i s = .next t ∧ (t.part iss.q).warp c.w = some z ∧ f t z
      let gives (m : Nat) (z : Warp) := z.wait = .none ∧ z.s = (c.x.setS d (BitVec.ofNat 64 m)).s
      (∀ bs ls, Lone s (.launch d a b) iss c → (s.begun iss c).uniRead e (e.srcS a) 64 64 = .ok (bs, ls) → Settled s iss c (.ofRead ls (.launch d (e.srcS b) bs)) → p.dir = [] →
        let u := p.queue v
        let owned := v ≤ 63 ∧ s.owns iss.q v = true ∧ u.en = true ∧ u.dlaunch = true
        (¬ owned → lands (.launch d a b) (fun t z => gives 5 z ∧ (t.part iss.q).grids = p.grids)) ∧
        (owned → 16 ≤ p.active v → lands (.launch d a b) (fun t z => gives 4 z ∧ (t.part iss.q).grids = p.grids)) ∧
        (∀ m, owned → p.active v < 16 → s.checkRecord iss.q u.rcls (some bs) = .error m → lands (.launch d a b) (fun t z => gives m z ∧ (t.part iss.q).grids = p.grids)) ∧
        ∀ l k, owned → p.active v < 16 → s.checkRecord iss.q u.rcls (some bs) = .ok (l, k) → lands (.launch d a b) (fun t z => gives 0 z ∧
          (t.part iss.q).grids.length = p.grids.length + 1 ∧
          ∃ g ∈ (t.part iss.q).grids, g.seq = p.gridSeq ∧ g.queue = v ∧ g.l = l ∧ g.k = k ∧ g.prio = min l.prio u.pmax)) ∧
      (Lone s (.lwait d a b) iss c → n ≤ 4095 →
        (v ≤ (Sparse.rd p.events n).toNat → lands (.lwait d a b) (fun _ z => gives (Sparse.rd p.events n).toNat z)) ∧
        ((Sparse.rd p.events n).toNat < v → Became s (.lwait d a b) iss c { y with wait := .lwait d n (e.srcS b) })) ∧
      (Lone s .trig iss c → (c.x.triggered = true → Became s .trig iss c y) ∧ lands .trig (fun _ z => z.triggered = true ∧ z.s = c.x.s)) ∧
      (Lone s (.split d a) iss c → out e → n ∈ [8, 16, 32, 64] → n < c.x.width →
        (c.x.ifc ≠ 0 → Became s (.split d a) iss c { y with wait := .split d n s.now (iss.addr + BitVec.ofNat 64 iss.len - 4), pc := iss.addr + BitVec.ofNat 64 iss.len - 4 }) ∧
        (c.x.ifc = 0 → p.splitNoCtx c n = true → Became s (.split d a) iss c (y.setS d (BitVec.ofInt 64 (-10)))) ∧
        (∀ f, c.x.ifc = 0 → p.splitNoCtx c n = false → 0 < c.x.spilled → f.cause ≠ .memue →
          let at_ := c.grid.k.spillBase + BitVec.ofNat 64 (wkey c.w * c.grid.k.spill * 16)
          (s.begun iss c).resolve iss.q c.blk at_ 16 ⟨true, false, false⟩ = .error f →
          ∃ t, exec (.split d a) s = .next t ∧ FaultStep s t iss c ⟨iss.len / 4 - 1, f.cause, c.x.path, at_, .read, 0, f.detail⟩) ∧
        (c.x.ifc = 0 → p.splitNoCtx c n = false → c.x.spilled = 0 → ∃ t, exec (.split d a) s = .next t ∧ ∀ i, i < c.x.width / n → ∃ w z, (t.part iss.q).warp w = some z ∧ w.core = c.w.core ∧
          (i = 0 → w = c.w) ∧ z.block = c.x.block ∧ z.base = c.x.base + i * n ∧ z.width = n ∧ z.fileBase = c.x.fileBase ∧ z.n = c.x.n ∧ z.wb = c.x.wb ∧
          z.lanes = (c.x.lanes.drop (i * n)).take n ∧ z.s = (c.x.setS d (BitVec.ofNat 64 i)).s)) ∧
      (∀ r : Bool, let i := if r then Instr.fuse_r d a else .fuse d a
        let low := c.x.base - c.x.base % n
        let mates := (p.warpsOn c.w.core).filter (fun u => u.2.block == c.x.block)
        Lone s i iss c → out e → n ∈ [8, 16, 32, 64, 128] → c.x.width < n → c.x.width ∈ [8, 16, 32, 64] →
        ((∃ j, j < n / 8 ∧ ∀ u ∈ mates, ¬ (u.2.base ≤ low + 8 * j ∧ low + 8 * j < u.2.base + u.2.width)) → Became s i iss c (y.setS d (BitVec.ofInt 64 (-8)))) ∧
        (p.groupFull c.w.core c.x.base n c.x.block = true → (∀ u ∈ mates, ∀ f g h k l, u.2.wait ≠ .fuse f g h k l) →
          Became s i iss c { y with wait := .fuse d n r s.now (iss.addr + BitVec.ofNat 64 iss.len - 4) })) ∧
      (Lone s .refill iss c → out e → c.grid.k.refill ≠ 0 → c.x.rd = 0 → c.x.lanes.length = c.x.width → c.x.width ≤ 128 →
        let next := c.grid.range (cluOf c.w.core)
        let vac (j : Nat) := ((c.x.lanes.take j).filter (fun l => decide (l.st = .vacant))).length
        vac c.x.width ≤ next.size → (∃ l ∈ c.x.lanes, l.st ≠ .drained) →
        lands .refill (fun _ z => z.wait = .none ∧ z.m = fullMask c.x.width ∧ z.lanes.length = c.x.width ∧ ∀ j l, c.x.lanes[j]? = some l → ∃ k, z.lanes[j]? = some k ∧ k.lfsr = l.lfsr ∧
          (∀ b, b < 6 → k.p.getLsbD b = l.p.getLsbD b) ∧ k.p.getLsbD 6 = decide (l.st = .vacant) ∧
          (if l.st = .vacant then k.st = .live ∧ k.iid = BitVec.ofNat 32 (next.lo + vac j) else k.st = l.st ∧ k.iid = l.iid))) ∧
      (∀ desc tbl, Lone s (.cinit d a b) iss c → n ≤ 63 → Settled s iss c ((s.begun iss c).cinitWord e d n (e.srcS b)) →
        (∃ l k, (s.begun iss c).uniRead e (e.srcS b) 64 64 = .ok (desc, l) ∧ (s.begun iss c).uniRead e (descRanks desc).2 (8 * ((descRanks desc).1 + 1)) 8 = .ok (tbl, k)) →
        match Handle.parse (s.nclu iss.q) (fun i => (p.peer i).en) desc tbl with
        | none => lands (.cinit d a b) (fun t z => gives 1 z ∧ (t.part iss.q).handle n = p.handle n)
        | some x => if (p.handle n).flight = [] then lands (.cinit d a b) (fun t z => gives 0 z ∧ (t.part iss.q).handle n = x ∧ x.conf = true ∧ x.inst = [] ∧ x.flight = [])
          else lands (.cinit d a b) (fun t z => gives 2 z ∧ (t.part iss.q).handle n = p.handle n)) ∧
      (Lone s (.coll d a b) iss c → n ≤ 63 → Settled s iss c ((s.begun iss c).collWord e d n (e.srcS a) (e.srcS b, e.srcS1 b)) →
        let h := p.handle n
        let core := c.blk.core
        let st := if h.conf = false then 5 else if h.rankAt core = none then 2 else if core ∈ h.broken then 4 else if 2 ≤ (h.flight.filter (fun i => i.gcore == core)).length then 1 else 0
        let mates := (p.warpsOf c.blk.id).filter (fun u => u.1 != c.w)
        let same (u : Warp) := u.collArgs = some (n, e.srcS a, e.srcS b, e.srcS1 b)
        ((∃ u ∈ mates, u.2.collArgs ≠ none ∧ ¬ same u.2) → lands (.coll d a b) (fun _ z => gives 3 z)) ∧
        ((∀ u ∈ mates, u.2.collArgs = none ∨ same u.2) → (∃ u ∈ mates, u.2.collArgs = none) →
          Became s (.coll d a b) iss c { y with wait := .coll d n (e.srcS a) (e.srcS b, e.srcS1 b) }) ∧
        ((∀ u ∈ mates, same u.2) → lands (.coll d a b) (fun t z => gives st z ∧ z.ifc = (if st = 0 then c.x.ifc + 1 else c.x.ifc) ∧
          AMap.rd 0 ((t.part iss.q).handle n).inst core = (if st = 0 then (AMap.rd 0 h.inst core + 1) % 2 ^ 16 else AMap.rd 0 h.inst core))))

/-- R96, R98, R99, R100, R102, R108: `exitw`, and an `exit` of every live lane in a kernel without a refill point, leave a warp that waits to retire with every lane of the
exit drained and no records; `iqry` reports lanes and supply; `split` to a width that is none, or not below the warp's, writes −9. -/
def Obligations.WarpEnds : Prop :=
  ∀ d a : Reg,
    let ended (x : Warp) (ls : List Lane) : Warp :=
      { x with lanes := ls, stack := [], spilled := 0, levels := [], resuming := false, wait := .retire, trap := { x.trap with inh := false } }
    let count (e : Env) (st : LaneSt) := (e.c.x.lanes.filter (fun l => decide (l.st = st))).length
    Turns .exitw (fun _ e => e.c.x.trap.inh = false) (fun _ e x => ended x (e.c.x.lanes.map (fun l => { l with st := .drained }))) ∧
    Turns .exit (fun _ e => e.c.grid.k.refill = 0 ∧ e.act ≠ 0 ∧ e.c.x.live &&& ~~~e.act = 0)
      (fun _ e x => ended x (e.c.x.lanes.mapIdx (fun j l => if e.act.getLsbD j then { l with st := .drained } else l))) ∧
    Turns (.iqry d) always (fun _ e x => x.setS d (BitVec.ofNat 64 (count e .live + count e .vacant * 2 ^ 8 + count e .drained * 2 ^ 16 +
      (if e.c.grid.exhausted then 2 ^ 24 else 0) + (e.c.grid.range (cluOf e.c.w.core)).size * 2 ^ 32))) ∧
    Turns (.split d a) (fun _ e => e.c.x.trap.inh = false ∧ ((e.srcS a).toNat ∉ [8, 16, 32, 64] ∨ e.c.x.width ≤ (e.srcS a).toNat))
      (fun _ _ x => x.setS d (BitVec.ofInt 64 (-9)))

/-- R104, R105: `racq` beyond the kernel's limit writes 2; with mode 1 it takes free entries, cleared, or writes 1; with mode 0 it takes them where they are free and no other
waiter goes first. `rrel` gives the top blocks back and writes how many are left. Bad operands abort the run with OPERAND. -/
def Obligations.RegisterBlocks : Prop :=
  ∀ d a b : Reg,
    let n (e : Env) := (e.srcS a).toNat
    let cap (e : Env) := min (16 * e.c.grid.k.xregs) 256
    let legal (e : Env) := 1 ≤ n e ∧ n e ≤ 15 ∧ (e.srcS b).toNat ≤ 1
    let free (s : State) (e : Env) := (s.part e.q).racqFree e.c.w e.c.x e.c.x.n (n e) = true
    Turns (.racq d a b) (fun _ e => legal e ∧ cap e < e.c.x.n + 16 * n e) (fun _ _ x => x.setS d 2) ∧
    Turns (.racq d a b) (fun s e => legal e ∧ e.c.x.n + 16 * n e ≤ cap e ∧ ¬ free s e ∧ e.srcS b = 1) (fun _ _ x => x.setS d 1) ∧
    Faults (.racq d a b) (fun _ e => ¬ legal e) (fun _ e => e.cond .operand 0 e.iss.detail) ∧
    (∀ s iss c, Lone s (.racq d a b) iss c →
      let e := s.env iss c
      legal e → c.x.n + 16 * n e ≤ cap e → free s e → (e.srcS b = 1 ∨ (s.part iss.q).racqBehind c.w c.x s.now (n e) = false) →
      ∃ t, exec (.racq d a b) s = .next t ∧
        OnlyWarp s t iss.q c.w ({ c.x.passed iss s.now with n := c.x.n + 16 * n e }.setS d 0) (fun k =>
          if c.x.base ≤ k / 512 ∧ k / 512 < c.x.base + c.x.width ∧ c.x.fileBase + c.x.n ≤ k % 512 ∧ k % 512 < c.x.fileBase + c.x.n + 16 * n e then 0
          else Sparse.rd ((s.part iss.q).core c.w.core).rf k)) ∧
    Turns (.rrel d a) (fun _ e => 1 ≤ n e ∧ 16 * e.c.grid.k.bregs + 16 * n e ≤ e.c.x.n ∧ e.c.x.ifc = 0)
      (fun _ e x => { x with n := e.c.x.n - 16 * n e }.setS d (BitVec.ofNat 64 ((e.c.x.n - 16 * n e) / 16))) ∧
    Faults (.rrel d a) (fun _ e => n e = 0 ∨ e.c.x.n < 16 * e.c.grid.k.bregs + 16 * n e) (fun _ e => e.cond .operand 0 e.iss.detail)

/-! ### Exceptions and the supervisor (R309-R330) -/

/-- R311, R329: `trap` enters the handler after its run, with TEPC at the next word and its operand in TINFO. R309, R311, R317: a user condition that cannot be delivered, shown
on `brx`, is the supervisor's fault HANDLER, whose DETAIL holds the cause and INH. -/
def Obligations.TrapsEnter : Prop :=
  ∀ a b : Reg,
    (∀ s iss c, Lone s (.trap a) iss c → c.deliverable →
      ∃ t, exec (.trap a) s = .next t ∧
        OnlyWarp s t iss.q c.w (c.trapped ⟨0, .trap, c.x.path, 0, .read, (s.env iss c).srcS a, 0⟩ (iss.addr + BitVec.ofNat 64 iss.len) s.now)
          (Sparse.rd ((s.part iss.q).core c.w.core).rf)) ∧
    ∀ tb, Faults (.brx a b) (fun s e => s.table e (e.srcS a) [(e.srcS b).toNat % 2 ^ 32] = .ok tb ∧
        (tb.n ≤ (e.srcS b).toNat % 2 ^ 32 ∨ ∃ v, tb.target ((e.srcS b).toNat % 2 ^ 32) = some v ∧ e.c.grid.k.target v = false) ∧ ¬ e.c.deliverable)
      (fun _ e => { e.condOn .brxrange e.c.x.path (e.srcS a) .fetch (BitVec.ofNat 64 tb.n) 0 with
        cause := .handler, detail := BitVec.ofNat 64 (6 + (if e.c.x.trap.inh then 256 else 0)) })

/-- R4, R72, R136, R234, R253, R312, R328: the three words that write control registers: a level that may not reach the register aborts with PRIV, a value that the register
does not take with OPERAND, and a settled run commits the others; what the warp's own registers then hold. A partition's counter, which a user may only read, keeps its value. -/
def Obligations.ControlRegisterWrites : Prop :=
  ∀ (op : CsrOp) (d : Reg) (n : BitVec 14),
    let may (e : Env) := n.toNat < 0x100 ∨ (e.sup = true ∧ n.toNat < 0x200)
    let new (e : Env) (old : W64) : W64 := match op with | .write => e.srcS d | .set => old ||| e.srcS d | .clear => old &&& ~~~(e.srcS d)
    let drop (e : Env) (old : W64) : W64 := match op with | .clear => old | _ => old &&& ~~~(e.srcS d)
    Commits (csrInstr op d n) (fun s e => may e ∧ s.csrOk e.q n.toNat e.sup op (s.csrRead e n.toNat) (e.srcS d) = true) (fun _ e => .ofTerm (.csr op n.toNat (e.srcS d))) ∧
    Faults (csrInstr op d n) (fun _ e => ¬ may e) (fun _ e => e.cond .priv 0 (BitVec.ofNat 64 (e.iss.word.toNat + n.toNat * 2 ^ 32))) ∧
    Faults (csrInstr op d n) (fun s e => may e ∧ s.csrOk e.q n.toNat e.sup op (s.csrRead e n.toNat) (e.srcS d) = false) (fun _ e => e.cond .operand 0 e.iss.detail) ∧
    Turns (csrInstr op d 0x003) (fun _ e => (new e (e.c.x.fflags.setWidth 64)).toNat < 2 ^ 6)
      (fun _ e x => { x with fflags := (new e (e.c.x.fflags.setWidth 64)).setWidth 6 }) ∧
    Turns (csrInstr op d 0x008) (fun _ e => (new e (e.c.x.lc0.setWidth 64)).toNat < 2 ^ 32) (fun _ e x => { x with lc0 := (new e (e.c.x.lc0.setWidth 64)).setWidth 32 }) ∧
    Turns (csrInstr op d 0x009) (fun _ e => (new e (e.c.x.lc1.setWidth 64)).toNat < 2 ^ 32) (fun _ e x => { x with lc1 := (new e (e.c.x.lc1.setWidth 64)).setWidth 32 }) ∧
    Turns (csrInstr op d 0x00A) (fun _ e => (new e (e.c.x.lc2.setWidth 64)).toNat < 2 ^ 32) (fun _ e x => { x with lc2 := (new e (e.c.x.lc2.setWidth 64)).setWidth 32 }) ∧
    Turns (csrInstr op d 0x010) always (fun _ e x => { x with trdy := drop e e.c.x.trdy }) ∧
    Turns (csrInstr op d 0x011) always (fun _ e x => { x with terr := drop e e.c.x.terr }) ∧
    Turns (csrInstr op d 0x018) always (fun _ e x => { x with trap := { e.c.x.trap with thnd := new e e.c.x.trap.thnd } }) ∧
    Turns (csrInstr op d 0x01C) always (fun _ e x => { x with trap := { e.c.x.trap with epc := new e e.c.x.trap.epc } }) ∧
    Turns (csrInstr op d 0x020) (fun _ e => e.srcS d &&& 0xFFFFFFFFFFFF8008 = 0)
      (fun _ e x => { x with prio := min e.c.grid.prio ((new e (BitVec.ofNat 64 e.c.x.prio)).toNat % 8) }) ∧
    Turns (csrInstr op d n) (fun s e => n.toNat ∈ [0x040, 0x041, 0x042] ∧ e.sup = false ∧ s.csrOk e.q n.toNat e.sup op (s.csrRead e n.toNat) (e.srcS d) = true) (fun _ _ x => x)

/-- R319, R320, R325, R327: the SYSM words are PRIV at user level; at supervisor level bad operands abort the run with OPERAND (that B of 2 or 3 is bad for `tlbi` is the model's
reading, log 33), and a settled run commits the word. `tlbi` takes the translations of A's page, or all, out of every TLB, and the shootdown holds the runs of other warps that have
used one. `bswap` reports that no warp is there (with 1 in mode 2 too: the model's choice, log 67), the image's size, or the issuer's own gang, and else accepts the swap. `bresume` restores an image with a right header, or reports 3;
releases a fault-parked warp with its TEPC restored, or reports 1 or 4; and kills the unit of its target, or reports 1. -/
def Obligations.SupervisorWords : Prop :=
  ∀ d a b : Reg,
    let v (e : Env) := (e.srcS b).toNat
    let target (e : Env) := (targetOf (e.srcS a)).isSome = true
    let swap (e : Env) := target e ∧ v e / 8 % 2 ^ 5 = 0 ∧ v e % 4 ≠ 3
    let back (e : Env) := v e < 2 ^ 14 ∧ v e / 4 % 2 ^ 6 = 0 ∧ v e % 4 ≠ 3 ∧ (v e % 4 = 0 ∨ target e)
    let priv (i : Instr) := Faults i (fun _ e => e.sup = false) (fun _ e => e.cond .priv 0 (BitVec.ofNat 64 e.iss.word.toNat))
    let bad (i : Instr) (ok : Env → Prop) := Faults i (fun _ e => e.sup = true ∧ ¬ ok e) (fun _ e => e.cond .operand 0 e.iss.detail)
    Commits (.tlbi a b) (fun _ e => e.sup = true ∧ v e ≤ 1) (fun _ e => .ofActs [.tlbi (decide (v e = 1)) (e.srcS a)]) ∧
    priv (.tlbi a b) ∧ bad (.tlbi a b) (fun e => v e ≤ 1) ∧
    Turns .tlbsync (fun s e => e.sup = true ∧ ∀ x ∈ (s.part e.q).shoot, x.uid ≠ e.c.x.uid) (fun _ _ x => x) ∧
    priv .tlbsync ∧
    Commits (.bswap d a b) (fun _ e => e.sup = true ∧ swap e) (fun _ e => .ofActs [.bswap d (e.srcS a) (e.srcS b)]) ∧
    priv (.bswap d a b) ∧ bad (.bswap d a b) swap ∧
    Commits (.bresume d a b) (fun _ e => e.sup = true ∧ back e) (fun _ e => .ofActs [.bresume d (e.srcS a) (e.srcS b)]) ∧
    priv (.bresume d a b) ∧ bad (.bresume d a b) back ∧
    ∀ (s : State) (iss : Issue) (c : Ctx),
      let e := s.env iss c
      let p := s.part iss.q
      let y := c.x.passed iss s.now
      let gives (i : Instr) (n : Nat) := Became s i iss c (y.setS d (BitVec.ofNat 64 n))
      let accepts (i : Instr) (f : State → Prop) := ∃ t z, exec i s = .next t ∧ f t ∧ (t.part iss.q).warp c.w = some z ∧ z.s = (c.x.setS d 0).s
      let hit (f : Leaf) := v e = 1 ∨ f.covers (e.srcS a).toNat = true
      let up (n k : Nat) := (n + k - 1) / k * k
      let size (b : Block) (bst : Bool) := up (up (0x400 + b.scrLen) 128 + ((p.byWid b.id).map (fun y => up (0x500 + 12 * y.2.width + 4 * y.2.width * y.2.n) 128)).sum +
        (if bst then 2 ^ 20 * (p.blockStrips b.id).length else 0)) 256
      (Lone s (.tlbi a b) iss c → e.sup = true → v e ≤ 1 →
        ∃ t l, exec (.tlbi a b) s = .next t ∧ (t.part iss.q).warp c.w = some y ∧ (t.part iss.q).shoot = p.shoot ++ [⟨c.x.uid, l⟩] ∧
          (∀ u n, (u, n) ∈ l ↔ ∃ k ∈ p.warps, keyRef k.1 ≠ c.w ∧ k.2.uid = u ∧ ∃ r, k.2.run = some r ∧ r.since = n ∧ ∃ z ∈ r.pieces, ∃ f, z.leaf = some f ∧ hit f) ∧
          (∀ g f, f ∈ ((t.part iss.q).core g).tlb ↔ f ∈ (p.core g).tlb ∧ ¬ hit f) ∧ ∀ g f, f ∈ ((t.part iss.q).clu g).tlb ↔ f ∈ (p.clu g).tlb ∧ ¬ hit f) ∧
      (∀ tg, Lone s (.bswap d a b) iss c → e.sup = true → swap e → targetOf (e.srcS a) = some tg →
        (p.ctx tg = none → gives (.bswap d a b) 1) ∧
        ∀ k, p.ctx tg = some k →
          (v e % 4 = 2 → gives (.bswap d a b) ((p.blocksOf k.gang.id).map (fun b => size b (v e / 4 % 2 == 1))).sum) ∧
          (v e % 4 ≠ 2 → k.gang.id = c.gang.id → gives (.bswap d a b) 3) ∧
          (v e % 4 ≠ 2 → k.gang.id ≠ c.gang.id → accepts (.bswap d a b) (fun t => (t.part iss.q).swaps =
            [⟨k.gang.id, tg, k.grid.handle, false, v e % 4, v e / 4 % 2 == 1, BitVec.ofNat 64 (v e / 256 * 256), s.now, none⟩]))) ∧
      (Lone s (.bresume d a b) iss c → e.sup = true → back e → v e % 4 = 0 →
        (∀ h, s.imageRead iss.q (e.srcS a) 0x400 = .ok h → (leNat (h.take 8) % 2 ^ 48 ≠ 0x53574B42 + 2 ^ 32 + s.gradeNum * 2 ^ 40 → gives (.bresume d a b) 3)) ∧
        ((∀ h, s.imageRead iss.q (e.srcS a) 0x400 = .ok h → leNat (h.take 8) % 2 ^ 48 = 0x53574B42 + 2 ^ 32 + s.gradeNum * 2 ^ 40) →
          accepts (.bresume d a b) (fun t => ∃ x, (t.part iss.q).restores = p.restores ++ [x] ∧ x.area = e.srcS a ∧ x.order = p.restoreSeq ∧
            x.clu = (if v e / 2 ^ 13 = 1 then none else some (v e / 2 ^ 8 % 2 ^ 5))))) ∧
      ∀ tg, Lone s (.bresume d a b) iss c → e.sup = true → back e → targetOf (e.srcS a) = some tg → v e % 4 ≠ 0 →
        (p.warp tg = none → gives (.bresume d a b) 1) ∧
        (∀ x, v e % 4 = 1 → p.warp tg = some x → (∀ a b c d, x.wait ≠ .fault a b c d) → gives (.bresume d a b) 4) ∧
        (∀ x epc n z k, v e % 4 = 1 → p.warp tg = some x → x.wait = .fault epc n z k → p.faultPosted tg = true → x.path ≠ 0 → wkey tg ≠ wkey c.w →
          accepts (.bresume d a b) (fun t => (t.part iss.q).warp tg = some { x with wait := .none, trap := { x.trap with epc := epc } })) ∧
        ∀ k, v e % 4 = 2 → p.ctx tg = some k → accepts (.bresume d a b) (fun t => (t.part iss.q).swaps = [⟨k.gang.id, tg, k.grid.handle, true, 0, false, 0, s.now, none⟩])

/-! ### Steps of the device (95_what_each_step_holds.md) -/

/-- Every step of the device that has no instruction word, with its operands, answers a next state, and so does every step of the machine. -/
def Obligations.EveryStepAnswers : Prop := (∀ s q e, ∃ t, Happens s q e t) ∧ ∀ s, ∃ t, step s = .next t

/-- R76, R78, R80, R108, R113, R253, R259, R270, R271: a write to an event counter, and the dependences that hold from then on; the start of a grid; the ends of a sleep, of a wait
for a lock and of a `split`'s wait for its engine work; what a warp inherits: the highest priority of the present waiters of the locks it holds, along a chain of up to 8 hops, and the
highest of the present warps that wait at a barrier, or at a `coll` (R343), where it has not arrived. -/
def Obligations.CountersAndWaits : Prop :=
  ∀ (s : State) (q : Nat),
    let p := s.part q
    let with_ (p : Part) : State := { s with ev := none }.setPart q p
    (∀ n v, n < 4096 → (s.dies.rd q).recovery = false → ∃ t, Happens s q (.event_counter_write n v) t ∧
      (∀ m, Sparse.rd (t.part q).events m = if m = n then v else Sparse.rd p.events m) ∧
      (t.part q).grids = p.grids.map (fun g =>
        { g with held := (g.l.deps.zip g.held).map (fun d => d.2 || decide (d.1.2 ≤ (Sparse.rd (t.part q).events d.1.1).toNat)) })) ∧
    (∀ g x, p.grid? g = some x → x.started = false → (∀ b ∈ x.held, b = true) → (∀ y ∈ p.grids, y.queue = x.queue → y.seq < x.seq → y.started = true) →
      Happens s q (.grid_start g) (with_ (p.modGrid g (fun x => { x with started := true })))) ∧
    ∀ w x, p.warp w = some x → x.stopped = none →
      (∀ u, x.wait = .sleep u → u ≤ s.now → Happens s q (.sleep_expiry w) (with_ (p.setWarp w { x with wait := .none }))) ∧
      (∀ d n a b, x.wait = .llock d n a b → p.waitsOn x.uid = some n → (∃ y ∈ (p.lock n).waiters, y.uid = x.uid ∧ ∃ u, y.left = some u ∧ u ≤ s.now) →
        ∃ t, Happens s q (.lock_timeout w) t ∧ (t.part q).warp w = some { x.setS d 1 with wait := .none } ∧
          (t.part q).lock n = { p.lock n with waiters := (p.lock n).waiters.filter (fun y => y.uid != x.uid) }) ∧
      (∀ c d n u a, p.ctx w = some c → x.wait = .split d n u a → u + 8192 ≤ s.now → x.ifc ≠ 0 → x.path ≠ 0 → (∀ l ∈ x.levels.head?, l.stop ≠ a) → p.swaps = [] →
        Happens s q (.split_timeout w) (with_ (p.setWarp w { x.setS d (BitVec.ofInt 64 (-4)) with wait := .none, pc := a + 4 }))) ∧
      ∃ i j, Happens s q (.inherit_hop w) (with_ (p.setWarp w { x with linh := i, binh := j })) ∧
        (∀ m, i ≤ m ↔ ∀ u y z, p.Chain 8 x.uid u → p.byUid u = some (y, z) → z.prio ≤ m ∧ z.binh ≤ m) ∧
        ∀ b, p.block? x.block = some b →
          let raises (u : WRef) (y : Warp) := u ≠ w ∧ y.stopped = none ∧
            ((∃ k n, y.wait = .nbar k n ∧ y.block = x.block ∧ x.arrivals k = 0) ∨ (∃ n, y.wait = .gbar n ∧ x.arrivals 16 = 0) ∨
              ((∃ d h a b, y.wait = .coll d h a b) ∧ y.block = x.block ∧ ∀ d h a b, x.wait ≠ .coll d h a b))
          ∀ m, j ≤ m ↔ ∀ u ∈ p.warpsOfGang b.gang, raises u.1 u.2 → u.2.eff ≤ m

/-- R318, R319: the oldest waiting fault record is written to the ring's slot at TAIL where there is room: 64 bytes and no other; TAIL and the number of records rise by one; with
EVEN set the event counter rises by one and sticks at its largest value; with IE set a TAIL that differs from HEAD raises the interrupt. FULL falls as the last record leaves (a
reading of the model's, log 49), and stays only where it stood or the ring is now full. (No product in error waits for a place in the posting buffer, and the record does not stand for
a swap, a kill or a restoration that has not taken place.) -/
def Obligations.FaultRecordsPost : Prop :=
  ∀ (s : State) (q : Nat) (r : FaultRec) (rest : List FaultRec),
    let p := s.part q
    let size := 2 ^ (p.csr.fqbase.toNat / 2 % 32)
    let slot := p.csr.fqtail.toNat % size
    let at_ := p.csr.fqbase.toNat / 4096 * 4096 + 64 * slot
    let bytes := r.bytes (s.now - p.t0) p.seq
    let tail := (p.csr.fqtail.toNat + 1) % 2 ^ 32
    let filled := size ≤ (tail + 2 ^ 32 - p.csr.fqhead.toNat % 2 ^ 32) % 2 ^ 32
    let ev := p.csr.fqstat.toNat / 8 % 2 ^ 12
    p.posts = r :: rest → p.csr.ringRoom = true → (∀ x ∈ p.swaps, x.record ≠ some p.headRec) → (∀ x ∈ p.restores, x.record ≠ some p.headRec) → p.dir = [] → (∀ g i, ((p.core g).tuns.rd i).failed = []) →
    ∃ t, Happens s q .record_post t ∧ bytes.length = 64 ∧
      Wrote s t q ((List.range 64).map (fun j => (.dev (at_ + j), bytes.getD j 0))) ∧
      (t.part q).posts = rest ∧ (t.part q).seq = p.seq + 1 ∧ (t.part q).csr.fqtail.toNat = tail ∧
      (t.part q).csr.fqstat.getLsbD 0 = decide (rest ≠ [] ∧ (p.csr.fqstat.getLsbD 0 = true ∨ filled)) ∧
      (∀ j, 0 < j → j < 64 → (t.part q).csr.fqstat.getLsbD j = p.csr.fqstat.getLsbD j) ∧
      (∀ m, (Sparse.rd (t.part q).events m).toNat =
        if p.csr.fqstat.getLsbD 2 = true ∧ m = ev then min (2 ^ 64 - 1) ((Sparse.rd p.events m).toNat + 1) else (Sparse.rd p.events m).toNat) ∧
      t.outbox = s.outbox ++ (if p.csr.fqstat.getLsbD 1 = true ∧ tail ≠ p.csr.fqhead.toNat % 2 ^ 32 then [.faultIrq q] else [])

/-- R8, R78, R352, R353, R366, R367, R368, R371, R372, R374: what the host reads and writes through its windows, while the partition's first die is not in recovery; the thermal stop and its
end; the clock share; a device reset; a firmware stage that verifies, which extends the measurement by SHAKE256, and one that does not; a cluster's RDY bit. Three points are the
model's: a device reset keeps device memory (log 46); a cluster's RDY bit needs a stage that has run, and a die of seven physical clusters, each of 52 cores of which 48 must work,
serves as many device cluster numbers, from its first on, as it has clusters in working order (log 47); and the list of thermal stops (log 48). -/
def Obligations.HostAndService : Prop :=
  ∀ (s : State) (q : Nat),
    let z : State := { s with ev := none }
    let p := s.part q
    ((s.dies.rd q).recovery = false →
      (∀ pa bs, bs ≠ [] → s.paOk q (pa + bs.length - 1) = true → p.dir = [] →
        ∃ t, Happens s q (.host_write pa bs) t ∧ Wrote s t q ((List.range bs.length).map (fun j => (.dev (pa + j), bs.getD j 0)))) ∧
      (∀ pa n, 0 < n → s.paOk q (pa + n - 1) = true →
        Happens s q (.host_read (.mem pa n)) { z with outbox := s.outbox ++ [.data q ((List.range n).map (fun j => s.rdHome q (pa + j)))] }) ∧
      (∀ x ∈ [(0x021, p.csr.rsbase), (0x040, p.csr.racedrop), (0x041, p.csr.locmiss), (0x042, p.csr.pkfall), (0x100, p.csr.fqbase), (0x101, p.csr.fqhead),
          (0x102, p.csr.fqtail), (0x103, p.csr.fqstat), (0x104, p.csr.sqmask), (0x105, p.csr.fltto), (0x160, p.csr.ptbase), (0x161, p.csr.ccquota), (0x162, p.csr.pkquota)],
        Happens s q (.host_read (.reg (.csr x.1))) { z with outbox := s.outbox ++ [.data q ((List.range 8).map (fun j => BitVec.ofNat 8 (x.2.toNat / 2 ^ (8 * j))))] }) ∧
      (∀ n, (n < 0x021 ∨ (0x042 < n ∧ n < 0x100) ∨ 0x162 < n) →
        Happens s q (.host_read (.reg (.csr n))) { z with outbox := s.outbox ++ [.data q (List.replicate 8 0)] }) ∧
      (∀ n, n < 4096 → Happens s q (.host_read (.event n)) { z with
        outbox := s.outbox ++ [.data q ((List.range 8).map (fun j => BitVec.ofNat 8 ((Sparse.rd p.events n).toNat / 2 ^ (8 * j))))] }) ∧
      let rdy := s.rdyHbm.toNat + s.rdyClu.toNat * 2 ^ 8 + s.rdyPort.toNat * 2 ^ 32 + s.rdyPart.toNat * 2 ^ 40 + s.gradeNum * 2 ^ 48
      rdy < 2 ^ 64 → Happens s q (.host_read .rdy) { z with outbox := s.outbox ++ [.data q ((List.range 8).map (fun j => BitVec.ofNat 8 (rdy / 2 ^ (8 * j))))] }) ∧
    ((s.dies.rd q).recovery = true → (∀ pa bs, Happens s q (.host_write pa bs) z) ∧ ∀ x, Happens s q (.host_read x) z) ∧
    Happens s q .thermal_stop { z with stopped := true, thermal := s.thermal ++ [s.now] } ∧
    Happens s q .thermal_resume { z with stopped := false } ∧
    (∀ n, 1 ≤ n → n ≤ 100 → Happens s q (.power_throttle n) { z with clkPct := n }) ∧
    (∃ t, Happens s q .device_reset t ∧ t.dram = s.dram ∧ t.hostMem = s.hostMem ∧ t.rdyHbm = 0 ∧ t.rdyClu = 0 ∧ t.rdyPort = 0 ∧ t.rdyPart = 0 ∧
      (∀ k, k < 4 → t.part k = { Part.reset with t0 := s.now } ∧ t.reg k = QRegs.reset k ∧ (t.dies.rd k).m = List.replicate 64 0)) ∧
    (∀ d im, d < 4 → (s.dies.rd d).recovery = false → (s.dies.rd d).up = false →
      ∃ t, Happens s q (.boot_stage d im) t ∧
        if Config.verifies im.bytes im.signature = true ∧ Config.minVersion d ≤ im.version then
          (t.dies.rd d).m = shake256 ((s.dies.rd d).m ++ shake256 im.bytes) ∧ (t.dies.rd d).recovery = false
        else (t.dies.rd d).recovery = true ∧ (t.dies.rd d).m = (s.dies.rd d).m ∧ t.rdyPart.getLsbD d = false) ∧
    ∀ c, c < 4 * s.cpd →
      let d := c / s.cpd
      let works (k : Nat) : Bool := decide (.cluster k ∉ s.harvested) && decide (48 ≤ ((List.range 52).filter (fun j => decide (.core k j ∉ s.harvested))).length)
      let enabled := ((List.range 7).filter (fun k => works (7 * d + k))).length
      (c % s.cpd < enabled → (s.dies.rd d).recovery = false → 0 < (s.dies.rd d).stages →
        ∃ t, Happens s q (.unit_ready (.cluster c)) t ∧ ∀ k, t.rdyClu.getLsbD k = (s.rdyClu.getLsbD k || decide (k = c))) ∧
      (enabled ≤ c % s.cpd → Happens s q (.unit_ready (.cluster c)) z)

/-- R35, R75-R77, R86-R88, R189, R366: a parked run of register effects commits once its tags are ready; writes to QTAIL, CTRL and QLOG, which BAR0 takes while the partition's
first die is not in recovery (that this die decides is the model's reading, log 47); a record that cannot be read halts its queue with ERR 6, one that passes R77's checks becomes a grid of the queue; the first of several waiting requests
of the run that has waited longest at its core in its class is injected where both buckets hold its charge, with its reply as debt and the credit of a request that its home slice serves (which requests those are is the model's free value,
log 34); the end of a carve-out interval. -/
def Obligations.QueuesAndCommits : Prop :=
  ∀ (s : State) (q : Nat),
    let p := s.part q
    let z : State := { s with ev := none }
    let with_ (p : Part) : State := z.setPart q p
    (∀ w c r, Parks s q w c r → (∀ a ∈ r.acts, a.isReg = true) → (∀ k ∈ r.waits, ∃ m, k = .twall m ∧ c.x.trdy &&& m = m) →
      ∃ t, Happens s q (.commit w) t ∧ (t.part q).warp w = some (r.acts.foldl Warp.took { c.x with run := none, pc := r.next, refillRun := false }) ∧
        (∀ k, Sparse.rd ((t.part q).core w.core).rf k = r.acts.foldl (Act.file k) (Sparse.rd (p.core w.core).rf k)) ∧
        ∀ v g b l, t.rdLoc v g b l = s.rdLoc v g b l) ∧
    (∀ i view, s.rdyPart.getLsbD q = true → s.owns q i = true → i < 64 → (view = .bar0 → (s.dies.rd q).recovery = false) →
      let u := p.queue i
      (∀ v, Happens s q (.qtail i v view) (with_ (p.setQueue i (if (u.qtail - u.qhead).toNat ≤ (v - u.qhead).toNat ∧ (v - u.qhead).toNat ≤ 2 ^ u.qlog then { u with qtail := v }
        else { u with halt := true, err := 7, hidx := u.qhead })))) ∧
      (u.halt = true →
        Happens s q (.resume i view) (with_ (p.setQueue i { u with halt := false, err := 0 })) ∧
        Happens s q (.skip i view) (with_ (p.setQueue i { u with halt := false, err := 0, qhead := if u.err = 7 then u.qhead else u.qhead + 1 }))) ∧
      ∀ n, u.en = false → u.qlog < 32 → n ≠ u.qlog → 4 ≤ n → n ≤ 16 →
        Happens s q (.register_write (.queue i 0x08) (BitVec.ofNat 64 n) view) (with_ (p.setQueue i { u with qlog := n }))) ∧
    (∀ i v, (s.dies.rd q).recovery = true → Happens s q (.qtail i v .bar0) z ∧ Happens s q (.resume i .bar0) z ∧ Happens s q (.skip i .bar0) z) ∧
    (∀ i, s.owns q i = true → (p.queue i).en = true → (p.queue i).halt = false → (p.queue i).qhead ≠ (p.queue i).qtail → (p.grids.filter (fun g => g.queue == i)).length < 16 →
      let u := p.queue i
      let va := u.qbase + BitVec.ofNat 64 (64 * (u.qhead.toNat % 2 ^ u.qlog))
      (s.devRead q va 64 = none → Happens s q (.record_accept i) (with_ (p.setQueue i { u with halt := true, err := 6, hidx := u.qhead }))) ∧
      ∀ l k, s.checkRecord q u.rcls (s.devRead q va 64) = .ok (l, k) → ∃ t, Happens s q (.record_accept i) t ∧ (t.part q).queue i = { u with qhead := u.qhead + 1 } ∧
        (t.part q).grids.map (fun g => (g.seq, g.queue, g.prio)) = p.grids.map (fun g => (g.seq, g.queue, g.prio)) ++ [(p.gridSeq, i, min l.prio u.pmax)] ∧
        ∀ x, (∀ y ∈ p.grids, y.seq < p.gridSeq) → (t.part q).grid? p.gridSeq = some x →
          x.l = l ∧ x.k = k ∧ (x.started = true ↔ l.deps = [] ∧ ∀ y ∈ p.grids, y.queue = i → y.started = true)) ∧
    (∀ w c r h f y x l, p.ctx w = some c → c.x.run = some r → r.closed = true → r.waits = [.inject ((h, f, y) :: x :: l)] →
      let cls := p.blockCls c.blk
      let b := p.bucket w.core cls s.now
      let dh := depth (p.csr.rate cls).1 (p.clsCores cls)
      let df := depth (p.csr.rate cls).2.1 (p.clsCores cls)
      let fab := b.fab - (7 * f : Nat)
      p.reserves cls = true → (∀ y ∈ p.injectQueue w.core cls, r.since ≤ y.2.since) → 7 * (h : Int) ≤ b.hbm → 7 * (f : Int) ≤ b.fab →
      ∃ t, Happens s q (.reserved_inject w) t ∧ (t.part q).warp w = some { c.x with run := some { r with waits := [.inject (x :: l)] } } ∧
        (t.part q).bucket w.core cls s.now = ⟨cls, if Config.homeHit s.tick (l.length + 1) = true then b.hbm else b.hbm - (7 * h : Nat),
          if fab - (7 * y : Nat) < -4 * df then fab else fab - (7 * y : Nat), s.now⟩ ∧ b.hbm ≤ dh ∧ b.fab ≤ df) ∧
    ((p.carved + 1) * 131072 ≤ s.now - p.t0 → onceEach p.cores → ∃ t, Happens s q .carveout_interval t ∧ (t.part q).carved = p.carved + 1 ∧
      ∀ g, ((t.part q).core g).g = 0 ∧ ((t.part q).core g).sc = 0 ∧
        ((∀ b ∈ p.blocks, b.core ≠ g) → ((t.part q).core g).bnd = (p.core g).bnd) ∧
        ∀ b x, p.blocks.filter (fun b => b.core == g) = [b] → p.grid? b.grid = some x → 64 ≤ (p.core g).g →
          (let top := if b.scrLen = 0 then 0 else (b.scrOff + b.scrLen + 16383) / 16384;
          max x.k.cvlo top + 1 ≤ (p.core g).bnd → ((t.part q).core g).bnd = (p.core g).bnd - 1))

/-- R25, R81-R83, R85, R95, R98, R255, R358: a pass that places the one gang of the only grid; the reservation for the head gang; a donation; the retirement of a warp at its
barriers, and of a block; the completion of a grid, with its counters and its interrupt. -/
def Obligations.PlacingAndRetiring : Prop :=
  ∀ (s : State) (q : Nat),
    let p := s.part q
    (∀ g r, p.grids = [g] → g.started = true → g.pooled = true → 0 < g.l.items → g.l.items ≤ g.gangLanes → s.restoreFloor q = none → s.gangRun q g = some r →
      ∃ t, Happens s q .placement_pass t ∧
        (t.part q).gangs.map (fun x => (x.id, x.grid, x.cores)) = p.gangs.map (fun x => (x.id, x.grid, x.cores)) ++ [(p.gangSeq, g.seq, r)] ∧
        (t.part q).blocks.map (fun b => (b.grid, b.gang, b.bid, b.core)) = p.blocks.map (fun b => (b.grid, b.gang, b.bid, b.core)) ++
          (List.range r.length).map (fun j => (g.seq, p.gangSeq, g.gangs * r.length + j, r.getD j 0))) ∧
    (∀ g x u r, p.headGang = some (g, u) → p.grid? g = some x → u + 4096 ≤ s.now → p.reserved = [] → s.headRun q x = some r →
      Happens s q .head_gang_reserve ({ s with ev := none }.setPart q { p with reserved := r })) ∧
    (∀ g x k r, p.grid? g = some x → x.l.nosteal = false → (x.range k).size = 0 → r ∈ x.ranges → r.clu ≠ k → 2 ≤ r.size →
      (∀ y ∈ x.ranges, y.clu ≠ k → y = r ∨ y.size < r.size ∨ (y.size = r.size ∧ r.clu < y.clu)) →
      ∃ t y, Happens s q (.donation g k) t ∧ (t.part q).grid? g = some y ∧ y.range r.clu = ⟨r.clu, r.lo, r.hi - r.size / 2⟩ ∧ y.range k = ⟨k, r.hi - r.size / 2, r.hi⟩ ∧
        ∀ j, j ≠ k → j ≠ r.clu → y.range j = x.range j) ∧
    (∀ w c, p.ctx w = some c → c.x.wait = .retire → c.x.ifc = 0 → c.blk.bars.length = 16 → onceEach p.warps →
      ∃ t b, Happens s q (.warp_retire w) t ∧ (t.part q).warp w = none ∧ (t.part q).block? c.blk.id = some b ∧
        ∀ i, i < 16 →
          let r := c.blk.bars.getD i ⟨0, 0, 0⟩
          let y : Bar := ⟨r.n, r.a - c.x.arrivals i, r.r + 1⟩
          b.bars.getD i ⟨0, 0, 0⟩ = if 1 ≤ y.a ∧ y.n ≤ y.a + y.r then { y with a := 0 } else y) ∧
    (∀ g bid b, p.blockAt g bid = some b → p.warpsOf b.id = [] → p.mcrdTo b = false →
      ∃ t, Happens s q (.block_retire g bid) t ∧ (t.part q).blocks = p.blocks.filter (fun x => x.id != b.id) ∧
        (t.part q).gangs = if ∃ x ∈ p.blocks, x.id ≠ b.id ∧ x.gang = b.gang then p.gangs else p.gangs.filter (fun x => x.id != b.gang)) ∧
    ∀ x, p.grid? x.seq = some x → x.started = true → x.exhausted = true → (∀ b ∈ p.blocks, b.grid ≠ x.seq) → (∀ a ∈ p.away, a.grid ≠ x.seq) →
      ∃ t, Happens s q (.grid_complete x.seq) t ∧ (t.part q).grids.map (fun g => g.seq) = (p.grids.map (fun g => g.seq)).filter (fun n => n != x.seq) ∧
        t.outbox = s.outbox ++ (if x.l.irq then [.irq q x.queue] else []) ∧
        ∀ e, (Sparse.rd (t.part q).events e).toNat = min (2 ^ 64 - 1) ((Sparse.rd p.events e).toNat +
          (if x.triggered = false ∧ x.l.tev = some e then 1 else 0) + (if x.l.cev = some e then 1 else 0))

/-- R196, R197, R233-R236, R248-R251: a parked store is performed at home; one unit of a copy; the completion of a command sets its tag's TRDY bit, clears its TERR bit and counts
IFC down, and an open run of its warp notes the tag; a product reads its registers as it starts, and lands where its check passes. (That it takes its tile whole, as the B-store
holds it when it lands, is the model's choice, log 57: R237 leaves old or new words open. A command of which a router drops a packet never ends, log 61.) -/
def Obligations.EnginesWork : Prop :=
  ∀ (s : State) (q : Nat),
    let p := s.part q
    (∀ y l, p.placeQ = y :: l → (∀ b ∈ y.bytes, b.1 < 128) → s.paOk q (y.line * 128 + 127) = true →
      (∀ d ∈ p.dir, d.data.length ≤ 128 ∧ s.paOk q (d.line * 128 + 127) = true) → ∃ t, Happens s q .parked_placement t ∧ (t.part q).placeQ = l ∧
      ∀ j, j < 128 → t.rdHome q (y.line * 128 + j) = y.bytes.foldl (fun v b => if b.1 = j then b.2 else v) (s.rdHome q (y.line * 128 + j))) ∧
    (∀ k cmd u b dst src n bs l leaf, (p.clu k).active = [cmd] → cmd.left = [u] → cmd.fail = none → cmd.lost = false → p.nextCore k = none → p.block? cmd.block = some b → cmd.kind = .cpy dst src n →
      let z := chunk dst.toNat n u
      s.engRead q b false (linePieces (src + BitVec.ofNat 64 z.1) z.2) = .ok bs → s.resolve q b (dst + BitVec.ofNat 64 z.1) bs.length ⟨false, true, false⟩ = .ok (l, leaf) →
      s.unitDropped q cmd u = ([], []) → s.anyBad q = false → p.dir = [] →
      ∃ t, Happens s q (.copy_unit k) t ∧ Wrote s t q ((List.range bs.length).map (fun j => (l.add j, bs.getD j 0))) ∧
        ((t.part q).clu k).active = [{ cmd with left := [] }]) ∧
    (∀ k cmd c, (p.clu k).active = [cmd] → cmd.fail = none → cmd.lost = false → cmd.left = [] → (∀ a o m n, cmd.kind ≠ .mcrd a o m n) → p.ctx cmd.w = some c → c.x.wait = .none → p.noRegroup →
      ∃ t, Happens s q (.copy_completion k) t ∧ ((t.part q).clu k).active = [] ∧
        (t.part q).warp cmd.w = some { c.x with
          trdy := c.x.trdy ||| BitVec.ofNat 64 (2 ^ cmd.tag)
          terr := c.x.terr &&& ~~~(BitVec.ofNat 64 (2 ^ cmd.tag))
          ifc := c.x.ifc - 1
          run := c.x.run.map (fun r => { r with done := r.done ||| BitVec.ofNat 64 (2 ^ cmd.tag) }) }) ∧
    ∀ g j x l,
      let k := p.core g
      let u := k.tuns.rd j
      u.queue = x :: l →
      (u.landing = none → x.ops = [] →
        ∃ t y, Happens s q (.product_start g j) t ∧ ((t.part q).core g).tuns.rd j = { u with queue := y :: l, landing := some (s.now + 64 * x.na) } ∧ { y with ops := [] } = x ∧
          ∀ r e, r < 32 → (x.a ≤ e ∧ e < x.a + 8 * x.na) ∨ e ∈ scaleRegs x.sc → y.op (32 * x.strip + r) e = k.reg (32 * x.strip + r) e) ∧
      ∀ at_, u.landing = some at_ → at_ ≤ s.now → x.rows.Nodup → x.d + 64 ≤ 512 → p.noRegroup →
        ∃ t, Happens s q (.product_land g j .pass) t ∧ ((t.part q).core g).tuns.rd j = { u with queue := l, landing := none } ∧
          (∀ r n, r ∈ x.rows → n < 64 → ((t.part q).core g).reg r (x.d + n) =
            if x.z then (element x (x.row r) (k.column x n)).1 else (addF32 (x.accum r (x.d + n)) (element x (x.row r) (k.column x n)).1).1) ∧
          (∀ a, (∀ r ∈ x.rows, ∀ n, n < 64 → a ≠ r * 512 + (x.d + n)) → Sparse.rd ((t.part q).core g).rf a = Sparse.rd k.rf a) ∧
          ∀ y, p.warp x.w = some y → ∃ v, (t.part q).warp x.w = some v ∧ v.trdy = y.trdy ||| BitVec.ofNat 64 (2 ^ (60 + x.strip))

/-- R104, R110, R212, R265, R269, R271, R272, R317, R319, R321, R325, R327: a release goes to the first present waiter, also where the home slice holds 256 other locks (the model's
choice, log 62), unless another run's reservation or a parked store on its way to the line keeps it from it, with status BROKEN where the mark stands, or frees the lock, and a grant ends the `llock`; `racq` and `fuse` whose time is over; a forced safepoint; what a swap, a restoration, a kill, a
shootdown and an aged fault leave. (A fault ages from the moment at which its record enters the posting buffer, a reading of the model's, log 49. A unit's image itself is not
stated here.) -/
def Obligations.LocksAndSwaps : Prop :=
  ∀ (s : State) (q : Nat),
    let p := s.part q
    (∀ l, p.locks.filter (fun y => y.rel) = [l] → p.lock l.line = l →
      ((∀ v ∈ l.waiters, p.present v.uid = false) →
        ∃ t, Happens s q .lock_release_arrive t ∧ (t.part q).lock l.line = { l with rel := false }) ∧
      ∀ w ∈ l.waiters, p.present w.uid = true →
        (∀ v ∈ l.waiters, v = w ∨ p.present v.uid = false ∨ v.back < w.back ∨
          (w.back = v.back ∧ (p.effOf v.uid < p.effOf w.uid ∨ (p.effOf w.uid = p.effOf v.uid ∧ w.stamp < v.stamp)))) →
        (p.reserved? (p.whereIs w.uid) l.line = true ∨ (∃ x ∈ p.placeQ, x.line = l.line) → Happens s q .lock_release_arrive { s with ev := none }) ∧
        (p.reserved? (p.whereIs w.uid) l.line = false → (∀ x ∈ p.placeQ, x.line ≠ l.line) →
          ∃ t, Happens s q .lock_release_arrive t ∧ (t.part q).lock l.line =
            { l with holder := some w.uid, rel := false, broken := false, grant := some (w.uid, if l.broken then 2 else 0),
                     waiters := l.waiters.filter (fun v => v.uid != w.uid) })) ∧
    (∀ l u st w x d a b, p.locks.filter (fun y => y.grant.isSome) = [l] → p.lock l.line = l → l.grant = some (u, st) → p.byUid u = some (w, x) →
      x.wait = .llock d l.line a b →
      ∃ t, Happens s q .lock_grant t ∧ (t.part q).lock l.line = { l with grant := none } ∧
        (t.part q).warp w = some { x.setS d (BitVec.ofNat 64 st) with wait := .none }) ∧
    (∀ w c r d n, Parks s q w c r → r.acts = [.racq d n false] → r.waits = [] → r.since + 131072 ≤ s.now → c.x.n + 16 * n ≤ min (16 * c.grid.k.xregs) 256 →
      p.racqFree w c.x c.x.n n = false →
      ∃ t, Happens s q (.racq_timeout w) t ∧ (t.part q).warp w = some ({ c.x with run := none, pc := r.next, refillRun := false }.setS d 1)) ∧
    (∀ w x d v b u a, p.warp w = some x → x.wait = .fuse d v b u a → x.stopped = none → u + 8192 ≤ s.now → onceEach p.warps →
      let group := p.constituents w.core x.base v x.block
      let all := (∀ y ∈ group, ∃ d v b u a, y.2.wait = .fuse d v b u a) ∧ fuseCovers group x.base v = true
      (w, x) ∈ group →
      ∃ t z, Happens s q (.fuse_timeout w) t ∧ (t.part q).warp w = some { x.setS d (BitVec.ofInt 64 z) with wait := .none } ∧ (all → z = -4) ∧ (¬ all → z = -7)) ∧
    (∀ w x sw, p.swapOf w = some sw → p.warp w = some x → sw.mode = 1 → sw.since + 131072 ≤ s.now → x.stopped = none → x.run = none → x.wait = .none →
      ∃ t, Happens s q (.safepoint_force w) t ∧ (t.part q).warp w = some { x with stopped := some 0x3FFFF }) ∧
    (∀ u sw, p.swaps.find? (fun y => y.gang == u && !y.kill) = some sw → p.imageReady sw = true → sw.record = none → p.posts.length < 4096 →
      (∀ y ∈ p.warps, y.2.wait.regroups = false) → onceEach p.warps →
      ∃ t r, Happens s q (.swap_image_write u) t ∧ (t.part q).posts = p.posts ++ [r] ∧
        r.kind = 3 ∧ r.gcore = sw.target.core ∧ r.slot = sw.target.slot ∧ r.gridh = sw.gridh ∧ r.addr = sw.area ∧ (∀ y ∈ (t.part q).swaps, y.gang = u → y.kill = true) ∧
        (r.cause = 0 → (∀ g ∈ (t.part q).gangs, g.id ≠ u) ∧ (∀ b ∈ (t.part q).blocks, b.gang ≠ u) ∧ ∀ y ∈ p.warpsOfGang u, (t.part q).warp y.1 = none) ∧
        (r.cause ≠ 0 → (t.part q).gangs = p.gangs ∧ (t.part q).blocks = p.blocks ∧
          ∀ y ∈ p.warpsOfGang u, ∃ x, (t.part q).warp y.1 = some x ∧ x.stopped = none)) ∧
    (∀ r, p.restores = [r] → s.restoreDue q = true → r.record = none → p.posts.length < 4096 → p.noRegroup → (∀ a ∈ p.away, a.wait.regroups = false) →
      ∃ t x, Happens s q .restore t ∧ (t.part q).restores = [] ∧ (t.part q).posts = p.posts ++ [x] ∧ x.kind = 4 ∧ x.addr = r.area ∧
        (x.cause ≠ 0 → (t.part q).gangs = p.gangs ∧ (t.part q).blocks = p.blocks ∧ (t.part q).warps = p.warps) ∧
        (x.cause = 0 → ∃ g bs, (t.part q).gangs = p.gangs ++ [g] ∧ (g.id = p.gangSeq ∨ ∃ a ∈ p.away, a.grid = g.grid ∧ a.gang = g.id) ∧
          (t.part q).blocks = p.blocks ++ bs ∧ ∀ b ∈ bs, b.gang = g.id ∧ b.grid = g.grid)) ∧
    (∀ u sw, p.swaps.find? (fun y => y.gang == u && y.kill) = some sw → sw.record = none → p.posts.length < 4096 →
      (∀ y ∈ p.warpsOfGang u, y.2.ifc = 0 ∧ (p.ctx y.1).isSome = true) → onceEach p.warps →
      ∃ t r, Happens s q (.unit_kill u) t ∧ (t.part q).posts = p.posts ++ [r] ∧ r.kind = 5 ∧ r.cause = 0 ∧ r.gcore = sw.target.core ∧ r.slot = sw.target.slot ∧
        r.gridh = sw.gridh ∧ (∀ y ∈ p.warpsOfGang u, (t.part q).warp y.1 = none) ∧ ∀ y ∈ (t.part q).swaps, y.gang = u → y.kill = false) ∧
    (∀ x l, p.shoot = x :: l → (∀ y ∈ x.pend, p.runAlive y = false) → Happens s q .tlbi_complete ({ s with ev := none }.setPart q { p with shoot := l })) ∧
    ∀ w c e u k, p.ctx w = some c → c.x.wait = .fault e u false k → p.faultPosted w = true → u + 2 * p.csr.fltto.toNat ≤ s.now →
      ∃ t, Happens s q (.aged w) t ∧ (t.part q).warp w = some { c.x with wait := .fault e u true k } ∧
        (t.part q).posts = p.posts ++ [{ faultRec c k c.x.pc with kind := 2 }]

/-- R345, R347-R349, R352, R368: an instance that ends writes its data and then its record, and frees its place, and one that ends in error, whichever rank
raised it, ends the others of its number in error and sends an ABORT to every remote rank; a timeout; frames that arrive in order are placed and acknowledged
(a port that is not up holds its ACK), and duplicates discarded; an ACK, an ABORT, a retransmission, a peer that goes down, and a PAUSE. The form of a frame, with an ABORT's status
in OFFSET (log 19), and the ports that take PAUSE (log 20) are the model's choices. -/
def Obligations.CollectivesAndFrames : Prop :=
  ∀ (s : State) (q : Nat),
    let p := s.part q
    let z : State := { s with ev := none }
    (∀ n g i r b, (p.handle n).flight.find? (fun x => x.gcore == g) = some i → (p.handle n).rankAt g = some r → p.block? i.block = some b → p.noRegroup →
      let h := p.handle n
      let at_ := b.scrOff + i.tile.obj
      (∀ ws deliv drop, i.status = 0 → h.result i.num r i.tile.n = some (ws, deliv, drop) →
        ∃ t, Happens s q (.coll_instance_end n g) t ∧
          (∀ j, j < 16 → Sparse.rd ((t.part q).core b.core).scratch (at_ + 16 + j) = (leBytes 16 (i.num + deliv * 2 ^ 32 + drop * 2 ^ 64)).getD j 0) ∧
          (∀ o bs j, ws = [(o, bs)] → j < bs.length → (b.scrOff + i.tile.dst + o + j < at_ ∨ at_ + 32 ≤ b.scrOff + i.tile.dst + o + j) →
            Sparse.rd ((t.part q).core b.core).scratch (b.scrOff + i.tile.dst + o + j) = bs.getD j 0) ∧
          ((t.part q).handle n).flight = h.flight.filter (fun x => !(x.gcore == g && x.num == i.num)) ∧ ((t.part q).handle n).broken = h.broken ∧
          ∀ x, p.warp i.w = some x → ∃ y, (t.part q).warp i.w = some y ∧ y.ifc = x.ifc - 1) ∧
      (i.status ≠ 0 → ¬ (i.own = true ∧ i.status = 2) →
        ∃ t, Happens s q (.coll_instance_end n g) t ∧
          (∀ j, j < 4 → Sparse.rd ((t.part q).core b.core).scratch (at_ + 16 + j) = (leBytes 4 (i.num + i.status * 2 ^ 16)).getD j 0) ∧
          ((t.part q).handle n).flight = (h.flight.filter (fun x => !(x.gcore == g && x.num == i.num))).map (fun x =>
            if x.num = i.num ∧ x.status = 0 then { x with status := i.status, own := false } else x) ∧
          ((t.part q).handle n).broken = h.broken ++ [g] ∧
          ∀ j m, h.ranks[j]? = some (.remote m) → (p.peer m).down = false → ∃ f ∈ ((t.part q).peer m).unacked.map (fun y => y.frame) ++ ((t.part q).peer m).pendingTx,
            f.kind = 3 ∧ f.handle = n ∧ f.epoch = h.epoch ∧ f.inst = i.num ∧ f.src = r ∧ f.dst = j ∧ f.offset = i.status)) ∧
    (∀ n g,
      let h := p.handle n
      Happens s q (.coll_timeout n g) (z.setPart q (p.setHandle n { h with flight := h.flight.map (fun i =>
        if i.gcore = g ∧ h.tmo ≠ 0 ∧ i.status = 0 ∧ i.start + h.tmo * 131072 ≤ s.now then { i with status := 1, own := true } else i) }))) ∧
    (∀ f : Frame, (p.peer f.peer).en = true →
      let x := p.peer f.peer
      let h := p.handle f.handle
      let a : Frame := ⟨f.peer, 2, f.handle, f.epoch, f.inst, f.dst, f.src, 0, 0, 0, (f.seq + 1) % 2 ^ 32, 0, []⟩
      let acked : List Out := if s.portUp x.port then [.frame q a] else []
      let held : List Frame := if s.portUp x.port then x.heldAcks else x.heldAcks ++ [a]
      (x.rcvSeen = [] → x.unacked = [] → x.pendingTx = [] → f.seq = x.rcvNext → f.seq < 2 ^ 32 → p.frameFits f = true →
        (h.opc ≠ 6 → ∀ k : Bool, ∃ t, Happens s q (if k then .counts f else .data f) t ∧ ((t.part q).peer f.peer).rcvNext = (f.seq + 1) % 2 ^ 32 ∧ t.outbox = s.outbox ++ acked ∧ ((t.part q).peer f.peer).heldAcks = held ∧
          (t.part q).handle f.handle = { h with rx := h.rx ++ [⟨f.inst, f.src, f.dst, k, f.stepNo, f.offset, f.data⟩] }) ∧
        ∃ t, Happens s q (.abort_frame f) t ∧ ((t.part q).peer f.peer).rcvNext = (f.seq + 1) % 2 ^ 32 ∧ t.outbox = s.outbox ++ acked ∧ ((t.part q).peer f.peer).heldAcks = held ∧
          ((t.part q).handle f.handle).flight = h.flight.map (fun i => if i.num = f.inst ∧ i.status = 0 then { i with status := f.offset % 16, own := false } else i)) ∧
      (x.isNew f.seq = false → ∀ k : Bool, ∃ t, Happens s q (if k then .counts f else .data f) t ∧ (t.part q).handles = p.handles)) ∧
    (∀ f : Frame, (p.peer f.peer).pendingTx = [] → f.sack = 0 → ∃ t, Happens s q (.ack f) t ∧ t.outbox = s.outbox ∧
      (t.part q).peer f.peer = { p.peer f.peer with unacked := (p.peer f.peer).unacked.filter (fun y =>
        !(decide (1 ≤ (f.ack + 2 ^ 32 - y.frame.seq) % 2 ^ 32 ∧ (f.ack + 2 ^ 32 - y.frame.seq) % 2 ^ 32 ≤ 2 ^ 31))) }) ∧
    (∀ n, (p.peer n).down = false →
      let x := p.peer n
      let due (y : Machine.Sent) : Bool := y.gap || decide (y.at_ + x.rto * 14 * s.clkPct ≤ s.now)
      (∃ y ∈ x.unacked, due y = true) →
      ((∀ y ∈ x.unacked, due y = true → y.tries < x.retry) →
        ∃ t, Happens s q (.retransmit n) t ∧ t.outbox = s.outbox ++ (if s.portUp x.port then (x.unacked.filter due).map (fun y => .frame q y.frame) else []) ∧
          (t.part q).peer n = { x with unacked := x.unacked.map (fun y =>
            if due y then { y with at_ := s.now, tries := y.tries + 1, held := !s.portUp x.port, gap := false } else y) }) ∧
      ((∃ y ∈ x.unacked, due y = true ∧ x.retry ≤ y.tries) →
        ∃ t, Happens s q (.retransmit n) t ∧ ((t.part q).peer n).down = true ∧ ((t.part q).peer n).unacked = [] ∧
          ∀ k, ((t.part q).handle k).flight = if (p.handle k).uses n then (p.handle k).flight.map (fun i => if i.status = 0 then { i with status := 3, own := true } else i)
            else (p.handle k).flight)) ∧
    ∀ i, i < 8 →
      (Config.pauseEnabled i = true → Happens s q (.pause i true) { z with paused := s.paused ||| BitVec.ofNat 8 (2 ^ i) }) ∧
      (Config.pauseEnabled i = true → s.rdyPort.getLsbD i = false → Happens s q (.pause i false) { z with paused := s.paused &&& ~~~(BitVec.ofNat 8 (2 ^ i)) }) ∧
      (Config.pauseEnabled i = false → ∀ b, Happens s q (.pause i b) z)

/-- R8, R359, R361-R371: two quarters merge and a half divides, or are refused with their code; a partition reset; an attestation report over a nonce of 32 bytes, from a device that is
not in recovery; a corrected error, which makes its site lasting, spared, or a removed link lane at the fourth within 10 minutes; a re-planned margin. The model's choices: which
quarters pair (log 44), what a merge leaves beside R363's steps (log 43), what a partition reset leaves and keeps (log 45), that the report is given while the partition's first die
is not in recovery (log 47), the report's fields and their order (log 13), and the KINDs and DETAILs of the error log (log 48). -/
def Obligations.PartitionsAndHealth : Prop :=
  ∀ (s : State) (q : Nat),
    let z : State := { s with ev := none }
    let halted (k : Nat) (r : QRegs) : QRegs := { r with mst := k, pmerge := 0 }
    (∀ a, a = 0 ∨ a = 2 → (s.reg a).quarters.toNat = 2 ^ a → (s.reg (a + 1)).quarters.toNat = 2 ^ (a + 1) →
      let ra := s.reg a
      let rb := s.reg (a + 1)
      let pa := s.part a
      let pb := s.part (a + 1)
      (rb.pmerge ≠ 1 → Happens s q (.merge_request a) { z with regs := s.regs.wr a { ra with pmerge := 1 } }) ∧
      (ra.pmerge = 1 → ra.state = 2 → rb.state = 2 → (pa.anyBusy || pb.anyBusy) = true →
        Happens s q (.merge_request (a + 1)) { z with regs := (s.regs.wr a (halted 3 ra)).wr (a + 1) (halted 3 rb) }) ∧
      (ra.pmerge = 1 → ra.state = 2 → rb.state = 2 → (pa.anyBusy || pb.anyBusy) = false → (pa.occupied || pb.occupied) = false →
        ∃ t, Happens s q (.merge_request (a + 1)) t ∧
          t.reg a = ⟨if a = 0 then 0x0F else 0xF0, if a = 0 then 1 else 8, BitVec.allOnes 64, 2, if a = 0 then 3 else 12, 0, 0⟩ ∧ (t.reg (a + 1)).state = 0 ∧
          t.part (a + 1) = Part.reset ∧ t.outbox = s.outbox ++ [.faultIrq a] ∧ (∀ k, k < 4 → t.rdyPart.getLsbD k = (s.rdyPart.getLsbD k && decide (k ≠ a + 1))) ∧
          (t.part a).queues = [] ∧ (t.part a).events = [] ∧ (t.part a).handles = [] ∧ (t.part a).peers = [] ∧ (t.part a).dir = [] ∧ (t.part a).locks = [] ∧
          (pa.placeQ = [] → pb.placeQ = [] → pa.dir = [] → pb.dir = [] → t.dram = s.dram))) ∧
    (∀ a, a = 0 ∨ a = 2 → (s.reg a).quarters.toNat = 3 * 2 ^ a → (s.reg a).state = 2 → (s.part a).anyBusy = false → (s.part a).occupied = false →
      ∃ t, Happens s q (.divide_request a) t ∧ (∀ k, k = a ∨ k = a + 1 → t.reg k = ⟨BitVec.ofNat 64 (3 * 2 ^ (2 * k)), 0, BitVec.allOnes 64, 2, BitVec.ofNat 4 (2 ^ k), 0, 0⟩) ∧
        t.outbox = s.outbox ++ [.faultIrq a, .faultIrq (a + 1)] ∧
        (∀ k, k < 4 → t.rdyPart.getLsbD k = if k = a + 1 then s.rdyHbm.getLsbD (2 * k) && s.rdyHbm.getLsbD (2 * k + 1) else s.rdyPart.getLsbD k)) ∧
    (∀ a, a < 4 → (s.reg a).quarters.toNat = 2 ^ a →
      Happens s q (.divide_request a) { z with regs := s.regs.wr a (halted 5 (s.reg a)) } ∧
      ∃ t, Happens s q (.partition_reset a) t ∧ t.reg a = QRegs.reset a ∧ t.part a = { Part.reset with t0 := s.now } ∧ t.dram = s.dram ∧ (t.dies.rd a).lasting = [] ∧
        (∀ u, u ∈ t.harvested ↔ u ∈ s.harvested ∨ ∃ x ∈ (s.dies.rd a).lasting, x.unit = u) ∧
        (∀ k, k < 4 → t.rdyPart.getLsbD k = (s.rdyPart.getLsbD k && decide (k ≠ a))) ∧ (∀ k, k < 8 → t.rdyHbm.getLsbD k = (s.rdyHbm.getLsbD k && decide (k / 2 ≠ a))) ∧
        (∀ k, k < 4 * s.cpd → t.rdyClu.getLsbD k = (s.rdyClu.getLsbD k && decide (k / s.cpd ≠ a))) ∧ ∀ k, k < 4 → k ≠ a → t.reg k = s.reg k ∧ t.part k = s.part k) ∧
    (∀ n, (n.length = 32 → (s.dies.rd q).recovery = false → ∃ sig, Happens s q (.attestation_report n) { z with outbox := s.outbox ++
        [.report q n ((List.range 4).map (fun d => (s.dies.rd d).m)) s.gradeNum (Config.harvestMap s.harvested) ((List.range 4).map (fun d => (s.dies.rd d).versions)) sig] }) ∧
      ((s.dies.rd q).recovery = true → Happens s q (.attestation_report n) z)) ∧
    (∀ d x spare, d < 4 →
      let m := s.dies.rd d
      let k := s.partOfDie d
      let es := m.errors.filter (fun e => decide (s.now < e.2 + 600 * 14000000 * s.clkPct)) ++ [(x, s.now)]
      let rest := es.filter (fun e => e.1 != x)
      let n := (es.filter (fun e => e.1 == x)).length
      let row := x.kind = .hbmRow ∨ x.kind = .sramRow
      let rec_ (kind : Nat) : ErrRec := ⟨kind, x.name, BitVec.ofNat 64 n, s.now - (s.part k).t0⟩
      (x ∈ m.narrow → Happens s d (.corrected_error x spare) z) ∧
      (x ∉ m.narrow → ∃ t, Happens s d (.corrected_error x spare) t ∧ ∀ (y : Maltster) (l : List Nat),
        ((n < 4 ∨ x ∈ m.lasting) ∧ y = { m with errors := es } ∧ l = [0]) ∨
        (4 ≤ n ∧ x ∉ m.lasting ∧ spare = true ∧ row ∧ y = { m with errors := rest } ∧ l = [0, 2, 3]) ∨
        (4 ≤ n ∧ x ∉ m.lasting ∧ x.kind = .linkLane ∧ y = { m with errors := rest, narrow := m.narrow ++ [x] } ∧ l = [0, 2]) ∨
        (4 ≤ n ∧ x ∉ m.lasting ∧ ¬ (spare = true ∧ row) ∧ x.kind ≠ .linkLane ∧ y = { m with errors := es, lasting := m.lasting ++ [x] } ∧ l = [0, 2]) →
        t.dies.rd d = y ∧ (t.part k).errlog = (s.part k).errlog ++ l.map rec_)) ∧
    ∀ c m,
      let k := s.partOfDie (c / s.cpd)
      ∃ t, Happens s q (.kiln_replan c m) t ∧ (∀ j, AMap.rd 0 t.margins j = if j = c then m else AMap.rd 0 s.margins j) ∧
        (t.part k).errlog = (s.part k).errlog ++ [⟨7, c, BitVec.ofNat 64 m, s.now - (s.part k).t0⟩]

/-! ### The machine -/

/-- R7, R75, R186, R192, R318, R359, R366, R367: what reset leaves, as the spec gives it: booting quarters with their stacks and queues, no unit ready, empty fault queues with FLTTO 140,000,
translation off, no queue enabled, and measurements of 64 zero bytes. Every memory is in its canonical form. -/
def Obligations.ResetValues : Prop :=
  State.reset.memWf = true ∧ State.reset.rdyHbm = 0 ∧ State.reset.rdyClu = 0 ∧ State.reset.rdyPort = 0 ∧ State.reset.rdyPart = 0 ∧
  ∀ q, q < 4 →
    (State.reset.reg q).pmemil.toNat = 3 * 2 ^ (2 * q) ∧ (State.reset.reg q).pnetb = 0 ∧ (State.reset.reg q).pqmask = BitVec.allOnes 64 ∧
    (State.reset.reg q).state = 1 ∧ (State.reset.reg q).quarters.toNat = 2 ^ q ∧ (State.reset.reg q).mst = 0 ∧
    (State.reset.part q).csr.fqbase = 0 ∧ (State.reset.part q).csr.fqhead = 0 ∧ (State.reset.part q).csr.fqtail = 0 ∧ (State.reset.part q).csr.fqstat = 0 ∧
    (State.reset.part q).csr.fltto = 140000 ∧ (State.reset.part q).csr.ptbase = 0 ∧ (State.reset.part q).csr.rsbase = 0 ∧
    (∀ i, ((State.reset.part q).queue i).en = false) ∧ (State.reset.dies.rd q).m = List.replicate 64 0

/-- R30, R43, R53, R116: a code word comes from the four bytes, lowest first, that its address is translated to in an executable page of device memory or of the host; where the
word at a warp's next address, or a prefix word there and the word after it, decode to a well-formed instruction, the warp's supply is that instruction with its bung, its prefix word
and its length; a prefix word with the bung is ILLEGAL, whatever stands after it; and a step that takes a warp's supplied word is that instruction's meaning at that state, with the
word's own particulars in `cur`, one cc later (the model's choice, log 2) and with the translations of its words in the TLBs. (That a fetch sees the bytes that the home holds then is
the model's choice, log 35: R116 lets it see the old word too. A fetch whose packet a router drops brings nothing, R361, log 61.) -/
def Obligations.StepRunsDecodedWord : Prop :=
  (∀ (s : State) (q : Nat) (c : Ctx) (a : W64) (l : Leaf) (pa : Nat), c.grid.k.target a = true → regionOf a = .global → s.translate q c.w.core a.toNat = .ok l → l.x = true →
    (l.place a.toNat = .dev pa → s.ueBelow q (some (cluOf c.w.core)) (.dev pa) = false → ∃ v, s.fetchWord q c a = .ok v ∧ ∀ j, j < 4 → v.extractLsb' (8 * j) 8 = s.rdHome q (pa + j)) ∧
    (l.place a.toNat = .host pa → s.ueBelow q (some (cluOf c.w.core)) (.host pa) = false → ∃ v, s.fetchWord q c a = .ok v ∧ ∀ j, j < 4 → v.extractLsb' (8 * j) 8 = s.rdHost (pa + j))) ∧
  (∀ (s : State) (q : Nat) (c : Ctx) (x : Decoded) (v w u p : W32) (n : Nat), s.fetchBarred q c c.x.nextPc = none → s.fetchWord q c c.x.nextPc = .ok v →
    decodeBytes (bytesOfWord v) = .ok x u p n ∨ (isPfx v = true ∧ s.fetchBarred q c (c.x.nextPc + 4) = none ∧ s.fetchWord q c (c.x.nextPc + 4) = .ok w ∧ decodeBytes (bytesOfWord v ++ bytesOfWord w) = .ok x u p n) →
    s.supply q c = .run ⟨q, c.w, c.x.nextPc, n, x.bung, x.pfx, u, p⟩ x.i) ∧
  (∀ (s : State) (q : Nat) (c : Ctx) (v : W32), s.fetchBarred q c c.x.nextPc = none → s.fetchWord q c c.x.nextPc = .ok v → v.toNat / 2 ^ 25 = 127 →
    ∃ iss, s.supply q c = .fail iss .illegal .read 0 (BitVec.ofNat 64 v.toNat)) ∧
  (∀ (s : State) (q : Nat) (c : Ctx) (pa : Nat), s.fetchBarred q c c.x.nextPc = some pa → ∃ iss, s.supply q c = .lost iss pa) ∧
  ∀ (s : State) (q : Nat) (w : WRef) (iss : Issue) (i : Instr), s.inbox = [] → s.pick s.agents = some (.word q w (.run iss i)) →
    step s = exec i { s.elapsed.fetchFill iss with cur := some iss } ∧ s.elapsed.now = s.now + 2 ∧ s.elapsed.tick = s.tick + 1 ∧ iss.w = w ∧ iss.q = q ∧
      ∃ c, (s.part q).ctx w = some c ∧ s.supply q c = .run iss i

/-- R41-R52: words of the spec's examples, as the decoder reads them. -/
def Obligations.DecodeWords : Prop :=
  decodeTableWord 32 0x06807D02 = some (.shli 1 122 2) ∧
  decodeTableWord 32 0x83E20103 = some (.imad 8 2 3) ∧
  decodeTableWord 32 0x941932E6 = some (.sadd 100 101 102) ∧
  decodeTableWord 32 0xA2620103 = some (.fma 8 2 3) ∧
  decodeTableWord 32 0xC003_0083 = some (.fence 1 4 1 3) ∧
  decodeTableWord 32 0xBC1932F8 = some (.llock 100 101 120) ∧
  decodeTableWord 32 0xC8C80064 = some (.mma 0 3 0 32 0 100) ∧
  decodeTableWord 32 0xE0A00000 = some .eret ∧
  decodeTableWord 32 0 = none

/-- R30, R41-R53: every well-formed instruction that has a word is encoded, and its words decode to it, with every operand, its bung and its prefix word. -/
def Obligations.DecodeOfEncode : Prop :=
  ∀ x : Decoded, x.wf = true → (∀ e : Event, x.i ≠ e.instr) →
    ∃ ws v p, encode x = some ws ∧ ∀ rest, decodeBytes (ws.flatMap bytesOfWord ++ rest) = .ok x v p (4 * ws.length)

/-- Device memory and host memory keep their canonical form through every step, from every state in which they have it. -/
def Obligations.MemoryFormKept : Prop := ∀ s t : State, s.memWf = true → step s = .next t → t.memWf = true
end

