-- ==== Sys2Proof/Laws/State.lean ====
section
/-! SUPPORT. What each update of the state leaves in each field: one lemma per field per update, and reading back what an update wrote. -/

namespace Sys2Proof.Machine

/-! ### Four of a kind -/

@[simp] theorem Quad.rd_wr_same {α : Type} (x : Quad α) (i : Nat) (v : α) : (x.wr i v).rd i = v := by
  rcases i with _ | _ | _ | i <;> rfl

@[simp] theorem Quad.wr_rd {α : Type} (x : Quad α) (i : Nat) : x.wr i (x.rd i) = x := by
  rcases i with _ | _ | _ | i <;> rfl

@[simp] theorem Quad.wr_wr {α : Type} (x : Quad α) (i : Nat) (v w : α) : (x.wr i v).wr i w = x.wr i w := by
  rcases i with _ | _ | _ | i <;> rfl

/-- Two numbers that name different ones of the four. -/
theorem Quad.rd_wr_other {α : Type} (x : Quad α) {i j : Nat} (v : α) (h : min i 3 ≠ min j 3) : (x.wr i v).rd j = x.rd j := by
  unfold Quad.wr Quad.rd
  rcases i with _ | _ | _ | i <;> rcases j with _ | _ | _ | j <;> simp_all

/-! ### A partition of the device -/

@[simp] theorem State.setPart_grade (s : State) (q : Nat) (p : Part) : (s.setPart q p).grade = s.grade := rfl
@[simp] theorem State.setPart_now (s : State) (q : Nat) (p : Part) : (s.setPart q p).now = s.now := rfl
@[simp] theorem State.setPart_tick (s : State) (q : Nat) (p : Part) : (s.setPart q p).tick = s.tick := rfl
@[simp] theorem State.setPart_cur (s : State) (q : Nat) (p : Part) : (s.setPart q p).cur = s.cur := rfl
@[simp] theorem State.setPart_ev (s : State) (q : Nat) (p : Part) : (s.setPart q p).ev = s.ev := rfl
@[simp] theorem State.setPart_inbox (s : State) (q : Nat) (p : Part) : (s.setPart q p).inbox = s.inbox := rfl
@[simp] theorem State.setPart_outbox (s : State) (q : Nat) (p : Part) : (s.setPart q p).outbox = s.outbox := rfl
@[simp] theorem State.setPart_dram (s : State) (q : Nat) (p : Part) : (s.setPart q p).dram = s.dram := rfl
@[simp] theorem State.setPart_hostMem (s : State) (q : Nat) (p : Part) : (s.setPart q p).hostMem = s.hostMem := rfl
@[simp] theorem State.setPart_ue (s : State) (q : Nat) (p : Part) : (s.setPart q p).ue = s.ue := rfl
@[simp] theorem State.setPart_regs (s : State) (q : Nat) (p : Part) : (s.setPart q p).regs = s.regs := rfl
@[simp] theorem State.setPart_rdyHbm (s : State) (q : Nat) (p : Part) : (s.setPart q p).rdyHbm = s.rdyHbm := rfl
@[simp] theorem State.setPart_rdyClu (s : State) (q : Nat) (p : Part) : (s.setPart q p).rdyClu = s.rdyClu := rfl
@[simp] theorem State.setPart_rdyPort (s : State) (q : Nat) (p : Part) : (s.setPart q p).rdyPort = s.rdyPort := rfl
@[simp] theorem State.setPart_rdyPart (s : State) (q : Nat) (p : Part) : (s.setPart q p).rdyPart = s.rdyPart := rfl
@[simp] theorem State.setPart_paused (s : State) (q : Nat) (p : Part) : (s.setPart q p).paused = s.paused := rfl
@[simp] theorem State.setPart_dies (s : State) (q : Nat) (p : Part) : (s.setPart q p).dies = s.dies := rfl
@[simp] theorem State.setPart_margins (s : State) (q : Nat) (p : Part) : (s.setPart q p).margins = s.margins := rfl
@[simp] theorem State.setPart_stopped (s : State) (q : Nat) (p : Part) : (s.setPart q p).stopped = s.stopped := rfl
@[simp] theorem State.setPart_thermal (s : State) (q : Nat) (p : Part) : (s.setPart q p).thermal = s.thermal := rfl
@[simp] theorem State.setPart_clkPct (s : State) (q : Nat) (p : Part) : (s.setPart q p).clkPct = s.clkPct := rfl
@[simp] theorem State.setPart_harvested (s : State) (q : Nat) (p : Part) : (s.setPart q p).harvested = s.harvested := rfl

@[simp] theorem State.setPart_part (s : State) (q : Nat) (p : Part) : (s.setPart q p).part q = p := Quad.rd_wr_same _ _ _
@[simp] theorem State.setPart_self (s : State) (q : Nat) : s.setPart q (s.part q) = s := by simp [State.setPart, State.part]
@[simp] theorem State.setPart_setPart (s : State) (q : Nat) (p r : Part) : (s.setPart q p).setPart q r = s.setPart q r := by simp [State.setPart]
theorem State.setPart_part_other (s : State) {q r : Nat} (p : Part) (h : min q 3 ≠ min r 3) : (s.setPart q p).part r = s.part r := Quad.rd_wr_other _ _ h
@[simp] theorem State.setPart_reg (s : State) (q : Nat) (p : Part) (i : Nat) : (s.setPart q p).reg i = s.reg i := rfl
@[simp] theorem State.setPart_cpd (s : State) (q : Nat) (p : Part) : (s.setPart q p).cpd = s.cpd := rfl
@[simp] theorem State.setPart_nclu (s : State) (q : Nat) (p : Part) (i : Nat) : (s.setPart q p).nclu i = s.nclu i := rfl
@[simp] theorem State.setPart_stacks (s : State) (q : Nat) (p : Part) (i : Nat) : (s.setPart q p).stacks i = s.stacks i := rfl
@[simp] theorem State.setPart_dramKey (s : State) (q : Nat) (p : Part) (i a : Nat) : (s.setPart q p).dramKey i a = s.dramKey i a := rfl

@[simp] theorem State.modPart_grade (s : State) (q : Nat) (f : Part → Part) : (s.modPart q f).grade = s.grade := rfl
@[simp] theorem State.modPart_now (s : State) (q : Nat) (f : Part → Part) : (s.modPart q f).now = s.now := rfl
@[simp] theorem State.modPart_tick (s : State) (q : Nat) (f : Part → Part) : (s.modPart q f).tick = s.tick := rfl
@[simp] theorem State.modPart_cur (s : State) (q : Nat) (f : Part → Part) : (s.modPart q f).cur = s.cur := rfl
@[simp] theorem State.modPart_ev (s : State) (q : Nat) (f : Part → Part) : (s.modPart q f).ev = s.ev := rfl
@[simp] theorem State.modPart_inbox (s : State) (q : Nat) (f : Part → Part) : (s.modPart q f).inbox = s.inbox := rfl
@[simp] theorem State.modPart_outbox (s : State) (q : Nat) (f : Part → Part) : (s.modPart q f).outbox = s.outbox := rfl
@[simp] theorem State.modPart_dram (s : State) (q : Nat) (f : Part → Part) : (s.modPart q f).dram = s.dram := rfl
@[simp] theorem State.modPart_hostMem (s : State) (q : Nat) (f : Part → Part) : (s.modPart q f).hostMem = s.hostMem := rfl
@[simp] theorem State.modPart_ue (s : State) (q : Nat) (f : Part → Part) : (s.modPart q f).ue = s.ue := rfl
@[simp] theorem State.modPart_regs (s : State) (q : Nat) (f : Part → Part) : (s.modPart q f).regs = s.regs := rfl
@[simp] theorem State.modPart_rdyHbm (s : State) (q : Nat) (f : Part → Part) : (s.modPart q f).rdyHbm = s.rdyHbm := rfl
@[simp] theorem State.modPart_rdyClu (s : State) (q : Nat) (f : Part → Part) : (s.modPart q f).rdyClu = s.rdyClu := rfl
@[simp] theorem State.modPart_rdyPort (s : State) (q : Nat) (f : Part → Part) : (s.modPart q f).rdyPort = s.rdyPort := rfl
@[simp] theorem State.modPart_rdyPart (s : State) (q : Nat) (f : Part → Part) : (s.modPart q f).rdyPart = s.rdyPart := rfl
@[simp] theorem State.modPart_paused (s : State) (q : Nat) (f : Part → Part) : (s.modPart q f).paused = s.paused := rfl
@[simp] theorem State.modPart_dies (s : State) (q : Nat) (f : Part → Part) : (s.modPart q f).dies = s.dies := rfl
@[simp] theorem State.modPart_margins (s : State) (q : Nat) (f : Part → Part) : (s.modPart q f).margins = s.margins := rfl
@[simp] theorem State.modPart_stopped (s : State) (q : Nat) (f : Part → Part) : (s.modPart q f).stopped = s.stopped := rfl
@[simp] theorem State.modPart_thermal (s : State) (q : Nat) (f : Part → Part) : (s.modPart q f).thermal = s.thermal := rfl
@[simp] theorem State.modPart_clkPct (s : State) (q : Nat) (f : Part → Part) : (s.modPart q f).clkPct = s.clkPct := rfl
@[simp] theorem State.modPart_harvested (s : State) (q : Nat) (f : Part → Part) : (s.modPart q f).harvested = s.harvested := rfl
@[simp] theorem State.modPart_part (s : State) (q : Nat) (f : Part → Part) : (s.modPart q f).part q = f (s.part q) := State.setPart_part _ _ _
@[simp] theorem State.modPart_setPart (s : State) (q : Nat) (f : Part → Part) (p : Part) : (s.modPart q f).setPart q p = s.setPart q p := State.setPart_setPart _ _ _ _
theorem State.modPart_modPart (s : State) (q : Nat) (f g : Part → Part) : (s.modPart q f).modPart q g = s.modPart q (fun p => g (f p)) := by simp [State.modPart]
theorem State.modPart_id (s : State) (q : Nat) : s.modPart q (fun p => p) = s := State.setPart_self _ _
@[simp] theorem State.modPart_stacks (s : State) (q : Nat) (f : Part → Part) (i : Nat) : (s.modPart q f).stacks i = s.stacks i := rfl
@[simp] theorem State.modPart_dramKey (s : State) (q : Nat) (f : Part → Part) (i a : Nat) : (s.modPart q f).dramKey i a = s.dramKey i a := rfl

/-! ### Time -/

@[simp] theorem State.ticked_grade (s : State) : s.ticked.grade = s.grade := rfl
@[simp] theorem State.ticked_cur (s : State) : s.ticked.cur = s.cur := rfl
@[simp] theorem State.ticked_ev (s : State) : s.ticked.ev = s.ev := rfl
@[simp] theorem State.ticked_inbox (s : State) : s.ticked.inbox = s.inbox := rfl
@[simp] theorem State.ticked_outbox (s : State) : s.ticked.outbox = s.outbox := rfl
@[simp] theorem State.ticked_dram (s : State) : s.ticked.dram = s.dram := rfl
@[simp] theorem State.ticked_hostMem (s : State) : s.ticked.hostMem = s.hostMem := rfl
@[simp] theorem State.ticked_ue (s : State) : s.ticked.ue = s.ue := rfl
@[simp] theorem State.ticked_regs (s : State) : s.ticked.regs = s.regs := rfl
@[simp] theorem State.ticked_rdyHbm (s : State) : s.ticked.rdyHbm = s.rdyHbm := rfl
@[simp] theorem State.ticked_rdyClu (s : State) : s.ticked.rdyClu = s.rdyClu := rfl
@[simp] theorem State.ticked_rdyPort (s : State) : s.ticked.rdyPort = s.rdyPort := rfl
@[simp] theorem State.ticked_rdyPart (s : State) : s.ticked.rdyPart = s.rdyPart := rfl
@[simp] theorem State.ticked_paused (s : State) : s.ticked.paused = s.paused := rfl
@[simp] theorem State.ticked_parts (s : State) : s.ticked.parts = s.parts := rfl
@[simp] theorem State.ticked_dies (s : State) : s.ticked.dies = s.dies := rfl
@[simp] theorem State.ticked_margins (s : State) : s.ticked.margins = s.margins := rfl
@[simp] theorem State.ticked_stopped (s : State) : s.ticked.stopped = s.stopped := rfl
@[simp] theorem State.ticked_thermal (s : State) : s.ticked.thermal = s.thermal := rfl
@[simp] theorem State.ticked_clkPct (s : State) : s.ticked.clkPct = s.clkPct := rfl
@[simp] theorem State.ticked_harvested (s : State) : s.ticked.harvested = s.harvested := rfl
@[simp] theorem State.ticked_now (s : State) : s.ticked.now = s.now + 2 := rfl
@[simp] theorem State.ticked_tick (s : State) : s.ticked.tick = s.tick + 1 := rfl
@[simp] theorem State.ticked_part (s : State) (q : Nat) : s.ticked.part q = s.part q := rfl

/-- Error records enter their rings only where some wait. -/
theorem State.logged_of_none (s : State) (h : ∀ q, q < 4 → (s.part q).errlog = []) : s.logged = s := by
  simp [State.logged, State.errPosts, List.range_succ, h]

/-- Where no error record waits, what passes is the time alone. -/
theorem State.elapsed_of_none (s : State) (h : ∀ q, q < 4 → (s.part q).errlog = []) : s.elapsed = s.ticked := State.logged_of_none _ h

/-! ### Maps by number -/

@[simp] theorem AMap.find_wr_same {α : Type} (m : AMap α) (k : Nat) (v : α) : AMap.find (AMap.wr m k v) k = some v := by
  induction m with
  | nil => simp [AMap.wr, AMap.find]
  | cons x l ih =>
    unfold AMap.wr
    split
    · simp [AMap.find]
    · split
      · simp [AMap.find]
      · rw [AMap.find, if_neg (by omega)]
        exact ih

theorem AMap.find_wr_other {α : Type} (m : AMap α) {k j : Nat} (v : α) (h : k ≠ j) : AMap.find (AMap.wr m k v) j = AMap.find m j := by
  induction m with
  | nil => simp [AMap.wr, AMap.find, h]
  | cons x l ih =>
    unfold AMap.wr
    split
    · rw [AMap.find, if_neg h]
    · split
      · rename_i h2
        rw [AMap.find, AMap.find, if_neg h, if_neg (by omega)]
      · rw [AMap.find, AMap.find, ih]

/-- A default read is a lookup with the default. -/
theorem AMap.rd_eq_find {α : Type} (d : α) (m : AMap α) (k : Nat) : AMap.rd d m k = (AMap.find m k).getD d := by
  induction m with
  | nil => rfl
  | cons x l ih =>
    unfold AMap.rd AMap.find
    split
    · rfl
    · exact ih

@[simp] theorem AMap.rd_wr_same {α : Type} (d : α) (m : AMap α) (k : Nat) (v : α) : AMap.rd d (AMap.wr m k v) k = v := by
  simp [AMap.rd_eq_find]

theorem AMap.rd_wr_other {α : Type} (d : α) (m : AMap α) {k j : Nat} (v : α) (h : k ≠ j) : AMap.rd d (AMap.wr m k v) j = AMap.rd d m j := by
  simp [AMap.rd_eq_find, AMap.find_wr_other m v h]

/-! ### A partition -/

@[simp] theorem Part.setWarp_csr (p : Part) (w : WRef) (x : Warp) : (p.setWarp w x).csr = p.csr := rfl
@[simp] theorem Part.setWarp_t0 (p : Part) (w : WRef) (x : Warp) : (p.setWarp w x).t0 = p.t0 := rfl
@[simp] theorem Part.setWarp_carved (p : Part) (w : WRef) (x : Warp) : (p.setWarp w x).carved = p.carved := rfl
@[simp] theorem Part.setWarp_queues (p : Part) (w : WRef) (x : Warp) : (p.setWarp w x).queues = p.queues := rfl
@[simp] theorem Part.setWarp_events (p : Part) (w : WRef) (x : Warp) : (p.setWarp w x).events = p.events := rfl
@[simp] theorem Part.setWarp_grids (p : Part) (w : WRef) (x : Warp) : (p.setWarp w x).grids = p.grids := rfl
@[simp] theorem Part.setWarp_gridSeq (p : Part) (w : WRef) (x : Warp) : (p.setWarp w x).gridSeq = p.gridSeq := rfl
@[simp] theorem Part.setWarp_gangs (p : Part) (w : WRef) (x : Warp) : (p.setWarp w x).gangs = p.gangs := rfl
@[simp] theorem Part.setWarp_gangSeq (p : Part) (w : WRef) (x : Warp) : (p.setWarp w x).gangSeq = p.gangSeq := rfl
@[simp] theorem Part.setWarp_blocks (p : Part) (w : WRef) (x : Warp) : (p.setWarp w x).blocks = p.blocks := rfl
@[simp] theorem Part.setWarp_blockSeq (p : Part) (w : WRef) (x : Warp) : (p.setWarp w x).blockSeq = p.blockSeq := rfl
@[simp] theorem Part.setWarp_warpSeq (p : Part) (w : WRef) (x : Warp) : (p.setWarp w x).warpSeq = p.warpSeq := rfl
@[simp] theorem Part.setWarp_cores (p : Part) (w : WRef) (x : Warp) : (p.setWarp w x).cores = p.cores := rfl
@[simp] theorem Part.setWarp_clusters (p : Part) (w : WRef) (x : Warp) : (p.setWarp w x).clusters = p.clusters := rfl
@[simp] theorem Part.setWarp_headGang (p : Part) (w : WRef) (x : Warp) : (p.setWarp w x).headGang = p.headGang := rfl
@[simp] theorem Part.setWarp_reserved (p : Part) (w : WRef) (x : Warp) : (p.setWarp w x).reserved = p.reserved := rfl
@[simp] theorem Part.setWarp_rset (p : Part) (w : WRef) (x : Warp) : (p.setWarp w x).rset = p.rset := rfl
@[simp] theorem Part.setWarp_dir (p : Part) (w : WRef) (x : Warp) : (p.setWarp w x).dir = p.dir := rfl
@[simp] theorem Part.setWarp_placeQ (p : Part) (w : WRef) (x : Warp) : (p.setWarp w x).placeQ = p.placeQ := rfl
@[simp] theorem Part.setWarp_placeSeq (p : Part) (w : WRef) (x : Warp) : (p.setWarp w x).placeSeq = p.placeSeq := rfl
@[simp] theorem Part.setWarp_locks (p : Part) (w : WRef) (x : Warp) : (p.setWarp w x).locks = p.locks := rfl
@[simp] theorem Part.setWarp_stampSeq (p : Part) (w : WRef) (x : Warp) : (p.setWarp w x).stampSeq = p.stampSeq := rfl
@[simp] theorem Part.setWarp_races (p : Part) (w : WRef) (x : Warp) : (p.setWarp w x).races = p.races := rfl
@[simp] theorem Part.setWarp_closed (p : Part) (w : WRef) (x : Warp) : (p.setWarp w x).closed = p.closed := rfl
@[simp] theorem Part.setWarp_merged (p : Part) (w : WRef) (x : Warp) : (p.setWarp w x).merged = p.merged := rfl
@[simp] theorem Part.setWarp_posts (p : Part) (w : WRef) (x : Warp) : (p.setWarp w x).posts = p.posts := rfl
@[simp] theorem Part.setWarp_postSeq (p : Part) (w : WRef) (x : Warp) : (p.setWarp w x).postSeq = p.postSeq := rfl
@[simp] theorem Part.setWarp_seq (p : Part) (w : WRef) (x : Warp) : (p.setWarp w x).seq = p.seq := rfl
@[simp] theorem Part.setWarp_errlog (p : Part) (w : WRef) (x : Warp) : (p.setWarp w x).errlog = p.errlog := rfl
@[simp] theorem Part.setWarp_errHead (p : Part) (w : WRef) (x : Warp) : (p.setWarp w x).errHead = p.errHead := rfl
@[simp] theorem Part.setWarp_errTail (p : Part) (w : WRef) (x : Warp) : (p.setWarp w x).errTail = p.errTail := rfl
@[simp] theorem Part.setWarp_swaps (p : Part) (w : WRef) (x : Warp) : (p.setWarp w x).swaps = p.swaps := rfl
@[simp] theorem Part.setWarp_restores (p : Part) (w : WRef) (x : Warp) : (p.setWarp w x).restores = p.restores := rfl
@[simp] theorem Part.setWarp_restoreSeq (p : Part) (w : WRef) (x : Warp) : (p.setWarp w x).restoreSeq = p.restoreSeq := rfl
@[simp] theorem Part.setWarp_away (p : Part) (w : WRef) (x : Warp) : (p.setWarp w x).away = p.away := rfl
@[simp] theorem Part.setWarp_shoot (p : Part) (w : WRef) (x : Warp) : (p.setWarp w x).shoot = p.shoot := rfl
@[simp] theorem Part.setWarp_handles (p : Part) (w : WRef) (x : Warp) : (p.setWarp w x).handles = p.handles := rfl
@[simp] theorem Part.setWarp_peers (p : Part) (w : WRef) (x : Warp) : (p.setWarp w x).peers = p.peers := rfl
@[simp] theorem Part.setWarp_lag (p : Part) (w : WRef) (x : Warp) : (p.setWarp w x).lag = p.lag := rfl
@[simp] theorem Part.setWarp_warp (p : Part) (w : WRef) (x : Warp) : (p.setWarp w x).warp w = some x := AMap.find_wr_same _ _ _
theorem Part.setWarp_warp_other (p : Part) {w v : WRef} (x : Warp) (h : wkey w ≠ wkey v) : (p.setWarp w x).warp v = p.warp v := AMap.find_wr_other _ _ h
@[simp] theorem Part.setWarp_core (p : Part) (w : WRef) (x : Warp) (g : Nat) : (p.setWarp w x).core g = p.core g := rfl
@[simp] theorem Part.setWarp_clu (p : Part) (w : WRef) (x : Warp) (g : Nat) : (p.setWarp w x).clu g = p.clu g := rfl

@[simp] theorem Part.setCore_csr (p : Part) (g : Nat) (k : Core) : (p.setCore g k).csr = p.csr := rfl
@[simp] theorem Part.setCore_t0 (p : Part) (g : Nat) (k : Core) : (p.setCore g k).t0 = p.t0 := rfl
@[simp] theorem Part.setCore_carved (p : Part) (g : Nat) (k : Core) : (p.setCore g k).carved = p.carved := rfl
@[simp] theorem Part.setCore_queues (p : Part) (g : Nat) (k : Core) : (p.setCore g k).queues = p.queues := rfl
@[simp] theorem Part.setCore_events (p : Part) (g : Nat) (k : Core) : (p.setCore g k).events = p.events := rfl
@[simp] theorem Part.setCore_grids (p : Part) (g : Nat) (k : Core) : (p.setCore g k).grids = p.grids := rfl
@[simp] theorem Part.setCore_gridSeq (p : Part) (g : Nat) (k : Core) : (p.setCore g k).gridSeq = p.gridSeq := rfl
@[simp] theorem Part.setCore_gangs (p : Part) (g : Nat) (k : Core) : (p.setCore g k).gangs = p.gangs := rfl
@[simp] theorem Part.setCore_gangSeq (p : Part) (g : Nat) (k : Core) : (p.setCore g k).gangSeq = p.gangSeq := rfl
@[simp] theorem Part.setCore_blocks (p : Part) (g : Nat) (k : Core) : (p.setCore g k).blocks = p.blocks := rfl
@[simp] theorem Part.setCore_blockSeq (p : Part) (g : Nat) (k : Core) : (p.setCore g k).blockSeq = p.blockSeq := rfl
@[simp] theorem Part.setCore_warps (p : Part) (g : Nat) (k : Core) : (p.setCore g k).warps = p.warps := rfl
@[simp] theorem Part.setCore_warpSeq (p : Part) (g : Nat) (k : Core) : (p.setCore g k).warpSeq = p.warpSeq := rfl
@[simp] theorem Part.setCore_clusters (p : Part) (g : Nat) (k : Core) : (p.setCore g k).clusters = p.clusters := rfl
@[simp] theorem Part.setCore_headGang (p : Part) (g : Nat) (k : Core) : (p.setCore g k).headGang = p.headGang := rfl
@[simp] theorem Part.setCore_reserved (p : Part) (g : Nat) (k : Core) : (p.setCore g k).reserved = p.reserved := rfl
@[simp] theorem Part.setCore_rset (p : Part) (g : Nat) (k : Core) : (p.setCore g k).rset = p.rset := rfl
@[simp] theorem Part.setCore_dir (p : Part) (g : Nat) (k : Core) : (p.setCore g k).dir = p.dir := rfl
@[simp] theorem Part.setCore_placeQ (p : Part) (g : Nat) (k : Core) : (p.setCore g k).placeQ = p.placeQ := rfl
@[simp] theorem Part.setCore_placeSeq (p : Part) (g : Nat) (k : Core) : (p.setCore g k).placeSeq = p.placeSeq := rfl
@[simp] theorem Part.setCore_locks (p : Part) (g : Nat) (k : Core) : (p.setCore g k).locks = p.locks := rfl
@[simp] theorem Part.setCore_stampSeq (p : Part) (g : Nat) (k : Core) : (p.setCore g k).stampSeq = p.stampSeq := rfl
@[simp] theorem Part.setCore_races (p : Part) (g : Nat) (k : Core) : (p.setCore g k).races = p.races := rfl
@[simp] theorem Part.setCore_closed (p : Part) (g : Nat) (k : Core) : (p.setCore g k).closed = p.closed := rfl
@[simp] theorem Part.setCore_merged (p : Part) (g : Nat) (k : Core) : (p.setCore g k).merged = p.merged := rfl
@[simp] theorem Part.setCore_posts (p : Part) (g : Nat) (k : Core) : (p.setCore g k).posts = p.posts := rfl
@[simp] theorem Part.setCore_postSeq (p : Part) (g : Nat) (k : Core) : (p.setCore g k).postSeq = p.postSeq := rfl
@[simp] theorem Part.setCore_seq (p : Part) (g : Nat) (k : Core) : (p.setCore g k).seq = p.seq := rfl
@[simp] theorem Part.setCore_errlog (p : Part) (g : Nat) (k : Core) : (p.setCore g k).errlog = p.errlog := rfl
@[simp] theorem Part.setCore_errHead (p : Part) (g : Nat) (k : Core) : (p.setCore g k).errHead = p.errHead := rfl
@[simp] theorem Part.setCore_errTail (p : Part) (g : Nat) (k : Core) : (p.setCore g k).errTail = p.errTail := rfl
@[simp] theorem Part.setCore_swaps (p : Part) (g : Nat) (k : Core) : (p.setCore g k).swaps = p.swaps := rfl
@[simp] theorem Part.setCore_restores (p : Part) (g : Nat) (k : Core) : (p.setCore g k).restores = p.restores := rfl
@[simp] theorem Part.setCore_restoreSeq (p : Part) (g : Nat) (k : Core) : (p.setCore g k).restoreSeq = p.restoreSeq := rfl
@[simp] theorem Part.setCore_away (p : Part) (g : Nat) (k : Core) : (p.setCore g k).away = p.away := rfl
@[simp] theorem Part.setCore_shoot (p : Part) (g : Nat) (k : Core) : (p.setCore g k).shoot = p.shoot := rfl
@[simp] theorem Part.setCore_handles (p : Part) (g : Nat) (k : Core) : (p.setCore g k).handles = p.handles := rfl
@[simp] theorem Part.setCore_peers (p : Part) (g : Nat) (k : Core) : (p.setCore g k).peers = p.peers := rfl
@[simp] theorem Part.setCore_lag (p : Part) (g : Nat) (k : Core) : (p.setCore g k).lag = p.lag := rfl
@[simp] theorem Part.setCore_core (p : Part) (g : Nat) (k : Core) : (p.setCore g k).core g = k := AMap.rd_wr_same _ _ _ _
theorem Part.setCore_core_other (p : Part) {g h : Nat} (k : Core) (e : g ≠ h) : (p.setCore g k).core h = p.core h := AMap.rd_wr_other _ _ _ e
@[simp] theorem Part.setCore_warp (p : Part) (g : Nat) (k : Core) (w : WRef) : (p.setCore g k).warp w = p.warp w := rfl
@[simp] theorem Part.setCore_clu (p : Part) (g : Nat) (k : Core) (c : Nat) : (p.setCore g k).clu c = p.clu c := rfl

@[simp] theorem Part.setClu_csr (p : Part) (g : Nat) (k : Cluster) : (p.setClu g k).csr = p.csr := rfl
@[simp] theorem Part.setClu_t0 (p : Part) (g : Nat) (k : Cluster) : (p.setClu g k).t0 = p.t0 := rfl
@[simp] theorem Part.setClu_carved (p : Part) (g : Nat) (k : Cluster) : (p.setClu g k).carved = p.carved := rfl
@[simp] theorem Part.setClu_queues (p : Part) (g : Nat) (k : Cluster) : (p.setClu g k).queues = p.queues := rfl
@[simp] theorem Part.setClu_events (p : Part) (g : Nat) (k : Cluster) : (p.setClu g k).events = p.events := rfl
@[simp] theorem Part.setClu_grids (p : Part) (g : Nat) (k : Cluster) : (p.setClu g k).grids = p.grids := rfl
@[simp] theorem Part.setClu_gridSeq (p : Part) (g : Nat) (k : Cluster) : (p.setClu g k).gridSeq = p.gridSeq := rfl
@[simp] theorem Part.setClu_gangs (p : Part) (g : Nat) (k : Cluster) : (p.setClu g k).gangs = p.gangs := rfl
@[simp] theorem Part.setClu_gangSeq (p : Part) (g : Nat) (k : Cluster) : (p.setClu g k).gangSeq = p.gangSeq := rfl
@[simp] theorem Part.setClu_blocks (p : Part) (g : Nat) (k : Cluster) : (p.setClu g k).blocks = p.blocks := rfl
@[simp] theorem Part.setClu_blockSeq (p : Part) (g : Nat) (k : Cluster) : (p.setClu g k).blockSeq = p.blockSeq := rfl
@[simp] theorem Part.setClu_warps (p : Part) (g : Nat) (k : Cluster) : (p.setClu g k).warps = p.warps := rfl
@[simp] theorem Part.setClu_warpSeq (p : Part) (g : Nat) (k : Cluster) : (p.setClu g k).warpSeq = p.warpSeq := rfl
@[simp] theorem Part.setClu_cores (p : Part) (g : Nat) (k : Cluster) : (p.setClu g k).cores = p.cores := rfl
@[simp] theorem Part.setClu_headGang (p : Part) (g : Nat) (k : Cluster) : (p.setClu g k).headGang = p.headGang := rfl
@[simp] theorem Part.setClu_reserved (p : Part) (g : Nat) (k : Cluster) : (p.setClu g k).reserved = p.reserved := rfl
@[simp] theorem Part.setClu_rset (p : Part) (g : Nat) (k : Cluster) : (p.setClu g k).rset = p.rset := rfl
@[simp] theorem Part.setClu_dir (p : Part) (g : Nat) (k : Cluster) : (p.setClu g k).dir = p.dir := rfl
@[simp] theorem Part.setClu_placeQ (p : Part) (g : Nat) (k : Cluster) : (p.setClu g k).placeQ = p.placeQ := rfl
@[simp] theorem Part.setClu_placeSeq (p : Part) (g : Nat) (k : Cluster) : (p.setClu g k).placeSeq = p.placeSeq := rfl
@[simp] theorem Part.setClu_locks (p : Part) (g : Nat) (k : Cluster) : (p.setClu g k).locks = p.locks := rfl
@[simp] theorem Part.setClu_stampSeq (p : Part) (g : Nat) (k : Cluster) : (p.setClu g k).stampSeq = p.stampSeq := rfl
@[simp] theorem Part.setClu_races (p : Part) (g : Nat) (k : Cluster) : (p.setClu g k).races = p.races := rfl
@[simp] theorem Part.setClu_closed (p : Part) (g : Nat) (k : Cluster) : (p.setClu g k).closed = p.closed := rfl
@[simp] theorem Part.setClu_merged (p : Part) (g : Nat) (k : Cluster) : (p.setClu g k).merged = p.merged := rfl
@[simp] theorem Part.setClu_posts (p : Part) (g : Nat) (k : Cluster) : (p.setClu g k).posts = p.posts := rfl
@[simp] theorem Part.setClu_postSeq (p : Part) (g : Nat) (k : Cluster) : (p.setClu g k).postSeq = p.postSeq := rfl
@[simp] theorem Part.setClu_seq (p : Part) (g : Nat) (k : Cluster) : (p.setClu g k).seq = p.seq := rfl
@[simp] theorem Part.setClu_errlog (p : Part) (g : Nat) (k : Cluster) : (p.setClu g k).errlog = p.errlog := rfl
@[simp] theorem Part.setClu_errHead (p : Part) (g : Nat) (k : Cluster) : (p.setClu g k).errHead = p.errHead := rfl
@[simp] theorem Part.setClu_errTail (p : Part) (g : Nat) (k : Cluster) : (p.setClu g k).errTail = p.errTail := rfl
@[simp] theorem Part.setClu_swaps (p : Part) (g : Nat) (k : Cluster) : (p.setClu g k).swaps = p.swaps := rfl
@[simp] theorem Part.setClu_restores (p : Part) (g : Nat) (k : Cluster) : (p.setClu g k).restores = p.restores := rfl
@[simp] theorem Part.setClu_restoreSeq (p : Part) (g : Nat) (k : Cluster) : (p.setClu g k).restoreSeq = p.restoreSeq := rfl
@[simp] theorem Part.setClu_away (p : Part) (g : Nat) (k : Cluster) : (p.setClu g k).away = p.away := rfl
@[simp] theorem Part.setClu_shoot (p : Part) (g : Nat) (k : Cluster) : (p.setClu g k).shoot = p.shoot := rfl
@[simp] theorem Part.setClu_handles (p : Part) (g : Nat) (k : Cluster) : (p.setClu g k).handles = p.handles := rfl
@[simp] theorem Part.setClu_peers (p : Part) (g : Nat) (k : Cluster) : (p.setClu g k).peers = p.peers := rfl
@[simp] theorem Part.setClu_lag (p : Part) (g : Nat) (k : Cluster) : (p.setClu g k).lag = p.lag := rfl
@[simp] theorem Part.setClu_clu (p : Part) (g : Nat) (k : Cluster) : (p.setClu g k).clu g = k := AMap.rd_wr_same _ _ _ _
@[simp] theorem Part.setClu_core (p : Part) (g : Nat) (k : Cluster) (c : Nat) : (p.setClu g k).core c = p.core c := rfl
@[simp] theorem Part.setClu_warp (p : Part) (g : Nat) (k : Cluster) (w : WRef) : (p.setClu g k).warp w = p.warp w := rfl

@[simp] theorem Part.setQueue_csr (p : Part) (i : Nat) (u : Queue) : (p.setQueue i u).csr = p.csr := rfl
@[simp] theorem Part.setQueue_t0 (p : Part) (i : Nat) (u : Queue) : (p.setQueue i u).t0 = p.t0 := rfl
@[simp] theorem Part.setQueue_carved (p : Part) (i : Nat) (u : Queue) : (p.setQueue i u).carved = p.carved := rfl
@[simp] theorem Part.setQueue_events (p : Part) (i : Nat) (u : Queue) : (p.setQueue i u).events = p.events := rfl
@[simp] theorem Part.setQueue_grids (p : Part) (i : Nat) (u : Queue) : (p.setQueue i u).grids = p.grids := rfl
@[simp] theorem Part.setQueue_gridSeq (p : Part) (i : Nat) (u : Queue) : (p.setQueue i u).gridSeq = p.gridSeq := rfl
@[simp] theorem Part.setQueue_gangs (p : Part) (i : Nat) (u : Queue) : (p.setQueue i u).gangs = p.gangs := rfl
@[simp] theorem Part.setQueue_gangSeq (p : Part) (i : Nat) (u : Queue) : (p.setQueue i u).gangSeq = p.gangSeq := rfl
@[simp] theorem Part.setQueue_blocks (p : Part) (i : Nat) (u : Queue) : (p.setQueue i u).blocks = p.blocks := rfl
@[simp] theorem Part.setQueue_blockSeq (p : Part) (i : Nat) (u : Queue) : (p.setQueue i u).blockSeq = p.blockSeq := rfl
@[simp] theorem Part.setQueue_warps (p : Part) (i : Nat) (u : Queue) : (p.setQueue i u).warps = p.warps := rfl
@[simp] theorem Part.setQueue_warpSeq (p : Part) (i : Nat) (u : Queue) : (p.setQueue i u).warpSeq = p.warpSeq := rfl
@[simp] theorem Part.setQueue_cores (p : Part) (i : Nat) (u : Queue) : (p.setQueue i u).cores = p.cores := rfl
@[simp] theorem Part.setQueue_clusters (p : Part) (i : Nat) (u : Queue) : (p.setQueue i u).clusters = p.clusters := rfl
@[simp] theorem Part.setQueue_headGang (p : Part) (i : Nat) (u : Queue) : (p.setQueue i u).headGang = p.headGang := rfl
@[simp] theorem Part.setQueue_reserved (p : Part) (i : Nat) (u : Queue) : (p.setQueue i u).reserved = p.reserved := rfl
@[simp] theorem Part.setQueue_rset (p : Part) (i : Nat) (u : Queue) : (p.setQueue i u).rset = p.rset := rfl
@[simp] theorem Part.setQueue_dir (p : Part) (i : Nat) (u : Queue) : (p.setQueue i u).dir = p.dir := rfl
@[simp] theorem Part.setQueue_placeQ (p : Part) (i : Nat) (u : Queue) : (p.setQueue i u).placeQ = p.placeQ := rfl
@[simp] theorem Part.setQueue_placeSeq (p : Part) (i : Nat) (u : Queue) : (p.setQueue i u).placeSeq = p.placeSeq := rfl
@[simp] theorem Part.setQueue_locks (p : Part) (i : Nat) (u : Queue) : (p.setQueue i u).locks = p.locks := rfl
@[simp] theorem Part.setQueue_stampSeq (p : Part) (i : Nat) (u : Queue) : (p.setQueue i u).stampSeq = p.stampSeq := rfl
@[simp] theorem Part.setQueue_races (p : Part) (i : Nat) (u : Queue) : (p.setQueue i u).races = p.races := rfl
@[simp] theorem Part.setQueue_closed (p : Part) (i : Nat) (u : Queue) : (p.setQueue i u).closed = p.closed := rfl
@[simp] theorem Part.setQueue_merged (p : Part) (i : Nat) (u : Queue) : (p.setQueue i u).merged = p.merged := rfl
@[simp] theorem Part.setQueue_posts (p : Part) (i : Nat) (u : Queue) : (p.setQueue i u).posts = p.posts := rfl
@[simp] theorem Part.setQueue_postSeq (p : Part) (i : Nat) (u : Queue) : (p.setQueue i u).postSeq = p.postSeq := rfl
@[simp] theorem Part.setQueue_seq (p : Part) (i : Nat) (u : Queue) : (p.setQueue i u).seq = p.seq := rfl
@[simp] theorem Part.setQueue_errlog (p : Part) (i : Nat) (u : Queue) : (p.setQueue i u).errlog = p.errlog := rfl
@[simp] theorem Part.setQueue_errHead (p : Part) (i : Nat) (u : Queue) : (p.setQueue i u).errHead = p.errHead := rfl
@[simp] theorem Part.setQueue_errTail (p : Part) (i : Nat) (u : Queue) : (p.setQueue i u).errTail = p.errTail := rfl
@[simp] theorem Part.setQueue_swaps (p : Part) (i : Nat) (u : Queue) : (p.setQueue i u).swaps = p.swaps := rfl
@[simp] theorem Part.setQueue_restores (p : Part) (i : Nat) (u : Queue) : (p.setQueue i u).restores = p.restores := rfl
@[simp] theorem Part.setQueue_restoreSeq (p : Part) (i : Nat) (u : Queue) : (p.setQueue i u).restoreSeq = p.restoreSeq := rfl
@[simp] theorem Part.setQueue_away (p : Part) (i : Nat) (u : Queue) : (p.setQueue i u).away = p.away := rfl
@[simp] theorem Part.setQueue_shoot (p : Part) (i : Nat) (u : Queue) : (p.setQueue i u).shoot = p.shoot := rfl
@[simp] theorem Part.setQueue_handles (p : Part) (i : Nat) (u : Queue) : (p.setQueue i u).handles = p.handles := rfl
@[simp] theorem Part.setQueue_peers (p : Part) (i : Nat) (u : Queue) : (p.setQueue i u).peers = p.peers := rfl
@[simp] theorem Part.setQueue_lag (p : Part) (i : Nat) (u : Queue) : (p.setQueue i u).lag = p.lag := rfl
@[simp] theorem Part.setQueue_queue (p : Part) (i : Nat) (u : Queue) : (p.setQueue i u).queue i = u := AMap.rd_wr_same _ _ _ _
theorem Part.setQueue_queue_other (p : Part) {i j : Nat} (u : Queue) (h : i ≠ j) : (p.setQueue i u).queue j = p.queue j := AMap.rd_wr_other _ _ _ h

@[simp] theorem Part.setHandle_csr (p : Part) (i : Nat) (u : Handle) : (p.setHandle i u).csr = p.csr := rfl
@[simp] theorem Part.setHandle_t0 (p : Part) (i : Nat) (u : Handle) : (p.setHandle i u).t0 = p.t0 := rfl
@[simp] theorem Part.setHandle_carved (p : Part) (i : Nat) (u : Handle) : (p.setHandle i u).carved = p.carved := rfl
@[simp] theorem Part.setHandle_queues (p : Part) (i : Nat) (u : Handle) : (p.setHandle i u).queues = p.queues := rfl
@[simp] theorem Part.setHandle_events (p : Part) (i : Nat) (u : Handle) : (p.setHandle i u).events = p.events := rfl
@[simp] theorem Part.setHandle_grids (p : Part) (i : Nat) (u : Handle) : (p.setHandle i u).grids = p.grids := rfl
@[simp] theorem Part.setHandle_gridSeq (p : Part) (i : Nat) (u : Handle) : (p.setHandle i u).gridSeq = p.gridSeq := rfl
@[simp] theorem Part.setHandle_gangs (p : Part) (i : Nat) (u : Handle) : (p.setHandle i u).gangs = p.gangs := rfl
@[simp] theorem Part.setHandle_gangSeq (p : Part) (i : Nat) (u : Handle) : (p.setHandle i u).gangSeq = p.gangSeq := rfl
@[simp] theorem Part.setHandle_blocks (p : Part) (i : Nat) (u : Handle) : (p.setHandle i u).blocks = p.blocks := rfl
@[simp] theorem Part.setHandle_blockSeq (p : Part) (i : Nat) (u : Handle) : (p.setHandle i u).blockSeq = p.blockSeq := rfl
@[simp] theorem Part.setHandle_warps (p : Part) (i : Nat) (u : Handle) : (p.setHandle i u).warps = p.warps := rfl
@[simp] theorem Part.setHandle_warpSeq (p : Part) (i : Nat) (u : Handle) : (p.setHandle i u).warpSeq = p.warpSeq := rfl
@[simp] theorem Part.setHandle_cores (p : Part) (i : Nat) (u : Handle) : (p.setHandle i u).cores = p.cores := rfl
@[simp] theorem Part.setHandle_clusters (p : Part) (i : Nat) (u : Handle) : (p.setHandle i u).clusters = p.clusters := rfl
@[simp] theorem Part.setHandle_headGang (p : Part) (i : Nat) (u : Handle) : (p.setHandle i u).headGang = p.headGang := rfl
@[simp] theorem Part.setHandle_reserved (p : Part) (i : Nat) (u : Handle) : (p.setHandle i u).reserved = p.reserved := rfl
@[simp] theorem Part.setHandle_rset (p : Part) (i : Nat) (u : Handle) : (p.setHandle i u).rset = p.rset := rfl
@[simp] theorem Part.setHandle_dir (p : Part) (i : Nat) (u : Handle) : (p.setHandle i u).dir = p.dir := rfl
@[simp] theorem Part.setHandle_placeQ (p : Part) (i : Nat) (u : Handle) : (p.setHandle i u).placeQ = p.placeQ := rfl
@[simp] theorem Part.setHandle_placeSeq (p : Part) (i : Nat) (u : Handle) : (p.setHandle i u).placeSeq = p.placeSeq := rfl
@[simp] theorem Part.setHandle_locks (p : Part) (i : Nat) (u : Handle) : (p.setHandle i u).locks = p.locks := rfl
@[simp] theorem Part.setHandle_stampSeq (p : Part) (i : Nat) (u : Handle) : (p.setHandle i u).stampSeq = p.stampSeq := rfl
@[simp] theorem Part.setHandle_races (p : Part) (i : Nat) (u : Handle) : (p.setHandle i u).races = p.races := rfl
@[simp] theorem Part.setHandle_closed (p : Part) (i : Nat) (u : Handle) : (p.setHandle i u).closed = p.closed := rfl
@[simp] theorem Part.setHandle_merged (p : Part) (i : Nat) (u : Handle) : (p.setHandle i u).merged = p.merged := rfl
@[simp] theorem Part.setHandle_posts (p : Part) (i : Nat) (u : Handle) : (p.setHandle i u).posts = p.posts := rfl
@[simp] theorem Part.setHandle_postSeq (p : Part) (i : Nat) (u : Handle) : (p.setHandle i u).postSeq = p.postSeq := rfl
@[simp] theorem Part.setHandle_seq (p : Part) (i : Nat) (u : Handle) : (p.setHandle i u).seq = p.seq := rfl
@[simp] theorem Part.setHandle_errlog (p : Part) (i : Nat) (u : Handle) : (p.setHandle i u).errlog = p.errlog := rfl
@[simp] theorem Part.setHandle_errHead (p : Part) (i : Nat) (u : Handle) : (p.setHandle i u).errHead = p.errHead := rfl
@[simp] theorem Part.setHandle_errTail (p : Part) (i : Nat) (u : Handle) : (p.setHandle i u).errTail = p.errTail := rfl
@[simp] theorem Part.setHandle_swaps (p : Part) (i : Nat) (u : Handle) : (p.setHandle i u).swaps = p.swaps := rfl
@[simp] theorem Part.setHandle_restores (p : Part) (i : Nat) (u : Handle) : (p.setHandle i u).restores = p.restores := rfl
@[simp] theorem Part.setHandle_restoreSeq (p : Part) (i : Nat) (u : Handle) : (p.setHandle i u).restoreSeq = p.restoreSeq := rfl
@[simp] theorem Part.setHandle_away (p : Part) (i : Nat) (u : Handle) : (p.setHandle i u).away = p.away := rfl
@[simp] theorem Part.setHandle_shoot (p : Part) (i : Nat) (u : Handle) : (p.setHandle i u).shoot = p.shoot := rfl
@[simp] theorem Part.setHandle_peers (p : Part) (i : Nat) (u : Handle) : (p.setHandle i u).peers = p.peers := rfl
@[simp] theorem Part.setHandle_lag (p : Part) (i : Nat) (u : Handle) : (p.setHandle i u).lag = p.lag := rfl
@[simp] theorem Part.setHandle_handle (p : Part) (i : Nat) (u : Handle) : (p.setHandle i u).handle i = u := AMap.rd_wr_same _ _ _ _

@[simp] theorem Part.setPeer_csr (p : Part) (i : Nat) (u : Peer) : (p.setPeer i u).csr = p.csr := rfl
@[simp] theorem Part.setPeer_t0 (p : Part) (i : Nat) (u : Peer) : (p.setPeer i u).t0 = p.t0 := rfl
@[simp] theorem Part.setPeer_carved (p : Part) (i : Nat) (u : Peer) : (p.setPeer i u).carved = p.carved := rfl
@[simp] theorem Part.setPeer_queues (p : Part) (i : Nat) (u : Peer) : (p.setPeer i u).queues = p.queues := rfl
@[simp] theorem Part.setPeer_events (p : Part) (i : Nat) (u : Peer) : (p.setPeer i u).events = p.events := rfl
@[simp] theorem Part.setPeer_grids (p : Part) (i : Nat) (u : Peer) : (p.setPeer i u).grids = p.grids := rfl
@[simp] theorem Part.setPeer_gridSeq (p : Part) (i : Nat) (u : Peer) : (p.setPeer i u).gridSeq = p.gridSeq := rfl
@[simp] theorem Part.setPeer_gangs (p : Part) (i : Nat) (u : Peer) : (p.setPeer i u).gangs = p.gangs := rfl
@[simp] theorem Part.setPeer_gangSeq (p : Part) (i : Nat) (u : Peer) : (p.setPeer i u).gangSeq = p.gangSeq := rfl
@[simp] theorem Part.setPeer_blocks (p : Part) (i : Nat) (u : Peer) : (p.setPeer i u).blocks = p.blocks := rfl
@[simp] theorem Part.setPeer_blockSeq (p : Part) (i : Nat) (u : Peer) : (p.setPeer i u).blockSeq = p.blockSeq := rfl
@[simp] theorem Part.setPeer_warps (p : Part) (i : Nat) (u : Peer) : (p.setPeer i u).warps = p.warps := rfl
@[simp] theorem Part.setPeer_warpSeq (p : Part) (i : Nat) (u : Peer) : (p.setPeer i u).warpSeq = p.warpSeq := rfl
@[simp] theorem Part.setPeer_cores (p : Part) (i : Nat) (u : Peer) : (p.setPeer i u).cores = p.cores := rfl
@[simp] theorem Part.setPeer_clusters (p : Part) (i : Nat) (u : Peer) : (p.setPeer i u).clusters = p.clusters := rfl
@[simp] theorem Part.setPeer_headGang (p : Part) (i : Nat) (u : Peer) : (p.setPeer i u).headGang = p.headGang := rfl
@[simp] theorem Part.setPeer_reserved (p : Part) (i : Nat) (u : Peer) : (p.setPeer i u).reserved = p.reserved := rfl
@[simp] theorem Part.setPeer_rset (p : Part) (i : Nat) (u : Peer) : (p.setPeer i u).rset = p.rset := rfl
@[simp] theorem Part.setPeer_dir (p : Part) (i : Nat) (u : Peer) : (p.setPeer i u).dir = p.dir := rfl
@[simp] theorem Part.setPeer_placeQ (p : Part) (i : Nat) (u : Peer) : (p.setPeer i u).placeQ = p.placeQ := rfl
@[simp] theorem Part.setPeer_placeSeq (p : Part) (i : Nat) (u : Peer) : (p.setPeer i u).placeSeq = p.placeSeq := rfl
@[simp] theorem Part.setPeer_locks (p : Part) (i : Nat) (u : Peer) : (p.setPeer i u).locks = p.locks := rfl
@[simp] theorem Part.setPeer_stampSeq (p : Part) (i : Nat) (u : Peer) : (p.setPeer i u).stampSeq = p.stampSeq := rfl
@[simp] theorem Part.setPeer_races (p : Part) (i : Nat) (u : Peer) : (p.setPeer i u).races = p.races := rfl
@[simp] theorem Part.setPeer_closed (p : Part) (i : Nat) (u : Peer) : (p.setPeer i u).closed = p.closed := rfl
@[simp] theorem Part.setPeer_merged (p : Part) (i : Nat) (u : Peer) : (p.setPeer i u).merged = p.merged := rfl
@[simp] theorem Part.setPeer_posts (p : Part) (i : Nat) (u : Peer) : (p.setPeer i u).posts = p.posts := rfl
@[simp] theorem Part.setPeer_postSeq (p : Part) (i : Nat) (u : Peer) : (p.setPeer i u).postSeq = p.postSeq := rfl
@[simp] theorem Part.setPeer_seq (p : Part) (i : Nat) (u : Peer) : (p.setPeer i u).seq = p.seq := rfl
@[simp] theorem Part.setPeer_errlog (p : Part) (i : Nat) (u : Peer) : (p.setPeer i u).errlog = p.errlog := rfl
@[simp] theorem Part.setPeer_errHead (p : Part) (i : Nat) (u : Peer) : (p.setPeer i u).errHead = p.errHead := rfl
@[simp] theorem Part.setPeer_errTail (p : Part) (i : Nat) (u : Peer) : (p.setPeer i u).errTail = p.errTail := rfl
@[simp] theorem Part.setPeer_swaps (p : Part) (i : Nat) (u : Peer) : (p.setPeer i u).swaps = p.swaps := rfl
@[simp] theorem Part.setPeer_restores (p : Part) (i : Nat) (u : Peer) : (p.setPeer i u).restores = p.restores := rfl
@[simp] theorem Part.setPeer_restoreSeq (p : Part) (i : Nat) (u : Peer) : (p.setPeer i u).restoreSeq = p.restoreSeq := rfl
@[simp] theorem Part.setPeer_away (p : Part) (i : Nat) (u : Peer) : (p.setPeer i u).away = p.away := rfl
@[simp] theorem Part.setPeer_shoot (p : Part) (i : Nat) (u : Peer) : (p.setPeer i u).shoot = p.shoot := rfl
@[simp] theorem Part.setPeer_handles (p : Part) (i : Nat) (u : Peer) : (p.setPeer i u).handles = p.handles := rfl
@[simp] theorem Part.setPeer_lag (p : Part) (i : Nat) (u : Peer) : (p.setPeer i u).lag = p.lag := rfl
@[simp] theorem Part.setPeer_peer (p : Part) (i : Nat) (u : Peer) : (p.setPeer i u).peer i = u := AMap.rd_wr_same _ _ _ _

@[simp] theorem Part.post_t0 (p : Part) (r : FaultRec) : (p.post r).t0 = p.t0 := rfl
@[simp] theorem Part.post_carved (p : Part) (r : FaultRec) : (p.post r).carved = p.carved := rfl
@[simp] theorem Part.post_queues (p : Part) (r : FaultRec) : (p.post r).queues = p.queues := rfl
@[simp] theorem Part.post_events (p : Part) (r : FaultRec) : (p.post r).events = p.events := rfl
@[simp] theorem Part.post_grids (p : Part) (r : FaultRec) : (p.post r).grids = p.grids := rfl
@[simp] theorem Part.post_gridSeq (p : Part) (r : FaultRec) : (p.post r).gridSeq = p.gridSeq := rfl
@[simp] theorem Part.post_gangs (p : Part) (r : FaultRec) : (p.post r).gangs = p.gangs := rfl
@[simp] theorem Part.post_gangSeq (p : Part) (r : FaultRec) : (p.post r).gangSeq = p.gangSeq := rfl
@[simp] theorem Part.post_blocks (p : Part) (r : FaultRec) : (p.post r).blocks = p.blocks := rfl
@[simp] theorem Part.post_blockSeq (p : Part) (r : FaultRec) : (p.post r).blockSeq = p.blockSeq := rfl
@[simp] theorem Part.post_warps (p : Part) (r : FaultRec) : (p.post r).warps = p.warps := rfl
@[simp] theorem Part.post_warpSeq (p : Part) (r : FaultRec) : (p.post r).warpSeq = p.warpSeq := rfl
@[simp] theorem Part.post_cores (p : Part) (r : FaultRec) : (p.post r).cores = p.cores := rfl
@[simp] theorem Part.post_clusters (p : Part) (r : FaultRec) : (p.post r).clusters = p.clusters := rfl
@[simp] theorem Part.post_headGang (p : Part) (r : FaultRec) : (p.post r).headGang = p.headGang := rfl
@[simp] theorem Part.post_reserved (p : Part) (r : FaultRec) : (p.post r).reserved = p.reserved := rfl
@[simp] theorem Part.post_rset (p : Part) (r : FaultRec) : (p.post r).rset = p.rset := rfl
@[simp] theorem Part.post_dir (p : Part) (r : FaultRec) : (p.post r).dir = p.dir := rfl
@[simp] theorem Part.post_placeQ (p : Part) (r : FaultRec) : (p.post r).placeQ = p.placeQ := rfl
@[simp] theorem Part.post_placeSeq (p : Part) (r : FaultRec) : (p.post r).placeSeq = p.placeSeq := rfl
@[simp] theorem Part.post_locks (p : Part) (r : FaultRec) : (p.post r).locks = p.locks := rfl
@[simp] theorem Part.post_stampSeq (p : Part) (r : FaultRec) : (p.post r).stampSeq = p.stampSeq := rfl
@[simp] theorem Part.post_races (p : Part) (r : FaultRec) : (p.post r).races = p.races := rfl
@[simp] theorem Part.post_closed (p : Part) (r : FaultRec) : (p.post r).closed = p.closed := rfl
@[simp] theorem Part.post_merged (p : Part) (r : FaultRec) : (p.post r).merged = p.merged := rfl
@[simp] theorem Part.post_seq (p : Part) (r : FaultRec) : (p.post r).seq = p.seq := rfl
@[simp] theorem Part.post_errlog (p : Part) (r : FaultRec) : (p.post r).errlog = p.errlog := rfl
@[simp] theorem Part.post_errHead (p : Part) (r : FaultRec) : (p.post r).errHead = p.errHead := rfl
@[simp] theorem Part.post_errTail (p : Part) (r : FaultRec) : (p.post r).errTail = p.errTail := rfl
@[simp] theorem Part.post_swaps (p : Part) (r : FaultRec) : (p.post r).swaps = p.swaps := rfl
@[simp] theorem Part.post_restores (p : Part) (r : FaultRec) : (p.post r).restores = p.restores := rfl
@[simp] theorem Part.post_restoreSeq (p : Part) (r : FaultRec) : (p.post r).restoreSeq = p.restoreSeq := rfl
@[simp] theorem Part.post_away (p : Part) (r : FaultRec) : (p.post r).away = p.away := rfl
@[simp] theorem Part.post_shoot (p : Part) (r : FaultRec) : (p.post r).shoot = p.shoot := rfl
@[simp] theorem Part.post_handles (p : Part) (r : FaultRec) : (p.post r).handles = p.handles := rfl
@[simp] theorem Part.post_peers (p : Part) (r : FaultRec) : (p.post r).peers = p.peers := rfl
@[simp] theorem Part.post_lag (p : Part) (r : FaultRec) : (p.post r).lag = p.lag := rfl
@[simp] theorem Part.post_postSeq (p : Part) (r : FaultRec) : (p.post r).postSeq = p.postSeq + 1 := rfl
@[simp] theorem Part.post_posts (p : Part) (r : FaultRec) : (p.post r).posts = p.posts ++ [r] := rfl
@[simp] theorem Part.post_warp (p : Part) (r : FaultRec) (w : WRef) : (p.post r).warp w = p.warp w := rfl
@[simp] theorem Part.post_core (p : Part) (r : FaultRec) (g : Nat) : (p.post r).core g = p.core g := rfl

@[simp] theorem Part.logErr_csr (p : Part) (r : ErrRec) : (p.logErr r).csr = p.csr := rfl
@[simp] theorem Part.logErr_t0 (p : Part) (r : ErrRec) : (p.logErr r).t0 = p.t0 := rfl
@[simp] theorem Part.logErr_carved (p : Part) (r : ErrRec) : (p.logErr r).carved = p.carved := rfl
@[simp] theorem Part.logErr_queues (p : Part) (r : ErrRec) : (p.logErr r).queues = p.queues := rfl
@[simp] theorem Part.logErr_events (p : Part) (r : ErrRec) : (p.logErr r).events = p.events := rfl
@[simp] theorem Part.logErr_grids (p : Part) (r : ErrRec) : (p.logErr r).grids = p.grids := rfl
@[simp] theorem Part.logErr_gridSeq (p : Part) (r : ErrRec) : (p.logErr r).gridSeq = p.gridSeq := rfl
@[simp] theorem Part.logErr_gangs (p : Part) (r : ErrRec) : (p.logErr r).gangs = p.gangs := rfl
@[simp] theorem Part.logErr_gangSeq (p : Part) (r : ErrRec) : (p.logErr r).gangSeq = p.gangSeq := rfl
@[simp] theorem Part.logErr_blocks (p : Part) (r : ErrRec) : (p.logErr r).blocks = p.blocks := rfl
@[simp] theorem Part.logErr_blockSeq (p : Part) (r : ErrRec) : (p.logErr r).blockSeq = p.blockSeq := rfl
@[simp] theorem Part.logErr_warps (p : Part) (r : ErrRec) : (p.logErr r).warps = p.warps := rfl
@[simp] theorem Part.logErr_warpSeq (p : Part) (r : ErrRec) : (p.logErr r).warpSeq = p.warpSeq := rfl
@[simp] theorem Part.logErr_cores (p : Part) (r : ErrRec) : (p.logErr r).cores = p.cores := rfl
@[simp] theorem Part.logErr_clusters (p : Part) (r : ErrRec) : (p.logErr r).clusters = p.clusters := rfl
@[simp] theorem Part.logErr_headGang (p : Part) (r : ErrRec) : (p.logErr r).headGang = p.headGang := rfl
@[simp] theorem Part.logErr_reserved (p : Part) (r : ErrRec) : (p.logErr r).reserved = p.reserved := rfl
@[simp] theorem Part.logErr_rset (p : Part) (r : ErrRec) : (p.logErr r).rset = p.rset := rfl
@[simp] theorem Part.logErr_dir (p : Part) (r : ErrRec) : (p.logErr r).dir = p.dir := rfl
@[simp] theorem Part.logErr_placeQ (p : Part) (r : ErrRec) : (p.logErr r).placeQ = p.placeQ := rfl
@[simp] theorem Part.logErr_placeSeq (p : Part) (r : ErrRec) : (p.logErr r).placeSeq = p.placeSeq := rfl
@[simp] theorem Part.logErr_locks (p : Part) (r : ErrRec) : (p.logErr r).locks = p.locks := rfl
@[simp] theorem Part.logErr_stampSeq (p : Part) (r : ErrRec) : (p.logErr r).stampSeq = p.stampSeq := rfl
@[simp] theorem Part.logErr_races (p : Part) (r : ErrRec) : (p.logErr r).races = p.races := rfl
@[simp] theorem Part.logErr_closed (p : Part) (r : ErrRec) : (p.logErr r).closed = p.closed := rfl
@[simp] theorem Part.logErr_merged (p : Part) (r : ErrRec) : (p.logErr r).merged = p.merged := rfl
@[simp] theorem Part.logErr_posts (p : Part) (r : ErrRec) : (p.logErr r).posts = p.posts := rfl
@[simp] theorem Part.logErr_postSeq (p : Part) (r : ErrRec) : (p.logErr r).postSeq = p.postSeq := rfl
@[simp] theorem Part.logErr_seq (p : Part) (r : ErrRec) : (p.logErr r).seq = p.seq := rfl
@[simp] theorem Part.logErr_errHead (p : Part) (r : ErrRec) : (p.logErr r).errHead = p.errHead := rfl
@[simp] theorem Part.logErr_errTail (p : Part) (r : ErrRec) : (p.logErr r).errTail = p.errTail := rfl
@[simp] theorem Part.logErr_swaps (p : Part) (r : ErrRec) : (p.logErr r).swaps = p.swaps := rfl
@[simp] theorem Part.logErr_restores (p : Part) (r : ErrRec) : (p.logErr r).restores = p.restores := rfl
@[simp] theorem Part.logErr_restoreSeq (p : Part) (r : ErrRec) : (p.logErr r).restoreSeq = p.restoreSeq := rfl
@[simp] theorem Part.logErr_away (p : Part) (r : ErrRec) : (p.logErr r).away = p.away := rfl
@[simp] theorem Part.logErr_shoot (p : Part) (r : ErrRec) : (p.logErr r).shoot = p.shoot := rfl
@[simp] theorem Part.logErr_handles (p : Part) (r : ErrRec) : (p.logErr r).handles = p.handles := rfl
@[simp] theorem Part.logErr_peers (p : Part) (r : ErrRec) : (p.logErr r).peers = p.peers := rfl
@[simp] theorem Part.logErr_lag (p : Part) (r : ErrRec) : (p.logErr r).lag = p.lag := rfl
@[simp] theorem Part.logErr_errlog (p : Part) (r : ErrRec) : (p.logErr r).errlog = p.errlog ++ [r] := rfl

/-! ### A core and a warp -/

@[simp] theorem Core.setReg_bnd (k : Core) (l e : Nat) (v : W32) : (k.setReg l e v).bnd = k.bnd := rfl
@[simp] theorem Core.setReg_g (k : Core) (l e : Nat) (v : W32) : (k.setReg l e v).g = k.g := rfl
@[simp] theorem Core.setReg_sc (k : Core) (l e : Nat) (v : W32) : (k.setReg l e v).sc = k.sc := rfl
@[simp] theorem Core.setReg_shadow (k : Core) (l e : Nat) (v : W32) : (k.setReg l e v).shadow = k.shadow := rfl
@[simp] theorem Core.setReg_scratch (k : Core) (l e : Nat) (v : W32) : (k.setReg l e v).scratch = k.scratch := rfl
@[simp] theorem Core.setReg_bstore (k : Core) (l e : Nat) (v : W32) : (k.setReg l e v).bstore = k.bstore := rfl
@[simp] theorem Core.setReg_tuns (k : Core) (l e : Nat) (v : W32) : (k.setReg l e v).tuns = k.tuns := rfl
@[simp] theorem Core.setReg_l1 (k : Core) (l e : Nat) (v : W32) : (k.setReg l e v).l1 = k.l1 := rfl
@[simp] theorem Core.setReg_tlb (k : Core) (l e : Nat) (v : W32) : (k.setReg l e v).tlb = k.tlb := rfl
@[simp] theorem Core.setReg_copyQ (k : Core) (l e : Nat) (v : W32) : (k.setReg l e v).copyQ = k.copyQ := rfl
@[simp] theorem Core.setReg_buckets (k : Core) (l e : Nat) (v : W32) : (k.setReg l e v).buckets = k.buckets := rfl
@[simp] theorem Core.setReg_mmaSeq (k : Core) (l e : Nat) (v : W32) : (k.setReg l e v).mmaSeq = k.mmaSeq := rfl
@[simp] theorem Warp.raise_uid (x : Warp) (f : Flags) : (x.raise f).uid = x.uid := rfl
@[simp] theorem Warp.raise_block (x : Warp) (f : Flags) : (x.raise f).block = x.block := rfl
@[simp] theorem Warp.raise_base (x : Warp) (f : Flags) : (x.raise f).base = x.base := rfl
@[simp] theorem Warp.raise_width (x : Warp) (f : Flags) : (x.raise f).width = x.width := rfl
@[simp] theorem Warp.raise_wid (x : Warp) (f : Flags) : (x.raise f).wid = x.wid := rfl
@[simp] theorem Warp.raise_pc (x : Warp) (f : Flags) : (x.raise f).pc = x.pc := rfl
@[simp] theorem Warp.raise_m (x : Warp) (f : Flags) : (x.raise f).m = x.m := rfl
@[simp] theorem Warp.raise_refillRun (x : Warp) (f : Flags) : (x.raise f).refillRun = x.refillRun := rfl
@[simp] theorem Warp.raise_resuming (x : Warp) (f : Flags) : (x.raise f).resuming = x.resuming := rfl
@[simp] theorem Warp.raise_stack (x : Warp) (f : Flags) : (x.raise f).stack = x.stack := rfl
@[simp] theorem Warp.raise_spilled (x : Warp) (f : Flags) : (x.raise f).spilled = x.spilled := rfl
@[simp] theorem Warp.raise_s (x : Warp) (f : Flags) : (x.raise f).s = x.s := rfl
@[simp] theorem Warp.raise_q (x : Warp) (f : Flags) : (x.raise f).q = x.q := rfl
@[simp] theorem Warp.raise_lanes (x : Warp) (f : Flags) : (x.raise f).lanes = x.lanes := rfl
@[simp] theorem Warp.raise_fileBase (x : Warp) (f : Flags) : (x.raise f).fileBase = x.fileBase := rfl
@[simp] theorem Warp.raise_n (x : Warp) (f : Flags) : (x.raise f).n = x.n := rfl
@[simp] theorem Warp.raise_wb (x : Warp) (f : Flags) : (x.raise f).wb = x.wb := rfl
@[simp] theorem Warp.raise_trdy (x : Warp) (f : Flags) : (x.raise f).trdy = x.trdy := rfl
@[simp] theorem Warp.raise_terr (x : Warp) (f : Flags) : (x.raise f).terr = x.terr := rfl
@[simp] theorem Warp.raise_ifc (x : Warp) (f : Flags) : (x.raise f).ifc = x.ifc := rfl
@[simp] theorem Warp.raise_mx (x : Warp) (f : Flags) : (x.raise f).mx = x.mx := rfl
@[simp] theorem Warp.raise_lc0 (x : Warp) (f : Flags) : (x.raise f).lc0 = x.lc0 := rfl
@[simp] theorem Warp.raise_lc1 (x : Warp) (f : Flags) : (x.raise f).lc1 = x.lc1 := rfl
@[simp] theorem Warp.raise_lc2 (x : Warp) (f : Flags) : (x.raise f).lc2 = x.lc2 := rfl
@[simp] theorem Warp.raise_levels (x : Warp) (f : Flags) : (x.raise f).levels = x.levels := rfl
@[simp] theorem Warp.raise_trap (x : Warp) (f : Flags) : (x.raise f).trap = x.trap := rfl
@[simp] theorem Warp.raise_prio (x : Warp) (f : Flags) : (x.raise f).prio = x.prio := rfl
@[simp] theorem Warp.raise_linh (x : Warp) (f : Flags) : (x.raise f).linh = x.linh := rfl
@[simp] theorem Warp.raise_binh (x : Warp) (f : Flags) : (x.raise f).binh = x.binh := rfl
@[simp] theorem Warp.raise_last (x : Warp) (f : Flags) : (x.raise f).last = x.last := rfl
@[simp] theorem Warp.raise_triggered (x : Warp) (f : Flags) : (x.raise f).triggered = x.triggered := rfl
@[simp] theorem Warp.raise_region (x : Warp) (f : Flags) : (x.raise f).region = x.region := rfl
@[simp] theorem Warp.raise_mmas (x : Warp) (f : Flags) : (x.raise f).mmas = x.mmas := rfl
@[simp] theorem Warp.raise_arr (x : Warp) (f : Flags) : (x.raise f).arr = x.arr := rfl
@[simp] theorem Warp.raise_run (x : Warp) (f : Flags) : (x.raise f).run = x.run := rfl
@[simp] theorem Warp.raise_wait (x : Warp) (f : Flags) : (x.raise f).wait = x.wait := rfl
@[simp] theorem Warp.raise_stopped (x : Warp) (f : Flags) : (x.raise f).stopped = x.stopped := rfl
@[simp] theorem Warp.raise_fflags (x : Warp) (f : Flags) : (x.raise f).fflags = x.fflags ||| f := rfl

end Sys2Proof.Machine
end

