-- ==== Sys2Proof/Laws/Memory.lean ====
section
/-! SUPPORT. Sparse maps and memories: reading what was written, the canonical form, and that every memory operation keeps it. -/

namespace Sys2Proof.Machine

/-! ### The canonical form -/

theorem rising_tail {α : Type} {x : Nat × α} {l : List (Nat × α)} (h : rising (x :: l) = true) : rising l = true := by
  cases l with
  | nil => rfl
  | cons y t => simp only [rising, Bool.and_eq_true] at h; exact h.2

theorem rising_head {α : Type} {x y : Nat × α} {l : List (Nat × α)} (h : rising (x :: y :: l) = true) : x.1 < y.1 := by
  simp only [rising, Bool.and_eq_true, decide_eq_true_eq] at h
  exact h.1

/-- Every later key lies above the first. -/
theorem rising_above {α : Type} {x : Nat × α} : ∀ {l : List (Nat × α)}, rising (x :: l) = true → ∀ y ∈ l, x.1 < y.1
  | [], _, y, hy => by simp at hy
  | z :: l, h, y, hy => by
    rcases List.mem_cons.1 hy with e | e
    · exact e ▸ rising_head h
    · exact Nat.lt_trans (rising_head h) (rising_above (rising_tail h) y e)

theorem rising_cons {α : Type} {x : Nat × α} {l : List (Nat × α)} (h : rising l = true) (hx : ∀ y ∈ l, x.1 < y.1) : rising (x :: l) = true := by
  cases l with
  | nil => rfl
  | cons y t => simp [rising, h, hx y (by simp)]

/-- Leaving entries out keeps keys rising. -/
theorem rising_filter {α : Type} (f : Nat × α → Bool) : ∀ {l : List (Nat × α)}, rising l = true → rising (l.filter f) = true
  | [], _ => rfl
  | x :: l, h => by
    have ih := rising_filter f (rising_tail h)
    by_cases e : f x = true
    · rw [List.filter_cons_of_pos e]
      exact rising_cons ih (fun y hy => rising_above h y (List.mem_filter.1 hy).1)
    · rw [List.filter_cons_of_neg e]
      exact ih

theorem Sparse.wf_iff {n : Nat} {m : Sparse n} : Sparse.wf m = true ↔ rising m = true ∧ ∀ x ∈ m, x.2 ≠ 0 := by
  simp [Sparse.wf]

theorem Sparse.wf_nil {n : Nat} : Sparse.wf ([] : Sparse n) = true := rfl

theorem Sparse.wf_tail {n : Nat} {x : Nat × BitVec n} {m : Sparse n} (h : Sparse.wf (x :: m) = true) : Sparse.wf m = true := by
  rw [Sparse.wf_iff] at h ⊢
  exact ⟨rising_tail h.1, fun y hy => h.2 y (by simp [hy])⟩

theorem Sparse.wf_filter {n : Nat} (f : Nat × BitVec n → Bool) {m : Sparse n} (h : Sparse.wf m = true) : Sparse.wf (m.filter f) = true := by
  rw [Sparse.wf_iff] at h ⊢
  exact ⟨rising_filter f h.1, fun x hx => h.2 x (List.mem_filter.1 hx).1⟩

/-! ### Reading and writing -/

/-- A key below every entry reads 0. -/
theorem Sparse.rd_below {n : Nat} : ∀ {m : Sparse n} {k : Nat}, (∀ y ∈ m, k < y.1) → Sparse.rd m k = 0
  | [], _, _ => rfl
  | x :: l, k, h => by
    have := h x (by simp)
    rw [Sparse.rd, if_neg (by omega)]
    exact Sparse.rd_below (fun y hy => h y (by simp [hy]))

theorem Sparse.mem_put {n : Nat} {m : Sparse n} {k : Nat} {v : BitVec n} {y : Nat × BitVec n} (h : y ∈ Sparse.put m k v) : y = (k, v) ∨ y ∈ m := by
  induction m with
  | nil => simpa [Sparse.put] using h
  | cons x l ih =>
    unfold Sparse.put at h
    split at h
    · rcases List.mem_cons.1 h with e | e
      · exact .inl e
      · exact .inr e
    · rcases List.mem_cons.1 h with e | e
      · exact .inr (by simp [e])
      · rcases ih e with f | f
        · exact .inl f
        · exact .inr (by simp [f])

theorem Sparse.rising_put {n : Nat} {m : Sparse n} (h : rising m = true) (k : Nat) (v : BitVec n) (hk : ∀ y ∈ m, y.1 ≠ k) : rising (Sparse.put m k v) = true := by
  induction m with
  | nil => rfl
  | cons x l ih =>
    unfold Sparse.put
    split
    · refine rising_cons h fun y hy => ?_
      rcases List.mem_cons.1 hy with e | e
      · subst e; assumption
      · exact Nat.lt_trans (by assumption) (rising_above h y e)
    · refine rising_cons (ih (rising_tail h) fun y hy => hk y (by simp [hy])) fun y hy => ?_
      have := hk x (by simp)
      rcases Sparse.mem_put hy with e | e
      · rw [e]; simp only; omega
      · exact rising_above h y e

theorem Sparse.mem_cut {n : Nat} {m : Sparse n} {k : Nat} : ∀ y ∈ m.filter (fun x => x.1 != k), y.1 ≠ k := fun y hy => by
  simpa using (List.mem_filter.1 hy).2

/-- A write keeps the canonical form. -/
theorem Sparse.wf_wr {n : Nat} {m : Sparse n} (h : Sparse.wf m = true) (k : Nat) (v : BitVec n) : Sparse.wf (Sparse.wr m k v) = true := by
  have hf := Sparse.wf_filter (fun x => x.1 != k) h
  unfold Sparse.wr
  split
  · exact hf
  · rw [Sparse.wf_iff] at hf ⊢
    refine ⟨Sparse.rising_put hf.1 k v Sparse.mem_cut, fun y hy => ?_⟩
    rcases Sparse.mem_put hy with e | e
    · rw [e]; assumption
    · exact hf.2 y e

theorem Sparse.rd_none {n : Nat} : ∀ {m : Sparse n} {k : Nat}, (∀ y ∈ m, y.1 ≠ k) → Sparse.rd m k = 0
  | [], _, _ => rfl
  | x :: l, k, h => by
    rw [Sparse.rd, if_neg (h x (by simp))]
    exact Sparse.rd_none (fun y hy => h y (by simp [hy]))

theorem Sparse.rd_put_same {n : Nat} {m : Sparse n} {k : Nat} {v : BitVec n} (h : ∀ y ∈ m, y.1 ≠ k) : Sparse.rd (Sparse.put m k v) k = v := by
  induction m with
  | nil => simp [Sparse.put, Sparse.rd]
  | cons x l ih =>
    unfold Sparse.put
    split
    · simp [Sparse.rd]
    · rw [Sparse.rd, if_neg (h x (by simp))]
      exact ih fun y hy => h y (by simp [hy])

theorem Sparse.rd_put_other {n : Nat} {m : Sparse n} {k j : Nat} {v : BitVec n} (h : k ≠ j) : Sparse.rd (Sparse.put m k v) j = Sparse.rd m j := by
  induction m with
  | nil => simp [Sparse.put, Sparse.rd, h]
  | cons x l ih =>
    unfold Sparse.put
    split
    · rw [Sparse.rd, if_neg h]
    · rw [Sparse.rd, Sparse.rd, ih]

theorem Sparse.rd_cut {n : Nat} {m : Sparse n} {k j : Nat} (h : k ≠ j) : Sparse.rd (m.filter (fun x => x.1 != k)) j = Sparse.rd m j := by
  induction m with
  | nil => rfl
  | cons x l ih =>
    rw [List.filter_cons]
    split
    · rw [Sparse.rd, Sparse.rd, ih]
    · rename_i e
      have : x.1 = k := by simpa using e
      rw [ih, Sparse.rd, if_neg (by omega)]

/-- Reading what was written. -/
@[simp] theorem Sparse.rd_wr_same {n : Nat} (m : Sparse n) (k : Nat) (v : BitVec n) : Sparse.rd (Sparse.wr m k v) k = v := by
  unfold Sparse.wr
  split
  · rename_i e
    rw [e, Sparse.rd_none Sparse.mem_cut]
  · exact Sparse.rd_put_same Sparse.mem_cut

/-- Any other key reads as before. -/
theorem Sparse.rd_wr_other {n : Nat} (m : Sparse n) {k j : Nat} (v : BitVec n) (h : k ≠ j) : Sparse.rd (Sparse.wr m k v) j = Sparse.rd m j := by
  unfold Sparse.wr
  split
  · exact Sparse.rd_cut h
  · rw [Sparse.rd_put_other h, Sparse.rd_cut h]

theorem Sparse.rd_wr {n : Nat} (m : Sparse n) (k : Nat) (v : BitVec n) (j : Nat) : Sparse.rd (Sparse.wr m k v) j = if k = j then v else Sparse.rd m j := by
  by_cases e : k = j
  · subst e; simp
  · simp [e, Sparse.rd_wr_other m v e]

/-- Equal readings of canonical maps are equal maps. -/
theorem Sparse.ext_rd {n : Nat} : ∀ {a b : Sparse n}, Sparse.wf a = true → Sparse.wf b = true → (∀ k, Sparse.rd a k = Sparse.rd b k) → a = b
  | [], [], _, _, _ => rfl
  | [], y :: b, _, hb, h => by
    have := h y.1
    simp only [Sparse.rd, if_true] at this
    exact absurd this.symm ((Sparse.wf_iff.1 hb).2 y (by simp))
  | x :: a, [], ha, _, h => by
    have := h x.1
    simp only [Sparse.rd, if_true] at this
    exact absurd this ((Sparse.wf_iff.1 ha).2 x (by simp))
  | x :: a, y :: b, ha, hb, h => by
    have ha' := Sparse.wf_iff.1 ha
    have hb' := Sparse.wf_iff.1 hb
    have hxa := rising_above ha'.1
    have hyb := rising_above hb'.1
    have key : x.1 = y.1 := by
      rcases Nat.lt_trichotomy x.1 y.1 with e | e | e
      · have := h x.1
        rw [Sparse.rd, if_pos rfl, Sparse.rd, if_neg (by omega), Sparse.rd_below (fun z hz => Nat.lt_trans e (hyb z hz))] at this
        exact absurd this (ha'.2 x (by simp))
      · exact e
      · have := h y.1
        rw [Sparse.rd, if_neg (by omega), Sparse.rd_below (fun z hz => Nat.lt_trans e (hxa z hz)), Sparse.rd, if_pos rfl] at this
        exact absurd this.symm (hb'.2 y (by simp))
    have val : x.2 = y.2 := by
      have := h x.1
      rwa [Sparse.rd, if_pos rfl, Sparse.rd, if_pos key.symm] at this
    have tail : a = b := by
      refine Sparse.ext_rd (Sparse.wf_tail ha) (Sparse.wf_tail hb) fun k => ?_
      have := h k
      rw [Sparse.rd, Sparse.rd] at this
      by_cases e : x.1 = k
      · rw [Sparse.rd_below (fun z hz => e ▸ hxa z hz), Sparse.rd_below (fun z hz => by have := hyb z hz; omega)]
      · rwa [if_neg e, if_neg (by omega)] at this
    rw [tail, Prod.ext key val]

/-! ### The register file -/

theorem Core.reg_setReg (k : Core) (l e : Nat) (v : W32) (l' e' : Nat) :
    (k.setReg l e v).reg l' e' = if l * 512 + e = l' * 512 + e' then v else k.reg l' e' := Sparse.rd_wr _ _ _ _

end Sys2Proof.Machine
end

