-- ==== Sys2Proof/Laws/MemoryOps.lean ====
section
/-! SUPPORT. The operations over memory: that each of them keeps the memories in their canonical form, and what a byte reads as after a write. -/

namespace Sys2Proof.Machine

/-! ### The canonical form is kept -/

theorem State.memWf_iff {s : State} : s.memWf = true ↔ Memory.wf s.dram = true ∧ Memory.wf s.hostMem = true := by simp [State.memWf]

/-- The form depends on DRAM and host memory alone. -/
theorem State.memWf_same {s t : State} (hd : t.dram = s.dram) (hh : t.hostMem = s.hostMem) : t.memWf = s.memWf := by simp [State.memWf, hd, hh]

@[simp] theorem State.memWf_setPart (s : State) (q : Nat) (p : Part) : (s.setPart q p).memWf = s.memWf := rfl
@[simp] theorem State.memWf_modPart (s : State) (q : Nat) (f : Part → Part) : (s.modPart q f).memWf = s.memWf := rfl
@[simp] theorem State.memWf_lagging (s : State) (q by_ : Nat) (cmd : Option (WRef × Nat)) (l : Loc) (bs : List Byte) : (s.lagging q by_ cmd l bs).memWf = s.memWf := rfl

theorem State.memWf_wrDram {s : State} (h : s.memWf = true) (q pa : Nat) (b : Byte) : (s.wrDram q pa b).memWf = true := by
  rw [State.memWf_iff] at h ⊢
  exact ⟨Sparse.wf_wr h.1 _ _, h.2⟩

theorem State.memWf_wrDramL : ∀ {s : State} (_ : s.memWf = true) (q pa : Nat) (l : List Byte), (s.wrDramL q pa l).memWf = true
  | _, h, _, _, [] => h
  | _, h, q, pa, b :: l => State.memWf_wrDramL (State.memWf_wrDram h q pa b) q (pa + 1) l

theorem State.memWf_wrHost {s : State} (h : s.memWf = true) (pa : Nat) (b : Byte) : (s.wrHost pa b).memWf = true := by
  rw [State.memWf_iff] at h ⊢
  exact ⟨h.1, Sparse.wf_wr h.2 _ _⟩

/-- A fold of steps that each keep the form keeps it. -/
theorem State.memWf_foldl {α : Type} {f : State → α → State} (hf : ∀ s a, s.memWf = true → (f s a).memWf = true) :
    ∀ (l : List α) {s : State}, s.memWf = true → (l.foldl f s).memWf = true
  | [], _, h => h
  | a :: l, s, h => State.memWf_foldl hf l (hf s a h)

theorem State.memWf_wrLoc {s : State} (h : s.memWf = true) (q g : Nat) (l : Loc) (b : Byte) : (s.wrLoc q g l b).memWf = true := by
  cases l with
  | scratch c o => exact h
  | dev pa =>
    unfold State.wrLoc
    simp only
    split
    · exact h
    · exact State.memWf_wrDram (by exact h) _ _ _
  | host pa => exact State.memWf_wrHost (by exact h) _ _

theorem State.memWf_wrLocL : ∀ {s : State} (_ : s.memWf = true) (q g : Nat) (l : Loc) (bs : List Byte), (s.wrLocL q g l bs).memWf = true
  | _, h, _, _, _, [] => h
  | _, h, q, g, l, b :: bs => State.memWf_wrLocL (State.memWf_wrLoc h q g l b) q g (l.add 1) bs

/-- A fold of steps that each leave DRAM and host memory leaves them. -/
theorem State.memories_foldl {α : Type} {f : State → α → State} (hf : ∀ s a, (f s a).dram = s.dram ∧ (f s a).hostMem = s.hostMem) :
    ∀ (l : List α) (s : State), (l.foldl f s).dram = s.dram ∧ (l.foldl f s).hostMem = s.hostMem
  | [], _ => ⟨rfl, rfl⟩
  | a :: l, s => by
    have h := State.memories_foldl hf l (f s a)
    exact ⟨h.1.trans (hf s a).1, h.2.trans (hf s a).2⟩

/-- Clearing the codes of whole sectors leaves the memories. -/
theorem State.clearUe_memories (s : State) (q : Nat) (g c : Option Nat) (ls : List Loc) : (s.clearUe q g c ls).dram = s.dram ∧ (s.clearUe q g c ls).hostMem = s.hostMem := by
  unfold State.clearUe
  split
  · exact ⟨rfl, rfl⟩
  · refine State.memories_foldl (fun s b => ?_) _ _
    dsimp only
    split <;> exact ⟨rfl, rfl⟩

@[simp] theorem State.memWf_clearUe (s : State) (q : Nat) (g c : Option Nat) (ls : List Loc) : (s.clearUe q g c ls).memWf = s.memWf :=
  State.memWf_same (State.clearUe_memories ..).1 (State.clearUe_memories ..).2

/-- Logging uncorrectable sectors of a line leaves the memories. -/
theorem State.logBits_memories (s : State) (q line : Nat) (mask : BitVec 4) : (s.logBits q line mask).dram = s.dram ∧ (s.logBits q line mask).hostMem = s.hostMem := by
  refine State.memories_foldl (fun s i => ?_) _ _
  split <;> exact ⟨rfl, rfl⟩

theorem State.logLine_memories (s : State) (q line : Nat) : (s.logLine q line).dram = s.dram ∧ (s.logLine q line).hostMem = s.hostMem := by
  unfold State.logLine
  split
  · exact ⟨rfl, rfl⟩
  · refine State.memories_foldl (fun s i => ?_) _ _
    dsimp only
    split <;> exact ⟨rfl, rfl⟩

/-- Moving codes to home's sectors leaves the memories. -/
theorem State.markHome_memories (s : State) (q line : Nat) (mask bad : BitVec 4) : (s.markHome q line mask bad).dram = s.dram ∧ (s.markHome q line mask bad).hostMem = s.hostMem := by
  unfold State.markHome
  dsimp only
  split <;> exact ⟨rfl, rfl⟩

/-- A write-back of a cluster cache's sectors leaves the memories: the tags hold no bytes. -/
theorem State.writeBack_memories (s : State) (q : Nat) (pay : Payer) (x : CcLine) (mask : BitVec 4) :
    (s.writeBack q pay x mask).dram = s.dram ∧ (s.writeBack q pay x mask).hostMem = s.hostMem := by
  unfold State.writeBack
  dsimp only
  split
  · exact ⟨rfl, rfl⟩
  · have h := State.logBits_memories s q x.line (x.bad &&& (x.dirty &&& mask))
    split <;> split <;> first | exact ⟨rfl, rfl⟩ | exact h | exact State.markHome_memories .. |
      exact ⟨(State.markHome_memories ..).1.trans h.1, (State.markHome_memories ..).2.trans h.2⟩

/-- Dropping other copies of a grain leaves the memories. -/
theorem State.dropCopies_memories (s : State) (q : Nat) (pay : Payer) (c : Option Nat) (l : Loc) (n : Nat) :
    (s.dropCopies q pay c l n).dram = s.dram ∧ (s.dropCopies q pay c l n).hostMem = s.hostMem := by
  have grain (s : State) (host : Bool) (pa : Nat) : (s.grainDrop q pay c host pa).dram = s.dram ∧ (s.grainDrop q pay c host pa).hostMem = s.hostMem := by
    refine State.memories_foldl (fun s k => ?_) _ _
    dsimp only
    split
    · exact ⟨rfl, rfl⟩
    · have h := State.memories_foldl (f := fun s x => s.writeBack q pay x (x.touched host pa)) (fun s x => State.writeBack_memories s q pay x _)
        (k.2.cc.filter (fun x => x.touched host pa != 0)) s
      split <;> exact h
  cases l with
  | scratch _ _ => exact ⟨rfl, rfl⟩
  | dev pa => exact State.memories_foldl (fun s i => grain s _ _) _ _
  | host pa => exact State.memories_foldl (fun s i => grain s _ _) _ _

@[simp] theorem State.memWf_dropCopies (s : State) (q : Nat) (pay : Payer) (c : Option Nat) (l : Loc) (n : Nat) : (s.dropCopies q pay c l n).memWf = s.memWf :=
  State.memWf_same (State.dropCopies_memories ..).1 (State.dropCopies_memories ..).2

theorem State.memWf_unpark {s : State} (h : s.memWf = true) (q : Nat) (pay : Payer) (line : Nat) : (s.unpark q pay line).memWf = true := by
  unfold State.unpark
  split
  · exact h
  · rename_i d _
    have k := State.memWf_wrDramL (s := s.modPart q (fun p => { p with dir := p.dir.filter (fun x => x.line != line) })) (by exact h) q (line * 128) d.data
    have m := State.logLine_memories ((s.modPart q (fun p => { p with dir := p.dir.filter (fun x => x.line != line) })).wrDramL q (line * 128) d.data) q line
    exact (State.memWf_same m.1 m.2).trans k

theorem State.memWf_store {s : State} (h : s.memWf = true) (q g : Nat) (pay : Payer) (l : Loc) (bs : List Byte) : (s.store q g pay l bs).memWf = true := by
  unfold State.store
  simp only [State.memWf_dropCopies]
  refine State.memWf_wrLocL ?_ _ _ _ _
  rw [State.memWf_lagging]
  cases l with
  | dev pa => exact State.memWf_foldl (fun s n h => State.memWf_unpark h q pay n) _ h
  | host pa => exact h
  | scratch c o => exact h

theorem State.memWf_engStore {s : State} (h : s.memWf = true) (q : Nat) (pay : Payer) (c : Option Nat) (l : Loc) (bs : List Byte) :
    (s.engStore q pay c l bs).memWf = true := by
  unfold State.engStore
  rw [State.memWf_clearUe]
  cases l with
  | dev pa =>
    rw [State.memWf_dropCopies]
    exact State.memWf_wrDramL (State.memWf_foldl (fun s n h => State.memWf_unpark h q pay n) _ h) _ _ _
  | host pa =>
    rw [State.memWf_dropCopies]
    exact State.memWf_foldl (fun s i h => State.memWf_wrHost h _ _) _ h
  | scratch c o => exact h

/-! ### Reading after a write -/

theorem State.rdDram_wrDram (s : State) (q pa : Nat) (b : Byte) (r a : Nat) :
    (s.wrDram q pa b).rdDram r a = if s.dramKey q pa = s.dramKey r a then b else s.rdDram r a := Sparse.rd_wr _ _ _ _

theorem State.rdHost_wrHost (s : State) (pa : Nat) (b : Byte) (a : Nat) : (s.wrHost pa b).rdHost a = if pa = a then b else s.rdHost a := Sparse.rd_wr _ _ _ _

@[simp] theorem State.rdDram_wrHost (s : State) (pa : Nat) (b : Byte) (q a : Nat) : (s.wrHost pa b).rdDram q a = s.rdDram q a := rfl
@[simp] theorem State.rdHost_wrDram (s : State) (q pa : Nat) (b : Byte) (a : Nat) : (s.wrDram q pa b).rdHost a = s.rdHost a := rfl

end Sys2Proof.Machine
end

