-- ==== Sys2Proof/Laws/Words.lean ====
section
/-! SUPPORT. The frame of a word, once for all meanings: what a word that issues leaves, and how a run of one word commits in a quiet partition. -/

namespace Sys2Proof.Machine

/-! ### A word that issues -/

/-- Nothing on its way: nothing to perform. -/
theorem State.drainAll_nil {s : State} {q : Nat} (h : (s.part q).placeQ = []) : s.drainAll q = s := by
  simp [State.drainAll, h]

/-- The frame's own checks let a word through to its meaning. -/
theorem Env.eval_ok {e : Env} {regs : List Nat × List Nat} {a : Bool} {f : Env → Word} (h1 : e.run.words + e.iss.len / 4 ≤ 32)
    (h2 : e.c.x.beyond e.run.start (e.iss.addr + BitVec.ofNat 64 (e.iss.len - 4)) = false) (h3 : e.c.x.refillRun = false ∨ a = true) (h4 : regBound e.c.x.n regs = none) :
    e.eval regs a f = f e := by
  unfold Env.eval
  rw [if_neg (by omega), if_neg (by simp [h2]), if_neg (by rcases h3 with h | h <;> simp [h]), h4]

/-- A word that is taken answers the state with it queued, evaluated against the frame. -/
theorem withWord_takes {s : State} {i : Instr} {iss : Issue} {c : Ctx} (h : Takes s i iss c) (f : State → Env → Word) :
    withWord s i f =
      .next (s.issued iss c ((s.env iss c).eval (physRegs c.x.wb i iss.pfx) (decide (i = .refill)) (f (s.begun iss c)))) := by
  unfold withWord
  rw [h.cur]
  simp only
  rw [h.ctx]
  simp only [State.issueWord, h.takes, Bool.not_true, if_neg Bool.false_ne_true]
  rfl

/-- A word that issues answers the state with what its meaning gives queued on its run. -/
theorem withWord_issues {s : State} {i : Instr} {iss : Issue} {c : Ctx} (h : Issues s i iss c) (f : State → Env → Word) :
    withWord s i f = .next (s.issued iss c (f (s.begun iss c) (s.env iss c))) := by
  rw [withWord_takes h.toTakes, Env.eval_ok h.room h.body ?_ h.bound]
  rcases h.effect with e | e
  · exact .inl e
  · exact .inr (by simp [e])

/-- A meaning that is the frame around `f` queues what `f` gives. -/
theorem Queues.of {i : Instr} {ok : State → Env → Prop} {f w : State → Env → Word} (hx : ∀ s, exec i s = withWord s i f)
    (hw : ∀ s e, ok s e → f s e = w s e) : Queues i ok w := by
  intro s iss c h hok
  rw [hx, withWord_issues h, hw _ _ hok]

/-! ### Contexts -/

/-- A context, taken apart. -/
theorem Part.ctx_some {p : Part} {w : WRef} {c : Ctx} (h : p.ctx w = some c) :
    c.w = w ∧ p.warp w = some c.x ∧ p.block? c.x.block = some c.blk ∧ p.gang? c.blk.gang = some c.gang ∧ p.grid? c.blk.grid = some c.grid := by
  simp only [Part.ctx, Option.bind_eq_bind, Option.bind_eq_some_iff, Option.pure_def, Option.some.injEq] at h
  obtain ⟨x, hx, b, hb, g, hg, r, hr, rfl⟩ := h
  exact ⟨rfl, hx, hb, hg, hr⟩

/-- A context, put together. -/
theorem Part.ctx_mk {p : Part} {w : WRef} {x : Warp} {b : Block} {g : Gang} {r : Grid} (h1 : p.warp w = some x) (h2 : p.block? x.block = some b)
    (h3 : p.gang? b.gang = some g) (h4 : p.grid? b.grid = some r) : p.ctx w = some ⟨w, x, b, g, r⟩ := by
  simp [Part.ctx, h1, h2, h3, h4]

/-! ### A partition in which only one warp and its core's file have moved -/

/-- Setting a key twice. -/
theorem AMap.wr_wr {α : Type} (m : AMap α) (k : Nat) (u v : α) : AMap.wr (AMap.wr m k u) k v = AMap.wr m k v := by
  induction m with
  | nil => simp [AMap.wr]
  | cons x l ih =>
    by_cases h1 : k < x.1
    · simp [AMap.wr, h1]
    · by_cases h2 : k = x.1
      · simp [AMap.wr, h2]
      · simp [AMap.wr, h1, h2, ih]

theorem AMap.find_mem {α : Type} {m : AMap α} {k : Nat} {v : α} (h : AMap.find m k = some v) : (k, v) ∈ m := by
  induction m with
  | nil => simp [AMap.find] at h
  | cons x l ih =>
    unfold AMap.find at h
    split at h
    · rename_i e
      obtain rfl := Option.some.inj h
      exact List.mem_cons.2 (.inl (by rw [← e]))
    · exact List.mem_cons.2 (.inr (ih h))

theorem AMap.mem_wr {α : Type} {m : AMap α} {k : Nat} {v : α} {y : Nat × α} (h : y ∈ AMap.wr m k v) : y = (k, v) ∨ y ∈ m := by
  induction m with
  | nil => simpa [AMap.wr] using h
  | cons x l ih =>
    unfold AMap.wr at h
    split at h
    · simpa using h
    · split at h
      · rcases List.mem_cons.1 h with e | e
        · exact .inl e
        · exact .inr (by simp [e])
      · rcases List.mem_cons.1 h with e | e
        · exact .inr (by simp [e])
        · rcases ih e with f | f
          · exact .inl f
          · exact .inr (by simp [f])

/-- Cores in which only the file of core `g` may have moved. -/
structure FileOnly (a b : AMap Core) (g : Nat) (rf : Nat → W32) : Prop where
  other : ∀ h, h ≠ g → AMap.rd Core.reset b h = AMap.rd Core.reset a h
  same : { AMap.rd Core.reset b g with rf := (AMap.rd Core.reset a g).rf } = AMap.rd Core.reset a g
  file : ∀ k, Sparse.rd (AMap.rd Core.reset b g).rf k = rf k

/-- The partition with the warp of a context as `x`, and cores `cs`. -/
def Part.holding (p : Part) (w : WRef) (x : Warp) (cs : AMap Core) : Part := { p with warps := AMap.wr p.warps (wkey w) x, cores := cs }

section holding
variable (p : Part) (w : WRef) (x y : Warp) (cs ds : AMap Core)
@[simp] theorem Part.holding_warp : (p.holding w x cs).warp w = some x := AMap.find_wr_same _ _ _
@[simp] theorem Part.holding_core (g : Nat) : (p.holding w x cs).core g = AMap.rd Core.reset cs g := rfl
@[simp] theorem Part.holding_block (i : Nat) : (p.holding w x cs).block? i = p.block? i := rfl
@[simp] theorem Part.holding_gang (i : Nat) : (p.holding w x cs).gang? i = p.gang? i := rfl
@[simp] theorem Part.holding_grid (i : Nat) : (p.holding w x cs).grid? i = p.grid? i := rfl
@[simp] theorem Part.holding_csr : (p.holding w x cs).csr = p.csr := rfl
@[simp] theorem Part.holding_placeQ : (p.holding w x cs).placeQ = p.placeQ := rfl
@[simp] theorem Part.holding_swaps : (p.holding w x cs).swaps = p.swaps := rfl
@[simp] theorem Part.holding_queue (i : Nat) : (p.holding w x cs).queue i = p.queue i := rfl
@[simp] theorem Part.holding_warps : (p.holding w x cs).warps = AMap.wr p.warps (wkey w) x := rfl
@[simp] theorem Part.holding_setWarp : (p.holding w x cs).setWarp w y = p.holding w y cs := by
  simp [Part.holding, Part.setWarp, AMap.wr_wr]
@[simp] theorem Part.holding_modWarp (f : Warp → Warp) : (p.holding w x cs).modWarp w f = p.holding w (f x) cs := by
  unfold Part.modWarp
  rw [Part.holding_warp]
  simp
@[simp] theorem Part.holding_setCore (g : Nat) (k : Core) : (p.holding w x cs).setCore g k = p.holding w x (AMap.wr cs g k) := rfl
@[simp] theorem Part.holding_holding : (p.holding w x cs).holding w y ds = p.holding w y ds := by
  simp [Part.holding, AMap.wr_wr]
end holding

/-- The state with nothing being issued and its partition so. -/
def State.held (s : State) (q : Nat) (w : WRef) (x : Warp) (cs : AMap Core) : State := ({ s with cur := none } : State).setPart q ((s.part q).holding w x cs)

section held
variable (s : State) (q : Nat) (w : WRef) (x y : Warp) (cs : AMap Core)
@[simp] theorem State.held_part : (s.held q w x cs).part q = (s.part q).holding w x cs := State.setPart_part _ _ _
@[simp] theorem State.held_now : (s.held q w x cs).now = s.now := rfl
theorem State.held_modPart (f : Part → Part) (h : f ((s.part q).holding w x cs) = (s.part q).holding w y cs) : (s.held q w x cs).modPart q f = s.held q w y cs := by
  unfold State.modPart
  rw [State.held_part, h]
  simp [State.held]
@[simp] theorem State.held_setWarp : (s.held q w x cs).modPart q (fun p => p.setWarp w y) = s.held q w y cs := State.held_modPart _ _ _ _ _ _ _ (by simp)
@[simp] theorem State.held_modWarp (f : Warp → Warp) : (s.held q w x cs).modPart q (fun p => p.modWarp w f) = s.held q w (f x) cs :=
  State.held_modPart _ _ _ _ _ _ _ (by simp)
@[simp] theorem State.held_modW (f : Warp → Warp) : (s.held q w x cs).modW q w f = s.held q w (f x) cs := State.held_modWarp _ _ _ _ _ _
end held

/-- Its context. -/
theorem State.held_ctx {s : State} {q : Nat} {w : WRef} {c : Ctx} (h : (s.part q).ctx w = some c) {x : Warp} (hx : x.block = c.x.block) (cs : AMap Core) :
    ((s.part q).holding w x cs).ctx w = some { c with x := x } := by
  obtain ⟨hw, -, hb, hg, hr⟩ := Part.ctx_some h
  rw [← hw]
  exact Part.ctx_mk (by simp) (by rw [hx]; exact hb) hg hr

theorem Lone.begun {s : State} {i : Instr} {iss : Issue} {c : Ctx} (h : Lone s i iss c) : s.begun iss c = { s with cur := none } := by
  simp only [State.begun, h.fresh]
  exact State.drainAll_nil h.placed

/-- What the frame queues, for a run that the word opens. -/
theorem Lone.queued {s : State} {i : Instr} {iss : Issue} {c : Ctx} (h : Lone s i iss c) (w : Word) :
    s.queued iss c w = s.held iss.q c.w { c.x with last := s.now, run := some ((s.runAt iss c).add iss w) } (s.part iss.q).cores := by
  simp only [State.queued, h.begun]
  rfl

/-- One register effect. -/
theorem State.held_doAct {s : State} {q : Nat} {w : WRef} {x : Warp} {cs : AMap Core} {rf : Nat → W32} (r : Run) (plan : Plan) {a : Act} (ha : a.isReg = true)
    (hc : FileOnly (s.part q).cores cs w.core rf) :
    ∃ ds, (s.held q w x cs).doAct q w r plan a = s.held q w (x.took a) ds ∧ FileOnly (s.part q).cores ds w.core (fun k => a.file k (rf k)) := by
  cases a <;> simp only [Act.isReg, Bool.false_eq_true] at ha
  case v lane e mask val =>
    refine ⟨AMap.wr cs w.core ((AMap.rd Core.reset cs w.core).setReg lane e
      (((AMap.rd Core.reset cs w.core).reg lane e &&& ~~~mask) ||| (val &&& mask))), ?_, ?_⟩
    · simp [State.doAct, State.modPart, State.held, Warp.took]
    · refine ⟨fun h hh => ?_, ?_, fun k => ?_⟩
      · rw [AMap.rd_wr_other _ _ _ (Ne.symm hh), hc.other h hh]
      · rw [AMap.rd_wr_same]
        exact hc.same
      · rw [AMap.rd_wr_same]
        simp only [Core.setReg, Sparse.rd_wr, Act.file, ← hc.file, Core.reg]
        split
        · simp_all
        · rfl
  all_goals exact ⟨cs, by simp only [State.doAct, State.held_modWarp]; rfl, hc⟩

/-- Register effects in order. -/
theorem State.held_doActList {s : State} {q : Nat} {w : WRef} (r : Run) (plan : Plan) : ∀ {l : List Act} {x : Warp} {cs : AMap Core} {rf : Nat → W32}, (∀ a ∈ l, a.isReg = true) →
    FileOnly (s.part q).cores cs w.core rf → ∃ ds, l.foldl (fun s a => s.doAct q w r plan a) (s.held q w x cs) = s.held q w (l.foldl Warp.took x) ds ∧
      FileOnly (s.part q).cores ds w.core (fun k => l.foldl (Act.file k) (rf k))
  | [], _, cs, _, _, hc => ⟨cs, rfl, hc⟩
  | a :: l, x, cs, rf, hl, hc => by
    obtain ⟨ds, h1, h2⟩ := State.held_doAct (s := s) (x := x) r plan (hl a (by simp)) hc
    obtain ⟨es, h3, h4⟩ := State.held_doActList r plan (l := l) (x := x.took a) (fun b hb => hl b (by simp [hb])) h2
    exact ⟨es, by rw [List.foldl_cons, h1, h3, List.foldl_cons], h4⟩

theorem State.doLoadActs_reg (q : Nat) (w : WRef) : ∀ (l : List Act) (s : State), (∀ a ∈ l, a.isReg = true) → l.foldl (fun s a => s.doLoadAct q w a) s = s
  | [], _, _ => rfl
  | a :: l, s, h => by
    have : s.doLoadAct q w a = s := by
      have := h a (by simp)
      cases a <;> simp_all [Act.isReg, State.doLoadAct]
    rw [List.foldl_cons, this, State.doLoadActs_reg q w l s (fun b hb => h b (by simp [hb]))]

/-- The effects of a run that holds register effects only. -/
theorem State.held_doActs {s : State} {q : Nat} {c : Ctx} {x : Warp} {cs : AMap Core} {rf : Nat → W32} (r : Run) (hp : (s.part q).placeQ = [])
    (hreg : ∀ a ∈ r.acts, a.isReg = true) (hf : FileOnly (s.part q).cores cs c.w.core rf) :
    ∃ ds, (s.held q c.w x cs).doActs q c r = s.held q c.w (r.acts.foldl Warp.took x) ds ∧ FileOnly (s.part q).cores ds c.w.core (fun k => r.acts.foldl (Act.file k) (rf k)) := by
  have hno : ∀ a ∈ r.acts, a.isTlbi = false := fun a ha => by
    have := hreg a ha
    cases a <;> first | rfl | simp [Act.isReg] at this
  have h1 : r.acts.filter (fun a => !a.isTlbi) = r.acts := List.filter_eq_self.2 fun a ha => by simp [hno a ha]
  have h2 : r.acts.filter Act.isTlbi = [] := List.filter_eq_nil_iff.2 fun a ha => by simp [hno a ha]
  obtain ⟨ds, h3, h4⟩ := State.held_doActList (s := s) (x := x) r (((s.held q c.w x cs).part q).plan c r.acts) hreg hf
  refine ⟨ds, ?_, h4⟩
  unfold State.doActs
  simp only
  rw [State.doLoadActs_reg _ _ _ _ hreg, h1, h2, h3]
  split
  · rw [State.drainAll_nil (by simpa using hp)]
    rfl
  · rfl

/-! ### The end of a run of one word -/

theorem List.foldl_same {α β : Type} (f : β → α → β) : ∀ (l : List α) (b : β), (∀ a ∈ l, f b a = b) → l.foldl f b = b
  | [], _, _ => rfl
  | a :: l, b, h => by
    rw [List.foldl_cons, h a (by simp)]
    exact List.foldl_same f l b (fun x hx => h x (by simp [hx]))

/-- No warp of a partition waits on an async barrier object: none is woken. -/
theorem State.wakeAb_none {s : State} {q : Nat} (h : ∀ y ∈ (s.part q).warps, ∀ l g t, y.2.wait ≠ .abwait l g t) : s.wakeAb q = s := by
  unfold State.wakeAb
  refine List.foldl_same _ _ _ fun y hy => ?_
  have := h y hy
  split
  · rename_i l g t e
    exact absurd e (this l g t)
  · rfl

/-- A warp with a lane on its path stays as it is after a commit. -/
theorem State.settleWarp_path {s : State} {q : Nat} {w : WRef} {c : Ctx} (h : (s.part q).ctx w = some c) (hp : c.x.path ≠ 0) : s.settleWarp q w = s := by
  have hl : c.x.live ≠ 0 := by
    intro e
    apply hp
    simp [Warp.path, e]
  unfold State.settleWarp
  simp only [h]
  simp only [if_neg hl]
  split
  · rfl
  · unfold State.unwind
    rw [(Part.ctx_some h).2.1]
    simp only
    rw [if_pos (by rw [bne_iff_ne.2 hp]; rfl)]

theorem Part.swapStops_nil {p : Part} (h : p.swaps = []) (now : Nat) : p.swapStops now = p := by simp [Part.swapStops, h]

theorem Part.boundaryStop_nil {p : Part} (h : p.swaps = []) (w : WRef) (m : Option (BitVec 18)) (now : Nat) : p.boundaryStop w m now = p := by
  have : p.swapOf w = none := by
    unfold Part.swapOf
    split <;> simp [h]
  unfold Part.boundaryStop
  rw [this]

/-- What follows a commit changes nothing in a quiet partition: no swap, no warp on an object, no loop, a lane left on the path, and no `trap`. -/
theorem State.held_afterCommit {s : State} {q : Nat} {w : WRef} {c : Ctx} {x : Warp} {cs : AMap Core} {r : Run} (h : (s.part q).ctx w = some c)
    (hb : x.block = c.x.block) (hp : x.path ≠ 0) (hs : (s.part q).swaps = []) (ht : ∀ a, r.term ≠ .trap a)
    (hw : ∀ y ∈ (s.part q).warps, ∀ l g t, y.2.wait ≠ .abwait l g t) (hx : ∀ l g t, x.wait ≠ .abwait l g t) :
    (s.held q w x cs).afterCommit q w r = s.held q w x cs := by
  have hc := State.held_ctx h hb cs
  have h2 : (s.held q w x cs).afterTrap q w r = s.held q w x cs := by
    unfold State.afterTrap
    split
    · rename_i a _ e _
      exact absurd e (ht a)
    · rfl
  have h3 : (s.held q w x cs).modPart q (fun p => (p.boundaryStop w r.safept (s.held q w x cs).now).swapStops (s.held q w x cs).now) = s.held q w x cs := by
    refine State.held_modPart _ _ _ _ _ _ _ ?_
    rw [Part.boundaryStop_nil (by simpa using hs), Part.swapStops_nil (by simpa using hs)]
  unfold State.afterCommit
  simp only
  rw [h2, State.settleWarp_path (by simpa using hc) hp, h3]
  refine State.wakeAb_none fun y hy => ?_
  simp only [State.held_part, Part.holding_warps] at hy
  rcases AMap.mem_wr hy with e | e
  · rw [e]; exact hx
  · exact hw y e

/-- The loop test changes nothing outside loops: the end of a run is its run-terminal operation. -/
theorem State.held_endRun {s : State} {q : Nat} {w : WRef} {c : Ctx} {x y : Warp} {cs ds : AMap Core} {r : Run} {k : Core} (hw : c.w = w) (hx : x.levels = [])
    (hy : y.levels = []) (h : (s.held q w x cs).doTerm q w r c.x k = s.held q w y ds) : (s.held q w x cs).endRun q c r k = s.held q w y ds := by
  subst hw
  have loops (z : Warp) (ds : AMap Core) (hz : z.levels = []) : (s.held q c.w z ds).loopTest q c r = s.held q c.w z ds := by
    unfold State.loopTest
    have e : z.loopEnd r.last 4 = z := by simp [Warp.loopEnd, hz]
    rw [State.held_modW, e, ite_self]
  unfold State.endRun
  split
  · rw [loops x cs hx, h]
  · rw [loops x cs hx, h]
  · rw [h, loops y ds hy]

/-- A warp with a lane on its path waits for no reload. -/
theorem State.held_unstuck {s : State} {q : Nat} {w : WRef} {c : Ctx} {x : Warp} {cs : AMap Core} (h : (s.part q).ctx w = some c) (hb : x.block = c.x.block)
    (hp : x.path ≠ 0) : (s.held q w x cs).stuck q w = none := by
  unfold State.stuck
  rw [State.held_part, State.held_ctx h hb cs]
  exact if_pos (.inr hp)

/-- A warp whose unwind does not stand still has no failing reload. -/
theorem State.stuckFail_none {s : State} {q : Nat} {w : WRef} (h : s.stuck q w = none) : s.stuckFail q w = none := by
  unfold State.stuckFail
  rw [h]
  split <;> simp_all

/-- A run-terminal operation that accesses no spill area. -/
def Term.unspilled (t : Term) : Bool := match t with | .brv .. => false | .brxv .. => false | .split .. => false | _ => true

theorem State.commitFail_none {r : Run} (h : r.term.unspilled = true) (s : State) (q : Nat) (c : Ctx) : s.commitFail q c r = none := by
  unfold State.commitFail
  cases ht : r.term <;> simp_all [Term.unspilled]

/-- A commit that leaves the writes that paths may miss as they were. -/
theorem State.lagOnce_same {s : State} {q : Nat} {l : List Lag} (h : (s.part q).lag = l) : s.modPart q (fun p => p.lagOnce l) = s := by
  have : (s.part q).lagOnce l = s.part q := by
    unfold Part.lagOnce
    rw [if_pos h]
  unfold State.modPart
  dsimp only
  rw [this, State.setPart_self]

/-! ### The close of a run that holds no access -/

/-- A run without conditions or waits, of a class without a rate, closes into its commit. -/
theorem State.held_settles {s : State} {q : Nat} {w : WRef} {c : Ctx} {x : Warp} {cs : AMap Core} {r : Run} (h : (s.part q).ctx w = some c)
    (hb : x.block = c.x.block) (hr : x.run = some r) (hcond : r.cond = none) (hl : x.levels = []) (hu : (s.part q).csr.resv = [])
    (hlock : (s.held q w x cs).lockCond q { c with x := x } r = none) (hrace : (s.held q w x cs).raceCond q { c with x := x } r = none)
    (hreq : (s.held q w x cs).runBarred q { c with x := x } r ((s.held q w x cs).requests q { c with x := x } r) = [])
    (hready : ((s.part q).holding w x cs).runReady { c with x := x } { r with since := s.now } = true) (pos : Nat) (d : W64) :
    (s.held q w x cs).closeRun q w pos d = (s.held q w x cs).commit q { c with x := x } r := by
  have hc := State.held_ctx h hb cs
  have hloop : r.loopCond x c.grid.prio pos d = none := by
    have : ∀ y, loopBad y r.last (r.rdAfter x) x.levels = false := by simp [hl, loopBad]
    simp [Run.loopCond, this]
  have hinj : (s.held q w x cs).inject q { c with x := x } r = (s.held q w x cs, r) := by
    have hno : ∀ cls, ((s.held q w x cs).part q).reserves cls = false := fun cls => by simp [Part.reserves, PCsr.rate, hu, Sparse.rd, bits]
    unfold State.inject
    simp only [hreq, State.logBarred, List.foldl_nil, hno, Bool.not_false, if_true, List.isEmpty_nil, List.append_nil]
  unfold State.closeRun
  simp only [State.held_part, hc, hr, hloop, hlock, hrace, Cond.first, hinj]
  rw [hcond]
  simp only [hcond] at hready
  rw [if_pos (by simpa using hready)]

/-- A run without accesses, conditions or waits closes into its commit. -/
theorem State.held_closeRun {s : State} {q : Nat} {w : WRef} {c : Ctx} {x : Warp} {cs : AMap Core} {r : Run} (h : (s.part q).ctx w = some c)
    (hb : x.block = c.x.block) (hr : x.run = some r) (hcond : r.cond = none) (hl : x.levels = []) (hu : (s.part q).csr.resv = []) (hacc : r.accesses = [])
    (hreq : (s.held q w x cs).runBarred q { c with x := x } r ((s.held q w x cs).requests q { c with x := x } r) = [])
    (hready : ((s.part q).holding w x cs).runReady { c with x := x } { r with since := s.now } = true) (pos : Nat) (d : W64) :
    (s.held q w x cs).closeRun q w pos d = (s.held q w x cs).commit q { c with x := x } r :=
  State.held_settles h hb hr hcond hl hu (by simp [State.lockCond, hacc]) (by simp [State.raceCond, hacc]) hreq hready pos d

/-! ### A run of one word -/

/-- The run that a fresh word opens holds nothing else. -/
theorem Lone.runAt {s : State} {i : Instr} {iss : Issue} {c : Ctx} (h : Lone s i iss c) :
    s.runAt iss c = openRun c.x ((s.part iss.q).core c.w.core) (s.part iss.q).csr (s.clkc iss.q) s.now iss.addr := by
  simp only [State.runAt, h.begun, h.fresh]
  rfl

theorem modAt_get {α : Type} (f : α → α) : ∀ (l : List α) (i k : Nat), (modAt l i f)[k]? = if k = i then (l[k]?).map f else l[k]?
  | [], i, k => by simp [modAt]
  | a :: l, 0, 0 => by simp [modAt]
  | a :: l, 0, k + 1 => by simp [modAt]
  | a :: l, i + 1, 0 => by simp [modAt]
  | a :: l, i + 1, k + 1 => by simp [modAt, modAt_get f l i k]

/-- A change of a lane that keeps what the lane is keeps the lanes that are live. -/
theorem Warp.live_modAt (x : Warp) (l : Nat) (f : Lane → Lane) (h : ∀ y, (f y).st = y.st) : ({ x with lanes := modAt x.lanes l f } : Warp).live = x.live := by
  unfold Warp.live
  congr 1
  funext k
  simp only [modAt_get]
  by_cases e : k = l
  · subst e
    cases x.lanes[k]? <;> simp [h]
  · simp [e]

/-- The effects of register acts on the parts of a warp that decide its path. -/
theorem Warp.took_keeps {x : Warp} {a : Act} (h : a.isReg = true) :
    (x.took a).block = x.block ∧ (x.took a).levels = x.levels ∧ (x.took a).wait = x.wait ∧ (x.took a).m = x.m ∧ (x.took a).width = x.width ∧ (x.took a).live = x.live := by
  cases a <;> simp only [Act.isReg, Bool.false_eq_true] at h
  all_goals refine ⟨rfl, rfl, rfl, rfl, rfl, ?_⟩
  all_goals first | rfl | exact Warp.live_modAt _ _ _ (fun _ => rfl)

theorem Warp.tooks_keep : ∀ {l : List Act} {x : Warp}, (∀ a ∈ l, a.isReg = true) →
    (l.foldl Warp.took x).block = x.block ∧ (l.foldl Warp.took x).levels = x.levels ∧ (l.foldl Warp.took x).wait = x.wait ∧ (l.foldl Warp.took x).path = x.path
  | [], _, _ => ⟨rfl, rfl, rfl, rfl⟩
  | a :: l, x, h => by
    obtain ⟨h1, h2, h3, h4, h5, h6⟩ := Warp.took_keeps (x := x) (h a (by simp))
    obtain ⟨k1, k2, k3, k4⟩ := Warp.tooks_keep (l := l) (x := x.took a) (fun b hb => h b (by simp [hb]))
    refine ⟨k1.trans h1, k2.trans h2, k3.trans h3, k4.trans ?_⟩
    rw [Warp.path, Warp.path, h4, h6]

/-- The warp as a commit leaves it past its run. -/
def Warp.between (x : Warp) (now : Nat) (r : Option Run) (pc : W64) (b : Bool) : Warp := { x with last := now, run := r, pc := pc, refillRun := b }

theorem Warp.tooks_between {now : Nat} {r : Option Run} {pc : W64} {b : Bool} : ∀ {l : List Act} {x : Warp},
    l.foldl Warp.took (x.between now r pc b) = (l.foldl Warp.took x).between now r pc b
  | [], _ => rfl
  | a :: l, x => by
    have : (x.between now r pc b).took a = (x.took a).between now r pc b := by cases a <;> rfl
    rw [List.foldl_cons, this, Warp.tooks_between, List.foldl_cons]

/-- A run-terminal operation that sends no request to a home slice: a push has room on chip, and a pop leaves a record there. -/
def Term.plain (t : Term) (x : Warp) : Bool :=
  match t with
  | .atom .. | .lock .. | .abinit .. | .abarv .. | .abwait .. | .abtest .. => false
  | .brv .. | .brxv .. => decide (x.stack.length < 16)
  | .join => decide (x.spilled = 0)
  | _ => true

/-- A push with room on chip, and a pop that leaves a record there, access no spill area. -/
theorem State.spillPieces_plain {s : State} {q : Nat} {c : Ctx} {r : Run} (ht : r.term.plain c.x = true) : (s.spillPieces q c r).1 = [] := by
  cases h : r.term <;> rw [h] at ht <;> simp only [State.spillPieces, h]
  case brv => exact if_pos (of_decide_eq_true ht)
  case brxv => rw [if_pos (of_decide_eq_true ht), ite_self]
  case join =>
    have h0 : c.x.spilled = 0 := of_decide_eq_true ht
    split
    · exact if_neg fun k => absurd k.2 (by rw [h0]; exact Nat.lt_irrefl 0)
    · rfl

/-- A run of register effects sends no request. -/
theorem State.requests_reg {s : State} {q : Nat} {c : Ctx} {r : Run} (hreg : ∀ a ∈ r.acts, a.isReg = true) (ht : r.term.plain c.x = true) : s.requests q c r = [] := by
  unfold State.requests
  simp only [State.spillPieces_plain ht, pieceSectors, reqsOf, List.flatMap_nil, List.dedup_nil, List.map_nil, List.filterMap_nil, List.append_nil]
  refine List.append_eq_nil_iff.2 ⟨List.flatMap_eq_nil_iff.2 fun a ha => ?_, ?_⟩
  · have := hreg a ha
    cases a <;> simp_all [Act.isReg]
  · cases h : r.term <;> rw [h] at ht <;> first | rfl | exact absurd ht Bool.false_ne_true

/-- No router drops anything of a run of register effects. -/
theorem State.barred_reg {s : State} {q : Nat} {c : Ctx} {r : Run} (hreg : ∀ a ∈ r.acts, a.isReg = true) (ht : r.term.plain c.x = true) :
    s.runBarred q c r (s.requests q c r) = [] := by
  rw [State.requests_reg hreg ht]
  unfold State.runBarred
  rw [List.filterMap_nil, List.append_nil, State.spillPieces_plain ht, List.flatMap_nil, List.append_nil]
  refine List.flatMap_eq_nil_iff.2 fun a ha => ?_
  have := hreg a ha
  cases a <;> simp_all [Act.isReg]

/-- A run of register effects accesses nothing. -/
theorem Run.quiet {r : Run} (hreg : ∀ a ∈ r.acts, a.isReg = true) (hat : ∀ op d ps x y m, r.term ≠ .atom op d ps x y m) : r.accesses = [] := by
  unfold Run.accesses
  refine List.append_eq_nil_iff.2 ⟨List.append_eq_nil_iff.2 ⟨List.filterMap_eq_nil_iff.2 fun a ha => ?_, List.filterMap_eq_nil_iff.2 fun a ha => ?_⟩, ?_⟩
  · have := hreg a ha
    cases a <;> simp_all [Act.isReg]
  · have := hreg a ha
    cases a <;> simp_all [Act.isReg]
  · split
    · rename_i op d ps x y m e
      exact absurd e (hat op d ps x y m)
    · rfl

theorem Part.runReady_reg {p : Part} {c : Ctx} {r : Run} (hreg : ∀ a ∈ r.acts, a.isReg = true) (hwait : r.waits = []) (ht : p.termReady c r.term = true) :
    p.runReady c r = true := by
  unfold Part.runReady
  rw [hwait, ht, List.all_nil, Bool.true_and, Bool.and_true]
  refine List.all_eq_true.2 fun a ha => ?_
  have := hreg a ha
  cases a <;> first | rfl | exact absurd this (by simp [Act.isReg])

/-- A commit in which no spill access fails, and which leaves the writes that paths may miss as they were. -/
theorem State.commit_done {s : State} {q : Nat} {c : Ctx} {r : Run} {z : State}
    (hf : (((s.drainAll q).doActs q c r).modW q c.w (fun x => { x with run := none, pc := r.next, refillRun := false })).commitFail q c r = none)
    (h : ((((s.drainAll q).doActs q c r).modW q c.w (fun x => { x with run := none, pc := r.next, refillRun := false })).endRun q c r
      (((s.drainAll q).part q).core c.w.core)).afterCommit q c.w r = z) (hl : (z.part q).lag = ((s.drainAll q).part q).lag) (hs : z.stuck q c.w = none) :
    s.commit q c r = z := by
  subst h
  unfold State.commit
  dsimp only
  rw [hf]
  dsimp only
  rw [State.lagOnce_same hl, State.stuckFail_none hs]

/-- A run of register effects and a run-terminal operation commits: the effects, then the operation, then what follows a commit. -/
theorem State.held_commits {s : State} {q : Nat} {w : WRef} {c : Ctx} {x : Warp} {r : Run} {rf : Nat → W32} {cs : AMap Core} (h : (s.part q).ctx w = some c)
    (hb : x.block = c.x.block) (hr : x.run = some r) (hl : x.levels = []) (hu : (s.part q).csr.resv = []) (hp : (s.part q).placeQ = []) (hf : FileOnly (s.part q).cores cs w.core rf)
    (hreg : ∀ a ∈ r.acts, a.isReg = true) (hcond : r.cond = none) (hwait : r.waits = []) (hat : ∀ op d ps x y m, r.term ≠ .atom op d ps x y m)
    (hreq : r.term.plain x = true) (hfail : ∀ ds, (s.held q w { r.acts.foldl Warp.took x with run := none, pc := r.next, refillRun := false } ds).commitFail q
      { c with x := x } r = none)
    (ht : ((s.part q).holding w x cs).termReady { c with x := x } r.term = true) (pos : Nat) (d : W64) :
    ∃ ds, FileOnly (s.part q).cores ds w.core (fun k => r.acts.foldl (Act.file k) (rf k)) ∧ ∀ z : State,
      ((s.held q w { r.acts.foldl Warp.took x with run := none, pc := r.next, refillRun := false } ds).endRun q { c with x := x } r
        (AMap.rd Core.reset cs w.core)).afterCommit q w r = z → (z.part q).lag = (s.part q).lag → z.stuck q w = none → (s.held q w x cs).closeRun q w pos d = z := by
  obtain rfl := (Part.ctx_some h).1
  obtain ⟨ds, h1, h2⟩ := State.held_doActs (s := s) (q := q) (c := { c with x := x }) (x := x) r hp hreg hf
  refine ⟨ds, h2, fun z hz hlag hs => ?_⟩
  have hacc := Run.quiet hreg hat
  rw [State.held_closeRun h hb hr hcond hl hu hacc (State.barred_reg hreg hreq) (Part.runReady_reg hreg hwait ht) pos d]
  have hd : (s.held q c.w x cs).drainAll q = s.held q c.w x cs := State.drainAll_nil (by simpa using hp)
  dsimp only at h1 ⊢
  refine State.commit_done ?_ ?_ ?_ hs
  · rw [hd, h1, State.held_modW]
    exact hfail ds
  · rw [hd, h1, State.held_modW, State.held_part, Part.holding_core]
    exact hz
  · rw [hd, hlag, State.held_part]
    rfl

/-- A run of one word that queues register effects and a run-terminal operation. -/
theorem Lone.issued {s : State} {i : Instr} {iss : Issue} {c : Ctx} (h : Lone s i iss c) {w : Word} {r : Run} (hr : (s.runAt iss c).add iss w = r)
    (hreg : ∀ a ∈ w.acts, a.isReg = true) (hcond : w.cond = none) (hwait : w.waits = []) (hat : ∀ op d ps x y m, w.term ≠ .atom op d ps x y m)
    (hreq : w.term.plain c.x = true)
    (hfail : ∀ cs, (s.held iss.q c.w (w.acts.foldl Warp.took (c.x.passed iss s.now)) cs).commitFail iss.q (c.queued s.now r) r = none)
    (hready : ((s.part iss.q).holding c.w (c.x.queued s.now r) (s.part iss.q).cores).termReady { c with x := c.x.queued s.now r } w.term = true) :
    ∃ cs, FileOnly (s.part iss.q).cores cs c.w.core (fun k => w.acts.foldl (Act.file k) (Sparse.rd ((s.part iss.q).core c.w.core).rf k)) ∧ ∀ z : State,
      ((s.held iss.q c.w (w.acts.foldl Warp.took (c.x.passed iss s.now)) cs).endRun iss.q (c.queued s.now r) r
        ((s.part iss.q).core c.w.core)).afterCommit iss.q c.w r = z → (z.part iss.q).lag = (s.part iss.q).lag → z.stuck iss.q c.w = none → s.issued iss c w = z := by
  have hctx := h.ctx
  have hw : c.w = iss.w := (Part.ctx_some hctx).1
  rw [← hw] at hctx
  have hrun := h.runAt
  have ha : r.acts = w.acts := by rw [← hr, hrun]; simp [Run.add, openRun]
  have ht : r.term = w.term := by rw [← hr, hrun]; simp only [Run.add, openRun]; split <;> simp_all
  have hc : r.cond = none := by rw [← hr, hrun]; simp [Run.add, openRun, hcond, Cond.first]
  have hwt : r.waits = [] := by rw [← hr, hrun]; simp [Run.add, openRun, hwait]
  have hn : r.next = iss.addr + BitVec.ofNat 64 iss.len := by rw [← hr]; rfl
  have h0 : FileOnly (s.part iss.q).cores (s.part iss.q).cores c.w.core (Sparse.rd ((s.part iss.q).core c.w.core).rf) := ⟨fun _ _ => rfl, rfl, fun _ => rfl⟩
  have hq : s.queued iss c w = s.held iss.q c.w (c.x.queued s.now r) (s.part iss.q).cores := by rw [h.queued, hr]; rfl
  have e : ({ w.acts.foldl Warp.took (c.x.queued s.now r) with run := none, pc := r.next, refillRun := false } : Warp) =
      w.acts.foldl Warp.took (c.x.passed iss s.now) := by
    have e1 : c.x.queued s.now r = c.x.between s.now (some r) c.x.pc c.x.refillRun := rfl
    have e2 : c.x.passed iss s.now = c.x.between s.now none (iss.addr + BitVec.ofNat 64 iss.len) false := rfl
    rw [e1, e2, Warp.tooks_between, Warp.tooks_between, hn]
    rfl
  obtain ⟨ds, h1, h2⟩ := State.held_commits (x := c.x.queued s.now r) hctx rfl rfl h.noLoop h.unreserved h.placed h0 (ha ▸ hreg) hc hwt (ht ▸ hat) (ht ▸ hreq)
    (fun ds => by rw [ha, e]; exact hfail ds) (ht ▸ hready) (s.runAt iss c).words iss.detail
  rw [ha] at h1 h2
  refine ⟨ds, h1, fun z hz hlag hs => ?_⟩
  unfold State.issued
  rw [if_pos (by simp [h.bung]), hq]
  refine h2 z ?_ hlag hs
  rw [e]
  exact hz

/-! ### What only a warp and its core's file show -/

theorem State.held_bytes {s : State} {q : Nat} {w : WRef} {x : Warp} {cs : AMap Core} {rf : Nat → W32} (h : FileOnly (s.part q).cores cs w.core rf) (v g : Nat) (b : Bool)
    (l : Loc) : (s.held q w x cs).rdLoc v g b l = s.rdLoc v g b l := by
  have hcore : ∀ c, ((((s.held q w x cs).part v).core c).scratch = ((s.part v).core c).scratch) ∧ ((((s.held q w x cs).part v).core c).l1 = ((s.part v).core c).l1) := by
    intro c
    by_cases hv : min q 3 = min v 3
    · have hp : ∀ t : State, t.part v = t.part q := fun t => by
        unfold State.part Quad.rd
        rcases v with _ | _ | _ | v <;> rcases q with _ | _ | _ | q <;> simp_all
      rw [hp, hp, State.held_part]
      by_cases hc : c = w.core
      · subst hc
        exact ⟨(congrArg Core.scratch h.same :), (congrArg Core.l1 h.same :)⟩
      · rw [Part.holding_core, h.other _ hc]
        exact ⟨rfl, rfl⟩
    · have : (s.held q w x cs).part v = s.part v := State.setPart_part_other _ _ hv
      rw [this]
      exact ⟨rfl, rfl⟩
  have hdir : ((s.held q w x cs).part v).dir = (s.part v).dir := by
    by_cases hv : min q 3 = min v 3
    · have hp : ∀ t : State, t.part v = t.part q := fun t => by
        unfold State.part Quad.rd
        rcases v with _ | _ | _ | v <;> rcases q with _ | _ | _ | q <;> simp_all
      rw [hp, hp, State.held_part]
      rfl
    · exact congrArg Part.dir (State.setPart_part_other _ _ hv)
  have hpk : ∀ pa, ((s.held q w x cs).part v).parked pa = (s.part v).parked pa := fun pa => by unfold Part.parked; rw [hdir]
  have hhome : ∀ pa, (s.held q w x cs).rdHome v pa = s.rdHome v pa := fun pa => by unfold State.rdHome; rw [hpk]; rfl
  have hl1 : ∀ host i, (((s.held q w x cs).part v).core g).l1Find host i = ((s.part v).core g).l1Find host i := fun host i => by
    unfold Core.l1Find; rw [(hcore g).2]
  cases l with
  | scratch c o => simp only [State.rdLoc, (hcore c).1]
  | dev pa => simp only [State.rdLoc, hpk, hl1, hhome]
  | host pa => simp only [State.rdLoc, hl1]; rfl

/-- A state that differs in one warp and its core's file. -/
theorem State.held_only {s : State} {q : Nat} {w : WRef} {x : Warp} {cs : AMap Core} {rf : Nat → W32} (h : FileOnly (s.part q).cores cs w.core rf) :
    OnlyWarp s (s.held q w x cs) q w x rf where
  device := by
    unfold State.held
    rw [State.setPart_setPart]
    exact State.setPart_self { s with cur := none } q
  part := by rw [State.held_part]; rfl
  warp := by simp
  others k hk := by rw [State.held_part]; exact AMap.find_wr_other _ _ (Ne.symm hk)
  cores g hg := by rw [State.held_part]; exact h.other g hg
  core := by rw [State.held_part]; exact h.same
  file k := by rw [State.held_part]; exact h.file k
  bytes := State.held_bytes h

/-- A run of one word whose effect is register writes performs them and changes nothing else. -/
theorem Lone.regs {s : State} {i : Instr} {iss : Issue} {c : Ctx} (h : Lone s i iss c) (hp : c.x.path ≠ 0) {l : List Act} (hl : ∀ a ∈ l, a.isReg = true) :
    RegStep s (s.issued iss c (.ofActs l)) iss c l := by
  have ht : ((s.runAt iss c).add iss (.ofActs l)).term = .none := by rw [h.runAt]; rfl
  have ha : ((s.runAt iss c).add iss (.ofActs l)).acts = l := by rw [h.runAt]; rfl
  obtain ⟨cs, h1, h2⟩ := h.issued (w := .ofActs l) rfl hl rfl rfl (by simp [Word.ofActs, Word.nil]) rfl
    (fun _ => State.commitFail_none (by rw [ht]; rfl) _ _ _) (by simp [Word.ofActs, Word.nil, Part.termReady])
  have hctx := h.ctx
  have hw : c.w = iss.w := (Part.ctx_some hctx).1
  rw [← hw] at hctx
  obtain ⟨k1, k2, k3, k4⟩ := Warp.tooks_keep (x := c.x.passed iss s.now) hl
  have hx : ∀ o g n, c.x.wait ≠ .abwait o g n := by
    have := (Part.ctx_some hctx).2.1
    exact h.noObject _ (AMap.find_mem this)
  have e : s.issued iss c (.ofActs l) = s.held iss.q c.w (l.foldl Warp.took (c.x.passed iss s.now)) cs := by
    have hpath : (l.foldl Warp.took (c.x.passed iss s.now)).path ≠ 0 := by rw [k4]; exact hp
    refine h2 _ ?_ (by rw [State.held_part]; rfl) (State.held_unstuck hctx k1 hpath)
    have hlv := k2.trans h.noLoop
    have hdo : ∀ k, (s.held iss.q c.w (l.foldl Warp.took (c.x.passed iss s.now)) cs).doTerm iss.q c.w ((s.runAt iss c).add iss (.ofActs l))
        (c.queued s.now ((s.runAt iss c).add iss (.ofActs l))).x k = s.held iss.q c.w (l.foldl Warp.took (c.x.passed iss s.now)) cs := fun k => by
      unfold State.doTerm
      rw [ht]
    refine (congrArg (fun t : State => t.afterCommit _ _ _) (State.held_endRun (w := c.w) rfl hlv hlv (hdo _))).trans ?_
    exact State.held_afterCommit hctx k1 hpath h.unswapped (by simp [ht]) h.noObject (k3 ▸ hx)
  rw [e]
  exact State.held_only h1

/-- The warp of a word that is not the `refill` has a lane on its path. -/
theorem Lone.path {s : State} {i : Instr} {iss : Issue} {c : Ctx} (h : Lone s i iss c) (hi : i ≠ .refill) : c.x.path ≠ 0 := by
  have := h.takes
  have he := h.effect
  simp only [Warp.takes, Bool.and_eq_true, Bool.or_eq_true, bne_iff_ne] at this
  rcases he with e | e
  · simp_all
  · exact absurd e hi

/-- A meaning that is the frame around register effects. -/
theorem Writes.of {i : Instr} {ok : State → Env → Prop} {f : State → Env → Word} {acts : State → Env → List Act} (hi : i ≠ .refill)
    (hx : ∀ s, exec i s = withWord s i f) (hf : ∀ s e, ok s e → f s e = .ofActs (acts s e)) (hr : ∀ s e, ok s e → ∀ a ∈ acts s e, a.isReg = true) :
    Writes i ok acts := by
  refine ⟨Queues.of hx hf, fun s iss c h hok => ⟨_, Queues.of hx hf s iss c h.toIssues hok, h.regs (h.path hi) (hr _ _ hok)⟩⟩

/-- A run of one word whose operation turns its warp into `y`: that, and nothing else. -/
theorem Lone.turns {s : State} {i : Instr} {iss : Issue} {c : Ctx} (h : Lone s i iss c) {w : Word} {y : Warp} (hreg : ∀ a ∈ w.acts, a.isReg = true) (hcond : w.cond = none)
    (hwait : w.waits = []) (hat : ∀ op d ps x y m, w.term ≠ .atom op d ps x y m) (htrap : ∀ a, w.term ≠ .trap a)
    (hready : ((s.part iss.q).holding c.w (c.x.queued s.now (s.runWith iss c w)) (s.part iss.q).cores).termReady { c with x := c.x.queued s.now (s.runWith iss c w) } w.term = true)
    (hreq : w.term.plain c.x = true)
    (hfail : ∀ cs, (s.held iss.q c.w (w.acts.foldl Warp.took (c.x.passed iss s.now)) cs).commitFail iss.q (c.queued s.now (s.runWith iss c w)) (s.runWith iss c w) = none)
    (hdo : ∀ cs, (s.held iss.q c.w (w.acts.foldl Warp.took (c.x.passed iss s.now)) cs).doTerm iss.q c.w (s.runWith iss c w) (c.x.queued s.now (s.runWith iss c w))
      ((s.part iss.q).core c.w.core) = s.held iss.q c.w y cs)
    (hb : y.block = c.x.block) (hp : y.path ≠ 0) (hl : y.levels = []) (hw : ∀ l g t, y.wait ≠ .abwait l g t) :
    OnlyWarp s (s.issued iss c w) iss.q c.w y (fun k => w.acts.foldl (Act.file k) (Sparse.rd ((s.part iss.q).core c.w.core).rf k)) := by
  have ht : (s.runWith iss c w).term = w.term := by
    unfold State.runWith
    rw [h.runAt]
    simp only [Run.add, openRun]
    split <;> simp_all
  have ha : (s.runWith iss c w).acts = w.acts := by
    unfold State.runWith
    rw [h.runAt]
    simp [Run.add, openRun]
  obtain ⟨cs, h1, h2⟩ := h.issued (r := s.runWith iss c w) rfl hreg hcond hwait hat hreq hfail hready
  have hctx := h.ctx
  rw [← (Part.ctx_some hctx).1] at hctx
  have hlv : (w.acts.foldl Warp.took (c.x.passed iss s.now)).levels = [] := (Warp.tooks_keep hreg).2.1.trans h.noLoop
  have e : s.issued iss c w = s.held iss.q c.w y cs := by
    refine h2 _ ?_ (by rw [State.held_part]; rfl) (State.held_unstuck hctx hb hp)
    refine (congrArg (fun t : State => t.afterCommit _ _ _) (State.held_endRun (w := c.w) (c := c.queued s.now (s.runWith iss c w)) rfl hlv hl (hdo cs))).trans ?_
    exact State.held_afterCommit hctx hb hp h.unswapped (by rw [ht]; exact htrap) h.noObject hw
  rw [e]
  exact State.held_only h1

/-- A run of one settled word commits. -/
theorem Lone.commits {s : State} {i : Instr} {iss : Issue} {c : Ctx} (h : Lone s i iss c) {w : Word} (hs : Settled s iss c w) :
    s.issued iss c w = s.committed iss c w := by
  have hctx := h.ctx
  rw [← (Part.ctx_some hctx).1] at hctx
  have hc : (s.runWith iss c w).cond = none := by simp [State.runWith, h.runAt, Run.add, openRun, hs.clear, Cond.first]
  have hq : s.queued iss c w = s.held iss.q c.w (c.x.queued s.now (s.runWith iss c w)) (s.part iss.q).cores := h.queued w
  have h1 := hs.unlocked
  have h2 := hs.raceless
  have h3 := hs.ready
  have h4 := hs.routed
  rw [hq] at h1 h2 h3 h4
  unfold State.issued State.committed
  rw [if_pos (by simp [h.bung]), hq]
  exact State.held_settles (x := c.x.queued s.now (s.runWith iss c w)) hctx rfl rfl hc h.noLoop h.unreserved h1 h2 h4 (by rw [State.held_part] at h3; exact h3) _ _

/-- A meaning that is the frame around `f` commits what `f` gives. -/
theorem Commits.of {i : Instr} {ok : State → Env → Prop} {f w : State → Env → Word} (hx : ∀ s, exec i s = withWord s i f) (hw : ∀ s e, ok s e → f s e = w s e) :
    Commits i ok w :=
  ⟨Queues.of hx hw, fun s iss c h hok hs => by rw [Queues.of hx hw s iss c h.toIssues hok, h.commits hs]⟩

/-- The run of a lone word holds that word's operation. -/
theorem Lone.runWith_term {s : State} {i : Instr} {iss : Issue} {c : Ctx} (h : Lone s i iss c) (w : Word) : (s.runWith iss c w).term = w.term := by
  unfold State.runWith
  rw [h.runAt]
  simp only [Run.add, openRun]
  split <;> simp_all

/-- The warp of a lone word does not wait on an async barrier object. -/
theorem Lone.noAbwait {s : State} {i : Instr} {iss : Issue} {c : Ctx} (h : Lone s i iss c) : ∀ l g t, c.x.wait ≠ .abwait l g t := by
  have hctx := h.ctx
  rw [← (Part.ctx_some hctx).1] at hctx
  exact h.noObject _ (AMap.find_mem (Part.ctx_some hctx).2.1)

/-- A meaning that is the frame around `g` turns its warp as its issued word does. -/
theorem Turns.of {i : Instr} {ok : State → Env → Prop} {f : State → Env → Warp → Warp} {g w : State → Env → Word} (hi : i ≠ .refill)
    (hx : ∀ s, exec i s = withWord s i g) (hw : ∀ s e, ok s e → g s e = w s e)
    (h : ∀ s iss c, Lone s i iss c → c.x.path ≠ 0 → ok (s.begun iss c) (s.env iss c) →
      OnlyWarp s (s.issued iss c (w (s.begun iss c) (s.env iss c))) iss.q c.w (f (s.begun iss c) (s.env iss c) (c.x.passed iss s.now))
        (Sparse.rd ((s.part iss.q).core c.w.core).rf)) : Turns i ok f := fun s iss c hl hok =>
  ⟨_, by rw [hx, withWord_issues hl.toIssues, hw _ _ hok], h s iss c hl (hl.path hi) hok⟩

/-- A run of one word that goes to `t`. -/
theorem Lone.jumps {s : State} {i : Instr} {iss : Issue} {c : Ctx} (h : Lone s i iss c) (hp : c.x.path ≠ 0) (t : W64) :
    OnlyWarp s (s.issued iss c (.ofTerm (.jump t))) iss.q c.w { c.x.passed iss s.now with pc := t } (Sparse.rd ((s.part iss.q).core c.w.core).rf) := by
  refine h.turns (w := .ofTerm (.jump t)) ?_ rfl rfl (by simp [Word.ofTerm, Word.nil]) (by simp [Word.ofTerm, Word.nil]) (by simp [Word.ofTerm, Word.nil, Part.termReady]) rfl
    (fun _ => State.commitFail_none (by rw [h.runWith_term]; rfl) _ _ _) ?_ rfl hp
    h.noLoop h.noAbwait
  · simp [Word.ofTerm, Word.nil]
  · intro cs
    unfold State.doTerm
    rw [h.runWith_term]
    simp only [Word.ofTerm, State.held_modW]
    congr 1
    unfold Warp.leave
    split
    · rfl
    · simp only [Word.nil, List.foldl_nil, Warp.passed, h.noLoop, List.dropWhile_nil]

end Sys2Proof.Machine
end

