-- ==== Sys2Proof/Tests/Slice0.lean ====
section
/-! SUPPORT. Tests: words of the spec's examples decoded, ill-formed terms that the checks refuse, small effects with results worked out from the spec by hand, and
witnesses that the hypotheses of the statements can be met. -/

namespace Sys2Proof.Tests

set_option Elab.async false

open Sys2Proof Sys2Proof.Machine

/-! ### Decoding: the spec's example words -/

/-- Words and the instructions they stand for. -/
def reads (l : List (Nat × Instr)) : Bool := l.all (fun x => decodeTableWord 32 x.1 == some x.2)

/-- A prefix word and the word after it: what they decode to. -/
def readsPair (p w : Nat) (x : Decoded) : Bool :=
  match decodeBytes (bytesOfWord (BitVec.ofNat 32 p) ++ bytesOfWord (BitVec.ofNat 32 w)) with
  | .ok y _ _ n => y == x && n == 8
  | _ => false

/-- R139-R148: words printed there; `0x06807D02` by hand from R41: OP 0x03, FN 4, D 1, A `iid`, count 2, no bung. -/
theorem test_decode_integer : reads
    [(0x06807D02, .shli 1 122 2), (0x83E20103, .imad 8 2 3), (0x8300C082, .iadds 3 1 2), (0x85A102E6, .bfx 4 5 102), (0x86C1C383, .sari 7 7 3),
     (0x8660C1FF, .xori 3 3 0x7F), (0x88141234, .movl 5 0x1234), (0x8A1048D1, .movhi 4 0x48D1), (0x8CC10082, .icmp 6 4 1 2), (0x10004100, .mov 1 2),
     (0x90008080, .mov 2 1), (0x91217367, .sel 1 5 102 103)] = true := by decide +kernel

/-- R149-R156. -/
theorem test_decode_uniform : reads
    [(0x9200C001, .pand 3 0 1), (0x92828000, .ptov 10), (0x92A00564, .vtop 10 100), (0x92E08001, .qor 2 0 1), (0x941932E6, .sadd 100 101 102),
     (0x96197C08, .saddi 101 120 8), (0x96B93220, .sshri 100 100 32), (0x9A40720A, .scmpi 2 1 100 10), (0x9CC27265, .wrlane 9 100 101)] = true := by decide +kernel

/-- R159-R175. -/
theorem test_decode_float : reads
    [(0xA2620103, .fma 8 2 3), (0xA3824080, .fclass 9 1), (0xA420C080, .frsq 3 1), (0xA641C082, .hfma2 7 1 2), (0xA741C082, .hfma2_bf 7 1 2), (0xA840C082, .fcmp 2 3 1 2),
     (0xAAC20080, .f2l 8 1), (0xAAA18082, .pkbf2 6 1 2), (0xAC014080, .bexp 5 1), (0xAC60C085, .bq_4 3 1 5), (0xACE10185, .bdq_4 4 3 5), (0xE6000380, .seed 7)] = true := by
  decide +kernel

/-- R176-R180. -/
theorem test_decode_lanes : reads
    [(0x9E814201, .lget_wxor 5 4 1), (0x9E214201, .lget_up 5 4 1), (0x9E014266, .lget_idx 5 4 102), (0xA0B90080, .rfadd 100 1), (0xA1018080, .scan_add 6 1),
     (0xA14080E5, .rstep_add 2 1 101)] = true := by decide +kernel

/-- R214-R230. -/
theorem test_decode_memory : reads
    [(0xB100F101, .ld 4 0 3 98 1), (0xB1823101, .ld 6 0 8 98 1), (0xB120F104, .ld 4 1 3 98 4), (0xB401F101, .ldf6 7 98 1), (0xB420F101, .ldloc_w 3 98 1),
     (0xB300B001, .st 4 0 2 96 1), (0xB7018267, .stp 4 6 4 103), (0xBB21B101, .atom_cas 6 98 1), (0xC2203178, .cwb 98 120)] = true := by decide +kernel

/-- R254-R277, R243. -/
theorem test_decode_sync : reads
    [(0xBE0001F8, .nbwait 3 120), (0xBE2001E5, .nbarv 3 101), (0xBE400078, .gbwait 120), (0xBE603265, .abinit 100 101), (0xBE99B265, .abarv 102 100 101),
     (0xBEA03266, .abwait 100 102), (0xBED9F266, .abtest 103 100 102), (0xBC1932F8, .llock 100 101 120), (0xBC593280, .lunlk 100 101), (0xC0030083, .fence 1 4 1 3)] = true := by
  decide +kernel

/-- R238-R251. -/
theorem test_decode_async : reads
    [(0xC400F266, .cpy 3 100 102), (0xC4213266, .cpy2d 4 100 102), (0xC441746A, .cpybs 5 104 106), (0xC461B66D, .bsz 6 108 109), (0xC8C80064, .mma 0 3 0 32 0 100),
     (0xC9A80064, .mma 1 2 1 32 0 100), (0xCA194000, .mxst 101)] = true := by decide +kernel

/-- R126-R134, R90-R113, R315-R329. -/
theorem test_decode_control : reads
    [(0xD4000000, .ret), (0xD4200000, .join), (0xD4403265, .brx 100 101), (0xD4A03206, .brxv 100 6), (0xD270000A, .call 0 7 10), (0xD6193280, .split 100 101),
     (0xD6593280, .fuse_r 100 101), (0xD6803300, .sleep 102), (0xD8000000, .exit), (0xD8590000, .iqry 100), (0xDA393280, .rrel 100 101), (0xDC18F265, .launch 99 100 101),
     (0xDC38B367, .lwait 98 102 103), (0xDC400000, .trig), (0xDE001003, .safept 0x1003), (0xE0003200, .trap 100), (0xE0390019, .csrr 100 0x019), (0xE05E0003, .csrw 120 0x003),
     (0xE05D401C, .csrw 117 0x01C), (0xE0A00000, .eret), (0xE0D90000, .clock 100), (0xE2003278, .tlbi 100 120), (0xE2200000, .tlbsync)] = true := by decide +kernel

/-- R44-R48: a guard with a narrow source and a rounding mode; a narrow destination; an offset's upper bits; an order and a scope; a scale register. -/
theorem test_decode_prefixes :
    readsPair 0x7E848001 0xA2014307 ⟨.fadd 5 6 7, true, .c ⟨2, false, 1, 1, 0, 0, 0, 0, 1⟩⟩ = true ∧
    readsPair 0x7FC000C8 0x8300C082 ⟨.iadds 3 1 2, true, .c ⟨7, false, 0, 0, 0, 0, 3, 1, 0⟩⟩ = true ∧
    readsPair 0x7E000000 0xD8000000 ⟨.exit, true, .g ⟨0, false⟩⟩ = true ∧
    readsPair 0x7FC01100 0xB100F101 ⟨.ld 4 0 3 98 1, true, .m ⟨7, false, 0, 4, 1, 0⟩⟩ = true ∧
    readsPair 0x7FC51800 0xC8C80064 ⟨.mma 0 3 0 32 0 100, true, .x ⟨7, false, 20, 3⟩⟩ = true := by decide +kernel

/-- The encoder writes the same words (R41, R44). -/
theorem test_encode :
    encode ⟨.imad 8 2 3, true, .none⟩ = some [0x83E20103] ∧ encode ⟨.exit, true, .g ⟨0, false⟩⟩ = some [0x7E000000, 0xD8000000] ∧
    encode ⟨.call 0 7 10, true, .none⟩ = some [0xD270000A] := by decide +kernel

/-! ### Ill-formed terms -/

/-- Register classes and groups (R50, R214-R216): a uniform D of a vector word, a vector B of a uniform word, an odd pair, a group past v95, a vector B of `cpy`, code 127. -/
theorem test_illformed_registers :
    [Instr.iadd 96 1 2, .iadd 1 127 2, .popc 121 1, .sadd 100 1 101, .sadd 1 100 101, .rdlane 100 96 101, .lget_up 5 96 1, .radd 121 1, .rstep_add 2 1 3, .f2l 7 1, .l2f 3 7,
      .bexp 1 96, .rsdef 100 101 103, .cpy 3 101 102, .cpy 3 100 1, .mma 0 0 0 96 0 100, .brx 1 101, .loop 0 1 4, .launch 99 120 101, .csrr 1 0, .trap 1, .coll 100 101 103, .ptov 96,
      .vtop 1 1, .seed 127, .abinit 1 100, .nbwait 0 1, .llock 1 100 100, .unpark 1].map (fun i => i.wf .none) = List.replicate 29 false := by decide +kernel

/-- Memory words (R42, R214-R216, R228): a base that is no uniform register or pair, a group that is not aligned, a size without a store. -/
theorem test_illformed_memory :
    [Instr.ld 4 0 3 1 1, .ld 5 0 3 98 1, .ld 7 0 4 98 1, .ld 4 0 100 2 1, .ld 6 0 101 98 120, .st 1 0 2 98 1, .st 3 0 2 98 1, .st 6 0 100 98 1, .stp 4 6 4 1, .ldloc_d 3 98 1,
      .ldloc_q 2 98 1, .ldf6 100 98 1, .atom_cas 5 98 1, .atom_cas64 6 98 1, .atom_add 100 98 1, .pref 1 1].map (fun i => i.wf .none) = List.replicate 16 false := by decide +kernel

/-- Codes and counts (R52, R90, R126-R134, R147, R148, R254, R277, R330, R243): conditions, predicates, targets, tags, body lengths, scopes, CSR numbers. -/
theorem test_illformed_codes :
    [Instr.icmp 10 0 1 2, .icmpi 15 0 1 2, .scmp 10 0 100 101, .scmpi 12 0 100 1, .sel 7 1 2 3, .bra 1 7 4, .call 1 7 4, .brv 0 7 4, .loop 0 100 0, .loop 2 100 1, .fence 0 6 1 1, .fence 0 4 0 1,
      .fence 0 4 1 0, .csrr 100 0x004, .csrw 100 0x150, .cpy 60 100 102, .bsz 63 108 109].map (fun i => i.wf .none) = List.replicate 17 false := by decide +kernel

/-- Prefix words (R43-R48, R53, R146): a float format on an integer word, a position beyond its format, RM 7 and RM where none is taken, an order that the word does not take, a scope above 5,
an offset before a register form, a guard before a uniform D, a uniform scale register, a class that the word does not take. -/
theorem test_illformed_prefixes :
    Instr.wf (.iadd 1 2 3) (.c ⟨7, false, 7, 0, 0, 0, 0, 0, 0⟩) = false ∧ Instr.wf (.iadd 1 2 3) (.c ⟨7, false, 1, 2, 0, 0, 0, 0, 0⟩) = false ∧
    Instr.wf (.iadd 1 2 3) (.c ⟨7, false, 0, 0, 0, 0, 0, 0, 1⟩) = false ∧ Instr.wf (.fadd 1 2 3) (.c ⟨7, false, 0, 0, 0, 0, 0, 0, 7⟩) = false ∧
    Instr.wf (.fadd 1 2 3) (.c ⟨7, false, 3, 4, 0, 0, 0, 0, 0⟩) = false ∧ Instr.wf (.fcmp 0 0 1 2) (.c ⟨7, false, 0, 0, 0, 0, 1, 0, 0⟩) = false ∧
    Instr.wf (.ld 4 0 3 98 1) (.m ⟨7, false, 0, 4, 2, 0⟩) = false ∧ Instr.wf (.st 4 0 3 98 1) (.m ⟨7, false, 0, 4, 1, 0⟩) = false ∧
    Instr.wf (.ld 4 0 3 98 1) (.m ⟨7, false, 0, 6, 0, 0⟩) = false ∧ Instr.wf (.ld 4 0 3 98 1) (.m ⟨7, false, 1, 0, 0, 0⟩) = false ∧
    Instr.wf (.atom_add 1 98 1) (.m ⟨7, false, 0, 0, 0, 1⟩) = false ∧ Instr.wf (.cwb 98 120) (.m ⟨7, false, 0, 0, 0, 1⟩) = false ∧
    Instr.wf (.movl 100 1) (.g ⟨0, false⟩) = false ∧ Instr.wf (.mma 0 0 0 32 0 100) (.x ⟨7, false, 100, 0⟩) = false ∧ Instr.wf (.mma 0 0 0 32 0 100) (.x ⟨0, false, 20, 0⟩) = false ∧
    Decoded.wf ⟨.sadd 100 101 102, true, .g ⟨0, false⟩⟩ = false ∧ Decoded.wf ⟨.exit, false, .none⟩ = false := by decide +kernel

/-- Words that no row assigns, a non-zero field that an entry leaves unused, a run-terminal word without the bung, a prefix word before a word of class none (R53). -/
theorem test_illegal_words :
    [0x00000000, 0xFFFFFFFF, 0x85400083, 0xD4000001, 0x54000000, 0x9D000000].map (fun w => decodeTableWord 32 w) = List.replicate 6 none ∧
    readsPair 0x7E000000 0x941932E6 ⟨.sadd 100 101 102, true, .g ⟨0, false⟩⟩ = false := by decide +kernel

/-! ### Effects of single words -/

/-- Registers for the one warp of the fetch state (lane, register, value; uniform registers), and what else it holds. -/
def hold (v : List (Nat × Nat × W32)) (u : List (Nat × W64)) (f : Warp → Warp) (s : State) : State :=
  s.modPart 0 (fun p =>
    let p := p.modWarp ⟨0, 0⟩ (fun x => f (u.foldl (fun x r => { x with s := Sparse.wr x.s r.1 r.2 }) x))
    p.setCore 0 (v.foldl (fun k r => k.setReg r.1 r.2.1 r.2.2) (p.core 0)))

/-- A word granted to that warp, with its bung. -/
def grant (pfx : Pfx) : Issue := ⟨0, ⟨0, 0⟩, 0x10000, match pfx with | .none => 4 | _ => 8, true, pfx, 0, 0⟩

/-- The fetch state, without its page tables. -/
def quiet : State := { State.reset with regs := ⟨{ QRegs.reset 0 with state := 2 }, QRegs.reset 1, QRegs.reset 2, QRegs.reset 3⟩, parts := ⟨probePart 0, Part.reset, Part.reset, Part.reset⟩ }

/-- The fetch state with its page tables, and bytes at an address that they map onto itself. -/
def mapped (a : Nat) (bytes : List Byte) : State := (probeTables.foldl (fun s x => s.wrDramL 0 x.1 (leBytes 8 x.2)) quiet).wrDramL 0 a bytes

/-- The state that an outcome holds. -/
def next (o : Host.Outcome State Fault Refusal) : Option State := match o with | .next t => some t | _ => none

/-- A word run by itself on the quiet state. -/
def gave (i : Instr) (v : List (Nat × Nat × W32)) (u : List (Nat × W64)) (pfx : Pfx := .none) (f : Warp → Warp := id) : Option State :=
  next (exec i { hold v u f quiet with cur := some (grant pfx) })

/-- A word run by itself with memory. -/
def gaveAt (a : Nat) (bytes : List Byte) (i : Instr) (v : List (Nat × Nat × W32)) (u : List (Nat × W64)) (pfx : Pfx := .none) : Option State :=
  next (exec i { hold v u id (mapped a bytes) with cur := some (grant pfx) })

/-- What the warp holds, a vector register of a lane, a uniform register, the flags, a byte of memory, and the cause of the fault record that waits. -/
def warpOf (t : Option State) : Option Warp := t.bind (fun t => (t.part 0).warp ⟨0, 0⟩)
def vec (t : Option State) (l r : Nat) : Option W32 := t.bind (fun t => ((t.part 0).warp ⟨0, 0⟩).map (fun x => ((t.part 0).core 0).reg (x.base + l) (x.fileBase + r)))
def uni (t : Option State) (r : Nat) : Option W64 := (warpOf t).map (fun x => Sparse.rd x.s r)
def flags (t : Option State) : Option Flags := (warpOf t).map Warp.fflags
def byteAt (t : Option State) (a n : Nat) : Option Nat := t.map (fun t => leNat (t.rdHomeL 0 a n))
def fault (t : Option State) : Option Nat := t.bind (fun t => ((t.part 0).posts.head?).map FaultRec.cause)

/-- R139-R141: sums wrap; R141's table, byte 1 of v3 with SAT; the signed and the unsigned clamp. -/
theorem test_iadd_wraps : vec (gave (.iadd 3 1 2) [(0, 1, 0xFFFFFFFF), (0, 2, 2)] []) 0 3 = some 1 := by decide +kernel
theorem test_iadds_byte : let t := gave (.iadds 3 1 2) [(0, 1, 100), (0, 2, 50), (0, 3, 0x11223344)] [] (.c ⟨7, false, 0, 0, 0, 0, 3, 1, 0⟩)
    vec t 0 3 = some 0x11227F44 ∧ flags t = some fSAT := by decide +kernel
theorem test_isubs_clamps : vec (gave (.isubs 3 1 2) [(0, 1, 0x80000000), (0, 2, 1)] []) 0 3 = some 0x80000000 := by decide +kernel
theorem test_usubs_clamps : let t := gave (.usubs 3 1 2) [(0, 1, 3), (0, 2, 5)] []
    vec t 0 3 = some 0 ∧ flags t = some fSAT := by decide +kernel
theorem test_uadds_no_clamp : let t := gave (.uadds 3 1 2) [(0, 1, 3), (0, 2, 5)] []
    vec t 0 3 = some 8 ∧ flags t = some 0 := by decide +kernel
theorem test_iavg_floor : vec (gave (.iavg 3 1 2) [(0, 1, 0xFFFFFFFD), (0, 2, 0xFFFFFFFD)] []) 0 3 = some 0xFFFFFFFD := by decide +kernel
theorem test_iabsd_wide : vec (gave (.iabsd 3 1 2) [(0, 1, 0x80000000), (0, 2, 0x7FFFFFFF)] []) 0 3 = some 0xFFFFFFFF := by decide +kernel
theorem test_imulh_signed : vec (gave (.imulh 3 1 2) [(0, 1, 0xFFFFFFFF), (0, 2, 2)] []) 0 3 = some 0xFFFFFFFF := by decide +kernel
theorem test_umulh : vec (gave (.umulh 3 1 2) [(0, 1, 0xFFFFFFFF), (0, 2, 0xFFFFFFFF)] []) 0 3 = some 0xFFFFFFFE := by decide +kernel
theorem test_imad_own_source : vec (gave (.imad 3 3 3) [(0, 3, 5)] []) 0 3 = some 30 := by decide +kernel
theorem test_imin_signed : vec (gave (.imin 3 1 2) [(0, 1, 0xFFFFFFFF), (0, 2, 2)] []) 0 3 = some 0xFFFFFFFF := by decide +kernel
theorem test_umin_unsigned : vec (gave (.umin 3 1 2) [(0, 1, 0xFFFFFFFF), (0, 2, 2)] []) 0 3 = some 2 := by decide +kernel

/-- R142-R144: shifts by 32, a rotation by 33, counts, fields, and R144's byte swap. -/
theorem test_shl_32 : vec (gave (.shl 3 1 2) [(0, 1, 1), (0, 2, 32)] []) 0 3 = some 0 := by decide +kernel
theorem test_sar_far : vec (gave (.sar 3 1 2) [(0, 1, 0x80000000), (0, 2, 0x80000000)] []) 0 3 = some 0xFFFFFFFF := by decide +kernel
theorem test_rol_33 : vec (gave (.rol 3 1 2) [(0, 1, 0x80000000), (0, 2, 33)] []) 0 3 = some 1 := by decide +kernel
theorem test_clz_zero : vec (gave (.clz 3 1) [(0, 3, 9)] []) 0 3 = some 32 := by decide +kernel
theorem test_brev : vec (gave (.brev 3 1) [(0, 1, 3)] []) 0 3 = some 0xC0000000 := by decide +kernel
theorem test_bfx : vec (gave (.bfx 3 1 102) [(0, 1, 0xABCD)] [(6, 0x0804)]) 0 3 = some 0xBC := by decide +kernel
theorem test_bfi_drops : vec (gave (.bfi 3 1 2) [(0, 1, 0xFF), (0, 2, 0x081C), (0, 3, 0x01234567)] []) 0 3 = some 0xF1234567 := by decide +kernel
theorem test_prmb_swap : vec (gave (.prmb 3 1 2) [(0, 1, 0x44332211), (0, 2, 0x0123)] []) 0 3 = some 0x11223344 := by decide +kernel
theorem test_prmb_d : vec (gave (.prmb 3 1 2) [(0, 2, 0x4567), (0, 3, 0x88776655)] []) 0 3 = some 0x55667788 := by decide +kernel

/-- R145-R153: sign-extended immediates, constants, the byte insertion of R148, unsigned compares, predicates. -/
theorem test_andi : vec (gave (.andi 3 1 0x7C) [(0, 1, 0xFFFFFFFF)] []) 0 3 = some 0xFFFFFFFC := by decide +kernel
theorem test_movhi : vec (gave (.movhi 4 0x48D1) [(0, 4, 0x1678)] []) 0 4 = some 0x12345678 := by decide +kernel
theorem test_movl_uniform : uni (gave (.movl 100 0x20000) [] []) 4 = some 0xFFFFFFFFFFFE0000 := by decide +kernel
theorem test_mov_byte : vec (gave (.mov 3 7) [(0, 7, 0x1AB), (0, 3, 0x11223344)] [] (.c ⟨7, false, 0, 0, 0, 0, 4, 2, 0⟩)) 0 3 = some 0x11AB3344 := by decide +kernel
theorem test_icmpi_unsigned : (warpOf (gave (.icmpi 6 2 1 0x7F) [(0, 1, 5)] [])).map (fun x => x.lanes.map (fun l => l.p.getLsbD 2)) = some (List.replicate 32 true) := by decide +kernel
theorem test_ptov_bit7 : vec (gave (.ptov 3) [] []) 0 3 = some 0xC0 := by decide +kernel
theorem test_sadd_carry : uni (gave (.sadd 100 101 102) [] [(5, 0xFFFFFFFF), (6, 1)]) 4 = some 0x100000000 := by decide +kernel
theorem test_smulhu : uni (gave (.smulhu 100 101 101) [] [(5, 0xFFFFFFFFFFFFFFFF)]) 4 = some 0xFFFFFFFFFFFFFFFE := by decide +kernel
theorem test_ssar_far : uni (gave (.ssar 100 101 102) [] [(5, 0x8000000000000000), (6, 64)]) 4 = some 0xFFFFFFFFFFFFFFFF := by decide +kernel
theorem test_sclz : uni (gave (.sclz 100 101) [] [(5, 1)]) 4 = some 63 := by decide +kernel
theorem test_scmpi_lt : (warpOf (gave (.scmpi 2 1 100 10) [] [(4, 0xFFFFFFFFFFFFFFFF)])).map (fun x => x.q.getLsbD 1) = some true := by decide +kernel

/-- R154-R156, R176-R180. -/
theorem test_ballot : uni (gave (.ballot 100 7) [] []) 4 = some 0xFFFFFFFF := by decide +kernel
theorem test_vfirst_none : uni (gave (.vfirst 100 0) [] []) 4 = some 0xFFFFFFFFFFFFFFFF := by decide +kernel
theorem test_rdlane : uni (gave (.rdlane 100 1 101) [(31, 1, 0xFFFFFFFF)] [(5, 31)]) 4 = some 0xFFFFFFFF := by decide +kernel
theorem test_rdlane_bound : fault (gave (.rdlane 100 1 101) [] [(5, 32)]) = some 0x23 := by decide +kernel
theorem test_lget_wxor : vec (gave (.lget_wxor 5 4 1) [(16, 4, 9)] []) 0 5 = some 9 := by decide +kernel
theorem test_lget_up_own : vec (gave (.lget_up 5 4 1) [(0, 4, 7)] []) 0 5 = some 7 := by decide +kernel
theorem test_radd_extends : uni (gave (.radd 100 1) [(0, 1, 5), (31, 1, 0xFFFFFFF9)] []) 4 = some 0xFFFFFFFFFFFFFFFE := by decide +kernel
theorem test_scan_add : let t := gave (.scan_add 6 1) [(0, 1, 1), (1, 1, 2)] []
    vec t 0 6 = some 1 ∧ vec t 31 6 = some 3 := by decide +kernel
theorem test_rstep : let t := gave (.rstep_add 2 1 101) [(0, 1, 4), (16, 1, 5), (16, 2, 8)] [(5, 16)]
    vec t 0 2 = some 9 ∧ vec t 16 2 = some 8 := by decide +kernel

/-- R178's example: a width-8 warp with lane 3 drained. -/
def narrow (x : Warp) : Warp :=
  { x with width := 8, m := 0xFF, lanes := (x.lanes.take 8).mapIdx (fun j l => if j = 3 then { l with st := .drained } else l) }
theorem test_rfadd_tree : let t := gave (.rfadd 100 1) [(0, 1, 0x3F800000), (1, 1, 0x33800000), (4, 1, 0x33800000), (5, 1, 0x33800000)] [] .none narrow
    uni t 4 = some 0x3F800001 ∧ flags t = some fNX := by decide +kernel

/-- R159-R170: one rounding, the invalid sum, the smaller zero, classes, scales, unordered compares, roots, halves, conversions. -/
theorem test_fma_once : vec (gave (.fma 3 1 1) [(0, 1, 0x3F800800), (0, 3, 0xBF801000)] []) 0 3 = some 0x33800000 := by decide +kernel
theorem test_fadd_invalid : let t := gave (.fadd 3 1 2) [(0, 1, 0x7F800000), (0, 2, 0xFF800000)] []
    vec t 0 3 = some 0x7FC00000 ∧ flags t = some fNV := by decide +kernel
theorem test_fmin_zeros : vec (gave (.fmin 3 1 2) [(0, 2, 0x80000000)] []) 0 3 = some 0x80000000 := by decide +kernel
theorem test_fclass_subnormal : vec (gave (.fclass 3 1) [(0, 1, 0x80000001)] []) 0 3 = some 5 := by decide +kernel
theorem test_fscale : vec (gave (.fscale 3 1 2) [(0, 1, 0x3FC00000), (0, 2, 0x4079999A)] []) 0 3 = some 0x41400000 := by decide +kernel
theorem test_fcmp_nan : let t := gave (.fcmp 2 3 1 2) [(0, 1, 0x7FC00000)] []
    (warpOf t).bind (fun x => (x.lanes.map (fun l => l.p.getLsbD 3))[0]?) = some false ∧ flags t = some fNV := by decide +kernel
theorem test_frcp_zero : let t := gave (.frcp 3 1) [(0, 1, 0x80000000)] []
    vec t 0 3 = some 0xFF800000 ∧ flags t = some fDZ := by decide +kernel
theorem test_fsqrt_exact : vec (gave (.fsqrt 3 1) [(0, 1, 0x40100000)] []) 0 3 = some 0x3FC00000 := by decide +kernel
theorem test_fsqrt_rounds : vec (gave (.fsqrt 3 1) [(0, 1, 0x40000000)] []) 0 3 = some 0x3FB504F3 := by decide +kernel
theorem test_hadd2 : vec (gave (.hadd2 3 1 2) [(0, 1, 0x40003C00), (0, 2, 0x3C003C00)] []) 0 3 = some 0x42004000 := by decide +kernel
theorem test_f2i_rz : let t := gave (.f2i 3 1) [(0, 1, 0xBFF33333)] [] (.c ⟨7, false, 0, 0, 0, 0, 0, 0, 1⟩)
    vec t 0 3 = some 0xFFFFFFFF ∧ flags t = some fNX := by decide +kernel
theorem test_i2f_even : vec (gave (.i2f 3 1) [(0, 1, 0x01000001)] []) 0 3 = some 0x4B800000 := by decide +kernel
theorem test_pkh2 : vec (gave (.pkh2 3 1 2) [(0, 1, 0x3F800000), (0, 2, 0x40000000)] []) 0 3 = some 0x40003C00 := by decide +kernel

/-- R174's example. -/
theorem test_bexp : vec (gave (.bexp 5 1) [(0, 1, 0x3F400000), (1, 1, 0xBE800000), (2, 1, 0x3F800000), (3, 1, 0xBFF33333)] []) 9 5 = some 127 := by decide +kernel
theorem test_bq4 : let t := gave (.bq_4 3 1 101) [(0, 1, 0x3F400000), (1, 1, 0xBE800000), (2, 1, 0x3F800000), (3, 1, 0xBFF33333)] [(5, 127)]
    vec t 0 3 = some 3 ∧ vec t 1 3 = some 3 ∧ vec t 2 3 = some 6 ∧ vec t 3 3 = some 10 ∧ vec t 4 3 = some 0 ∧ flags t = some fNX := by decide +kernel
theorem test_bdq4 : let t := gave (.bdq_4 4 3 101) [(0, 3, 3), (1, 3, 3), (2, 3, 6), (3, 3, 10)] [(5, 127)]
    vec t 0 4 = some 0x3F400000 ∧ vec t 1 4 = some 0xBE800000 ∧ vec t 3 4 = some 0xC0000000 ∧ vec t 4 4 = some 0 := by decide +kernel

/-- R210-R228: a load that sign-extends, byte order, a store, an atomic, a compare that fails, alignment, a scratchpad's end, a page without W. -/
theorem test_ld_signed : vec (gaveAt 0x11000 [0x80] (.ld 1 1 3 98 0) [] [(2, 0x11000)]) 0 3 = some 0xFFFFFF80 := by decide +kernel
theorem test_ld_order : vec (gaveAt 0x11000 [1, 2, 3, 4] (.ld 4 0 3 98 120) [] [(2, 0x11000)]) 0 3 = some 0x04030201 := by decide +kernel
theorem test_st_order : byteAt (gaveAt 0x11000 [0xFF, 0xFF, 0xFF, 0xFF, 0xFF] (.st 4 0 3 98 120) [] [(2, 0x11000)]) 0x11000 5 = some 0xFF00000000 := by decide +kernel
theorem test_ld_misaligned : fault (gaveAt 0x11000 [] (.ld 4 0 3 98 120) [] [(2, 0x11002)]) = some 0x29 := by decide +kernel
theorem test_ld_unmapped : fault (gaveAt 0x11000 [] (.ld 4 0 3 98 120) [] [(2, 0x0000700000000000)]) = some 0x20 := by decide +kernel
theorem test_atom_add : let t := gaveAt 0x11000 [5] (.atom_add 3 98 120) [(0, 3, 7)] [(2, 0x11000)] (.m ⟨7, false, 0, 0, 0, 0⟩)
    byteAt t 0x11000 4 = some (5 + 7) ∧ vec t 0 3 = some 5 := by decide +kernel
theorem test_atom_cas_fails : let t := gaveAt 0x11000 [5] (.atom_cas 4 98 120) [(0, 4, 7), (0, 5, 6), (1, 5, 9)] [(2, 0x11000)]
    byteAt t 0x11000 4 = some 5 ∧ vec t 0 4 = some 5 := by decide +kernel
theorem test_scratch_end : fault (gave (.st 4 0 3 98 120) [] [(2, 0xFFFF000000000400)]) = some 0x21 := by decide +kernel

/-- R254-R274, R233-R251: barriers, objects, locks, copies, tags, windows. -/
theorem test_nbwait_alone : (warpOf (gave (.nbwait 3 120) [] [])).map Warp.wait = some .none := by decide +kernel
theorem test_nbwait_waits : (warpOf (gave (.nbwait 3 101) [] [(5, 2)])).map Warp.wait = some (.nbar 3 2) := by decide +kernel
theorem test_abinit : (gave (.abinit 100 101) [] [(4, 0xFFFF000000000010), (5, 2)]).map (fun t => t.abObj 0 (.scratch 0 16)) = some ⟨2, 2, 0, false, false, 0, 0, 0⟩ := by decide +kernel
theorem test_abarv_uninitialised : (gave (.abarv 102 100 101) [] [(4, 0xFFFF000000000010)]).map (fun t => (t.abObj 0 (.scratch 0 16)).ovf) = some true := by decide +kernel
theorem test_ltry : let t := gaveAt 0x11000 [] (.ltry 100 101) [] [(5, 0x11080), (4, 9)]
    uni t 4 = some 0 ∧ t.map (fun t => ((t.part 0).lock (0x11080 / 128)).holder) = some (some 0) := by decide +kernel
theorem test_lunlk_notheld : uni (gaveAt 0x11000 [] (.lunlk 100 101) [] [(5, 0x11080)]) 4 = some 8 := by decide +kernel
theorem test_cpy : let t := gaveAt 0x11000 [] (.cpy 3 100 102) [] [(4, 0x11000), (5, 0x12000), (6, 32)]
    t.map (fun t => ((t.part 0).core 0).copyQ.map (fun k => (k.tag, k.kind))) = some [(3, .cpy 0x11000 0x12000 32)] ∧ (warpOf t).map Warp.ifc = some 1 := by decide +kernel
theorem test_cpy_operand : fault (gave (.cpy 3 100 102) [] [(6, 24)]) = some 0x23 := by decide +kernel
theorem test_tff : uni (gave (.tff 100 101) [] [(5, 0xC)] .none (fun x => { x with trdy := 0x8 })) 4 = some 3 := by decide +kernel
theorem test_wbase : (warpOf (gave (.wbase 101) [] [(5, 16)])).map Warp.wb = some 16 := by decide +kernel
theorem test_mma_operand : fault (gave (.mma 0 3 0 32 0 100) [] [(4, 1)]) = some 0x23 := by decide +kernel

/-- R126-R134, R90-R113, R311-R330: control, warps, traps, control registers, levels. -/
theorem test_bra : (warpOf (gave (.bra 0 7 1) [] [])).map Warp.pc = some 0x10004 := by decide +kernel
theorem test_bra_not_taken : (warpOf (gave (.bra 0 0 0) [] [])).map Warp.pc = some 0x10004 := by decide +kernel
theorem test_call_links : let t := gave (.call 0 7 0) [] []
    (warpOf t).map Warp.pc = some 0x10000 ∧ uni t 23 = some 0x10004 := by decide +kernel
theorem test_bra_outside : fault (gave (.bra 0 7 2) [] []) = some 0x23 := by decide +kernel
theorem test_brv_splits : (warpOf (gave (.brv 0 0 1) [] [] .none (fun x => { x with lanes := x.lanes.mapIdx (fun j l => if j = 0 then { l with p := 0x41 } else l) }))).map
    (fun x => (x.m, x.stack.map Rec.pmask)) = some (0xFFFFFFFE, [1]) := by decide +kernel
theorem test_join_empty : fault (gave .join [] []) = some 0x23 := by decide +kernel
theorem test_loop : (warpOf (gave (.loop 0 100 1) [] [(4, 3)])).map (fun x => (x.lc0, x.levels.length, x.pc)) = some (3, 1, 0x10004) := by decide +kernel
theorem test_exit_retires : (warpOf (gave .exit [] [])).map (fun x => (x.wait, x.live)) = some (.retire, 0) := by decide +kernel
theorem test_sleep : (warpOf (gave (.sleep 101) [] [(5, 4)])).map Warp.wait = some (.sleep 8) := by decide +kernel
theorem test_iqry : uni (gave (.iqry 100) [] []) 4 = some 0x1000020 := by decide +kernel
theorem test_split_width : uni (gave (.split 100 101) [] [(5, 32)]) 4 = some 0xFFFFFFFFFFFFFFF7 := by decide +kernel
theorem test_racq_limit : uni (gave (.racq 100 101 120) [] [(5, 1)]) 4 = some 2 := by decide +kernel
theorem test_trap_delivered : (warpOf (gave (.trap 101) [] [(5, 77)] .none (fun x => { x with trap := { x.trap with thnd := 0x10004 } }))).map
    (fun x => (x.pc, x.trap.cause, x.trap.epc, x.trap.info, x.trap.inh)) = some (0x10004, 1, 0x10004, 77, true) := by decide +kernel
theorem test_trap_no_handler : fault (gave (.trap 101) [] []) = some 0x29 := by decide +kernel
theorem test_eret : (warpOf (gave .eret [] [] .none (fun x => { x with trap := { x.trap with epc := 0x10000, inh := true, savedM := 3 } }))).map
    (fun x => (x.pc, x.m, x.trap.inh)) = some (0x10000, 3, false) := by decide +kernel
theorem test_csrw_thnd : (warpOf (gave (.csrw 101 0x018) [] [(5, 0x10004)])).map (fun x => x.trap.thnd) = some 0x10004 := by decide +kernel
theorem test_csrr_level : fault (gave (.csrr 100 0x100) [] []) = some 0x24 := by decide +kernel
theorem test_tlbi_level : fault (gave (.tlbi 100 120) [] []) = some 0x24 := by decide +kernel
theorem test_regbound : fault (gave (.iadd 95 1 2) [] [] .none (fun x => { x with n := 64 })) = some 0x26 := by decide +kernel

/-- A granted word is fetched and run by one step: the word of R41's first line above stands at the warp's next address (R30, R116). -/
theorem test_step : let t := next (step (hold [] [] id (State.reset.withFetchWord 32 0x86807D02)))
    vec t 5 1 = some 20 ∧ (warpOf t).map Warp.pc = some 0x10004 := by decide +kernel

set_option maxRecDepth 100000 in
/-- R367: the first bytes of SHAKE256 of the empty message (FIPS 202). -/
theorem test_shake256 : (shake256 []).take 4 = [0x46, 0xB9, 0xDD, 0x2B] := by decide +kernel

/-- Device steps (R371, R113, R78). -/
theorem test_throttle : (next (exec .power_throttle { quiet with ev := some (0, .power_throttle 60) })).map State.clkPct = some 60 := by decide +kernel
theorem test_sleep_expiry : (warpOf (next (exec .sleep_expiry { hold [] [] (fun x => { x with wait := .sleep 0 }) quiet with ev := some (0, .sleep_expiry ⟨0, 0⟩) }))).map Warp.wait =
    some .none := by decide +kernel
theorem test_event_counter : (next (exec .event_counter_write { quiet with ev := some (0, .event_counter_write 4095 7) })).map (fun t => Sparse.rd (t.part 0).events 4095) =
    some 7 := by decide +kernel

/-! ### The statements' hypotheses can be met -/

/-- The premises of a word that is alone, and of a lone word, as tests. -/
def aloneB (s : State) (i : Instr) (iss : Issue) (c : Ctx) : Bool :=
  decide (s.cur = some iss) && decide ((s.part iss.q).ctx iss.w = some c) && decide (c.x.takes (physRegs c.x.wb i iss.pfx) = true) &&
  decide ((s.runAt iss c).words + iss.len / 4 ≤ 32) && decide (c.x.beyond (s.runAt iss c).start (iss.addr + BitVec.ofNat 64 (iss.len - 4)) = false) && decide (c.x.refillRun = false) &&
  decide (regBound c.x.n (physRegs c.x.wb i iss.pfx) = none) && decide (c.x.run = none) && decide (iss.bung = true) && decide ((s.part iss.q).placeQ = []) &&
  decide ((s.part iss.q).swaps = []) && decide ((s.part iss.q).csr.resv = []) &&
  (s.part iss.q).warps.all (fun y => match y.2.wait with | .abwait .. => false | _ => true)
def loneB (s : State) (i : Instr) (iss : Issue) (c : Ctx) : Bool := aloneB s i iss c && decide (c.x.levels = [])

theorem alone_of {s : State} {i : Instr} {iss : Issue} {c : Ctx} (h : aloneB s i iss c = true) : Alone s i iss c := by
  simp only [aloneB, Bool.and_eq_true, decide_eq_true_eq, List.all_eq_true] at h
  obtain ⟨⟨⟨⟨⟨⟨⟨⟨⟨⟨⟨⟨h1, h2⟩, h3⟩, h4⟩, h5⟩, h6⟩, h7⟩, h8⟩, h9⟩, h10⟩, h11⟩, h12⟩, h14⟩ := h
  refine ⟨⟨⟨h1, h2, h3⟩, h4, h5, .inl h6, h7⟩, h8, h9, h10, h11, h12, fun y hy l g t e => ?_⟩
  have := h14 y hy
  rw [e] at this
  exact absurd this (by simp)

theorem lone_of {s : State} {i : Instr} {iss : Issue} {c : Ctx} (h : loneB s i iss c = true) : Lone s i iss c := by
  rw [loneB, Bool.and_eq_true, decide_eq_true_eq] at h
  exact ⟨alone_of h.1, h.2⟩

/-- A lone word on some state, whose operands a condition admits. -/
def Meets (i : Instr) (ok : State → Env → Prop) : Prop := ∃ s iss c, Lone s i iss c ∧ ok (s.begun iss c) (s.env iss c)

/-- … and whose run is settled. -/
def MeetsSettled (i : Instr) (ok : State → Env → Prop) (w : State → Env → Word) : Prop :=
  ∃ s iss c, Lone s i iss c ∧ ok (s.begun iss c) (s.env iss c) ∧ Settled s iss c (w (s.begun iss c) (s.env iss c))

/-- … and whose warp has a handler that a trap reaches. -/
def MeetsTrap (i : Instr) (ok : State → Env → Prop) : Prop := ∃ s iss c, Lone s i iss c ∧ ok (s.begun iss c) (s.env iss c) ∧ c.deliverable

/-- The premises on the one warp's word, as a test. -/
def meetsB (s : State) (i : Instr) (pfx : Pfx) (ok : State → Issue → Ctx → Bool) : Bool :=
  match (s.part 0).ctx ⟨0, 0⟩ with
  | none => false
  | some c => loneB s i (grant pfx) c && ok s (grant pfx) c

theorem meetsB_lone {s : State} {i : Instr} {pfx : Pfx} {ok : State → Issue → Ctx → Bool} (h : meetsB s i pfx ok = true) :
    ∃ c, Lone s i (grant pfx) c ∧ ok s (grant pfx) c = true := by
  unfold meetsB at h
  split at h
  · cases h
  · rw [Bool.and_eq_true] at h
    exact ⟨_, lone_of h.1, h.2⟩

theorem meets {ok : State → Env → Prop} [∀ s e, Decidable (ok s e)] (s : State) (pfx : Pfx) {i : Instr}
    (h : meetsB s i pfx (fun s iss c => decide (ok (s.begun iss c) (s.env iss c))) = true) : Meets i ok := by
  obtain ⟨c, hl, hk⟩ := meetsB_lone h
  exact ⟨s, grant pfx, c, hl, of_decide_eq_true hk⟩

theorem any_some {α : Type} {o : Option α} {f : α → Bool} (h : o.any f = true) : ∃ x, o = some x ∧ f x = true := by
  cases o with
  | none => exact absurd h (by simp)
  | some x => exact ⟨x, rfl, h⟩

/-- A word that is alone, whose operands a condition admits. -/
theorem meets_alone {i : Instr} {ok : State → Issue → Ctx → Prop} [∀ s iss c, Decidable (ok s iss c)] (s : State) (pfx : Pfx)
    (h : ((s.part 0).ctx ⟨0, 0⟩).any (fun c => aloneB s i (grant pfx) c && decide (ok s (grant pfx) c)) = true) : ∃ s iss c, Alone s i iss c ∧ ok s iss c := by
  obtain ⟨c, -, hk⟩ := any_some h
  rw [Bool.and_eq_true] at hk
  exact ⟨s, _, _, alone_of hk.1, of_decide_eq_true hk.2⟩

/-- The settled run, as a test. -/
def settledB (s : State) (iss : Issue) (c : Ctx) (w : Word) : Bool :=
  decide (w.cond = none) && decide ((s.queued iss c w).lockCond iss.q (c.queued s.now (s.runWith iss c w)) (s.runWith iss c w) = none) &&
  decide ((s.queued iss c w).raceCond iss.q (c.queued s.now (s.runWith iss c w)) (s.runWith iss c w) = none) &&
  ((s.queued iss c w).runBarred iss.q (c.queued s.now (s.runWith iss c w)) (s.runWith iss c w)
    ((s.queued iss c w).requests iss.q (c.queued s.now (s.runWith iss c w)) (s.runWith iss c w))).isEmpty &&
  decide (((s.queued iss c w).part iss.q).runReady (c.queued s.now (s.runWith iss c w)) { s.runWith iss c w with since := s.now } = true)

theorem settled_of {s : State} {iss : Issue} {c : Ctx} {w : Word} (h : settledB s iss c w = true) : Settled s iss c w := by
  simp only [settledB, Bool.and_eq_true, decide_eq_true_eq] at h
  exact ⟨h.1.1.1.1, h.1.1.1.2, h.1.1.2, List.isEmpty_iff.1 h.1.2, h.2⟩

theorem meets_settled {ok : State → Env → Prop} [∀ s e, Decidable (ok s e)] {w : State → Env → Word} (s : State) (pfx : Pfx) {i : Instr}
    (h : meetsB s i pfx (fun s iss c => decide (ok (s.begun iss c) (s.env iss c)) && settledB s iss c (w (s.begun iss c) (s.env iss c))) = true) : MeetsSettled i ok w := by
  obtain ⟨c, hl, hk⟩ := meetsB_lone h
  rw [Bool.and_eq_true] at hk
  exact ⟨s, grant pfx, c, hl, of_decide_eq_true hk.1, settled_of hk.2⟩

theorem meets_trap {ok : State → Env → Prop} [∀ s e, Decidable (ok s e)] (s : State) (pfx : Pfx) {i : Instr}
    (h : meetsB s i pfx (fun s iss c => decide (ok (s.begun iss c) (s.env iss c)) &&
      decide (c.x.trap.thnd ≠ 0 ∧ c.grid.k.target c.x.trap.thnd = true ∧ c.x.trap.inh = false)) = true) : MeetsTrap i ok := by
  obtain ⟨c, hl, hk⟩ := meetsB_lone h
  rw [Bool.and_eq_true] at hk
  exact ⟨s, grant pfx, c, hl, of_decide_eq_true hk.1, of_decide_eq_true (p := c.x.trap.thnd ≠ 0 ∧ c.grid.k.target c.x.trap.thnd = true ∧ c.x.trap.inh = false) hk.2⟩

/-- The state of a lone word: registers of the one warp, and what else it holds. -/
def lone (v : List (Nat × Nat × W32)) (u : List (Nat × W64)) (f : Warp → Warp := id) (pfx : Pfx := .none) (s : State := quiet) : State :=
  { hold v u f s with cur := some (grant pfx) }

/-- Lone words without a condition on their operands. -/
theorem lone_all {l : List Instr} (h : l.all (fun i => meetsB (lone [] []) i .none (fun _ _ _ => true)) = true) : ∀ i ∈ l, ∃ s iss c, Lone s i iss c := by
  intro i hi
  obtain ⟨c, hl, -⟩ := meetsB_lone (List.all_eq_true.mp h i hi)
  exact ⟨_, _, c, hl⟩

/-- A narrow float source, a narrow integer destination, RM, a guard on p0 which no lane has set. -/
def sa (f p : BitVec 3) : Pfx := .c ⟨7, false, f, p, 0, 0, 0, 0, 0⟩
def sb (f p : BitVec 3) : Pfx := .c ⟨7, false, 0, 0, f, p, 0, 0, 0⟩
def dn (f p : BitVec 3) : Pfx := .c ⟨7, false, 0, 0, 0, 0, f, p, 0⟩
def unguarded : Pfx := .c ⟨0, false, 0, 0, 0, 0, 0, 0, 0⟩
def width (w : Nat) (x : Warp) : Warp := { x with width := w, m := fullMask w, lanes := List.replicate w ⟨.live, 0, 1, 0x40⟩ }
def handled (x : Warp) : Warp := { x with trap := { x.trap with thnd := 0x10004 } }
def ruled : State := quiet.modPart 0 (fun p => { p with csr := { p.csr with sqmask := 1 } })

theorem witness_IntegerArithmetic :
    (∀ i ∈ [Instr.iadd 3 1 2, .isub 3 1 2, .imin 3 1 2, .imax 3 1 2, .umin 3 1 2, .umax 3 1 2, .iabsd 3 1 2, .iavg 3 1 2, .imul 3 1 2, .imulh 3 1 2, .umulh 3 1 2, .imad 3 1 2],
      ∃ s iss c, Lone s i iss c) ∧
    Meets (.iadds 3 1 2) (fun _ e => e.pc.dnf.toNat ≤ 6) ∧ Meets (.isubs 3 1 2) (fun _ e => e.pc.dnf.toNat ≤ 6) ∧
    Meets (.uadds 3 1 2) (fun _ e => e.pc.dnf.toNat ≤ 6) ∧ Meets (.usubs 3 1 2) (fun _ e => e.pc.dnf.toNat ≤ 6) :=
  ⟨lone_all (by decide +kernel), meets (lone [] [] id (dn 6 7)) (dn 6 7) (by decide +kernel), meets (lone [] []) .none (by decide +kernel),
    meets (lone [] [] id (dn 6 0)) (dn 6 0) (by decide +kernel), meets (lone [] [] id (dn 3 3)) (dn 3 3) (by decide +kernel)⟩

theorem witness_WarpQueries :
    (∀ i ∈ [Instr.vany 1 2, .vall 1 2, .vcnt 100 2, .vfirst 100 2], ∃ s iss c, Lone s i iss c) ∧
    Meets (.ballot 100 7) (fun _ e => e.c.x.width ≤ 64) ∧ Meets (.ballot 100 7) (fun _ e => e.c.x.width = 128 ∧ (Reg.isZ 100 = true ∨ Reg.isSPair 100 = true)) ∧
    Meets (.ballot 101 7) (fun _ e => e.c.x.width = 128 ∧ Reg.isS 101 = true ∧ Reg.isSPair 101 = false) ∧
    Meets (.rdlane 100 1 101) (fun _ e => (e.srcS 101).toNat < e.c.x.width) ∧ Meets (.wrlane 1 100 101) (fun _ e => (e.srcS 101).toNat < e.c.x.width) ∧
    Meets (.rdlane 100 1 101) (fun _ e => e.c.x.width ≤ (e.srcS 101).toNat) ∧ Meets (.wrlane 1 100 101) (fun _ e => e.c.x.width ≤ (e.srcS 101).toNat) :=
  ⟨lone_all (by decide +kernel), meets (lone [] [] (width 64)) .none (by decide +kernel), meets (lone [] [] (width 128)) .none (by decide +kernel),
    meets (lone [] [] (width 128)) .none (by decide +kernel), meets (lone [] [(5, 31)]) .none (by decide +kernel), meets (lone [] [(5, 31)]) .none (by decide +kernel),
    meets (lone [] [(5, 32)]) .none (by decide +kernel), meets (lone [] [(5, 32)]) .none (by decide +kernel)⟩

theorem witness_LogicAndShifts : ∀ i ∈ [Instr.and 3 1 2, .or 3 1 2, .xor 3 1 2, .andn 3 1 2, .orn 3 1 2, .xnor 3 1 2, .shl 3 1 2, .shr 3 1 2, .sar 3 1 2, .rol 3 1 2, .brev 3 1, .popc 3 1, .clz 3 1],
    ∃ s iss c, Lone s i iss c := lone_all (by decide +kernel)
theorem witness_FieldsAndBytes : ∀ i ∈ [Instr.bfx 3 1 2, .bfi 3 1 2, .prmb 120 1 2], ∃ s iss c, Lone s i iss c := lone_all (by decide +kernel)
theorem witness_ImmediateArithmetic :
    ∀ i ∈ [Instr.iaddi 3 1 64, .andi 3 1 1, .ori 3 1 1, .xori 3 1 1, .shli 3 1 31, .shri 3 1 31, .sari 3 1 31, .roli 3 1 31, .imini 3 1 1, .imaxi 3 1 1], ∃ s iss c, Lone s i iss c :=
  lone_all (by decide +kernel)
theorem witness_ConstantsAndMoves :
    (∀ i ∈ [Instr.mov 3 1, .sel 6 3 1 2], ∃ s iss c, Lone s i iss c) ∧
    Meets (.movl 3 1) (fun _ _ => Reg.isS 3 = false) ∧ Meets (.movl 100 1) (fun _ _ => Reg.isS 100 = true) ∧ Meets (.movhi 120 1) (fun _ _ => Reg.isS 120 = false) ∧
    Meets (.movhi 119 1) (fun _ _ => Reg.isS 119 = true) :=
  ⟨lone_all (by decide +kernel), meets (lone [] []) .none (by decide +kernel), meets (lone [] []) .none (by decide +kernel), meets (lone [] []) .none (by decide +kernel),
    meets (lone [] []) .none (by decide +kernel)⟩
theorem witness_IntegerCompares : (9 : BitVec 4).toNat ≤ 9 ∧ ∀ i ∈ [Instr.icmp 9 3 1 2, .icmpi 9 3 1 64, .scmp 9 3 100 101, .scmpi 0 7 100 64], ∃ s iss c, Lone s i iss c :=
  ⟨by decide, lone_all (by decide +kernel)⟩
theorem witness_PredicateLogic :
    ∀ i ∈ [Instr.pand 1 2 3, .por 1 2 3, .pxor 1 2 3, .pnot 7 2, .ptov 3, .vtop 3 100, .qand 1 2 3, .qor 1 2 3, .qxor 1 2 3, .qnot 1 2], ∃ s iss c, Lone s i iss c :=
  lone_all (by decide +kernel)
theorem witness_UniformArithmetic :
    ∀ i ∈ [Instr.sadd 100 101 102, .ssub 100 101 102, .smul 100 101 102, .smulhu 100 101 102, .smin 100 101 102, .smax 100 101 102, .sminu 100 101 102, .smaxu 100 101 102,
      .sand 100 101 102, .sor 100 101 102, .sxor 100 101 102, .sshl 100 101 102, .sshr 100 101 102, .ssar 100 101 102, .spopc 100 101, .sclz 100 101, .saddi 100 101 64,
      .sandi 100 101 1, .sori 100 101 1, .sxori 100 101 1, .sshli 100 101 63, .sshri 100 101 63, .ssari 120 101 63], ∃ s iss c, Lone s i iss c := lone_all (by decide +kernel)

/-- 3/4 in quarters, rounded to nearest and stochastically; 1 and 8 rounded towards zero into the format of code 7, whose largest value is 6. -/
theorem witness_RoundingAndFormats : (0 : Nat) ≤ 6 ∧ (5 : Nat) ≤ 6 ∧ (roundQ 0 false 3 (-2) 0 0).2 = false ∧ (roundQ 5 false 3 (-2) 0 0).2 = false := by decide +kernel
theorem is_zero (n : Bool) (e : Int) : (Machine.Num.fin n 0 e).Is 0 := by simp [Num.Is]
theorem is_pow (k : Int) : (Machine.Num.fin false 1 k).Is ((2 : Rat) ^ k) := by simp [Num.Is]
theorem witness_RoundingAndFormats_values : ∃ (x y : Machine.Num) (u v : Rat), x.Is u ∧ y.Is v ∧ (2 : Rat) ^ (0 : Int) ≤ |u| ∧ |u| < (2 : Rat) ^ (0 + 1 : Int) ∧ (2 : Rat) ^ (3 : Int) ≤ |v| ∧
    |v| < (2 : Rat) ^ (3 + 1 : Int) ∧ |(rounded 1 0 (u / (2 : Rat) ^ (max 0 0 - 1 : Int)) : Rat) * (2 : Rat) ^ (max 0 0 - 1 : Int)| ≤ 6 ∧
    6 < |(rounded 1 0 (v / (2 : Rat) ^ (max 3 0 - 1 : Int)) : Rat) * (2 : Rat) ^ (max 3 0 - 1 : Int)| :=
  ⟨_, _, _, _, is_pow 0, is_pow 3, by norm_num, by norm_num, by norm_num, by norm_num, by norm_num [rounded, roundTo], by norm_num [rounded, roundTo]⟩
theorem witness_RoundingAndFormats_codes : (7 : Nat) ≤ 7 ∧ (6 : Nat) ≤ 6 ∧ 0 < 2 ^ (fmtOf 7).w ∧ ∃ v, ((fmtOf 7).decode 0).Is v := by
  refine ⟨by decide, by decide, by decide +kernel, 0, ?_⟩
  have h : (fmtOf 7).decode 0 = .fin false 0 ((fmtOf 7).decode 0 |> fun x => match x with | .fin _ _ e => e | _ => 0) := by decide +kernel
  rw [h]; exact is_zero _ _
theorem witness_FloatArithmetic : ∀ i ∈ [Instr.fadd 3 1 2, .fsub 3 1 2, .fmul 3 1 2, .fma 3 1 2, .fnma 3 1 2, .fmin 3 1 2, .fmax 3 1 2], ∃ s iss c, Lone s i iss c := lone_all (by decide +kernel)
theorem witness_FloatMovesAndSigns :
    Meets (.fabs 3 1) (fun _ e => e.full = true) ∧ Meets (.fneg 3 1) (fun _ e => e.full = true) ∧ Meets (.fcpys 3 1 2) (fun _ e => e.full = true ∧ e.pc.sbf = 0 ∧ e.pc.sbp = 0) ∧
    Meets (.fmov 3 1) (fun _ e => e.full = true) ∧ Meets (.fabs 3 1) (fun _ e => e.full = false) ∧ Meets (.fneg 3 1) (fun _ e => e.full = false) ∧
    Meets (.fcpys 3 1 2) (fun _ e => e.full = false) ∧ Meets (.fcpys 3 1 2) (fun _ e => e.full = true ∧ e.pc.sbf ≠ 0) ∧ Meets (.fmov 3 1) (fun _ e => e.full = false) :=
  ⟨meets (lone [] []) .none (by decide +kernel), meets (lone [] []) .none (by decide +kernel), meets (lone [] []) .none (by decide +kernel), meets (lone [] []) .none (by decide +kernel),
    meets (lone [] [] id (sa 1 1)) (sa 1 1) (by decide +kernel), meets (lone [] [] id (dn 3 1)) (dn 3 1) (by decide +kernel), meets (lone [] [] id (dn 2 0)) (dn 2 0) (by decide +kernel),
    meets (lone [] [] id (sb 1 1)) (sb 1 1) (by decide +kernel), meets (lone [] [] id (dn 7 7)) (dn 7 7) (by decide +kernel)⟩
theorem witness_RoundingToIntegers : (Machine.Num.fin false 0 0).Is 0 ∧ (5 : Nat) ≤ 6 ∧ (-(2 ^ 31) : Int) ≤ 0 ∧ (0 : Int) ≤ 2 ^ 31 - 1 := ⟨is_zero _ _, by decide, by decide, by decide⟩
theorem witness_FloatClassesAndCompares : ∃ s iss c, Lone s (.fclass 3 1) iss c := lone_all (l := [Instr.fclass 3 1]) (by decide +kernel) _ (by simp)
theorem witness_FloatScale : ∃ s iss c, Lone s (.fscale 3 1 2) iss c := lone_all (l := [Instr.fscale 3 1 2]) (by decide +kernel) _ (by simp)
theorem witness_FloatClassesAndCompares_fcmp : ∃ s iss c, Lone s (.fcmp 5 7 1 2) iss c := lone_all (l := [Instr.fcmp 5 7 1 2]) (by decide +kernel) _ (by simp)
theorem witness_SpecialFunctions :
    (∀ i ∈ [0, 1, 3, 4, 5, 6, 7].map (fun f => sfuInstr f 3 1), ∃ s iss c, Lone s i iss c) ∧
    sfuSpecial 0 0 = some (0x7F800000, fDZ) ∧ fp32.decode 0x7F800001 = .nan true := ⟨lone_all (by decide +kernel), by decide +kernel, by decide +kernel⟩
/-- 1, as an input whose exact results lie in [2^0, 2^1), as an integer and as a power of two; 2^21, past 2^20. -/
theorem witness_SpecialFunctions_values :
    (fp32.decode 0x3F800000).Is 1 ∧ (fp32.decode 0x4A000000).Is (2 ^ 21) ∧ (2 : Rat) ^ (0 : Int) ≤ |(1 : Rat)⁻¹| ∧ |(1 : Rat)⁻¹| < (2 : Rat) ^ (0 + 1 : Int) ∧
    ((2 : Rat) ^ (0 : Int)) ^ 2 * 1 ≤ 1 ∧ 1 < ((2 : Rat) ^ (0 + 1 : Int)) ^ 2 * 1 ∧ (1 : Rat) = (2 : Rat) ^ (0 : Int) ∧ (2 : Rat) ^ 20 < |(2 ^ 21 : Rat)| := by
  have h : fp32.decode 0x3F800000 = .fin false (2 ^ 23) (-23) := by decide +kernel
  have k : fp32.decode 0x4A000000 = .fin false (2 ^ 23) (-2) := by decide +kernel
  refine ⟨?_, ?_, by norm_num, by norm_num, by norm_num, by norm_num, by norm_num, by norm_num⟩
  · rw [h]; simp only [Num.Is]; norm_num
  · rw [k]; simp only [Num.Is]; norm_num
theorem witness_SpecialFunctions_fsqrt : ∃ s iss c, Lone s (.fsqrt 3 1) iss c := lone_all (l := [Instr.fsqrt 3 1]) (by decide +kernel) _ (by simp)
theorem witness_HalfArithmetic :
    ∀ i ∈ [Instr.hadd2 3 1 2, .hmul2 3 1 2, .hfma2 3 1 2, .hmin2 3 1 2, .hmax2 3 1 2, .hadd2_bf 3 1 2, .hmul2_bf 3 1 2, .hfma2_bf 3 1 2, .hmin2_bf 3 1 2, .hmax2_bf 3 1 2],
      ∃ s iss c, Lone s i iss c := lone_all (by decide +kernel)
theorem witness_FloatConversions :
    (∀ i ∈ [Instr.i2f 3 1, .z2f 3 1, .l2f 3 2, .pkh2 3 1 2, .pkbf2 3 1 2, .seed 1, .f2l 4 1, .frnd 3 1], ∃ s iss c, Lone s i iss c) ∧
    Meets (.f2i 3 1) (fun _ e => e.pc.dnf.toNat ≤ 6) ∧ Meets (.f2z 3 1) (fun _ e => e.pc.dnf.toNat ≤ 6) :=
  ⟨lone_all (by decide +kernel), meets (lone [] [] id (dn 6 1)) (dn 6 1) (by decide +kernel), meets (lone [] []) .none (by decide +kernel)⟩
theorem witness_BlockWords :
    (∀ n ∈ [8, 6, 4, 2],
      Meets (bqInstr n 3 1 2) (fun _ e => e.c.x.width = 32 ∨ e.c.x.width = 64 ∨ e.c.x.width = 128) ∧
      Meets (bdqInstr n 3 1 2) (fun _ e => e.c.x.width = 32 ∨ e.c.x.width = 64 ∨ e.c.x.width = 128) ∧
      MeetsTrap (bqInstr n 3 1 2) (fun _ e => e.c.x.width < 32) ∧ MeetsTrap (bdqInstr n 3 1 2) (fun _ e => e.c.x.width < 32)) ∧
    Meets (.bexp 3 1) (fun _ e => e.c.x.width = 32 ∨ e.c.x.width = 64 ∨ e.c.x.width = 128) ∧ MeetsTrap (.bexp 3 1) (fun _ e => e.c.x.width < 32) := by
  refine ⟨fun n hn => ?_, meets (lone [] [] (width 64)) .none (by decide +kernel), meets_trap (lone [] [] (fun x => handled (width 16 x))) .none (by decide +kernel)⟩
  simp only [List.mem_cons, List.not_mem_nil, or_false] at hn
  rcases hn with rfl | rfl | rfl | rfl <;>
    exact ⟨meets (lone [] [] (width 128)) .none (by decide +kernel), meets (lone [] []) .none (by decide +kernel),
      meets_trap (lone [] [] (fun x => handled (width 16 x))) .none (by decide +kernel), meets_trap (lone [] [] (fun x => handled (width 8 x))) .none (by decide +kernel)⟩
/-- A list whose largest magnitude is 2^1; one with an infinity; one of zeros. -/
theorem witness_BlockWords_codes :
    (∃ n, Num.inf n ∈ [Machine.Num.fin false 1 0, .inf true]) ∧ (∀ n, Num.inf n ∉ [Machine.Num.fin false 0 0]) ∧ (∀ x ∈ [Machine.Num.fin false 0 0], ∀ v, x.Is v → v = 0) ∧
    (let xs := [Machine.Num.fin false 1 0, .fin false 1 1];
      (∀ n, Num.inf n ∉ xs) ∧ (∀ x ∈ xs, ∀ v, x.Is v → |v| ≤ 2) ∧ (∃ x ∈ xs, ∃ v, x.Is v ∧ |v| = 2) ∧ (2 : Rat) ^ (1 : Int) ≤ 2 ∧ (2 : Rat) < (2 : Rat) ^ (1 + 1 : Int)) ∧
    4 ∈ [8, 6, 4, 2] ∧ (5 : Nat) ≤ 6 ∧ (Machine.Num.fin false 0 0).Is 0 := by
  refine ⟨⟨true, by simp⟩, by simp, by simp [Num.Is], ⟨by simp, ?_, ⟨.fin false 1 1, by simp, 2, by simp [Num.Is], by norm_num⟩, by norm_num, by norm_num⟩, by decide, by decide, is_zero _ _⟩
  intro x hx v hv
  simp only [List.mem_cons, List.not_mem_nil, or_false] at hx
  rcases hx with rfl | rfl <;> (simp only [Num.Is] at hv; rw [hv]; norm_num)
theorem witness_LaneGets : ∀ i ∈ [Instr.lget_idx 3 1 2, .lget_xor 3 1 2, .lget_up 3 1 127, .lget_dn 3 1 127, .lget_wxor 3 1 7, .lget_wrot 3 1 0], ∃ s iss c, Lone s i iss c :=
  lone_all (by decide +kernel)
theorem witness_Reductions : ∀ i ∈ [Instr.radd 100 1, .rmin 100 1, .rmax 3 1, .rumin 100 1, .rumax 120 1], Meets i (fun _ e => e.c.x.width ∈ [8, 16, 32, 64, 128] ∧ e.rm ≠ 5) := by
  intro i hi
  simp only [List.mem_cons, List.not_mem_nil, or_false] at hi
  rcases hi with rfl | rfl | rfl | rfl | rfl <;> exact meets (lone [] []) .none (by decide +kernel)
theorem witness_Reductions_float : ∀ i ∈ [Instr.rfadd 100 1, .rfmin 100 1, .rfmax 3 1],
    Meets i (fun _ e => e.c.x.width ∈ [8, 16, 32, 64, 128] ∧ e.lanes = []) ∧ Meets i (fun _ e => e.c.x.width ∈ [8, 16, 32, 64, 128] ∧ e.lanes ≠ []) := by
  intro i hi
  simp only [List.mem_cons, List.not_mem_nil, or_false] at hi
  rcases hi with rfl | rfl | rfl <;> exact ⟨meets (lone [] [] id unguarded) unguarded (by decide +kernel), meets (lone [] [] (width 128)) .none (by decide +kernel)⟩
theorem witness_ScansAndSteps : Meets (.scan_add 3 1) (fun _ e => e.rm ≠ 5) ∧ Meets (.scan_fadd 3 1) (fun _ e => e.rm ≠ 5) :=
  ⟨meets (lone [] []) .none (by decide +kernel), meets (lone [] []) .none (by decide +kernel)⟩
theorem witness_ScansAndSteps_rstep : ∀ i ∈ [Instr.rstep_add 3 1 101, .rstep_fadd 3 1 101, .rstep_fmax 3 1 101],
    Meets i (fun _ e => e.stridesOk 101 ∧ e.rm ≠ 5) ∧ Meets i (fun _ e => ¬ e.stridesOk 101) := by
  intro i hi
  simp only [List.mem_cons, List.not_mem_nil, or_false] at hi
  have good : Meets i (fun _ e => (e.srcS 101).toNat = 2 ^ 4 ∧ 2 ^ 4 ≤ e.c.x.width / 2 ∧ e.rm ≠ 5) := by
    rcases hi with rfl | rfl | rfl <;> exact meets (lone [] [(5, 16)]) .none (by decide +kernel)
  have bad : Meets i (fun _ e => (e.srcS 101).toNat = 0) := by rcases hi with rfl | rfl | rfl <;> exact meets (lone [] []) .none (by decide +kernel)
  refine ⟨?_, ?_⟩
  · obtain ⟨s, iss, c, hl, h1, h2, h3⟩ := good
    exact ⟨s, iss, c, hl, by simpa [Env.stridesOk] using ⟨4, h1, by simpa using h2⟩, h3⟩
  · obtain ⟨s, iss, c, hl, h⟩ := bad
    refine ⟨s, iss, c, hl, ?_⟩
    simp only [Env.stridesOk, h]
    rintro hs
    simp only [show (101 : Reg).toNat = 101 from rfl] at hs
    obtain ⟨j, hj, -⟩ := hs
    exact (Nat.two_pow_pos j).ne hj
theorem witness_StateReads :
    (∀ i ∈ [Instr.tff 100 101, .trd 100, .clock 100], ∃ s iss c, Lone s i iss c) ∧
    Meets (.csrr 100 0x001) (fun _ e => (0x001 : BitVec 14).toNat < 0x100 ∨ (e.sup = true ∧ (0x001 : BitVec 14).toNat < 0x200)) ∧
    Meets (.csrr 100 0x160) (fun _ e => (0x160 : BitVec 14).toNat < 0x100 ∨ (e.sup = true ∧ (0x160 : BitVec 14).toNat < 0x200)) ∧
    Meets (.csrr 100 0x100) (fun _ e => ¬ ((0x100 : BitVec 14).toNat < 0x100 ∨ (e.sup = true ∧ (0x100 : BitVec 14).toNat < 0x200))) ∧
    Meets (.csrr 100 0x200) (fun _ e => ¬ ((0x200 : BitVec 14).toNat < 0x100 ∨ (e.sup = true ∧ (0x200 : BitVec 14).toNat < 0x200))) :=
  ⟨lone_all (by decide +kernel), meets (lone [] []) .none (by decide +kernel), meets (lone [] [] id .none ruled) .none (by decide +kernel), meets (lone [] []) .none (by decide +kernel),
    meets (lone [] [] id .none ruled) .none (by decide +kernel)⟩
theorem witness_WarpRegisters :
    (∀ i ∈ [Instr.tclr 101, .mxst 100], ∃ s iss c, Lone s i iss c) ∧
    Meets (.wbase 101) (fun _ e => (e.srcS 101).toNat ∈ [0, 16, 32, 48, 64, 80, 96, 112, 128, 144, 160]) ∧
    Meets (.wbase 101) (fun _ e => (e.srcS 101).toNat ∉ [0, 16, 32, 48, 64, 80, 96, 112, 128, 144, 160]) ∧
    Meets (.twall 101) (fun _ e => e.c.x.trdy &&& e.srcS 101 = e.srcS 101) ∧ Meets (.twany 101) (fun _ e => e.c.x.trdy &&& e.srcS 101 ≠ 0) ∧ Meets (.twany 101) (fun _ e => e.srcS 101 = 0) :=
  ⟨lone_all (by decide +kernel), meets (lone [] [(5, 160)]) .none (by decide +kernel), meets (lone [] [(5, 176)]) .none (by decide +kernel),
    meets (lone [] [(5, 1)] (fun x => { x with trdy := 1 })) .none (by decide +kernel), meets (lone [] [(5, 3)] (fun x => { x with trdy := 1 })) .none (by decide +kernel),
    meets (lone [] []) .none (by decide +kernel)⟩

/-- A branch table at the kernel's code: its word 0 and its targets (R129). -/
def tabled (w0 w1 : Nat) : State := mapped 0x10000 (leBytes 4 w0 ++ leBytes 4 w1)
def table1 (t : W64) : Table := ⟨1, 0x10000, [(0, t)], []⟩
def spare : Table := ⟨1, 0x10000, [], []⟩
def looped (ls : List Level) (x : Warp) : Warp := { x with levels := ls, lc0 := 2, lc1 := 2, lc2 := 2 }
def level (a b : W64) : Level := ⟨a, b, 0⟩

theorem witness_JumpsAndCalls :
    Meets (.bra 0 7 1) (fun _ e => e.c.grid.k.target (e.iss.addr + ((1 : BitVec 20).signExtend 64 <<< 2)) = true) ∧
    Meets (.call 1 2 1) (fun _ e => e.c.grid.k.target (e.iss.addr + ((1 : BitVec 20).signExtend 64 <<< 2)) = true) ∧
    Meets .ret (fun _ e => e.c.grid.k.target (Sparse.rd e.c.x.s 23) = true) ∧
    Meets (.brx 100 101) (fun s e => s.table e (e.srcS 100) [(e.srcS 101).toNat % 2 ^ 32] = .ok (table1 0x10004) ∧ (table1 0x10004).target ((e.srcS 101).toNat % 2 ^ 32) = some 0x10004 ∧
      e.c.grid.k.target 0x10004 = true ∧ s.tableBarred e (e.srcS 100) 1 [(e.srcS 101).toNat % 2 ^ 32] = []) ∧
    MeetsTrap (.brx 100 101) (fun s e => s.table e (e.srcS 100) [(e.srcS 101).toNat % 2 ^ 32] = .ok spare ∧ spare.n ≤ (e.srcS 101).toNat % 2 ^ 32) ∧
    MeetsTrap (.brx 100 101) (fun s e => s.table e (e.srcS 100) [(e.srcS 101).toNat % 2 ^ 32] = .ok (table1 0x10008) ∧
      (table1 0x10008).target ((e.srcS 101).toNat % 2 ^ 32) = some 0x10008 ∧ e.c.grid.k.target 0x10008 = false) ∧
    Meets (.bra 0 7 2) (fun _ e => e.c.grid.k.target (e.iss.addr + ((2 : BitVec 20).signExtend 64 <<< 2)) = false) ∧
    Meets (.call 0 7 2) (fun _ e => e.c.grid.k.target (e.iss.addr + ((2 : BitVec 20).signExtend 64 <<< 2)) = false) ∧
    Meets .ret (fun _ e => e.c.grid.k.target (Sparse.rd e.c.x.s 23) = false) ∧
    (∀ i ∈ [Instr.brx 100 101, .brxv 100 1], Meets i (fun _ e => (e.c.x.resuming = true ∨ e.c.x.stack.length < 16) ∧ e.c.grid.k.target (e.srcS 100) = false)) ∧
    (∀ i ∈ [Instr.brx 100 101, .brxv 100 1], Meets i (fun s e => (e.c.x.resuming = true ∨ e.c.x.stack.length < 16) ∧ s.fetchWord e.q e.c (e.srcS 100) = .ok 2 ∧
      e.c.grid.k.codeBase.toNat + e.c.grid.k.codeSz < (e.srcS 100).toNat + 4 * (1 + (2 : W32).toNat % 2 ^ 16))) := by
  refine ⟨meets (lone [] []) .none (by decide +kernel), meets (lone [] []) .none (by decide +kernel), meets (lone [] [(23, 0x10000)]) .none (by decide +kernel),
    meets (lone [] [(4, 0x10000)] id .none (tabled 1 1)) .none (by decide +kernel), meets_trap (lone [] [(4, 0x10000), (5, 1)] handled .none (tabled 1 1)) .none (by decide +kernel),
    meets_trap (lone [] [(4, 0x10000)] handled .none (tabled 1 2)) .none (by decide +kernel),
    meets (lone [] []) .none (by decide +kernel), meets (lone [] []) .none (by decide +kernel), meets (lone [] [(23, 0x10002)]) .none (by decide +kernel), fun i hi => ?_, fun i hi => ?_⟩ <;>
  · simp only [List.mem_cons, List.not_mem_nil, or_false] at hi
    rcases hi with rfl | rfl
    all_goals first
      | exact meets (lone [] [(4, 0x10002)]) .none (by decide +kernel)
      | exact meets (lone [] [(4, 0x10000)] id .none (tabled 2 1)) .none (by decide +kernel)

/-- Inside a loop body that the word does not end. -/
theorem witness_JumpsAndCalls_levels :
    let inside (c : Ctx) := c.x.levels = [level 0x10000 0x10004]
    (∃ s iss c, Alone s (.bra 0 7 1) iss c ∧ inside c ∧ (0x10004 : W64) ≠ iss.addr + BitVec.ofNat 64 (iss.len - 4) ∧ c.grid.k.target 0x10004 = true) ∧
    (∃ s iss c, Alone s (.call 0 7 1) iss c ∧ inside c ∧ (0x10004 : W64) ≠ iss.addr + BitVec.ofNat 64 (iss.len - 4) ∧ c.grid.k.target 0x10004 = true) ∧
    (∃ s iss c, Alone s .ret iss c ∧ inside c ∧ (0x10004 : W64) ≠ iss.addr + BitVec.ofNat 64 (iss.len - 4) ∧ c.grid.k.target (Sparse.rd c.x.s 23) = true) ∧
    ∃ s iss c, Alone s (.brx 100 101) iss c ∧ inside c ∧ (0x10004 : W64) ≠ iss.addr + BitVec.ofNat 64 (iss.len - 4) ∧
      (s.table (s.env iss c) ((s.env iss c).srcS 100) [((s.env iss c).srcS 101).toNat % 2 ^ 32] = .ok (table1 0x10004) ∧
        (table1 0x10004).target (((s.env iss c).srcS 101).toNat % 2 ^ 32) = some 0x10004 ∧ c.grid.k.target 0x10004 = true ∧
        s.tableBarred (s.env iss c) ((s.env iss c).srcS 100) 1 [((s.env iss c).srcS 101).toNat % 2 ^ 32] = []) :=
  ⟨meets_alone (lone [] [] (looped [level 0x10000 0x10004])) .none (by decide +kernel), meets_alone (lone [] [] (looped [level 0x10000 0x10004])) .none (by decide +kernel),
    meets_alone (lone [] [(23, 0x10000)] (looped [level 0x10000 0x10004])) .none (by decide +kernel),
    meets_alone (lone [] [(4, 0x10000)] (looped [level 0x10000 0x10004]) .none (tabled 1 1)) .none (by decide +kernel)⟩

theorem Meets.mono {i : Instr} {ok ok' : State → Env → Prop} (h : Meets i ok) (f : ∀ s e, ok s e → ok' s e) : Meets i ok' := by
  obtain ⟨s, iss, c, hl, hk⟩ := h
  exact ⟨s, iss, c, hl, f _ _ hk⟩

def oneLane (x : Warp) : Warp := { x with m := 1 }
def rec1 (pm : Mask) : Rec := ⟨false, 0xFF, pm, 0x10000, false, 0⟩
def recorded (pm : Mask) (x : Warp) : Warp := { x with stack := [rec1 pm], m := 0xF }
def records (n : Nat) (x : Warp) : Warp := { x with stack := List.replicate n (rec1 0) }
/-- A kernel with two spill entries a warp, in a mapped page. -/
def spilling : State := (mapped 0x11000 []).modPart 0 (fun p => { p with grids := [{ probeGrid with k := { probeKernel with spill := 2, spillBase := 0x12000 } }] })
def onPage (pa : Nat) (r : Except Fail (Loc × Option Leaf)) : Bool := match r with | .ok (.dev p, some _) => p == pa | _ => false
theorem onPage_leaf {pa : Nat} {r : Except Fail (Loc × Option Leaf)} (h : onPage pa r = true) : ∃ lf, r = .ok (.dev pa, some lf) := by
  unfold onPage at h
  split at h
  · exact ⟨_, by rw [beq_iff_eq.mp h]⟩
  · cases h
theorem lone_of_meets {s : State} {i : Instr} {pfx : Pfx} {ok : State → Issue → Ctx → Prop} [∀ s iss c, Decidable (ok s iss c)]
    (h : meetsB s i pfx (fun s iss c => decide (ok s iss c)) = true) : ∃ s iss c, Lone s i iss c ∧ ok s iss c := by
  obtain ⟨c, hl, hk⟩ := meetsB_lone h
  exact ⟨s, _, c, hl, of_decide_eq_true hk⟩

/-- The premises of `brxv` on a table whose entry 0 is the only index of the path. -/
def oneIndex (s : State) (e : Env) : Prop :=
  s.table e (e.srcS 100) ((Machine.Mask.lanes e.c.x.path).map (fun l => (e.src 6 l).toNat)) = .ok (table1 0x10004) ∧
  s.tableBarred e (e.srcS 100) 1 ((Machine.Mask.lanes e.c.x.path).map (fun l => (e.src 6 l).toNat)) = [] ∧ e.c.grid.k.target (table1 0x10004).join = true ∧
  (∀ l ∈ Machine.Mask.lanes e.c.x.path, (table1 0x10004).target (e.src 6 l).toNat = some 0x10004 ∧ e.c.grid.k.target 0x10004 = true) ∧
  (∃ l ∈ Machine.Mask.lanes e.c.x.path, (e.src 6 l).toNat = 0) ∧ (∀ l ∈ Machine.Mask.lanes e.c.x.path, 0 ≤ (e.src 6 l).toNat) ∧ (table1 0x10004).target 0 = some 0x10004
theorem witness_Divergence :
    Meets (.brv 0 0 1) (fun _ e => e.c.grid.k.target (e.iss.addr + ((1 : BitVec 20).signExtend 64 <<< 2)) = true ∧ e.c.x.stack.length < 16 ∧
      (∀ l, l < 128 → (0 : Mask).getLsbD l = (e.c.x.path.getLsbD l && (e.pred l 0 != decide ((0 : BitVec 1) = 1)))) ∧ e.c.x.path &&& ~~~(0 : Mask) ≠ 0) ∧
    Meets (.brv 0 7 1) (fun _ e => e.c.grid.k.target (e.iss.addr + ((1 : BitVec 20).signExtend 64 <<< 2)) = true ∧ e.c.x.stack.length < 16 ∧
      (∀ l, l < 128 → e.c.x.path.getLsbD l = (e.c.x.path.getLsbD l && (e.pred l 7 != decide ((0 : BitVec 1) = 1))))) ∧
    Meets .join (fun _ e => ∃ r rest, e.c.x.stack = r :: rest ∧ r.brxv = false ∧ r.pmask &&& e.c.x.live ≠ 0) ∧
    Meets .join (fun _ e => ∃ r rest, e.c.x.stack = r :: rest ∧ r.brxv = true ∧ r.pmask &&& e.c.x.live ≠ 0) ∧
    Meets .join (fun _ e => ∃ r rest, e.c.x.stack = r :: rest ∧ r.pmask &&& e.c.x.live = 0 ∧ r.rmask &&& e.c.x.live ≠ 0 ∧ (rest ≠ [] ∨ e.c.x.spilled = 0)) ∧
    Meets .join (fun _ e => e.c.x.stack = []) ∧
    Meets (.brxv 100 6) (fun s e => oneIndex s e ∧ e.c.x.resuming = false ∧ e.c.x.stack.length < 16 ∧
      (∀ l, l < 128 → (0xFFFFFFFF : Mask).getLsbD l = (e.c.x.path.getLsbD l && decide ((e.src 6 l).toNat = 0)))) ∧
    Meets (.brxv 100 6) (fun s e => oneIndex s e ∧ e.c.x.resuming = true ∧ e.c.x.stack = [rec1 0] ∧
      (∀ l, l < 128 → (0xFFFFFFFF : Mask).getLsbD l = (e.c.x.path.getLsbD l && decide ((e.src 6 l).toNat = 0)))) ∧
    Meets (.brv 0 0 1) (fun _ e => e.c.grid.k.target (e.iss.addr + ((1 : BitVec 20).signExtend 64 <<< 2)) = true ∧ 16 ≤ e.c.x.stack.length ∧
      e.c.grid.k.spill < (e.c.x.spilled + 1) * (if e.c.x.width ≤ 32 then 1 else if e.c.x.width = 64 then 2 else 3)) ∧
    ∃ s iss c, Lone s (.brv 0 0 1) iss c ∧ (c.grid.k.target (iss.addr + ((1 : BitVec 20).signExtend 64 <<< 2)) = true ∧
      (∀ l, l < 128 → (0 : Mask).getLsbD l = (c.x.path.getLsbD l && ((s.env iss c).pred l 0 != decide ((0 : BitVec 1) = 1)))) ∧ c.x.path &&& ~~~(0 : Mask) ≠ 0 ∧
      c.x.stack.length = 16 ∧ c.x.stack.getLast? = some (rec1 0) ∧ c.x.width ≤ 32 ∧ c.x.spilled + 1 ≤ c.grid.k.spill ∧ (s.part iss.q).dir = [] ∧ s.anyBad iss.q = false ∧
      s.barredWalk iss.q c.w.core (c.grid.k.spillBase + BitVec.ofNat 64 ((wkey c.w * c.grid.k.spill + c.x.spilled) * 16)) = [] ∧ (∀ j, j < 16 → s.barred iss.q c.w.core (0x12000 + j) = false) ∧
      onPage 0x12000 ((s.begun iss c).resolve iss.q c.blk (c.grid.k.spillBase + BitVec.ofNat 64 ((wkey c.w * c.grid.k.spill + c.x.spilled) * 16)) 16 ⟨false, true, false⟩) = true) := by
  unfold oneIndex
  refine ⟨meets (lone [] []) .none (by decide +kernel), meets (lone [] []) .none (by decide +kernel),
    (meets (ok := fun _ e => e.c.x.stack = [rec1 0xF0] ∧ (0xF0 : Mask) &&& e.c.x.live ≠ 0) (lone [] [] (recorded 0xF0)) .none (by decide +kernel)).mono
      (fun _ _ h => ⟨_, _, h.1, rfl, h.2⟩),
    (meets (ok := fun _ e => e.c.x.stack = [{ rec1 0xF0 with brxv := true }] ∧ (0xF0 : Mask) &&& e.c.x.live ≠ 0)
      (lone [] [] (fun x => { x with stack := [{ rec1 0xF0 with brxv := true }], m := 0xF })) .none (by decide +kernel)).mono (fun _ _ h => ⟨_, _, h.1, rfl, h.2⟩),
    (meets (ok := fun _ e => e.c.x.stack = [rec1 0] ∧ (0 : Mask) &&& e.c.x.live = 0 ∧ (0xFF : Mask) &&& e.c.x.live ≠ 0 ∧ e.c.x.spilled = 0) (lone [] [] (recorded 0)) .none
      (by decide +kernel)).mono (fun _ _ h => ⟨_, _, h.1, h.2.1, h.2.2.1, .inr h.2.2.2⟩),
    meets (lone [] []) .none (by decide +kernel), meets (lone [] [(4, 0x10000)] id .none (tabled 1 1)) .none (by decide +kernel),
    meets (lone [] [(4, 0x10000)] (fun x => { x with stack := [rec1 0], resuming := true }) .none (tabled 1 1)) .none (by decide +kernel),
    meets (lone [] [] (records 16)) .none (by decide +kernel), lone_of_meets (s := lone [] [] (records 16) .none spilling) (pfx := .none) (by decide +kernel)⟩

theorem witness_LoopsOpen :
    Meets (.loop 0 100 1) (fun _ e => e.iss.len = 4 ∧ (e.srcS 100).setWidth 32 = (0 : W32) ∧ e.c.x.trap.inh = false ∧
      e.c.grid.k.target (e.iss.addr + 4 + BitVec.ofNat 64 (4 * (0 * 128 + 1))) = false) ∧
    Meets (.loop 0 100 0) (fun _ e => e.iss.len = 4 ∧ (e.srcS 100).setWidth 32 = (0 : W32) ∧ e.c.x.trap.inh = false ∧ e.c.grid.k.target (e.iss.addr + 4 + BitVec.ofNat 64 (4 * 0)) = true) ∧
    Meets (.loop 0 100 1) (fun _ e => e.c.x.trap.inh = true) ∧
    Meets (.loop 2 100 0) (fun _ e => e.iss.len = 4 ∧ e.c.x.trap.inh = false ∧ (e.srcS 100).setWidth 32 ≠ (0 : W32) ∧ e.c.x.path ≠ 0) :=
  ⟨meets (lone [] []) .none (by decide +kernel), meets (lone [] []) .none (by decide +kernel),
    meets (lone [] [] (fun x => { x with trap := { x.trap with inh := true } })) .none (by decide +kernel), meets (lone [] [(4, 0xFFFFFFFF)]) .none (by decide +kernel)⟩

/-- One and two levels open, a third body that fits, one that reaches beyond, and a fourth; the last word of a body, of two that end together, and with a record left. -/
theorem witness_LoopsOpen_levels :
    (∀ ls ∈ [[level 0x10000 0x10004], [level 0x10000 0x10004, level 0x10000 0x10004]], ∃ s iss c, Alone s (.loop 0 100 1) iss c ∧
      (iss.len = 4 ∧ c.x.trap.inh = false ∧ ((s.env iss c).srcS 100).setWidth 32 ≠ (0 : W32) ∧ c.x.levels = ls ∧ (0x10004 : W64) ≠ iss.addr ∧
        (iss.addr + BitVec.ofNat 64 (4 * 1)).toNat ≤ (0x10004 : W64).toNat)) ∧
    (∃ s iss c, Alone s (.loop 0 100 2) iss c ∧
      (iss.len = 4 ∧ c.x.trap.inh = false ∧ ((s.env iss c).srcS 100).setWidth 32 ≠ (0 : W32) ∧ c.x.levels = [level 0x10000 0x10004] ∧ (0x10004 : W64) ≠ iss.addr ∧
        (0x10004 : W64).toNat < (iss.addr + BitVec.ofNat 64 (4 * 2)).toNat)) ∧
    (∃ s iss c, Alone s (.loop 0 100 1) iss c ∧
      (iss.len = 4 ∧ c.x.trap.inh = false ∧ ((s.env iss c).srcS 100).setWidth 32 ≠ (0 : W32) ∧ c.x.levels = List.replicate 3 (level 0x10000 0x10004) ∧ (0x10004 : W64) ≠ iss.addr)) ∧
    (∀ x ∈ [looped [level 0x10000 0x10000], (fun x => { looped [level 0x10000 0x10000] x with lc0 := 1 })], ∃ s iss c, Alone s .nop iss c ∧
      (iss.len = 4 ∧ c.x.trap.inh = false ∧ c.x.levels = [level 0x10000 0x10000] ∧ (0x10000 : W64) = iss.addr ∧ c.x.rd = (level 0x10000 0x10000).rd0 ∧
        (c.x.lc0 = (x (probeWarp 0)).lc0))) ∧
    (∃ s iss c, Alone s .nop iss c ∧ (iss.len = 4 ∧ c.x.trap.inh = false ∧ c.x.levels = [level 0x10000 0x10000, level 0x10000 0x10000] ∧ (0x10000 : W64) = iss.addr ∧ c.x.rd = 0 ∧
      c.x.lc1.toNat ≤ 1 ∧ 1 < c.x.lc0.toNat)) ∧
    ∃ s iss c, Alone s .nop iss c ∧ (iss.len = 4 ∧ c.x.trap.inh = false ∧ c.x.levels = [level 0x10000 0x10000] ∧ (0x10000 : W64) = iss.addr ∧ c.x.rd ≠ 0) := by
  refine ⟨fun ls hl => ?_, meets_alone (lone [] [(4, 1)] (looped [level 0x10000 0x10004])) .none (by decide +kernel),
    meets_alone (lone [] [(4, 1)] (looped (List.replicate 3 (level 0x10000 0x10004)))) .none (by decide +kernel), fun x hx => ?_,
    meets_alone (lone [] [] (fun x => { looped [level 0x10000 0x10000, level 0x10000 0x10000] x with lc1 := 1 })) .none (by decide +kernel),
    meets_alone (lone [] [] (fun x => records 1 (looped [level 0x10000 0x10000] x))) .none (by decide +kernel)⟩
  · simp only [List.mem_cons, List.not_mem_nil, or_false] at hl
    rcases hl with rfl | rfl
    · exact meets_alone (lone [] [(4, 1)] (looped [level 0x10000 0x10004])) .none (by decide +kernel)
    · exact meets_alone (lone [] [(4, 1)] (looped [level 0x10000 0x10004, level 0x10000 0x10004])) .none (by decide +kernel)
  · simp only [List.mem_cons, List.not_mem_nil, or_false] at hx
    rcases hx with rfl | rfl
    · exact meets_alone (lone [] [] (looped [level 0x10000 0x10000])) .none (by decide +kernel)
    · exact meets_alone (lone [] [] (fun x => { looped [level 0x10000 0x10000] x with lc0 := 1 })) .none (by decide +kernel)

def inHandler (epc : W64) (x : Warp) : Warp := { x with trap := { x.trap with inh := true, epc := epc, savedM := 1 } }

theorem witness_RunEnds :
    (∀ i ∈ [Instr.nop, .yield, .safept 0x1003], ∃ s iss c, Lone s i iss c) ∧
    Meets (.sleep 101) (fun _ e => 0 < (e.srcS 101).toNat ∧ (e.srcS 101).toNat ≤ 2 ^ 20) ∧ Meets (.sleep 101) (fun _ e => e.srcS 101 = 0) ∧
    Meets (.sleep 101) (fun _ e => 2 ^ 20 < (e.srcS 101).toNat) ∧ Meets .exit (fun _ e => e.c.x.path &&& ~~~e.act ≠ 0) ∧
    Meets .eret (fun _ e => e.c.x.trap.inh = true ∧ e.c.x.rd = e.c.x.trap.rd0 ∧ e.c.grid.k.target e.c.x.trap.epc = true ∧ e.c.x.trap.savedM &&& e.c.x.live ≠ 0) ∧
    Meets .eret (fun _ e => e.c.x.trap.inh = false) ∧ Meets .eret (fun _ e => e.c.x.rd ≠ e.c.x.trap.rd0) ∧ Meets .eret (fun _ e => e.c.grid.k.target e.c.x.trap.epc = false) :=
  ⟨lone_all (by decide +kernel), meets (lone [] [(5, 0x100000)]) .none (by decide +kernel), meets (lone [] []) .none (by decide +kernel), meets (lone [] [(5, 0x100001)]) .none (by decide +kernel),
    meets (lone [] [] id (.g ⟨0, false⟩)) (.g ⟨0, false⟩) (by decide +kernel), meets (lone [] [] (inHandler 0x10004)) .none (by decide +kernel), meets (lone [] []) .none (by decide +kernel),
    meets (lone [] [] (recorded 1)) .none (by decide +kernel), meets (lone [] [] (inHandler 0x10008)) .none (by decide +kernel)⟩

/-- A base register at 0x11000, on the mapped page. -/
def based (v : List (Nat × Nat × W32) := []) (f : Warp → Warp := id) (pfx : Pfx := .none) : State := lone v [(2, 0x11000)] f pfx (mapped 0x11000 [1, 2, 3])
def reading (s : State) : State := s.modPart 0 (fun p => { p with csr := { p.csr with rsbase := 1 }, rset := [(0, ⟨0x30001, 0⟩)] })

theorem witness_MemoryWordsCommit :
    MeetsSettled (.ld 4 0 3 98 120) always (fun s e => s.ld e 4 0 3 98 120) ∧
    MeetsSettled (.ldf6 3 98 120) always (fun s e => s.loadWord e e.lanes (e.addr 0 98 120 3) 3 1 false (fun l bs => e.putFull 3 l (unpack6 bs))) ∧
    MeetsSettled (.ldloc_w 3 98 120) always (fun s e => s.ldloc e 4 3 98 120) ∧
    MeetsSettled (.ldloc_d 4 98 120) always (fun s e => s.ldloc e 5 4 98 120) ∧
    MeetsSettled (.ldloc_q 4 98 120) always (fun s e => s.ldloc e 6 4 98 120) ∧
    MeetsSettled (.st 4 0 3 98 120) always (fun s e => s.storeWord e 4 3 (e.addr 0 98 120 (sizeBytes 4)) (fun ps => .store ps e.mattr)) ∧
    MeetsSettled (.stp 4 3 98 120) always (fun s e => s.stpWord e 4 3 98 120) ∧
    MeetsSettled (.rsdef 120 120 102) (fun _ e => (e.srcS1 102).getLsbD 48 = false ∨ e.sup = true) (fun s e => s.rsetWord e .define 120 120 (e.srcS 102) (e.srcS1 102)) ∧
    Meets (.rsdef 100 101 102) (fun _ e => (e.srcS1 102).getLsbD 48 = true ∧ e.sup = false) ∧
    MeetsSettled (.rsadd 120 101 106) always (fun s e => s.rsetWord e .add 120 101 (e.srcS 106) 0) ∧
    MeetsSettled (.rsdel 120 101 106) always (fun s e => s.rsetWord e .del 120 101 (e.srcS 106) 0) ∧
    MeetsSettled (.unpark 98) always (fun s e => s.unparkWord e 98) ∧
    MeetsSettled (.rsqry 100 98 120) always (fun s e => s.rsqry e 100 98 120) ∧
    MeetsSettled (.pref 98 120) always (fun s e => s.cacheWord e .pref 98 120) ∧
    MeetsSettled (.cwb 98 120) always (fun s e => s.cacheWord e .cwb 98 120) ∧
    MeetsSettled (.cinv 98 120) always (fun s e => s.cacheWord e .cinv 98 120) ∧
    MeetsSettled (.atom_add 3 98 120) always (fun s e => s.atomWord e .add 3 98 120) ∧
    MeetsSettled (.atom_cas64 4 98 120) always (fun s e => s.atomWord e .cas64 4 98 120) := by
  refine ⟨?_, ?_, ?_, ?_, ?_, ?_, ?_, ?_, meets (lone [] [(7, 0x1000000000000)]) .none (by decide +kernel), ?_, ?_, ?_, ?_, ?_, ?_, ?_, ?_, ?_⟩ <;>
    first
    | exact meets_settled (ok := fun _ _ => True) (based) .none (by decide +kernel)
    | exact meets_settled (ok := fun _ _ => True) (lone [] []) .none (by decide +kernel)
    | exact meets_settled (lone [] [] id .none (reading quiet)) .none (by decide +kernel)
    | exact meets_settled (ok := fun _ _ => True) (lone [] [(2, 0x11000), (10, 2)] id .none (reading (mapped 0x11000 []))) .none (by decide +kernel)

theorem settled_of_meets {s : State} {i : Instr} {pfx : Pfx} {w : State → Env → Word} {ok : State → Issue → Ctx → Prop} [∀ s iss c, Decidable (ok s iss c)]
    (h : meetsB s i pfx (fun s iss c => decide (ok s iss c) && settledB s iss c (w (s.begun iss c) (s.env iss c))) = true) :
    ∃ s iss c, Lone s i iss c ∧ ok s iss c ∧ Settled s iss c (w (s.begun iss c) (s.env iss c)) := by
  obtain ⟨c, hl, hk⟩ := meetsB_lone h
  rw [Bool.and_eq_true] at hk
  exact ⟨s, _, c, hl, of_decide_eq_true hk.1, settled_of hk.2⟩

/-- The table enabled with entry 0 of KIND 1 and cores 0 and 1; an entry's image, an id and the operands of a revision. -/
def revising (u : List (Nat × W64)) (s : State := mapped 0x11000 []) (f : State → State := id) : State := lone [] u id .none (f (reading s))
def supervised (s : State) : State := s.modPart 0 (fun p => { p with csr := { p.csr with sqmask := 1 } })
def masked (f : W64 → W64 → W64) (s : State) (e : Env) : Prop := (s.part e.q).csr.rsEn = true ∧ (e.srcS 101).toNat ≤ 1023 ∧ ((s.part e.q).rdesc (e.srcS 101).toNat).kind = 1 ∧
  (e.srcS 102).toNat < 2 ^ 48 ∧ (f ((s.part e.q).rdesc (e.srcS 101).toNat).lo (e.srcS 102 <<< 16)).toNat / 2 ^ 16 ≠ 0
/-- A line that resolves to a place of device memory, by a walk of which no packet is dropped. -/
def devAt (s : State) (g pa : Nat) (r : Except Cond (Loc × Option Leaf)) : Bool :=
  match r with | .ok (.dev p, f) => p == pa && f.all (fun l => decide (s.barredWalk 0 g (BitVec.ofNat 64 l.va) = [])) | _ => false
theorem devAt_ok {s : State} {g pa : Nat} {r : Except Cond (Loc × Option Leaf)} (h : devAt s g pa r = true) :
    ∃ f, r = .ok (.dev pa, f) ∧ ∀ l, f = some l → s.barredWalk 0 g (BitVec.ofNat 64 l.va) = [] := by
  unfold devAt at h
  split at h
  · rw [Bool.and_eq_true] at h
    refine ⟨_, by rw [beq_iff_eq.mp h.1], ?_⟩
    rintro l rfl
    simpa using h.2
  · cases h

theorem witness_MemoryWordsCommit_readerSets :
    let on (s : State) (e : Env) := (s.part e.q).csr.rsEn = true
    let defines (s : State) (e : Env) := on s e ∧ (e.srcS 101).toNat ≤ 1023 ∧ (e.srcS1 102).toNat / 2 ^ 49 = 0 ∧
      RDesc.ok ⟨e.srcS 102, BitVec.ofNat 64 ((e.srcS1 102).toNat % 2 ^ 32)⟩ (s.nclu e.q) = true
    Meets (.rsdef 100 101 102) (fun s e => defines s e ∧ (e.srcS1 102).getLsbD 48 = false) ∧
    Meets (.rsdef 100 101 102) (fun s e => defines s e ∧ (e.srcS1 102).getLsbD 48 = true ∧ e.sup = true) ∧
    Meets (.rsadd 100 101 102) (masked (· ||| ·)) ∧ Meets (.rsdel 100 101 102) (masked (fun x y => x &&& ~~~y)) ∧
    Meets (.rsdef 100 101 102) (fun s e => (e.srcS1 102).getLsbD 48 = false ∧ ¬ defines s e) ∧
    Meets (.rsadd 100 101 102) (fun s e => ¬ on s e) ∧ Meets (.rsdel 100 101 102) (fun _ e => ¬ (e.srcS 101).toNat ≤ 1023) ∧
    Meets (.rsqry 100 101 102) (fun s e => on s e ∧ e.srcS 102 = 1 ∧ (e.srcS 101).toNat ≤ 1023) ∧ Meets (.rsqry 100 101 102) (fun s e => on s e ∧ e.srcS 102 = 2 ∧ (e.srcS 101).toNat ≤ 1023) ∧
    Meets (.rsqry 100 101 102) (fun s e => on s e ∧ e.srcS 102 = 0 ∧ regionOf (e.srcS 101) = .loc) ∧
    Meets (.rsqry 100 101 102) (fun s e => on s e ∧ e.srcS 102 = 3 ∧ regionOf (e.srcS 101) = .loc) ∧ Meets (.rsqry 100 101 102) (fun _ e => 3 < (e.srcS 102).toNat) ∧
    Meets (.rsqry 100 101 102) (fun _ e => e.srcS 102 = 1 ∧ 1023 < (e.srcS 101).toNat) := by
  unfold masked
  exact ⟨meets (revising [(5, 3), (6, 0x10001)]) .none (by decide +kernel), meets (revising [(5, 1023), (6, 0x10001), (7, 0x1000000000000)] (f := supervised)) .none (by decide +kernel),
    meets (revising [(6, 4)]) .none (by decide +kernel), meets (revising [(6, 2)]) .none (by decide +kernel), meets (revising [(5, 1024), (6, 0x10001)]) .none (by decide +kernel),
    meets (lone [] []) .none (by decide +kernel), meets (revising [(5, 1024)]) .none (by decide +kernel), meets (revising [(6, 1)]) .none (by decide +kernel),
    meets (revising [(6, 2)]) .none (by decide +kernel), meets (revising [(5, 0xFFFF000000000000)]) .none (by decide +kernel),
    meets (revising [(5, 0xFFFF000000000000), (6, 3)]) .none (by decide +kernel), meets (revising [(6, 4)]) .none (by decide +kernel),
    meets (revising [(5, 1024), (6, 1)]) .none (by decide +kernel)⟩

theorem witness_MemoryWordsCommit_lines :
    (∃ s iss c f, Lone s (.rsqry 100 98 120) iss c ∧ (s.part iss.q).csr.rsEn = true ∧ (s.env iss c).srcS 120 = 0 ∧
      (s.begun iss c).uniAccess (s.env iss c) ((s.env iss c).srcS 98) .read ⟨true, false, false⟩ = .ok (.dev 0x11000, f) ∧
      ∀ l, f = some l → s.barredWalk 0 c.w.core (BitVec.ofNat 64 l.va) = []) ∧
    (∃ s iss c f, Lone s (.unpark 98) iss c ∧ (s.part iss.q).csr.rsEn = true ∧
      (s.begun iss c).uniAccess (s.env iss c) ((s.env iss c).srcS 98) .write ⟨false, true, false⟩ = .ok (.dev 0x11000, f) ∧
      (∀ l, f = some l → s.barredWalk 0 c.w.core (BitVec.ofNat 64 l.va) = []) ∧ s.barred iss.q c.w.core 0x11000 = false) ∧
    ∃ s iss c x, Lone s (.cinv 98 120) iss c ∧ Settled s iss c ((s.begun iss c).cacheWord (s.env iss c) .cinv 98 120) ∧ 0 ∈ (s.env iss c).lanes ∧
      ((s.begun iss c).access (s.env iss c) 0 ((s.env iss c).addr 0 98 120 1 0) 1 1 ⟨false, true, false⟩).2 = some x ∧ x.loc = .dev 0x11000 ∧ (s.part iss.q).parked 0x11000 = none := by
  refine ⟨?_, ?_, ?_⟩
  · obtain ⟨s, iss, c, hl, h1, h2, h3⟩ := lone_of_meets (s := revising [(2, 0x11000)]) (pfx := .none) (i := .rsqry 100 98 120) (ok := fun s iss c => (s.part iss.q).csr.rsEn = true ∧
      (s.env iss c).srcS 120 = 0 ∧ devAt s c.w.core 0x11000 ((s.begun iss c).uniAccess (s.env iss c) ((s.env iss c).srcS 98) .read ⟨true, false, false⟩) = true) (by decide +kernel)
    obtain ⟨f, h⟩ := devAt_ok h3
    exact ⟨s, iss, c, f, hl, h1, h2, h⟩
  · obtain ⟨s, iss, c, hl, h1, h2, h3⟩ := lone_of_meets (s := revising [(2, 0x11000)]) (pfx := .none) (i := .unpark 98) (ok := fun s iss c => (s.part iss.q).csr.rsEn = true ∧
      devAt s c.w.core 0x11000 ((s.begun iss c).uniAccess (s.env iss c) ((s.env iss c).srcS 98) .write ⟨false, true, false⟩) = true ∧ s.barred iss.q c.w.core 0x11000 = false) (by decide +kernel)
    obtain ⟨f, h, hw⟩ := devAt_ok h2
    exact ⟨s, iss, c, f, hl, h1, h, hw, h3⟩
  · obtain ⟨s, iss, c, hl, ⟨h1, h2, h3⟩, hs⟩ := settled_of_meets (i := .cinv 98 120) (w := fun s e => s.cacheWord e .cinv 98 120) (s := based) (pfx := .none)
      (ok := fun s iss c => 0 ∈ (s.env iss c).lanes ∧
        ((s.begun iss c).access (s.env iss c) 0 ((s.env iss c).addr 0 98 120 1 0) 1 1 ⟨false, true, false⟩).2.any (fun x => decide (x.loc = .dev 0x11000)) = true ∧
        (s.part iss.q).parked 0x11000 = none) (by decide +kernel)
    obtain ⟨x, hx, hd⟩ := any_some h2
    exact ⟨s, iss, c, x, hl, hs, h1, hx, of_decide_eq_true hd, h3⟩

theorem witness_LoadsReadTheirBytes :
    (∃ s iss c, Lone s (.ld 4 0 3 98 1) iss c ∧ s.anyBad iss.q = false ∧ (s.part iss.q).lag = [] ∧ (s.env iss c).mattr.order = .plain ∧
      ∀ l ∈ (s.env iss c).lanes, regionOf ((s.env iss c).addr 0 98 1 4 l) = .loc ∧ ((s.env iss c).addr 0 98 1 4 l).toNat % 4 = 0 ∧ ((s.env iss c).addr 0 98 1 4 l).toNat % 2 ^ 32 + 4 ≤ c.blk.scrLen) ∧
    (∃ s iss c, Lone s (.ld 5 0 100 98 120) iss c ∧ s.anyBad iss.q = false ∧ (s.part iss.q).lag = [] ∧ (s.env iss c).mattr.order = .plain ∧
      ∀ l ∈ [0], regionOf ((s.env iss c).addr 0 98 120 8 l) = .loc ∧ ((s.env iss c).addr 0 98 120 8 l).toNat % 8 = 0 ∧ ((s.env iss c).addr 0 98 120 8 l).toNat % 2 ^ 32 + 8 ≤ c.blk.scrLen) ∧
    ([0, 0] : List Byte).length = sizeBytes 3 ∧ (3 : BitVec 3).toNat ≤ 5 :=
  ⟨lone_of_meets (s := lone [(5, 1, 0x3FC)] [(2, 0xFFFF000000000000)]) (pfx := .none) (by decide +kernel),
    lone_of_meets (s := lone [] [(2, 0xFFFF0000000003F8)]) (pfx := .none) (by decide +kernel), by decide, by decide⟩

theorem witness_LoadsReadTheirBytes_settled :
    (∃ s iss c, Lone s (.ld 4 0 3 98 120) iss c ∧ (s.part iss.q).dir = [] ∧ Settled s iss c ((s.begun iss c).ld (s.env iss c) 4 0 3 98 120)) ∧
    (∃ s iss c, Lone s (.ld 7 1 104 98 0) iss c ∧ (s.part iss.q).dir = [] ∧ Settled s iss c ((s.begun iss c).ld (s.env iss c) 7 1 104 98 0)) ∧
    (∃ s iss c, Lone s (.ldf6 3 98 120) iss c ∧ (s.part iss.q).dir = [] ∧
      Settled s iss c ((s.begun iss c).loadWord (s.env iss c) (s.env iss c).lanes ((s.env iss c).addr 0 98 120 3) 3 1 false (fun l bs => (s.env iss c).putFull 3 l (unpack6 bs)))) ∧
    ∃ s iss c, Lone s (.ldloc_w 3 98 120) iss c ∧ (s.part iss.q).dir = [] ∧ Settled s iss c ((s.begun iss c).ldloc (s.env iss c) 4 3 98 120) :=
  ⟨settled_of_meets (w := fun s e => s.ld e 4 0 3 98 120) (s := based) (pfx := .none) (by decide +kernel),
    settled_of_meets (w := fun s e => s.ld e 7 1 104 98 0) (s := based) (pfx := .none) (by decide +kernel),
    settled_of_meets (w := fun s e => s.loadWord e e.lanes (e.addr 0 98 120 3) 3 1 false (fun l bs => e.putFull 3 l (unpack6 bs))) (s := based) (pfx := .none) (by decide +kernel),
    settled_of_meets (w := fun s e => s.ldloc e 4 3 98 120) (s := based) (pfx := .none) (by decide +kernel)⟩

/-- A load of the last four bytes of a line, with a copy of its sector in the core's L1 and with none. -/
def copied (s : State) : State := s.modPart 0 (fun p => p.setCore 0 { p.core 0 with l1 := [⟨false, 0x1107C / 32, List.replicate 32 7, false, 0, false⟩] })
theorem witness_LoadsReadTheirBytes_global : ∀ near : Bool, ∃ s iss c lf, Lone s (.ld 4 0 3 98 120) iss c ∧
    (((s.env iss c).addr 0 98 120 4 0).toNat % 128 + 4 ≤ 128 ∧ ((s.begun iss c).part iss.q).lag = [] ∧ ((s.begun iss c).part iss.q).dir = [] ∧ (s.env iss c).mattr.beyond = false ∧
      (((s.begun iss c).part iss.q).core c.w.core).l1.length = (if near then 1 else 0)) ∧
    (s.begun iss c).resolve iss.q c.blk ((s.env iss c).addr 0 98 120 4 0) 4 ⟨true, false, false⟩ = .ok (.dev 0x1107C, some lf) := by
  intro near
  have key : ∃ s iss c, Lone s (.ld 4 0 3 98 120) iss c ∧
      (((s.env iss c).addr 0 98 120 4 0).toNat % 128 + 4 ≤ 128 ∧ ((s.begun iss c).part iss.q).lag = [] ∧ ((s.begun iss c).part iss.q).dir = [] ∧ (s.env iss c).mattr.beyond = false ∧
        (((s.begun iss c).part iss.q).core c.w.core).l1.length = (if near then 1 else 0)) ∧
      onPage 0x1107C ((s.begun iss c).resolve iss.q c.blk ((s.env iss c).addr 0 98 120 4 0) 4 ⟨true, false, false⟩) = true := by
    cases near
    · exact lone_of_meets (s := lone [] [(2, 0x1107C)] oneLane .none (mapped 0x11000 [])) (pfx := .none) (by decide +kernel)
    · exact lone_of_meets (s := lone [] [(2, 0x1107C)] oneLane .none (copied (mapped 0x11000 []))) (pfx := .none) (by decide +kernel)
  obtain ⟨s, iss, c, hl, h, hr⟩ := key
  obtain ⟨lf, hr⟩ := onPage_leaf hr
  exact ⟨s, iss, c, lf, hl, h, hr⟩

theorem witness_StoresWriteTheirBytes :
    (∃ s iss c, Lone s (.st 4 0 3 98 120) iss c ∧ ((s.part iss.q).dir = [] ∧ (s.env iss c).mattr.order = .plain) ∧
      Settled s iss c ((s.begun iss c).storeWord (s.env iss c) 4 3 ((s.env iss c).addr 0 98 120 4) (fun ps => .store ps (s.env iss c).mattr))) ∧
    (∃ s iss c, Lone s (.st 0 0 3 98 121) iss c ∧ ((s.part iss.q).dir = [] ∧ (s.env iss c).mattr.order = .plain) ∧
      Settled s iss c ((s.begun iss c).storeWord (s.env iss c) 0 3 ((s.env iss c).addr 0 98 121 1) (fun ps => .store ps (s.env iss c).mattr))) :=
  ⟨settled_of_meets (w := fun s e => s.storeWord e 4 3 (e.addr 0 98 120 4) (fun ps => .store ps e.mattr)) (s := based) (pfx := .none) (by decide +kernel),
    settled_of_meets (w := fun s e => s.storeWord e 0 3 (e.addr 0 98 121 1) (fun ps => .store ps e.mattr)) (s := lone [] [(2, 0xFFFF000000000000)]) (pfx := .none) (by decide +kernel)⟩

/-- `stp` with the table disabled, and of one lane on a page that parks, under entry 0 of KIND 1. -/
def parkingPage : State := reading ((mapped 0x11000 []).wrDramL 0 0x3000 (leBytes 8 0x141F))
theorem witness_StoresWriteTheirBytes_stp :
    (∃ s iss c, Lone s (.stp 4 3 98 120) iss c ∧ ((s.part iss.q).dir = [] ∧ (s.env iss c).mattr.order = .plain ∧ (s.part iss.q).csr.rsEn = false) ∧
      Settled s iss c ((s.begun iss c).stpWord (s.env iss c) 4 3 98 120)) ∧
    ∃ s iss c x f, Lone s (.stp 4 3 98 120) iss c ∧ ((s.part iss.q).dir = [] ∧ (s.env iss c).mattr.order = .plain ∧ (s.part iss.q).csr.rsEn = true) ∧
      ((s.begun iss c).stores (s.env iss c) ((s.env iss c).base 98) ((s.env iss c).storeBytes 4 3) (sizeBytes 4) ⟨false, true, false⟩ false).1 = [x] ∧ x.loc = .dev 0x11000 ∧
      x.leaf = some f ∧ f.park ≠ 0 ∧ ((s.part iss.q).rdesc 0).kind ≠ 0 ∧ (f.lockable = false ∨ ((s.part iss.q).lock (0x11000 / 128)).holder ≠ some c.x.uid) ∧
      Settled s iss c ((s.begun iss c).stpWord (s.env iss c) 4 3 98 120) := by
  refine ⟨settled_of_meets (w := fun s e => s.stpWord e 4 3 98 120) (s := based) (pfx := .none) (by decide +kernel), ?_⟩
  obtain ⟨s, iss, c, hl, ⟨h1, h2, h3, h4, h5⟩, hs⟩ := settled_of_meets (i := .stp 4 3 98 120) (w := fun s e => s.stpWord e 4 3 98 120)
    (s := lone [] [(2, 0x11000)] (fun x => { x with m := 1 }) .none parkingPage) (pfx := .none)
    (ok := fun s iss c => (s.part iss.q).dir = [] ∧ (s.env iss c).mattr.order = .plain ∧ (s.part iss.q).csr.rsEn = true ∧ ((s.part iss.q).rdesc 0).kind ≠ 0 ∧
      (match ((s.begun iss c).stores (s.env iss c) ((s.env iss c).base 98) ((s.env iss c).storeBytes 4 3) (sizeBytes 4) ⟨false, true, false⟩ false).1 with
        | [x] => decide (x.loc = .dev 0x11000) && x.leaf.any (fun f => decide (f.park ≠ 0 ∧ (f.lockable = false ∨ ((s.part iss.q).lock (0x11000 / 128)).holder ≠ some c.x.uid)))
        | _ => false) = true) (by decide +kernel)
  split at h5
  · rename_i x hx
    rw [Bool.and_eq_true] at h5
    obtain ⟨f, hf, hk⟩ := any_some h5.2
    have hk := of_decide_eq_true hk
    exact ⟨s, iss, c, x, f, hl, ⟨h1, h2, h3⟩, hx, of_decide_eq_true h5.1, hf, hk.1, h4, hk.2, hs⟩
  · cases h5

theorem witness_AtomicReadsThenWrites : ∃ s iss c, Lone s (atomInstr .cas 4 98 120) iss c ∧
    ((s.part iss.q).dir = [] ∧ (s.env iss c).mattr.order = .plain ∧ (s.env iss c).lanes = [0] ∧
      ∃ lf, (s.begun iss c).resolve iss.q c.blk ((s.env iss c).addr 0 98 120 AtomOp.cas.size 0) AtomOp.cas.size ⟨true, true, false⟩ = .ok (.dev 0x11000, some lf)) ∧
    Settled s iss c ((s.begun iss c).atomWord (s.env iss c) .cas 4 98 120) := by
  obtain ⟨s, iss, c, hl, h, hs⟩ := settled_of_meets (i := atomInstr .cas 4 98 120) (w := fun s e => s.atomWord e .cas 4 98 120) (s := based [] oneLane) (pfx := .none)
    (ok := fun s iss c => (s.part iss.q).dir = [] ∧ (s.env iss c).mattr.order = .plain ∧ (s.env iss c).lanes = [0] ∧
      onPage 0x11000 ((s.begun iss c).resolve iss.q c.blk ((s.env iss c).addr 0 98 120 AtomOp.cas.size 0) AtomOp.cas.size ⟨true, true, false⟩) = true) (by decide +kernel)
  exact ⟨s, iss, c, hl, ⟨h.1, h.2.1, h.2.2.1, onPage_leaf h.2.2.2⟩, hs⟩

/-- A count for a barrier word: B, or the block's warps where B is z. -/
def countOf (b : Reg) (e : Env) : Nat := if b.toNat = 120 then e.c.grid.k.bwarps else (e.srcS b).toNat % 2 ^ 32

theorem witness_SyncWordsCommit :
    MeetsSettled (.nbwait 3 120) (fun _ e => e.c.x.path = e.c.x.live ∧ 1 ≤ countOf 120 e ∧ countOf 120 e ≤ 4096) (fun _ e => .ofTerm (.nb true 3 (countOf 120 e))) ∧
    MeetsSettled (.nbarv 3 101) (fun _ e => e.c.x.path = e.c.x.live ∧ 1 ≤ countOf 101 e ∧ countOf 101 e ≤ 4096) (fun _ e => .ofTerm (.nb false 3 (countOf 101 e))) ∧
    MeetsSettled (.gbwait 101) (fun _ e => e.c.x.path = e.c.x.live ∧ 1 ≤ countOf 101 e ∧ countOf 101 e ≤ 4096) (fun _ e => .ofTerm (.gb (countOf 101 e))) ∧
    Meets (.nbwait 3 101) (fun _ e => ¬ (e.c.x.path = e.c.x.live ∧ 1 ≤ countOf 101 e ∧ countOf 101 e ≤ 4096)) ∧
    Meets (.nbarv 3 120) (fun _ e => ¬ (e.c.x.path = e.c.x.live ∧ 1 ≤ countOf 120 e ∧ countOf 120 e ≤ 4096)) ∧
    Meets (.gbwait 101) (fun _ e => ¬ (e.c.x.path = e.c.x.live ∧ 1 ≤ countOf 101 e ∧ countOf 101 e ≤ 4096)) ∧
    MeetsSettled (.abinit 100 101) always (fun s e =>
      s.objectWord e 100 .write ⟨false, true, false⟩ (decide (1 ≤ (e.srcS 101).toNat ∧ (e.srcS 101).toNat ≤ 65535)) (fun l _ => .abinit l (e.srcS 101).toNat)) ∧
    MeetsSettled (.abarv 102 100 120) always (fun s e => s.objectWord e 100 .rmw ⟨true, true, false⟩ (decide ((e.srcS 120).toNat < 2 ^ 49)) (fun l g => .abarv 102 l g (e.srcS 120))) ∧
    MeetsSettled (.abwait 100 120) always (fun s e => s.objectWord e 100 .read ⟨true, false, false⟩ (decide ((e.srcS 120).toNat < 2 ^ 16)) (fun l g => .abwait l g (e.srcS 120).toNat)) ∧
    MeetsSettled (.abtest 102 100 120) always (fun s e => s.objectWord e 100 .read ⟨true, false, false⟩ (decide ((e.srcS 120).toNat < 2 ^ 16)) (fun l g => .abtest 102 l g (e.srcS 120).toNat)) ∧
    MeetsSettled (.llock 102 98 120) always (fun s e => s.llock e 102 98 120) ∧
    MeetsSettled (.ltry 102 98) always (fun s e => s.lockWord e .ltry 102 98 0 (s.llockOk e 0)) ∧
    MeetsSettled (.lunlk 102 98) always (fun s e => s.lockWord e .lunlk 102 98 0 (fun _ => true)) ∧
    MeetsSettled (.lqry 102 98) always (fun s e => s.lockWord e .lqry 102 98 0 (fun _ => true)) ∧
    MeetsSettled (.labnd 102 98) always (fun s e => s.lockWord e .labnd 102 98 0 (fun _ => true)) ∧
    MeetsSettled (.fence 1 4 1 3) always (fun _ _ => .ofTerm (.fence (fenceKind 1) (scopeOf (4 : BitVec 3).toNat) 1 3)) ∧
    (∃ s iss c, Lone s (.fence 3 0 1 1) iss c) ∧ (∃ s iss c, Lone s (.fence 2 2 1 1) iss c) ∧
    Meets (.fence 1 4 1 2) (fun s e => (s.part e.q).lag = [] ∧ e.c.grid.k.race = false ∧ (1 : BitVec 2) ≠ 3 ∧ ((1 : BitVec 2) = 1 ∨ (4 : BitVec 3).toNat ≤ 1) ∧
      ((2 : BitVec 4).getLsbD 0 = false ∨ ((1 : BitVec 4).getLsbD 1 = false ∧ (1 : BitVec 4).getLsbD 3 = false))) := by
  refine ⟨?_, ?_, ?_, meets (lone [] []) .none (by decide +kernel), meets (lone [] [] (fun x => { x with m := 1 })) .none (by decide +kernel),
    meets (lone [] [(5, 4097)]) .none (by decide +kernel), ?_, ?_, ?_, ?_, ?_, ?_, ?_, ?_, ?_, ?_, lone_all (l := [.fence 3 0 1 1]) (by decide +kernel) _ (by simp),
    lone_all (l := [.fence 2 2 1 1]) (by decide +kernel) _ (by simp), meets (lone [] []) .none (by decide +kernel)⟩ <;>
    first
    | exact meets_settled (ok := fun _ _ => True) (based) .none (by decide +kernel)
    | exact meets_settled (lone [] [(5, 4096)]) .none (by decide +kernel)
    | exact meets_settled (ok := fun _ _ => True) (lone [] [(4, 0xFFFF000000000010), (5, 1)]) .none (by decide +kernel)

theorem witness_BarrierArrival :
    (∀ i ∈ [Instr.nbwait 15 101, .nbarv 15 101], ∃ s iss c, Lone s i iss c ∧ (c.blk.bars[15]? = some ⟨0, 0, 0⟩ ∧ c.x.path = c.x.live ∧ 1 ≤ ((s.env iss c).srcS 101).toNat % 2 ^ 32 ∧
      ((s.env iss c).srcS 101).toNat % 2 ^ 32 ≤ 4096)) ∧
    (∃ s iss c, Lone s (.gbwait 120) iss c ∧ (c.x.path = c.x.live ∧ 1 ≤ c.grid.k.bwarps * (c.grid.l.gangm1 + 1) ∧ c.grid.k.bwarps * (c.grid.l.gangm1 + 1) ≤ 4096)) := by
  refine ⟨fun i hi => ?_, lone_of_meets (s := lone [] []) (pfx := .none) (by decide +kernel)⟩
  simp only [List.mem_cons, List.not_mem_nil, or_false] at hi
  rcases hi with rfl | rfl
  · exact lone_of_meets (s := lone [] [(5, 4096)]) (pfx := .none) (by decide +kernel)
  · exact lone_of_meets (s := lone [] [(5, 1)]) (pfx := .none) (by decide +kernel)

/-- An object at offset 16 of the block's scratchpad, with the largest operand that each word takes. -/
theorem witness_ObjectArrival :
    let at_ (s : State) (iss : Issue) (c : Ctx) (acc : Acc) (need : Need) := (s.begun iss c).objectAt (s.env iss c) ((s.env iss c).srcS 100) acc need = .ok (.scratch 0 16, false)
    (∃ s iss c, Lone s (.abinit 100 101) iss c ∧ (c.x.path = c.x.live ∧ 1 ≤ ((s.env iss c).srcS 101).toNat ∧ ((s.env iss c).srcS 101).toNat ≤ 65535 ∧ at_ s iss c .write ⟨false, true, false⟩)) ∧
    (∃ s iss c, Lone s (.abarv 102 100 101) iss c ∧ (c.x.path = c.x.live ∧ ((s.env iss c).srcS 101).toNat < 2 ^ 49 ∧ at_ s iss c .rmw ⟨true, true, false⟩)) ∧
    (∃ s iss c, Lone s (.abtest 102 100 101) iss c ∧ (c.x.path = c.x.live ∧ ((s.env iss c).srcS 101).toNat < 2 ^ 16 ∧ at_ s iss c .read ⟨true, false, false⟩)) ∧
    (∃ s iss c, Lone s (.abwait 100 101) iss c ∧ (c.x.path = c.x.live ∧ ((s.env iss c).srcS 101).toNat < 2 ^ 16 ∧ at_ s iss c .read ⟨true, false, false⟩)) ∧
    (65535 : Nat) < 2 ^ 16 ∧ (32769 : Nat) < 2 ^ 16 :=
  ⟨lone_of_meets (s := lone [] [(4, 0xFFFF000000000010), (5, 65535)]) (pfx := .none) (by decide +kernel),
    lone_of_meets (s := lone [] [(4, 0xFFFF000000000010), (5, 0x1FFFFFFFFFFFF)]) (pfx := .none) (by decide +kernel),
    lone_of_meets (s := lone [] [(4, 0xFFFF000000000010), (5, 65535)]) (pfx := .none) (by decide +kernel),
    lone_of_meets (s := lone [] [(4, 0xFFFF000000000010), (5, 65535)]) (pfx := .none) (by decide +kernel), by decide, by decide⟩

/-- The line that a lock word names: 0x11000, on a page that may be locked, or one that may not. -/
def lineIs (s : State) (g : Nat) (want : Option Nat) (r : Except Cond (Option Loc × Option Leaf)) : Bool :=
  match r, want with
  | .ok (some (.dev p), f), some n => p == n && f.all (fun l => decide (s.barredWalk 0 g (BitVec.ofNat 64 l.va) = []))
  | .ok (none, f), none => f.all (fun l => decide (s.barredWalk 0 g (BitVec.ofNat 64 l.va) = []))
  | _, _ => false
theorem lineIs_ok {s : State} {g : Nat} {want : Option Nat} {r : Except Cond (Option Loc × Option Leaf)} (h : lineIs s g want r = true) :
    ∃ f, r = .ok (want.map Loc.dev, f) ∧ ∀ l, f = some l → s.barredWalk 0 g (BitVec.ofNat 64 l.va) = [] := by
  unfold lineIs at h
  split at h
  · rw [Bool.and_eq_true] at h
    refine ⟨_, by rw [beq_iff_eq.mp h.1]; rfl, ?_⟩
    rintro l rfl
    simpa using h.2
  · refine ⟨_, rfl, ?_⟩
    rintro l rfl
    simpa using h
  · cases h
def unlockable : State := based [] id .none |> fun s => s.wrDramL 0 0x3000 (leBytes 8 0x0F)
def quietLine (s : State) (iss : Issue) (c : Ctx) : Prop := ((s.part iss.q).locks.map (fun x => x.line)).Nodup ∧ ((s.part iss.q).lock (0x11000 / 128)).rel = false ∧
  s.barred iss.q c.w.core 0x11000 = false ∧ (s.part iss.q).waitsOn c.x.uid = none
theorem witness_LocksTakenAndReleased : ∀ i ∈ [Instr.ltry 102 98, .lunlk 102 98, .lqry 102 98, .labnd 102 98, .llock 102 98 101], ∀ want : Bool, ∃ s iss c f, Lone s i iss c ∧ quietLine s iss c ∧
    (s.part iss.q).reserved? c.w (0x11000 / 128) = false ∧ ((s.env iss c).srcS 101).toNat = 2 ^ 24 - 1 ∧ (∀ l, f = some l → s.barredWalk 0 c.w.core (BitVec.ofNat 64 l.va) = []) ∧
    (s.begun iss c).lockLine (s.env iss c) ((s.env iss c).srcS 98) = .ok (if want then some (.dev 0x11000) else none, f) := by
  intro i hi want
  have key : ∃ s iss c, Lone s i iss c ∧ (quietLine s iss c ∧ (s.part iss.q).reserved? c.w (0x11000 / 128) = false ∧ ((s.env iss c).srcS 101).toNat = 2 ^ 24 - 1 ∧
      lineIs s c.w.core (if want then some 0x11000 else none) ((s.begun iss c).lockLine (s.env iss c) ((s.env iss c).srcS 98)) = true) := by
    unfold quietLine
    simp only [List.mem_cons, List.not_mem_nil, or_false] at hi
    cases want <;> rcases hi with rfl | rfl | rfl | rfl | rfl
    all_goals first
      | exact lone_of_meets (s := hold [] [(5, 0xFFFFFF)] id unlockable) (pfx := .none) (by decide +kernel)
      | exact lone_of_meets (s := lone [] [(2, 0x11000), (5, 0xFFFFFF)] id .none (mapped 0x11000 [])) (pfx := .none) (by decide +kernel)
  obtain ⟨s, iss, c, hl, hq, h0, h1, h2⟩ := key
  obtain ⟨f, hr, hw⟩ := lineIs_ok h2
  exact ⟨s, iss, c, f, hl, hq, h0, h1, hw, by cases want <;> exact hr⟩

/-- A second warp whose closed run is to write that line, so that the line is reserved. -/
def closedRun (acts : List Act) (waits : List ParkWait) : Run := ⟨0x10000, 1, acts, .none, none, waits, true, none, 0x10004, 0, 0, 0, 0, 0, 0, 0, 0, PCsr.reset, 0⟩
def reserving : State := (mapped 0x11000 []).modPart 0 (fun p => { p with
  warps := p.warps ++ [(1, { probeWarp 0 with uid := 1, wid := 1, run := some (closedRun [.store [⟨0, 0x11000, .dev 0x11000, none, [7]⟩] ⟨0, scopeOf 0, .plain, 0⟩] []) })] })
theorem witness_LocksTakenAndReleased_reserved : ∀ i ∈ [Instr.ltry 102 98, .llock 102 98 120], ∃ s iss c f, Lone s i iss c ∧ quietLine s iss c ∧
    (s.part iss.q).reserved? c.w (0x11000 / 128) = true ∧ ((s.part iss.q).lock (0x11000 / 128)).holder = none ∧ (∀ l, f = some l → s.barredWalk 0 c.w.core (BitVec.ofNat 64 l.va) = []) ∧
    (s.begun iss c).lockLine (s.env iss c) ((s.env iss c).srcS 98) = .ok (some (.dev 0x11000), f) := by
  intro i hi
  have key : ∃ s iss c, Lone s i iss c ∧ (quietLine s iss c ∧ (s.part iss.q).reserved? c.w (0x11000 / 128) = true ∧ ((s.part iss.q).lock (0x11000 / 128)).holder = none ∧
      lineIs s c.w.core (some 0x11000) ((s.begun iss c).lockLine (s.env iss c) ((s.env iss c).srcS 98)) = true) := by
    unfold quietLine
    simp only [List.mem_cons, List.not_mem_nil, or_false] at hi
    rcases hi with rfl | rfl <;> exact lone_of_meets (s := lone [] [(2, 0x11000)] id .none reserving) (pfx := .none) (by decide +kernel)
  obtain ⟨s, iss, c, hl, hq, h0, h1, h2⟩ := key
  obtain ⟨f, hr, hw⟩ := lineIs_ok (want := some 0x11000) h2
  exact ⟨s, iss, c, f, hl, hq, h0, h1, hw, hr⟩

/-- The lock of that line: free, held by the warp, held by another with the warp in the queue, and held by another. -/
theorem witness_LocksTakenAndReleased_states :
    ((freeLock 544).holder = none ∧ (freeLock 544).grant = none ∧ ∀ w ∈ (freeLock 544).waiters, (quiet.part 0).present w.uid = false) ∧
    (({ freeLock 544 with holder := some 0 } : Lock).holder = some 0) ∧
    (({ freeLock 544 with holder := some 9, waiters := [⟨0, 0, true, none, 0⟩] } : Lock).holder ≠ some 0 ∧ ∃ w ∈ ([⟨0, 0, true, none, 0⟩] : List Waiter), w.uid = 0) ∧
    ((quiet.part 0).probe 0 8 544 = [] ∧ quiet.waitersAt 0 544 < 1024) := by decide +kernel

/-- The limits of the copy words (R238-R242), as the statement has them. -/
def limCpy (a b : Reg) (e : Env) : Prop :=
  (e.srcS b).toNat % 16 = 0 ∧ 16 ≤ (e.srcS b).toNat ∧ (e.srcS b).toNat ≤ 2 ^ 24 ∧ (e.srcS a).toNat % 16 = 0 ∧ (e.srcS1 a).toNat % 16 = 0
def lim2d (a b : Reg) (e : Env) : Prop :=
  let pd := (e.srcS b).toNat % 2 ^ 32
  let ps := (e.srcS b).toNat / 2 ^ 32
  let l := (e.srcS1 b).toNat % 2 ^ 32
  let r := (e.srcS1 b).toNat / 2 ^ 32
  l % 16 = 0 ∧ 16 ≤ l ∧ l ≤ 65536 ∧ 1 ≤ r ∧ r ≤ 65536 ∧ pd % 16 = 0 ∧ ps % 16 = 0 ∧ l ≤ pd ∧ l ≤ ps ∧ (e.srcS a).toNat % 16 = 0 ∧ (e.srcS1 a).toNat % 16 = 0
def limStrip (a b : Reg) (s : State) (e : Env) : Prop :=
  let v := (e.srcS a).toNat
  let n := (e.srcS b).toNat
  v / 2 ^ 20 % 2 ^ 12 = 0 ∧ v < 2 ^ 36 ∧ v % 2 ^ 20 % 128 = 0 ∧ n % 128 = 0 ∧ 128 ≤ n ∧ v % 2 ^ 20 + n ≤ 2 ^ 20 ∧ v / 2 ^ 32 ≠ 0 ∧
    ∀ i, i < 4 → v / 2 ^ (32 + i) % 2 = 1 → i ∈ (s.part e.q).blockStrips e.c.blk.id
def limCast (a b : Reg) (s : State) (e : Env) : Prop :=
  let cores := (List.range 48).filter (fun k => (e.srcS b).getLsbD k)
  (e.srcS a).toNat % 128 = 0 ∧ (e.srcS1 a).toNat < 2 ^ 32 ∧ (e.srcS1 a).toNat % 128 = 0 ∧ (e.srcS b).toNat < 2 ^ 57 ∧ cores ≠ [] ∧ ∀ k ∈ cores, (s.gangBlock e k).isSome = true
def roomFor (s : State) (iss : Issue) (c : Ctx) : Prop := ((s.part iss.q).core c.w.core).copyQ.length < 16 ∧ c.x.ifc < 4096

def copyState : State := lone [] [(4, 0x11000), (5, 0x12000), (6, 0x10), (7, 0x1000000010), (8, 0x100000000), (9, 128), (10, 1)] id .none (mapped 0x11000 [])

theorem witness_AsyncCopiesQueue :
    (∃ s iss c, Lone s (.cpy 59 100 102) iss c ∧ limCpy 100 102 (s.env iss c) ∧ (s.begun iss c).rangeFail (s.env iss c) ((s.env iss c).srcS 100) ((s.env iss c).srcS 102).toNat .write needW = none ∧
      (s.begun iss c).rangeFail (s.env iss c) ((s.env iss c).srcS1 100) ((s.env iss c).srcS 102).toNat .read needR = none ∧ roomFor s iss c) ∧
    Meets (.cpy 0 100 120) (fun _ e => ¬ limCpy 100 120 e) ∧
    (∃ s iss c, Lone s (.cpy2d 0 100 104) iss c ∧ lim2d 100 104 (s.env iss c) ∧
      (s.begun iss c).rangeFail (s.env iss c) ((s.env iss c).srcS 100) 48 .write needW = none ∧ (s.begun iss c).rangeFail (s.env iss c) ((s.env iss c).srcS1 100) 32 .read needR = none ∧
      roomFor s iss c) ∧
    Meets (.cpy2d 0 100 102) (fun _ e => ¬ lim2d 100 102 e) ∧
    (∃ s iss c, Lone s (.cpybs 0 104 105) iss c ∧ limStrip 104 105 (s.begun iss c) (s.env iss c) ∧ ((s.env iss c).srcS1 104).toNat % 16 = 0 ∧
      (s.begun iss c).rangeFail (s.env iss c) ((s.env iss c).srcS1 104) 128 .read needR = none ∧ roomFor s iss c) ∧
    Meets (.cpybs 0 104 102) (fun s e => ¬ (limStrip 104 102 s e ∧ (e.srcS1 104).toNat % 16 = 0)) ∧
    (∃ s iss c, Lone s (.bsz 0 104 105) iss c ∧ limStrip 104 105 (s.begun iss c) (s.env iss c) ∧ roomFor s iss c) ∧
    Meets (.bsz 0 104 102) (fun s e => ¬ limStrip 104 102 s e) ∧
    (∃ s iss c, Lone s (.mcrd 0 106 110) iss c ∧ limCast 106 110 (s.begun iss c) (s.env iss c) ∧ regionOf ((s.env iss c).srcS 106) = .global ∧
      (∀ k ∈ (List.range 48).filter (fun k => ((s.env iss c).srcS 110).getLsbD k), k = 0) ∧
      (∃ x, (s.begun iss c).gangBlock (s.env iss c) 0 = some x ∧ ((s.env iss c).srcS1 106).toNat + 128 * 1 ≤ x.scrLen) ∧ roomFor s iss c) ∧
    Meets (.mcrd 0 100 102) (fun s e => ¬ limCast 100 102 s e) := by
  refine ⟨?_, ?_, ?_, ?_, ?_, ?_, ?_, ?_, ?_, ?_⟩
  · unfold limCpy roomFor; exact lone_of_meets (s := copyState) (pfx := .none) (by decide +kernel)
  · unfold limCpy; exact meets copyState .none (by decide +kernel)
  · unfold lim2d roomFor
    exact lone_of_meets (s := lone [] [(4, 0x11000), (5, 0x12000), (8, 0x1000000020), (9, 0x200000010)] id .none (mapped 0x11000 [])) (pfx := .none) (by decide +kernel)
  · unfold lim2d; exact meets copyState .none (by decide +kernel)
  · unfold limStrip roomFor; exact lone_of_meets (s := lone [] [(8, 0x100000000), (9, 128)] id .none (mapped 0x11000 [])) (pfx := .none) (by decide +kernel)
  · unfold limStrip; exact meets copyState .none (by decide +kernel)
  · unfold limStrip roomFor; exact lone_of_meets (s := copyState) (pfx := .none) (by decide +kernel)
  · unfold limStrip; exact meets copyState .none (by decide +kernel)
  · have key : ∃ s iss c, Lone s (.mcrd 0 106 110) iss c ∧ limCast 106 110 (s.begun iss c) (s.env iss c) ∧ regionOf ((s.env iss c).srcS 106) = .global ∧
        (∀ k ∈ (List.range 48).filter (fun k => ((s.env iss c).srcS 110).getLsbD k), k = 0) ∧
        (((s.begun iss c).gangBlock (s.env iss c) 0).map (fun x => decide (((s.env iss c).srcS1 106).toNat + 128 * 1 ≤ x.scrLen))) = some true ∧ roomFor s iss c := by
      unfold limCast roomFor
      exact lone_of_meets (s := lone [] [(10, 0x11000), (14, 1)] id .none (mapped 0x11000 [])) (pfx := .none) (by decide +kernel)
    obtain ⟨s, iss, c, hl, h1, h2, h3, h4, h5⟩ := key
    obtain ⟨x, hx, hx'⟩ := Option.map_eq_some_iff.mp h4
    exact ⟨s, iss, c, hl, h1, h2, h3, ⟨x, hx, of_decide_eq_true hx'⟩, h5⟩
  · unfold limCast; exact meets copyState .none (by decide +kernel)

def refilling : State := quiet.modPart 0 (fun p => { p with grids := [{ probeGrid with k := { probeKernel with refill := 0x10000 } }] })
def handlerOnly (x : Warp) : Warp := { x with trap := { x.trap with inh := true } }
theorem rats (n : Nat) : (List.replicate 8 (([] : List Int), n)).length = 8 := by simp

/-- Operands that R250 takes: D apart from A and from the scales, and a tile that lies in the B-store. -/
def mmaOk (d : Nat) (e : Env) : Prop :=
  (∀ r ∈ (List.range (8 * 2)).map (fun k => physReg e.c.x.wb 0 + k) ++ scaleRegs (scaleAt e.c.x.wb e.iss.pfx 0 2), r < physReg e.c.x.wb d ∨
    physReg e.c.x.wb d + 64 ≤ r) ∧ (e.srcS 100).toNat % 512 = 0 ∧ (e.srcS 100).toNat + tileBytes 8 ≤ 2 ^ 20 ∧
  ∀ k ∈ e.c.x.strips, (e.core.tuns.rd k).fenced = false ∨ (e.core.tuns.rd (k ^^^ 1)).fenced = false
theorem witness_MatrixProducts_operands :
    Meets (.mma 0 3 0 32 0 100) (fun _ e => mmaOk 32 e ∧ ¬ e.c.x.width < 32) ∧ MeetsTrap (.mma 0 3 0 32 0 100) (fun _ e => mmaOk 32 e ∧ e.c.x.width < 32) ∧
    Meets (.mma 0 3 0 8 0 100) (fun _ e => ¬ mmaOk 8 e) ∧ Meets (.mma 0 3 0 32 0 100) (fun _ e => (e.srcS 100).toNat = 511) ∧
    Meets (.mma 0 3 0 32 0 100) (fun _ e => (e.srcS 100).toNat + tileBytes 8 = 2 ^ 20 ∧ mmaOk 32 e) ∧ Meets (.mma 0 3 0 32 0 100) (fun _ e => 2 ^ 20 < (e.srcS 100).toNat + tileBytes 8 ∧ ¬ mmaOk 32 e) := by
  unfold mmaOk
  exact ⟨meets (lone [] []) .none (by decide +kernel), meets_trap (lone [] [] (fun x => handled (width 16 x))) .none (by decide +kernel), meets (lone [] []) .none (by decide +kernel),
    meets (lone [] [(4, 511)]) .none (by decide +kernel), meets (lone [] [(4, BitVec.ofNat 64 (2 ^ 20 - tileBytes 8))]) .none (by decide +kernel),
    meets (lone [] [(4, 2 ^ 20)]) .none (by decide +kernel)⟩

theorem witness_MatrixProducts :
    MeetsSettled (.mma 0 3 0 32 0 100) always (fun _ e => e.mmaWord 0 3 0 32 0 100) ∧ MeetsSettled (.mma 1 2 1 34 0 100) always (fun _ e => e.mmaWord 1 2 1 34 0 100) ∧
    (∃ (x : Product) (row col : List (List Int × Nat)), x.na ∈ [8, 6, 4, 2] ∧ x.nb ∈ [8, 4] ∧ row.length = 8 ∧ col.length = 8 ∧ (∀ u ∈ row ++ col, u.1.length = 32) ∧ 3 ∈ x.rows ∧ (63 : Nat) < 64) :=
  ⟨meets_settled (ok := fun _ _ => True) (lone [] []) .none (by decide +kernel), meets_settled (ok := fun _ _ => True) (lone [] []) .none (by decide +kernel),
    ⟨⟨⟨0, 0⟩, 0, 0, 0, 0, 0, 8, 4, true, 0, [3], [], []⟩, List.replicate 8 (List.replicate 32 1, 127), List.replicate 8 (List.replicate 32 1, 127), by decide, by decide, by decide, by decide,
      by simp, by decide, by decide⟩⟩

theorem witness_WorkWordsCommit :
    let out : State → Env → Prop := fun _ e => e.c.x.trap.inh = false
    let ins : State → Env → Prop := fun _ e => ¬ e.c.x.trap.inh = false
    MeetsSettled (.split 100 101) out (fun _ e => .ofTerm (.split 100 (e.srcS 101))) ∧ Meets (.split 100 101) ins ∧
    MeetsSettled (.fuse 100 101) out (fun _ e => .ofTerm (.fuse 100 (e.srcS 101) false)) ∧ Meets (.fuse 100 101) ins ∧
    MeetsSettled (.fuse_r 100 101) out (fun _ e => .ofTerm (.fuse 100 (e.srcS 101) true)) ∧ Meets (.fuse_r 100 101) ins ∧ Meets .exitw ins ∧
    MeetsSettled .refill (fun _ e => e.c.x.trap.inh = false ∧ e.c.grid.k.refill ≠ 0 ∧ e.c.x.rd = 0) (fun _ _ => .ofTerm .refill) ∧
    Meets .refill (fun _ e => ¬ (e.c.x.trap.inh = false ∧ e.c.grid.k.refill ≠ 0 ∧ e.c.x.rd = 0)) ∧
    (∃ s iss c, Lone s (.launch 99 100 101) iss c ∧ ∃ bs ls, (s.begun iss c).uniRead (s.env iss c) ((s.env iss c).srcS 100) 64 64 = .ok (bs, ls) ∧
      Settled s iss c (.ofRead ls (.launch 99 ((s.env iss c).srcS 101) bs))) ∧
    MeetsSettled (.lwait 100 101 102) (fun _ e => (e.srcS 101).toNat ≤ 4095) (fun _ e => .ofTerm (.lwait 100 (e.srcS 101).toNat (e.srcS 102))) ∧
    Meets (.lwait 100 101 102) (fun _ e => 4095 < (e.srcS 101).toNat) ∧ MeetsSettled .trig always (fun _ _ => .ofTerm .trig) ∧
    MeetsSettled (.coll 100 106 104) (fun _ e => (e.srcS 106).toNat ≤ 63) (fun s e => s.collWord e 100 (e.srcS 106).toNat (e.srcS 106) (e.srcS 104, e.srcS1 104)) ∧
    MeetsSettled (.cinit 100 106 98) (fun _ e => (e.srcS 106).toNat ≤ 63) (fun s e => s.cinitWord e 100 (e.srcS 106).toNat (e.srcS 98)) ∧
    Meets (.cqry 100 101) (fun _ e => (e.srcS 101).toNat ≤ 63) ∧ Meets (.coll 100 101 104) (fun _ e => 63 < (e.srcS 101).toNat) ∧ Meets (.cinit 100 101 98) (fun _ e => 63 < (e.srcS 101).toNat) ∧
    Meets (.cqry 100 101) (fun _ e => 63 < (e.srcS 101).toNat) := by
  intro out ins
  refine ⟨meets_settled (lone [] [(5, 8)]) .none (by decide +kernel), meets (lone [] [] handlerOnly) .none (by decide +kernel), meets_settled (lone [] [(5, 8)]) .none (by decide +kernel),
    meets (lone [] [] handlerOnly) .none (by decide +kernel), meets_settled (lone [] [(5, 8)]) .none (by decide +kernel), meets (lone [] [] handlerOnly) .none (by decide +kernel),
    meets (lone [] [] handlerOnly) .none (by decide +kernel), meets_settled (lone [] [] id .none refilling) .none (by decide +kernel), meets (lone [] []) .none (by decide +kernel), ?_,
    meets_settled (lone [] [(5, 4095)]) .none (by decide +kernel), meets (lone [] [(5, 4096)]) .none (by decide +kernel), meets_settled (ok := fun _ _ => True) (lone [] []) .none (by decide +kernel),
    meets_settled (lone [] [(9, 64)]) .none (by decide +kernel), meets_settled (lone [] [(2, 0x11000), (10, 63)] id .none (mapped 0x11000 [])) .none (by decide +kernel),
    meets (lone [] [(5, 63)]) .none (by decide +kernel), meets (lone [] [(5, 64)]) .none (by decide +kernel), meets (lone [] [(5, 64)]) .none (by decide +kernel),
    meets (lone [] [(5, 64)]) .none (by decide +kernel)⟩
  obtain ⟨c, hl, hk⟩ := meetsB_lone (s := lone [] [(4, 0x11000)] id .none (mapped 0x11000 [])) (i := .launch 99 100 101) (pfx := .none)
    (ok := fun s iss c => match (s.begun iss c).uniRead (s.env iss c) ((s.env iss c).srcS 100) 64 64 with
      | .ok (bs, ls) => settledB s iss c (.ofRead ls (.launch 99 ((s.env iss c).srcS 101) bs))
      | .error _ => false) (by decide +kernel)
  refine ⟨_, _, c, hl, ?_⟩
  split at hk
  · rename_i bs ls h
    exact ⟨bs, ls, h, settled_of hk⟩
  · cases hk

theorem ok_of {ε α : Type} {r : Except ε α} (h : r.toOption.isSome = true) : ∃ x, r = .ok x := by
  cases r with
  | error e => exact absurd h (by simp [Except.toOption])
  | ok x => exact ⟨x, rfl⟩

def recordQueue : Queue := { Queue.reset with en := true, qtail := 1, qbase := 0x11000 }

/-- A record of 32 items at 0x11000 that names a descriptor at 0x11080, by hand from R23 and R24. -/
def recordPlaced : State :=
  let l : List (Nat × Nat) :=
    [(0x11000, 0x11080), (0x11008, 32), (0x11080, 0x4B444E57 + 2 ^ 32 + quiet.gradeNum * 2 ^ 40), (0x11088, 0x10000), (0x110A0, 1 + 4 * 2 ^ 4 + 2 * 2 ^ 9 + 1 * 2 ^ 12),
     (0x110A8, 4 * 2 ^ 16 + 20 * 2 ^ 24), (0x110B8, 1), (0x110C0, 0x10000), (0x110C8, 64)];
  (l.foldl (fun s x => s.wrDramL 0 x.1 (leBytes 8 x.2)) (mapped 0x11000 [])).modPart 0 (fun p => { p with queues := [(0, recordQueue)] })

/-- A second warp on the core, of the same block, 8 lanes wide; and one that stands in a wait. -/
def beside (x : Warp → Warp) (s : State := quiet) : State :=
  s.modPart 0 (fun p => { p with warps := p.warps ++ [(1, x (width 8 { probeWarp 0 with uid := 1, wid := 1, base := 8, fileBase := 128, n := 128 }))] })
/-- The record at 0x11000 and a queue that may be launched into, with as many active grids. -/
def launching (n : Nat) (s : State := recordPlaced) : State := lone [] [(4, 0x11000)] id .none
  (s.modPart 0 (fun p => { p with queues := [(0, { Queue.reset with en := true, dlaunch := true })], grids := p.grids ++ List.replicate n { probeGrid with seq := 7 } }))

/-- What a check that fails answers. -/
def errorOf {α : Type} (r : Except Nat α) : Option Nat := match r with | .error m => some m | .ok _ => none

theorem launch_meets {s : State} {P : State → List Byte → Prop} [∀ s bs, Decidable (P s bs)]
    (h : meetsB s (.launch 99 100 101) .none (fun s iss c => match (s.begun iss c).uniRead (s.env iss c) ((s.env iss c).srcS 100) 64 64 with
      | .ok (bs, ls) => settledB s iss c (.ofRead ls (.launch 99 ((s.env iss c).srcS 101) bs)) && decide (P s bs)
      | .error _ => false) = true) :
    ∃ s iss c, Lone s (.launch 99 100 101) iss c ∧ ∃ bs ls, (s.begun iss c).uniRead (s.env iss c) ((s.env iss c).srcS 100) 64 64 = .ok (bs, ls) ∧
      Settled s iss c (.ofRead ls (.launch 99 ((s.env iss c).srcS 101) bs)) ∧ P s bs := by
  obtain ⟨c, hl, hk⟩ := meetsB_lone h
  refine ⟨_, _, c, hl, ?_⟩
  split at hk
  · rename_i bs ls h
    rw [Bool.and_eq_true] at hk
    exact ⟨bs, ls, h, settled_of hk.1, of_decide_eq_true hk.2⟩
  · cases hk

theorem witness_WorkWordsCommit_launch :
    let meets_ (P : State → List Byte → Prop) := ∃ s iss c, Lone s (.launch 99 100 101) iss c ∧ ∃ bs ls,
      (s.begun iss c).uniRead (s.env iss c) ((s.env iss c).srcS 100) 64 64 = .ok (bs, ls) ∧ Settled s iss c (.ofRead ls (.launch 99 ((s.env iss c).srcS 101) bs)) ∧ P s bs
    let owned (s : State) := s.owns 0 0 = true ∧ ((s.part 0).queue 0).en = true ∧ ((s.part 0).queue 0).dlaunch = true
    meets_ (fun s _ => (s.part 0).dir = [] ∧ ¬ owned s) ∧ meets_ (fun s _ => owned s ∧ 16 ≤ (s.part 0).active 0) ∧
    meets_ (fun s bs => owned s ∧ (s.part 0).active 0 < 16 ∧ errorOf (s.checkRecord 0 0 (some bs)) = some 2) ∧
    meets_ (fun s bs => owned s ∧ (s.part 0).active 0 < 16 ∧ (s.checkRecord 0 0 (some bs)).toOption.isSome = true) := by
  intro _ _
  exact ⟨launch_meets (s := lone [] [(4, 0x11000)] id .none (mapped 0x11000 [])) (by decide +kernel), launch_meets (s := launching 15) (by decide +kernel),
    launch_meets (s := launching 0 (mapped 0x11000 [])) (by decide +kernel), launch_meets (s := launching 14) (by decide +kernel)⟩

theorem witness_WorkWordsCommit_shapes :
    let cols (e : Env) := e.c.x.trap.inh = false
    Meets (.fuse 100 101) (fun _ e => cols e ∧ (e.srcS 101).toNat ∉ [8, 16, 32, 64, 128]) ∧ Meets (.fuse_r 100 101) (fun _ e => cols e ∧ (e.srcS 101).toNat ≤ e.c.x.width) ∧
    (∃ s iss c, Lone s (.lwait 100 101 102) iss c ∧ (((s.env iss c).srcS 101).toNat ≤ 4095 ∧
      ((s.env iss c).srcS 102).toNat ≤ (Sparse.rd (s.part iss.q).events ((s.env iss c).srcS 101).toNat).toNat)) ∧
    (∃ s iss c, Lone s (.lwait 100 101 102) iss c ∧ (((s.env iss c).srcS 101).toNat ≤ 4095 ∧
      (Sparse.rd (s.part iss.q).events ((s.env iss c).srcS 101).toNat).toNat < ((s.env iss c).srcS 102).toNat)) ∧
    (∃ s iss c, Lone s .trig iss c ∧ c.x.triggered = true) ∧
    (∃ s iss c, Lone s (.split 100 101) iss c ∧ (c.x.trap.inh = false ∧ ((s.env iss c).srcS 101).toNat = 8 ∧ 8 < c.x.width ∧ c.x.ifc ≠ 0)) ∧
    (∃ s iss c, Lone s (.split 100 101) iss c ∧ (c.x.trap.inh = false ∧ ((s.env iss c).srcS 101).toNat = 8 ∧ 8 < c.x.width ∧ c.x.ifc = 0 ∧ (s.part iss.q).splitNoCtx c 8 = true)) ∧
    (∃ s iss c, Lone s (.split 100 101) iss c ∧ (c.x.trap.inh = false ∧ ((s.env iss c).srcS 101).toNat = 8 ∧ 8 < c.x.width ∧ c.x.ifc = 0 ∧ (s.part iss.q).splitNoCtx c 8 = false ∧ c.x.spilled = 0)) ∧
    (∃ s iss c, Lone s (.fuse 100 101) iss c ∧ (c.x.trap.inh = false ∧ ((s.env iss c).srcS 101).toNat = 16 ∧ c.x.width = 8 ∧ c.x.base = 0 ∧
      ∀ u ∈ ((s.part iss.q).warpsOn c.w.core).filter (fun u => u.2.block == c.x.block), ¬ (u.2.base ≤ 0 + 8 * 1 ∧ 0 + 8 * 1 < u.2.base + u.2.width))) ∧
    (∃ s iss c, Lone s (.fuse 100 101) iss c ∧ (c.x.trap.inh = false ∧ ((s.env iss c).srcS 101).toNat = 16 ∧ c.x.width = 8 ∧
      (s.part iss.q).groupFull c.w.core c.x.base 16 c.x.block = true ∧ ((s.part iss.q).warpsOn c.w.core).all (fun u => match u.2.wait with | .fuse .. => false | _ => true) = true)) ∧
    ∃ s iss c, Lone s .refill iss c ∧ (c.x.trap.inh = false ∧ c.grid.k.refill ≠ 0 ∧ c.x.rd = 0 ∧ c.x.lanes.length = c.x.width ∧ c.x.width ≤ 128 ∧
      ((c.x.lanes.take c.x.width).filter (fun l => decide (l.st = .vacant))).length ≤ (c.grid.range (cluOf c.w.core)).size ∧ ∃ l ∈ c.x.lanes, l.st ≠ .drained) := by
  refine ⟨meets (lone [] [(5, 24)]) .none (by decide +kernel), meets (lone [] [(5, 32)]) .none (by decide +kernel), lone_of_meets (s := lone [] []) (pfx := .none) (by decide +kernel),
    lone_of_meets (s := lone [] [(5, 4095), (6, 1)]) (pfx := .none) (by decide +kernel),
    lone_of_meets (s := lone [] [] (fun x => { x with triggered := true })) (pfx := .none) (by decide +kernel),
    lone_of_meets (s := lone [] [(5, 8)] (fun x => { x with ifc := 1 })) (pfx := .none) (by decide +kernel), lone_of_meets (s := lone [] [(5, 8)] id .none
      (quiet.modPart 0 (fun p => { p with warps := p.warps ++ (List.range 13).map (fun i => (i + 1, { probeWarp 0 with uid := i + 1, wid := i + 1 })) }))) (pfx := .none) (by decide +kernel),
    lone_of_meets (s := lone [] [(5, 8)]) (pfx := .none) (by decide +kernel), lone_of_meets (s := lone [] [(5, 16)] (width 8)) (pfx := .none) (by decide +kernel),
    lone_of_meets (s := lone [] [(5, 16)] (width 8) .none (beside id)) (pfx := .none) (by decide +kernel), ?_⟩
  exact lone_of_meets (s := lone [] [] (fun x => { x with lanes := x.lanes.mapIdx (fun j l => if j = 3 then { l with st := .vacant } else l) }) .none
    (refilling.modPart 0 (fun p => { p with grids := p.grids.map (fun g => { g with ranges := [⟨0, 32, 64⟩] }) }))) (pfx := .none) (by decide +kernel)

/-- A record in a spill area that is not mapped: the copies of a `split` fail. -/
def unmappedSpill : State := quiet.modPart 0 (fun p => { p with grids := [{ probeGrid with k := { probeKernel with spill := 2, spillBase := 0x700000000000 } }] })
theorem witness_WorkWordsCommit_spill : ∃ s iss c f, Lone s (.split 100 101) iss c ∧ (c.x.trap.inh = false ∧ ((s.env iss c).srcS 101).toNat = 8 ∧ 8 < c.x.width ∧ c.x.ifc = 0 ∧
    (s.part iss.q).splitNoCtx c 8 = false ∧ 0 < c.x.spilled) ∧ f.cause ≠ .memue ∧
    (s.begun iss c).resolve iss.q c.blk (c.grid.k.spillBase + BitVec.ofNat 64 (wkey c.w * c.grid.k.spill * 16)) 16 ⟨true, false, false⟩ = .error f := by
  have key : ∃ s iss c, Lone s (.split 100 101) iss c ∧ ((c.x.trap.inh = false ∧ ((s.env iss c).srcS 101).toNat = 8 ∧ 8 < c.x.width ∧ c.x.ifc = 0 ∧
      (s.part iss.q).splitNoCtx c 8 = false ∧ 0 < c.x.spilled) ∧
      (match (s.begun iss c).resolve iss.q c.blk (c.grid.k.spillBase + BitVec.ofNat 64 (wkey c.w * c.grid.k.spill * 16)) 16 ⟨true, false, false⟩ with
        | .error f => decide (f.cause ≠ .memue) | .ok _ => false) = true) :=
    lone_of_meets (s := lone [] [(5, 8)] (fun x => { x with spilled := 1 }) .none unmappedSpill) (pfx := .none) (by decide +kernel)
  obtain ⟨s, iss, c, hl, h, hk⟩ := key
  split at hk
  · rename_i f hf
    exact ⟨s, iss, c, f, hl, h, of_decide_eq_true hk, hf⟩
  · cases hk

/-- A descriptor of one local rank at 0x11000 with its table at 0x11040 (R339), by hand. -/
def describing : State := mapped 0x11000 (leBytes 8 (2 ^ 40) ++ leBytes 8 0x11040)
def readOf (r : Except (Cond × List Act) (List Byte × List Act)) : Option (List Byte) := match r with | .ok (b, _) => some b | .error _ => none
theorem readOf_ok {r : Except (Cond × List Act) (List Byte × List Act)} {b : List Byte} (h : readOf r = some b) : ∃ l, r = .ok (b, l) := by
  unfold readOf at h
  split at h
  · rw [← Option.some.inj h]; exact ⟨_, rfl⟩
  · cases h
def tableOk (s : State) (iss : Issue) (c : Ctx) (P : Option Handle → Bool) : Bool :=
  match readOf ((s.begun iss c).uniRead (s.env iss c) ((s.env iss c).srcS 98) 64 64) with
  | none => false
  | some d => match readOf ((s.begun iss c).uniRead (s.env iss c) (descRanks d).2 (8 * ((descRanks d).1 + 1)) 8) with
    | none => false
    | some t => P (Handle.parse (s.nclu iss.q) (fun i => ((s.part iss.q).peer i).en) d t)

theorem witness_WorkWordsCommit_cinit : ∀ k : Nat, k < 3 → ∃ s iss c desc tbl, Lone s (.cinit 100 106 98) iss c ∧ ((s.env iss c).srcS 106).toNat = 63 ∧
    Settled s iss c ((s.begun iss c).cinitWord (s.env iss c) 100 ((s.env iss c).srcS 106).toNat ((s.env iss c).srcS 98)) ∧
    (∃ l k, (s.begun iss c).uniRead (s.env iss c) ((s.env iss c).srcS 98) 64 64 = .ok (desc, l) ∧
      (s.begun iss c).uniRead (s.env iss c) (descRanks desc).2 (8 * ((descRanks desc).1 + 1)) 8 = .ok (tbl, k)) ∧
    (if k = 0 then Handle.parse (s.nclu iss.q) (fun i => ((s.part iss.q).peer i).en) desc tbl = none
     else (Handle.parse (s.nclu iss.q) (fun i => ((s.part iss.q).peer i).en) desc tbl).isSome = true ∧ (k = 1 ↔ ((s.part iss.q).handle 63).flight = [])) := by
  intro k hk
  have key : ∃ s iss c, Lone s (.cinit 100 106 98) iss c ∧ (((s.env iss c).srcS 106).toNat = 63 ∧ (k = 1 ↔ k ≠ 0 ∧ ((s.part iss.q).handle 63).flight = []) ∧
      tableOk s iss c (fun x => if k = 0 then x.isNone else x.isSome) = true) ∧
      Settled s iss c ((s.begun iss c).cinitWord (s.env iss c) 100 ((s.env iss c).srcS 106).toNat ((s.env iss c).srcS 98)) := by
    rcases k with _ | _ | _ | k
    · exact settled_of_meets (w := fun s e => s.cinitWord e 100 (e.srcS 106).toNat (e.srcS 98)) (s := lone [] [(2, 0x11000), (10, 63)] id .none (mapped 0x11000 [])) (pfx := .none) (by decide +kernel)
    · exact settled_of_meets (w := fun s e => s.cinitWord e 100 (e.srcS 106).toNat (e.srcS 98)) (s := lone [] [(2, 0x11000), (10, 63)] id .none describing) (pfx := .none) (by decide +kernel)
    · exact settled_of_meets (w := fun s e => s.cinitWord e 100 (e.srcS 106).toNat (e.srcS 98)) (s := lone [] [(2, 0x11000), (10, 63)] id .none
        (describing.modPart 0 (fun p => { p with handles := [(63, { Handle.reset with flight := [⟨0, 0, ⟨0, 0⟩, 0, ⟨0, 64, 4, 128⟩, 0, 0, false, 0, false⟩] })] }))) (pfx := .none) (by decide +kernel)
    · omega
  obtain ⟨s, iss, c, hl, ⟨h1, h2, h3⟩, hs⟩ := key
  unfold tableOk at h3
  split at h3
  · cases h3
  · rename_i d hd
    split at h3
    · cases h3
    · rename_i t ht
      obtain ⟨l1, hd⟩ := readOf_ok hd
      obtain ⟨l2, ht⟩ := readOf_ok ht
      refine ⟨s, iss, c, d, t, hl, h1, hs, ⟨l1, l2, hd, ht⟩, ?_⟩
      by_cases hk0 : k = 0
      · simpa [hk0] using h3
      · simp only [hk0, if_false, ne_eq, not_false_eq_true, true_and] at h2 h3 ⊢
        exact ⟨h3, h2⟩

theorem witness_WorkWordsCommit_coll :
    let mates (s : State) (iss : Issue) (c : Ctx) := ((s.part iss.q).warpsOf c.blk.id).filter (fun u => u.1 != c.w)
    let want (s : State) (iss : Issue) (c : Ctx) : Nat × W64 × W64 × W64 := (((s.env iss c).srcS 106).toNat, (s.env iss c).srcS 106, (s.env iss c).srcS 104, (s.env iss c).srcS1 104)
    let meets_ (P : State → Issue → Ctx → Prop) := ∃ s iss c, Lone s (.coll 100 106 104) iss c ∧ P s iss c ∧
      Settled s iss c ((s.begun iss c).collWord (s.env iss c) 100 ((s.env iss c).srcS 106).toNat ((s.env iss c).srcS 106) ((s.env iss c).srcS 104, (s.env iss c).srcS1 104))
    meets_ (fun s iss c => ∃ u ∈ mates s iss c, u.2.collArgs ≠ none ∧ ¬ u.2.collArgs = some (want s iss c)) ∧
    meets_ (fun s iss c => (∀ u ∈ mates s iss c, u.2.collArgs = none ∨ u.2.collArgs = some (want s iss c)) ∧ ∃ u ∈ mates s iss c, u.2.collArgs = none) ∧
    meets_ (fun s iss c => ∀ u ∈ mates s iss c, u.2.collArgs = some (want s iss c)) := by
  intro mates want meets_
  exact ⟨settled_of_meets (w := fun s e => s.collWord e 100 (e.srcS 106).toNat (e.srcS 106) (e.srcS 104, e.srcS1 104))
      (s := lone [] [(9, 64)] id .none (beside (fun x => { x with wait := .coll 100 1 1 (0, 0) }))) (pfx := .none) (by decide +kernel),
    settled_of_meets (w := fun s e => s.collWord e 100 (e.srcS 106).toNat (e.srcS 106) (e.srcS 104, e.srcS1 104)) (s := lone [] [(9, 64)] id .none (beside id)) (pfx := .none) (by decide +kernel),
    settled_of_meets (w := fun s e => s.collWord e 100 (e.srcS 106).toNat (e.srcS 106) (e.srcS 104, e.srcS1 104))
      (s := lone [] [(9, 64)] id .none (beside (fun x => { x with wait := .coll 100 0 0 (0, 64) }))) (pfx := .none) (by decide +kernel)⟩

theorem witness_WarpEnds :
    Meets .exitw (fun _ e => e.c.x.trap.inh = false) ∧ Meets .exit (fun _ e => e.c.grid.k.refill = 0 ∧ e.act ≠ 0 ∧ e.c.x.live &&& ~~~e.act = 0) ∧ Meets (.iqry 100) (fun _ _ => True) ∧
    Meets (.split 100 101) (fun _ e => e.c.x.trap.inh = false ∧ ((e.srcS 101).toNat ∉ [8, 16, 32, 64] ∨ e.c.x.width ≤ (e.srcS 101).toNat)) ∧
    Meets (.split 100 102) (fun _ e => e.c.x.trap.inh = false ∧ ((e.srcS 102).toNat ∉ [8, 16, 32, 64] ∨ e.c.x.width ≤ (e.srcS 102).toNat)) :=
  ⟨meets (lone [] []) .none (by decide +kernel), meets (lone [] []) .none (by decide +kernel), meets (lone [] []) .none (by decide +kernel), meets (lone [] [(5, 32)]) .none (by decide +kernel),
    meets (lone [] [(6, 9)]) .none (by decide +kernel)⟩

/-- A kernel that may grow to two blocks more. -/
def growing (t : Nat) : State := quiet.modPart 0 (fun p => { p with
  grids := [{ probeGrid with k := { probeKernel with xregs := 10 } }]
  warps := p.warps ++ (if t = 0 then [] else [(1, { probeWarp 0 with uid := 1, wid := 1, fileBase := 128, n := 384 })]) })

theorem witness_RegisterBlocks :
    let n (e : Env) (a : Reg) := (e.srcS a).toNat
    let cap (e : Env) := min (16 * e.c.grid.k.xregs) 256
    let legal (e : Env) := 1 ≤ n e 101 ∧ n e 101 ≤ 15 ∧ (e.srcS 102).toNat ≤ 1
    Meets (.racq 100 101 102) (fun _ e => legal e ∧ cap e < e.c.x.n + 16 * n e 101) ∧
    Meets (.racq 100 101 102) (fun s e => legal e ∧ e.c.x.n + 16 * n e 101 ≤ cap e ∧ ¬ (s.part e.q).racqFree e.c.w e.c.x e.c.x.n (n e 101) = true ∧ e.srcS 102 = 1) ∧
    Meets (.racq 100 101 102) (fun _ e => ¬ legal e) ∧
    (∃ s iss c, Lone s (.racq 100 101 102) iss c ∧ legal (s.env iss c) ∧ c.x.n + 16 * n (s.env iss c) 101 ≤ cap (s.env iss c) ∧
      (s.part iss.q).racqFree c.w c.x c.x.n (n (s.env iss c) 101) = true ∧ (s.env iss c).srcS 102 = 1) ∧
    (∃ s iss c, Lone s (.racq 100 101 102) iss c ∧ legal (s.env iss c) ∧ c.x.n + 16 * n (s.env iss c) 101 ≤ cap (s.env iss c) ∧
      (s.part iss.q).racqFree c.w c.x c.x.n (n (s.env iss c) 101) = true ∧ (s.part iss.q).racqBehind c.w c.x s.now (n (s.env iss c) 101) = false) ∧
    Meets (.rrel 100 101) (fun _ e => 1 ≤ n e 101 ∧ 16 * e.c.grid.k.bregs + 16 * n e 101 ≤ e.c.x.n ∧ e.c.x.ifc = 0) ∧
    Meets (.rrel 100 101) (fun _ e => n e 101 = 0 ∨ e.c.x.n < 16 * e.c.grid.k.bregs + 16 * n e 101) := by
  intro n cap legal
  exact ⟨meets (lone [] [(5, 1)]) .none (by decide +kernel), meets (lone [] [(5, 2), (6, 1)] id .none (growing 1)) .none (by decide +kernel), meets (lone [] [(5, 16)]) .none (by decide +kernel),
    lone_of_meets (s := lone [] [(5, 2), (6, 1)] id .none (growing 0)) (pfx := .none) (by decide +kernel),
    lone_of_meets (s := lone [] [(5, 1)] id .none (growing 0)) (pfx := .none) (by decide +kernel),
    meets (lone [] [(5, 1)] (fun x => { x with n := 144 })) .none (by decide +kernel), meets (lone [] [(5, 1)]) .none (by decide +kernel)⟩

theorem witness_TrapsEnter :
    MeetsTrap (.trap 101) (fun _ _ => True) ∧
    Meets (.brx 100 101) (fun s e => s.table e (e.srcS 100) [(e.srcS 101).toNat % 2 ^ 32] = .ok spare ∧ spare.n ≤ (e.srcS 101).toNat % 2 ^ 32 ∧
      ¬ (e.c.x.trap.thnd ≠ 0 ∧ e.c.grid.k.target e.c.x.trap.thnd = true ∧ e.c.x.trap.inh = false)) :=
  ⟨meets_trap (lone [] [] handled) .none (by decide +kernel), meets (lone [] [(4, 0x10000), (5, 1)] id .none (tabled 1 1)) .none (by decide +kernel)⟩

def mayReach (n : Nat) (e : Env) : Prop := n < 0x100 ∨ (e.sup = true ∧ n < 0x200)
def newOf (op : CsrOp) (e : Env) (old : W64) : W64 := match op with | .write => e.srcS 101 | .set => old ||| e.srcS 101 | .clear => old &&& ~~~(e.srcS 101)

def caused (x : Warp) : Warp := { x with trap := { x.trap with cause := 1 } }
theorem lone_each {op : CsrOp} {l : List (BitVec 14)} (h : l.all (fun n => meetsB (lone [] []) (csrInstr op 101 n) .none (fun _ _ _ => true)) = true) :
    ∀ n ∈ l, ∃ s iss c, Lone s (csrInstr op 101 n) iss c := by
  intro n hn
  obtain ⟨c, hl, -⟩ := meetsB_lone (List.all_eq_true.mp h n hn)
  exact ⟨_, _, c, hl⟩

theorem witness_ControlRegisterWrites : ∀ op : CsrOp,
    MeetsSettled (csrInstr op 101 0x018) (fun s e => mayReach 0x018 e ∧ s.csrOk e.q 0x018 e.sup op (s.csrRead e 0x018) (e.srcS 101) = true) (fun _ e => .ofTerm (.csr op 0x018 (e.srcS 101))) ∧
    MeetsSettled (csrInstr op 101 0x160) (fun s e => mayReach 0x160 e ∧ s.csrOk e.q 0x160 e.sup op (s.csrRead e 0x160) (e.srcS 101) = true) (fun _ e => .ofTerm (.csr op 0x160 (e.srcS 101))) ∧
    Meets (csrInstr op 101 0x160) (fun _ e => ¬ mayReach 0x160 e) ∧ Meets (csrInstr op 101 0x200) (fun _ e => ¬ mayReach 0x200 e) ∧
    Meets (csrInstr op 101 0x019) (fun s e => mayReach 0x019 e ∧ s.csrOk e.q 0x019 e.sup op (s.csrRead e 0x019) (e.srcS 101) = false) ∧
    Meets (csrInstr op 101 0x003) (fun _ e => (newOf op e (e.c.x.fflags.setWidth 64)).toNat < 2 ^ 6) ∧
    Meets (csrInstr op 101 0x008) (fun _ e => (newOf op e (e.c.x.lc0.setWidth 64)).toNat < 2 ^ 32) ∧
    Meets (csrInstr op 101 0x009) (fun _ e => (newOf op e (e.c.x.lc1.setWidth 64)).toNat < 2 ^ 32) ∧
    Meets (csrInstr op 101 0x00A) (fun _ e => (newOf op e (e.c.x.lc2.setWidth 64)).toNat < 2 ^ 32) ∧
    (∀ n ∈ [0x010, 0x011, 0x018, 0x01C], ∃ s iss c, Lone s (csrInstr op 101 n) iss c) ∧
    Meets (csrInstr op 101 0x020) (fun _ e => e.srcS 101 &&& 0xFFFFFFFFFFFF8008 = 0) ∧
    Meets (csrInstr op 101 0x041) (fun s e => e.sup = false ∧ s.csrOk e.q 0x041 e.sup op (s.csrRead e 0x041) (e.srcS 101) = true) := by
  unfold mayReach newOf
  intro op
  cases op <;> exact ⟨meets_settled (lone [] [(5, 0x10004)]) .none (by decide +kernel), meets_settled (lone [] [(5, 0x2001)] id .none ruled) .none (by decide +kernel),
    meets (lone [] []) .none (by decide +kernel), meets (lone [] [] id .none ruled) .none (by decide +kernel), meets (lone [] [(5, 3)] caused) .none (by decide +kernel),
    meets (lone [] [(5, 63)]) .none (by decide +kernel), meets (lone [] [(5, 0xFFFFFFFF)]) .none (by decide +kernel), meets (lone [] [(5, 3)]) .none (by decide +kernel),
    meets (lone [] [(5, 3)]) .none (by decide +kernel),
    lone_each (by decide +kernel),
    meets (lone [] [(5, 7)]) .none (by decide +kernel), meets (lone [] []) .none (by decide +kernel)⟩

theorem witness_SupervisorWords :
    MeetsSettled (.tlbi 100 101) (fun _ e => e.sup = true ∧ (e.srcS 101).toNat ≤ 1) (fun _ e => .ofActs [.tlbi (decide ((e.srcS 101).toNat = 1)) (e.srcS 100)]) ∧
    Meets (.tlbi 100 101) (fun _ e => e.sup = false) ∧ Meets (.tlbi 100 101) (fun _ e => e.sup = true ∧ ¬ (e.srcS 101).toNat ≤ 1) ∧
    Meets .tlbsync (fun s e => e.sup = true ∧ ∀ x ∈ (s.part e.q).shoot, x.uid ≠ e.c.x.uid) ∧ Meets .tlbsync (fun _ e => e.sup = false) ∧
    MeetsSettled (.bswap 102 100 101) (fun _ e => e.sup = true ∧ (targetOf (e.srcS 100)).isSome = true ∧ (e.srcS 101).toNat / 8 % 2 ^ 5 = 0 ∧ (e.srcS 101).toNat % 4 ≠ 3)
      (fun _ e => .ofActs [.bswap 102 (e.srcS 100) (e.srcS 101)]) ∧
    Meets (.bswap 102 100 101) (fun _ e => e.sup = false) ∧
    Meets (.bswap 102 100 101) (fun _ e => e.sup = true ∧ ¬ ((targetOf (e.srcS 100)).isSome = true ∧ (e.srcS 101).toNat / 8 % 2 ^ 5 = 0 ∧ (e.srcS 101).toNat % 4 ≠ 3)) ∧
    MeetsSettled (.bresume 102 100 101)
      (fun _ e => e.sup = true ∧ (e.srcS 101).toNat < 2 ^ 14 ∧ (e.srcS 101).toNat / 4 % 2 ^ 6 = 0 ∧ (e.srcS 101).toNat % 4 ≠ 3 ∧ ((e.srcS 101).toNat % 4 = 0 ∨ (targetOf (e.srcS 100)).isSome = true))
      (fun _ e => .ofActs [.bresume 102 (e.srcS 100) (e.srcS 101)]) ∧
    Meets (.bresume 102 100 101) (fun _ e => e.sup = false) ∧ Meets (.bresume 102 100 101) (fun _ e => e.sup = true ∧ ¬ (e.srcS 101).toNat < 2 ^ 14) :=
  ⟨meets_settled (lone [] [(5, 1)] id .none ruled) .none (by decide +kernel), meets (lone [] []) .none (by decide +kernel), meets (lone [] [(5, 2)] id .none ruled) .none (by decide +kernel),
    meets (lone [] [] id .none ruled) .none (by decide +kernel), meets (lone [] []) .none (by decide +kernel), meets_settled (lone [] [] id .none ruled) .none (by decide +kernel),
    meets (lone [] []) .none (by decide +kernel), meets (lone [] [(5, 3)] id .none ruled) .none (by decide +kernel), meets_settled (lone [] [] id .none ruled) .none (by decide +kernel),
    meets (lone [] []) .none (by decide +kernel), meets (lone [] [(5, 0x4000)] id .none ruled) .none (by decide +kernel)⟩

/-- A warp of another gang beside the issuer, with a block and a gang of its own. -/
def other (x : Warp → Warp) : State := ruled.modPart 0 (fun p => { p with
  gangs := p.gangs ++ [⟨1, 0, [1], ⟨0, 0, 0⟩, 1⟩], blocks := p.blocks ++ [⟨1, 0, 1, 1, 0, 1, 0, 1024, freshBars, true⟩]
  warps := p.warps ++ [(64, x { probeWarp 0 with uid := 1, wid := 0, block := 1 })] })
def fallen : Cond := ⟨0, .operand, 1, 0, .read, 0, 0⟩
def headed (v : Nat) : State := supervised (mapped 0x11000 (leBytes 8 v))
def headIs (s : State) (e : Env) : Option Nat := match s.imageRead e.q (e.srcS 100) 0x400 with | .ok h => some (leNat (h.take 8) % 2 ^ 48) | .error _ => none

theorem witness_SupervisorWords_effects :
    (∃ s iss c, Lone s (.tlbi 100 101) iss c ∧ ((s.env iss c).sup = true ∧ ((s.env iss c).srcS 101).toNat ≤ 1)) ∧
    (let swap (e : Env) := e.sup = true ∧ (e.srcS 101).toNat / 8 % 2 ^ 5 = 0 ∧ (e.srcS 101).toNat % 4 ≠ 3;
      (∃ s iss c, Lone s (.bswap 102 100 101) iss c ∧ (swap (s.env iss c) ∧ targetOf ((s.env iss c).srcS 100) = some ⟨0, 1⟩ ∧ (s.part iss.q).ctx ⟨0, 1⟩ = none)) ∧
      (∀ m ∈ [0, 1, 2], ∃ s iss c, Lone s (.bswap 102 100 101) iss c ∧ (swap (s.env iss c) ∧ ((s.env iss c).srcS 101).toNat % 4 = m ∧
        targetOf ((s.env iss c).srcS 100) = some ⟨1, 0⟩ ∧ ((s.part iss.q).ctx ⟨1, 0⟩).any (fun k => k.gang.id != c.gang.id) = true)) ∧
      ∃ s iss c, Lone s (.bswap 102 100 101) iss c ∧ (swap (s.env iss c) ∧ ((s.env iss c).srcS 101).toNat % 4 ≠ 2 ∧
        targetOf ((s.env iss c).srcS 100) = some ⟨0, 0⟩ ∧ ((s.part iss.q).ctx ⟨0, 0⟩).any (fun k => k.gang.id == c.gang.id) = true)) ∧
    (let back (e : Env) := e.sup = true ∧ (e.srcS 101).toNat < 2 ^ 14 ∧ (e.srcS 101).toNat / 4 % 2 ^ 6 = 0;
      (∀ good : Bool, ∃ s iss c, Lone s (.bresume 102 100 101) iss c ∧ (back (s.env iss c) ∧ ((s.env iss c).srcS 101).toNat % 4 = 0 ∧
        (headIs s (s.env iss c)).any (fun n => decide (n = 0x53574B42 + 2 ^ 32 + s.gradeNum * 2 ^ 40) == good) = true)) ∧
      (∃ s iss c, Lone s (.bresume 102 100 101) iss c ∧ (back (s.env iss c) ∧ ((s.env iss c).srcS 101).toNat % 4 = 1 ∧
        targetOf ((s.env iss c).srcS 100) = some ⟨0, 1⟩ ∧ (s.part iss.q).warp ⟨0, 1⟩ = none)) ∧
      (∃ s iss c, Lone s (.bresume 102 100 101) iss c ∧ (back (s.env iss c) ∧ ((s.env iss c).srcS 101).toNat % 4 = 1 ∧
        targetOf ((s.env iss c).srcS 100) = some ⟨1, 0⟩ ∧ ((s.part iss.q).warp ⟨1, 0⟩).any (fun x => match x.wait with | .fault .. => false | _ => true) = true)) ∧
      (∃ s iss c, Lone s (.bresume 102 100 101) iss c ∧ (back (s.env iss c) ∧ ((s.env iss c).srcS 101).toNat % 4 = 1 ∧
        targetOf ((s.env iss c).srcS 100) = some ⟨1, 0⟩ ∧ ((s.part iss.q).warp ⟨1, 0⟩).any (fun x => decide (x.wait = .fault 0x10000 0 false fallen ∧ x.path ≠ 0)) = true ∧
        (s.part iss.q).faultPosted ⟨1, 0⟩ = true ∧ wkey ⟨1, 0⟩ ≠ wkey c.w)) ∧
      ∃ s iss c, Lone s (.bresume 102 100 101) iss c ∧ (back (s.env iss c) ∧ ((s.env iss c).srcS 101).toNat % 4 = 2 ∧
        targetOf ((s.env iss c).srcS 100) = some ⟨1, 0⟩ ∧ ((s.part iss.q).ctx ⟨1, 0⟩).isSome = true)) := by
  refine ⟨lone_of_meets (s := lone [] [(5, 1)] id .none ruled) (pfx := .none) (by decide +kernel),
    ⟨lone_of_meets (s := lone [] [(4, 0x10000)] id .none ruled) (pfx := .none) (by decide +kernel), fun m hm => ?_, lone_of_meets (s := lone [] [] id .none ruled) (pfx := .none) (by decide +kernel)⟩,
    fun good => ?_, lone_of_meets (s := lone [] [(4, 0x10000), (5, 1)] id .none ruled) (pfx := .none) (by decide +kernel),
    lone_of_meets (s := lone [] [(4, 1), (5, 1)] id .none (other id)) (pfx := .none) (by decide +kernel),
    lone_of_meets (s := lone [] [(4, 1), (5, 1)] id .none (other (fun x => { x with wait := .fault 0x10000 0 false fallen }))) (pfx := .none) (by decide +kernel),
    lone_of_meets (s := lone [] [(4, 1), (5, 2)] id .none (other id)) (pfx := .none) (by decide +kernel)⟩
  · simp only [List.mem_cons, List.not_mem_nil, or_false] at hm
    rcases hm with rfl | rfl | rfl
    · exact lone_of_meets (s := lone [] [(4, 1)] id .none (other id)) (pfx := .none) (by decide +kernel)
    · exact lone_of_meets (s := lone [] [(4, 1), (5, 1)] id .none (other id)) (pfx := .none) (by decide +kernel)
    · exact lone_of_meets (s := lone [] [(4, 1), (5, 2)] id .none (other id)) (pfx := .none) (by decide +kernel)
  · cases good
    · exact lone_of_meets (s := lone [] [(4, 0x11000)] id .none (headed 0)) (pfx := .none) (by decide +kernel)
    · exact lone_of_meets (s := lone [] [(4, 0x11000)] id .none (headed (0x53574B42 + 2 ^ 32 + quiet.gradeNum * 2 ^ 40))) (pfx := .none) (by decide +kernel)

/-- A grid that is accepted and not started; a warp's wait; records that wait with a ring; a die whose firmware runs. -/
def unstarted : State := quiet.modPart 0 (fun p => { p with grids := [{ probeGrid with started := false }] })
def waiting (w : Wait) (f : Part → Part := id) : State := { (hold [] [] (fun x => { x with wait := w, ifc := 1 }) quiet).modPart 0 f with now := 8192 }
def aRecord : FaultRec := ⟨0x23, 0, 0, 0, 0, 0, 0, 0x10000, 0, 0, 0, 0, 0⟩
def posting : State := quiet.modPart 0 (fun p => { p with posts := [aRecord], csr := { p.csr with fqbase := 0x2000D } })
def booted : State := { State.reset with dies := State.reset.dies.wr 0 { State.reset.dies.rd 0 with stages := 1 } }

theorem witness_CountersAndWaits :
    (4095 : Nat) < 4096 ∧ (unstarted.dies.rd 0).recovery = false ∧
    (∃ x, (unstarted.part 0).grid? 0 = some x ∧ x.started = false ∧ (∀ b ∈ x.held, b = true) ∧ ∀ y ∈ (unstarted.part 0).grids, y.queue = x.queue → y.seq < x.seq → y.started = true) ∧
    (∃ x, ((waiting (.sleep 8192)).part 0).warp ⟨0, 0⟩ = some x ∧ x.stopped = none ∧ x.wait = .sleep 8192 ∧ 8192 ≤ (waiting (.sleep 8192)).now) ∧
    (∃ x, ((waiting (.split 100 8 0 0x10000)).part 0).warp ⟨0, 0⟩ = some x ∧ x.stopped = none ∧ x.wait = .split 100 8 0 0x10000 ∧ 0 + 8192 ≤ (waiting (.split 100 8 0 0x10000)).now ∧ x.ifc ≠ 0 ∧ x.path ≠ 0 ∧
      (∀ l ∈ x.levels.head?, l.stop ≠ 0x10000) ∧ ((waiting (.split 100 8 0 0x10000)).part 0).swaps = [] ∧ ∃ c, ((waiting (.split 100 8 0 0x10000)).part 0).ctx ⟨0, 0⟩ = some c) ∧
    (let s := waiting (.llock 100 5 0 0) (fun p => { p with locks := [{ freeLock 5 with holder := some 9, waiters := [⟨0, 0, false, some 100, 0⟩] }] })
      ∃ x, (s.part 0).warp ⟨0, 0⟩ = some x ∧ x.stopped = none ∧ x.wait = .llock 100 5 0 0 ∧ (s.part 0).waitsOn x.uid = some 5 ∧
        ∃ y ∈ ((s.part 0).lock 5).waiters, y.uid = x.uid ∧ ∃ u, y.left = some u ∧ u ≤ s.now) :=
  ⟨by decide, by decide +kernel,
    ⟨{ probeGrid with started := false }, by decide +kernel⟩,
    ⟨{ probeWarp 0 with wait := .sleep 8192, ifc := 1 }, by decide +kernel⟩,
    ⟨{ probeWarp 0 with wait := .split 100 8 0 0x10000, ifc := 1 }, by decide +kernel, by decide +kernel, by decide +kernel, by decide +kernel, by decide +kernel, by decide +kernel, by decide +kernel, by decide +kernel,
      Option.isSome_iff_exists.mp (by decide +kernel)⟩,
    ⟨{ probeWarp 0 with wait := .llock 100 5 0 0, ifc := 1 }, by decide +kernel, by decide +kernel, by decide +kernel, by decide +kernel,
      ⟨0, 0, false, some 100, 0⟩, by decide +kernel, by decide +kernel, 100, by decide +kernel, by decide +kernel⟩⟩

theorem witness_FaultRecordsPost : (posting.part 0).posts = [aRecord] ∧ (posting.part 0).csr.ringRoom = true ∧
    (∀ x ∈ (posting.part 0).swaps, x.record ≠ some (posting.part 0).headRec) ∧ (∀ x ∈ (posting.part 0).restores, x.record ≠ some (posting.part 0).headRec) ∧ (posting.part 0).dir = [] ∧
    ∀ g i, (((posting.part 0).core g).tuns.rd i).failed = [] := by
  refine ⟨by decide +kernel, by decide +kernel, by decide +kernel, by decide +kernel, by decide +kernel, fun g i => ?_⟩
  have h : (posting.part 0).core g = Core.reset := rfl
  rw [h]
  rcases i with _ | _ | _ | i <;> rfl

/-- A die's clusters in working order: not harvested, with 48 of their 52 cores. -/
def working (s : State) (d : Nat) : Nat := ((List.range 7).filter (fun k =>
  decide (.cluster (7 * d + k) ∉ s.harvested) && decide (48 ≤ ((List.range 52).filter (fun j => decide (.core (7 * d + k) j ∉ s.harvested))).length))).length
theorem witness_HostAndService :
    (quiet.dies.rd 0).recovery = false ∧ ({ quiet with dies := quiet.dies.wr 0 { quiet.dies.rd 0 with recovery := true } }.dies.rd 0).recovery = true ∧
    (([7] : List Byte) ≠ [] ∧ quiet.paOk 0 (239999999999 + [(7 : Byte)].length - 1) = true ∧ (quiet.part 0).dir = []) ∧ (0 < 1 ∧ quiet.paOk 0 (0 + 1 - 1) = true) ∧ (1 ≤ 100 ∧ 100 ≤ 100) ∧
    ((3 < 4) ∧ (State.reset.dies.rd 3).recovery = false ∧ (State.reset.dies.rd 3).up = false) ∧
    (4095 < 4096 ∧ quiet.rdyHbm.toNat + quiet.rdyClu.toNat * 2 ^ 8 + quiet.rdyPort.toNat * 2 ^ 32 + quiet.rdyPart.toNat * 2 ^ 40 + quiet.gradeNum * 2 ^ 48 < 2 ^ 64) ∧
    (5 < 4 * booted.cpd ∧ 5 % booted.cpd < working booted 0 ∧ (booted.dies.rd (5 / booted.cpd)).recovery = false ∧ 0 < (booted.dies.rd (5 / booted.cpd)).stages) ∧
    working { booted with harvested := [.cluster 0] } 0 = 6 ∧ working { booted with harvested := (List.range 4).map (.core 0) } 0 = 7 ∧
    working { booted with harvested := .cluster 1 :: (List.range 5).map (.core 0) } 0 ≤ 5 % booted.cpd := by decide +kernel

/-! #### The remaining steps of the device -/

/-- The premises of a parked run, as a test. -/
def parksB (s : State) (c : Ctx) (r : Run) : Bool :=
  decide (c.x.run = some r) && r.closed && decide (r.term = .none) && decide (c.x.path ≠ 0) && decide (c.x.wait = .none) && decide ((s.part 0).placeQ = []) &&
  decide ((s.part 0).swaps = []) && decide (c.x.levels = []) && (s.part 0).warps.all (fun y => match y.2.wait with | .abwait .. => false | _ => true)

theorem parks_of {s : State} {r : Run} {ok : Ctx → Bool} (h : ((s.part 0).ctx ⟨0, 0⟩).any (fun c => parksB s c r && ok c) = true) :
    ∃ c, Parks s 0 ⟨0, 0⟩ c r ∧ ok c = true := by
  obtain ⟨c, hc, hk⟩ := any_some h
  simp only [parksB, Bool.and_eq_true, decide_eq_true_eq, List.all_eq_true] at hk
  obtain ⟨⟨⟨⟨⟨⟨⟨⟨⟨h1, h2⟩, h3⟩, h4⟩, h5⟩, h6⟩, h7⟩, h8⟩, h9⟩, ho⟩ := hk
  refine ⟨c, ⟨hc, h1, h2, h3, h4, h5, h6, h7, h8, fun y hy l g t e => ?_⟩, ho⟩
  have := h9 y hy
  rw [e] at this
  exact absurd this (by simp)

/-- The quiet state with other parts, at another time; a warp with a run. -/
def quietWith (now : Nat) (x : Warp → Warp) (f : Part → Part) : State := { (hold [] [] x quiet).modPart 0 f with now := now, rdyPart := 1, rdyClu := 1 }
def withRun (r : Run) (x : Warp) : Warp := { x with run := some r }
def haltedQueue : Queue := { Queue.reset with halt := true, err := 7 }
/-- Two requests that wait, of a class with rates of 100 GB/s. -/
def injecting : State := quietWith 0 (withRun (closedRun [] [.inject [(128, 192, 64), (16, 64, 64)]])) (fun p => { p with csr := { p.csr with resv := [(0, 0x640064)] } })

theorem witness_QueuesAndCommits :
    (∃ s c r, Parks s 0 ⟨0, 0⟩ c r ∧ (∀ a ∈ r.acts, a.isReg = true) ∧ ∀ k ∈ r.waits, ∃ m, k = .twall m ∧ c.x.trdy &&& m = m) ∧
    (let s := quietWith 0 id (fun p => { p with queues := [(0, haltedQueue)] });
      s.rdyPart.getLsbD 0 = true ∧ s.owns 0 0 = true ∧ 0 < 64 ∧ ((s.part 0).queue 0).halt = true ∧ ((s.part 0).queue 0).en = false ∧ (s.dies.rd 0).recovery = false ∧ ((s.part 0).queue 0).qlog < 32 ∧
        16 ≠ ((s.part 0).queue 0).qlog ∧ 4 ≤ 16 ∧ 16 ≤ 16) ∧
    (let s := quiet.modPart 0 (fun p => { p with queues := [(0, recordQueue)] });
      s.owns 0 0 = true ∧ ((s.part 0).queue 0).en = true ∧ ((s.part 0).queue 0).halt = false ∧ ((s.part 0).queue 0).qhead ≠ ((s.part 0).queue 0).qtail ∧
        ((s.part 0).grids.filter (fun g => g.queue == 0)).length < 16 ∧ s.devRead 0 0x11000 64 = none) ∧
    (∃ x, recordPlaced.checkRecord 0 0 (recordPlaced.devRead 0 0x11000 64) = .ok x) ∧
    (∃ c, (injecting.part 0).ctx ⟨0, 0⟩ = some c ∧ c.x.run = some (closedRun [] [.inject [(128, 192, 64), (16, 64, 64)]]) ∧ (injecting.part 0).reserves ((quiet.part 0).blockCls c.blk) = true ∧
      ((injecting.part 0).injectQueue 0 ((quiet.part 0).blockCls c.blk)).length = 1 ∧ (∀ y ∈ (injecting.part 0).injectQueue 0 ((quiet.part 0).blockCls c.blk), 0 ≤ y.2.since) ∧
      7 * (128 : Int) ≤ ((injecting.part 0).bucket 0 ((quiet.part 0).blockCls c.blk) 0).hbm ∧ 7 * (192 : Int) ≤ ((injecting.part 0).bucket 0 ((quiet.part 0).blockCls c.blk) 0).fab) ∧
    (let s := quietWith 131072 id (fun p => p.setCore 0 { p.core 0 with bnd := 5, g := 64 });
      ((s.part 0).carved + 1) * 131072 ≤ s.now - (s.part 0).t0 ∧ onceEach (s.part 0).cores ∧ 64 ≤ ((s.part 0).core 0).g ∧
        ∃ b x, (s.part 0).blocks.filter (fun b => b.core == 0) = [b] ∧ (s.part 0).grid? b.grid = some x ∧ max x.k.cvlo (if b.scrLen = 0 then 0 else (b.scrOff + b.scrLen + 16383) / 16384) + 1 ≤ ((s.part 0).core 0).bnd) := by
  refine ⟨?_, by decide +kernel, by decide +kernel, ?_, ?_, ?_⟩
  · obtain ⟨c, hp, -⟩ := parks_of (s := quietWith 0 (withRun (closedRun [.s 0 7] [.twall 0])) id) (r := closedRun [.s 0 7] [.twall 0]) (ok := fun _ => true) (by decide +kernel)
    refine ⟨_, c, _, hp, by decide +kernel, fun k hk => ⟨0, ?_, by simp⟩⟩
    simpa [closedRun] using hk
  · exact ok_of (by decide +kernel)
  · have h : ((injecting.part 0).ctx ⟨0, 0⟩).any (fun c => decide (c.x.run = some (closedRun [] [.inject [(128, 192, 64), (16, 64, 64)]]) ∧
        (injecting.part 0).reserves ((quiet.part 0).blockCls c.blk) = true ∧
        ((injecting.part 0).injectQueue 0 ((quiet.part 0).blockCls c.blk)).length = 1 ∧ (∀ y ∈ (injecting.part 0).injectQueue 0 ((quiet.part 0).blockCls c.blk), 0 ≤ y.2.since) ∧
        7 * (128 : Int) ≤ ((injecting.part 0).bucket 0 ((quiet.part 0).blockCls c.blk) 0).hbm ∧ 7 * (192 : Int) ≤ ((injecting.part 0).bucket 0 ((quiet.part 0).blockCls c.blk) 0).fab)) = true := by
      decide +kernel
    obtain ⟨c, hc, hk⟩ := any_some h
    exact ⟨c, hc, of_decide_eq_true hk⟩
  · exact ⟨by decide +kernel, by unfold onceEach; decide +kernel, by decide +kernel, ⟨0, 0, 0, 0, 0, 0, 0, 1024, freshBars, true⟩, probeGrid, by decide +kernel⟩

theorem noRegroup_of {p : Part} (h : p.warps.all (fun y => !y.2.wait.regroups) = true) (hs : p.swaps = []) : p.noRegroup := by
  exact ⟨hs, fun y hy => by simpa using List.all_eq_true.mp h y hy⟩

theorem witness_PlacingAndRetiring :
    (let g : Grid := { probeGrid with pooled := true };
      let s := quietWith 0 id (fun p => { p with grids := [g] });
      (s.part 0).grids = [g] ∧ g.started = true ∧ g.pooled = true ∧ 0 < g.l.items ∧ g.l.items ≤ g.gangLanes ∧ s.restoreFloor 0 = none ∧ (s.gangRun 0 g).isSome = true) ∧
    (let s := quietWith 4096 id (fun p => { p with headGang := some (0, 0), grids := [{ probeGrid with ranges := [⟨0, 0, 8⟩] }] });
      (s.part 0).headGang = some (0, 0) ∧ 0 + 4096 ≤ s.now ∧ (s.part 0).reserved = [] ∧ ((s.part 0).grid? 0).any (fun x => (s.headRun 0 x).isSome) = true) ∧
    (let x : Grid := { probeGrid with ranges := [⟨0, 0, 8⟩, ⟨2, 0, 3⟩] };
      x.l.nosteal = false ∧ (x.range 1).size = 0 ∧ (⟨0, 0, 8⟩ : Range) ∈ x.ranges ∧ 0 ≠ 1 ∧ 2 ≤ (⟨0, 0, 8⟩ : Range).size ∧
        ∀ y ∈ x.ranges, y.clu ≠ 1 → y = ⟨0, 0, 8⟩ ∨ y.size < (⟨0, 0, 8⟩ : Range).size ∨ (y.size = (⟨0, 0, 8⟩ : Range).size ∧ 0 < y.clu)) ∧
    (let s := quietWith 0 (fun x => { x with wait := .retire }) id;
      ((s.part 0).ctx ⟨0, 0⟩).any (fun c => decide (c.x.wait = .retire ∧ c.x.ifc = 0 ∧ c.blk.bars.length = 16)) = true ∧ onceEach (s.part 0).warps) ∧
    (let s := quietWith 0 id (fun p => { p with warps := [] });
      ((s.part 0).blockAt 0 0).any (fun b => decide ((s.part 0).warpsOf b.id = [] ∧ (s.part 0).mcrdTo b = false)) = true) ∧
    (let s := quietWith 0 id (fun p => { p with warps := [], blocks := [], gangs := [] });
      (s.part 0).grid? probeGrid.seq = some probeGrid ∧ probeGrid.started = true ∧ probeGrid.exhausted = true ∧ (∀ b ∈ (s.part 0).blocks, b.grid ≠ probeGrid.seq) ∧
        ∀ a ∈ (s.part 0).away, a.grid ≠ probeGrid.seq) := by
  refine ⟨by decide +kernel, by decide +kernel, by decide +kernel, ⟨by decide +kernel, ?_⟩, by decide +kernel, by decide +kernel⟩
  unfold onceEach
  decide +kernel

def aCmd : CopyCmd := ⟨⟨0, 0⟩, 0, 0, 3, 0, .cpy 0xFFFF000000000000 0xFFFF000000000100 16, [0], none, 0, false, false⟩
def withCmd (c : CopyCmd) : State := quietWith 0 id (fun p => { p with clusters := [(0, { Cluster.reset with active := [c] })] })
def aProduct : Product := ⟨⟨0, 0⟩, 0, 0, 0, 16, 0, 4, 4, true, 0, [0], [], []⟩
def withTun (t : Tun) : State := quietWith 0 id (fun p => p.setCore 0 ((p.core 0).setTun 0 t))

theorem witness_EnginesWork :
    (let s := quietWith 0 id (fun p => { p with placeQ := [⟨5, 0, RDesc.reset, 0, 0, 0, 0, [(127, 7)]⟩] });
      (s.part 0).placeQ = [⟨5, 0, RDesc.reset, 0, 0, 0, 0, [(127, 7)]⟩] ∧ s.paOk 0 (5 * 128 + 127) = true ∧ (s.part 0).dir = [] ∧ ∀ b ∈ ([(127, 7)] : List (Nat × Byte)), b.1 < 128) ∧
    (let p := (withCmd aCmd).part 0;
      (p.clu 0).active = [aCmd] ∧ aCmd.left = [0] ∧ aCmd.fail = none ∧ aCmd.lost = false ∧ p.nextCore 0 = none ∧ (withCmd aCmd).unitDropped 0 aCmd 0 = ([], []) ∧ (p.block? aCmd.block).any (fun b =>
        (match (withCmd aCmd).engRead 0 b false (linePieces (0xFFFF000000000100 + BitVec.ofNat 64 (chunk 0xFFFF000000000000 16 0).1) (chunk 0xFFFF000000000000 16 0).2) with
          | .ok bs => (match (withCmd aCmd).resolve 0 b (0xFFFF000000000000 + BitVec.ofNat 64 (chunk 0xFFFF000000000000 16 0).1) bs.length ⟨false, true, false⟩ with | .ok _ => true | .error _ => false)
          | .error _ => false)) = true ∧ (withCmd aCmd).anyBad 0 = false ∧ p.dir = []) ∧
    (let c : CopyCmd := { aCmd with left := [] };
      let p := (withCmd c).part 0;
      (p.clu 0).active = [c] ∧ c.fail = none ∧ c.lost = false ∧ c.left = [] ∧ (∀ a o m n, c.kind ≠ .mcrd a o m n) ∧ (p.ctx c.w).any (fun x => decide (x.x.wait = .none)) = true ∧ p.noRegroup) ∧
    ((((withTun ⟨false, false, [aProduct], none, []⟩).part 0).core 0).tuns.rd 0).queue = [aProduct] ∧ ((((withTun ⟨false, false, [aProduct], none, []⟩).part 0).core 0).tuns.rd 0).landing = none ∧
    aProduct.ops = [] ∧ ((((withTun ⟨false, false, [aProduct], some 0, []⟩).part 0).core 0).tuns.rd 0).landing = some 0 ∧ 0 ≤ (withTun ⟨false, false, [aProduct], some 0, []⟩).now ∧
    aProduct.rows.Nodup ∧ aProduct.d + 64 ≤ 512 ∧ ((withTun ⟨false, false, [aProduct], some 0, []⟩).part 0).noRegroup := by
  refine ⟨by decide +kernel, by decide +kernel, ⟨by decide +kernel, rfl, rfl, rfl, fun a o m n => by simp [aCmd], by decide +kernel, noRegroup_of (by decide +kernel) (by decide +kernel)⟩, by decide +kernel, by decide +kernel,
    rfl, by decide +kernel, by decide +kernel, by decide, by decide, noRegroup_of (by decide +kernel) (by decide +kernel)⟩

def aLock : Lock := { freeLock 5 with rel := true, waiters := [⟨0, 0, false, none, 0⟩] }
def aSwap (mode : Nat) (kill : Bool) : Machine.Swap := ⟨0, ⟨0, 0⟩, 0x70000, kill, mode, false, 0x12000, 0, none⟩
def aRestore : Restoration := ⟨0x12000, 0, [0], none, 0, 0, none⟩

theorem witness_LocksAndSwaps :
    (let p := (quietWith 0 id (fun p => { p with warps := [], locks := [aLock] })).part 0;
      p.locks.filter (fun y => y.rel) = [aLock] ∧ p.lock aLock.line = aLock ∧ ∀ v ∈ aLock.waiters, p.present v.uid = false) ∧
    (let p := (quietWith 0 id (fun p => { p with locks := [aLock] })).part 0;
      p.locks.filter (fun y => y.rel) = [aLock] ∧ p.lock aLock.line = aLock ∧ (⟨0, 0, false, none, 0⟩ : Waiter) ∈ aLock.waiters ∧ p.present 0 = true ∧
        p.reserved? (p.whereIs 0) 5 = false ∧ ∀ x ∈ p.placeQ, x.line ≠ 5) ∧
    (let p := (quietWith 0 id (fun p => { p with locks := [aLock], placeQ := [⟨5, 0, RDesc.reset, 0, 0, 0, 0, [(127, 7)]⟩] })).part 0;
      p.locks.filter (fun y => y.rel) = [aLock] ∧ p.lock aLock.line = aLock ∧ p.present 0 = true ∧ ∃ x ∈ p.placeQ, x.line = 5) ∧
    (let p := ((lone [] [] id .none reserving).modPart 0 (fun p => { p with locks := [{ aLock with line := 544 }] })).part 0;
      p.locks.filter (fun y => y.rel) = [{ aLock with line := 544 }] ∧ p.lock 544 = { aLock with line := 544 } ∧ p.present 0 = true ∧ p.reserved? (p.whereIs 0) 544 = true) ∧
    (let l : Lock := { freeLock 5 with holder := some 0, grant := some (0, 0) };
      let p := (quietWith 0 (fun x => { x with wait := .llock 100 5 0 0 }) (fun p => { p with locks := [l] })).part 0;
      p.locks.filter (fun y => y.grant.isSome) = [l] ∧ p.lock l.line = l ∧ (p.byUid 0).any (fun y => decide (y.2.wait = .llock 100 5 0 0)) = true) ∧
    (∃ s c, Parks s 0 ⟨0, 0⟩ c (closedRun [.racq 100 1 false] []) ∧ 0 + 131072 ≤ s.now ∧ c.x.n + 16 * 1 ≤ min (16 * c.grid.k.xregs) 256 ∧ (s.part 0).racqFree ⟨0, 0⟩ c.x c.x.n 1 = false) ∧
    (let s := quietWith 8192 (fun x => { x with wait := .fuse 100 64 false 0 0x10000 }) id;
      ((s.part 0).warp ⟨0, 0⟩).any (fun x => decide (x.wait = .fuse 100 64 false 0 0x10000 ∧ x.stopped = none ∧ 0 + 8192 ≤ s.now ∧ (⟨0, 0⟩, x) ∈ (s.part 0).constituents 0 x.base 64 x.block)) = true ∧
        onceEach (s.part 0).warps) ∧
    (let s := quietWith 131072 id (fun p => { p with swaps := [aSwap 1 false] });
      (s.part 0).swapOf ⟨0, 0⟩ = some (aSwap 1 false) ∧ ((s.part 0).warp ⟨0, 0⟩).any (fun x => decide (x.stopped = none ∧ x.run = none ∧ x.wait = .none)) = true ∧ 0 + 131072 ≤ s.now) ∧
    (let p := (quietWith 0 (fun x => { x with stopped := some 0x3FFFF }) (fun p => { p with swaps := [aSwap 0 false] })).part 0;
      p.swaps.find? (fun y => y.gang == 0 && !y.kill) = some (aSwap 0 false) ∧ p.imageReady (aSwap 0 false) = true ∧ (aSwap 0 false).record = none ∧ p.posts.length < 4096 ∧ (p.warps.all (fun y => !y.2.wait.regroups)) = true ∧ onceEach p.warps) ∧
    (let s := quietWith 0 id (fun p => { p with restores := [aRestore] });
      (s.part 0).restores = [aRestore] ∧ s.restoreDue 0 = true ∧ aRestore.record = none ∧ (s.part 0).posts.length < 4096 ∧ (s.part 0).noRegroup ∧ (s.part 0).away = []) ∧
    (let p := (quietWith 0 id (fun p => { p with swaps := [aSwap 0 true] })).part 0;
      p.swaps.find? (fun y => y.gang == 0 && y.kill) = some (aSwap 0 true) ∧ (aSwap 0 true).record = none ∧ p.posts.length < 4096 ∧ (∀ y ∈ p.warpsOfGang 0, y.2.ifc = 0 ∧ (p.ctx y.1).isSome = true) ∧ onceEach p.warps) ∧
    (let p := (quietWith 0 id (fun p => { p with shoot := [⟨0, [(9, 0)]⟩] })).part 0;
      p.shoot = [⟨0, [(9, 0)]⟩] ∧ p.runAlive (9, 0) = false) ∧
    (let s := quietWith 280000 (fun x => { x with wait := .fault 0x10000 0 false fallen }) id;
      ((s.part 0).ctx ⟨0, 0⟩).any (fun c => decide (c.x.wait = .fault 0x10000 0 false fallen)) = true ∧ (s.part 0).posts.length < 4096 ∧ (s.part 0).faultPosted ⟨0, 0⟩ = true ∧
        0 + 2 * (s.part 0).csr.fltto.toNat ≤ s.now) := by
  refine ⟨by decide +kernel, by decide +kernel, by decide +kernel, by decide +kernel, by decide +kernel, ?_, ⟨by decide +kernel, by unfold onceEach; decide +kernel⟩, by decide +kernel,
    ⟨by decide +kernel, by decide +kernel, rfl, by decide +kernel, by decide +kernel, by unfold onceEach; decide +kernel⟩, ⟨by decide +kernel, by decide +kernel, rfl, by decide +kernel, noRegroup_of (by decide +kernel) (by decide +kernel), by decide +kernel⟩,
    ⟨by decide +kernel, rfl, by decide +kernel, by decide +kernel, by unfold onceEach; decide +kernel⟩, by decide +kernel, by decide +kernel⟩
  obtain ⟨c, hp, ho⟩ := parks_of (s := quietWith 131072 (fun x => { withRun (closedRun [.racq 100 1 false] []) x with fileBase := 384 })
      (fun p => { p with grids := p.grids.map (fun g => { g with k := { g.k with xregs := 16 } }) }))
    (r := closedRun [.racq 100 1 false] []) (ok := fun c => decide (c.x.n + 16 * 1 ≤ min (16 * c.grid.k.xregs) 256 ∧
      ((quietWith 131072 (fun x => { withRun (closedRun [.racq 100 1 false] []) x with fileBase := 384 })
        (fun p => { p with grids := p.grids.map (fun g => { g with k := { g.k with xregs := 16 } }) })).part 0).racqFree ⟨0, 0⟩ c.x c.x.n 1 = false)) (by decide +kernel)
  exact ⟨_, c, hp, by decide +kernel, of_decide_eq_true ho⟩

def anInst (status : Nat) : Inst := ⟨0, 0, ⟨0, 0⟩, 0, ⟨0, 64, 4, 128⟩, 0, status, false, 0, false⟩
def aHandle (status : Nat) : Handle := { Handle.reset with conf := true, ranks := [.loc 0 0], flight := [anInst status], sources := [⟨0, 0, [0, 0, 0, 0], [], false, []⟩] }
def twoRanks : Handle := { Handle.reset with conf := true, ranks := [.loc 0 0, .remote 0] }
def aPeer (retry : Nat) (unacked : List Machine.Sent) : Peer := { Peer.reset with w0 := 0x10, w4 := BitVec.ofNat 64 (1 + retry * 2 ^ 16), unacked := unacked }
def aFrame (seq : Nat) : Frame := ⟨0, 0, 1, 0, 0, 1, 0, 0, seq, 0, 0, 0, []⟩
def withPeer (x : Peer) : State := quietWith 0 id (fun p => { p with handles := [(1, twoRanks)], peers := [(0, x)] })
def dueFrame : Machine.Sent := ⟨aFrame 0, 0, 0, false, true⟩

theorem witness_CollectivesAndFrames :
    (let p := (quietWith 0 id (fun p => { p with handles := [(0, aHandle 0)] })).part 0;
      (p.handle 0).flight.find? (fun x => x.gcore == 0) = some (anInst 0) ∧ (p.handle 0).rankAt 0 = some 0 ∧ (p.block? 0).isSome = true ∧ p.noRegroup ∧
        ((p.handle 0).result 0 0 4).any (fun x => x.1.length == 1) = true) ∧
    (let p := (quietWith 0 id (fun p => { p with handles := [(0, aHandle 3)] })).part 0;
      (p.handle 0).flight.find? (fun x => x.gcore == 0) = some (anInst 3) ∧ (p.handle 0).rankAt 0 = some 0 ∧ (anInst 3).status ≠ 0 ∧ ¬ ((anInst 3).own = true ∧ (anInst 3).status = 2) ∧ p.noRegroup) ∧
    (twoRanks.ranks[1]? = some (.remote 0) ∧ (((withPeer (aPeer 1 [])).part 0).peer 0).down = false) ∧
    (let x := aPeer 1 [];
      (((withPeer x).part 0).peer 0).en = true ∧ x.rcvSeen = [] ∧ x.unacked = [] ∧ x.pendingTx = [] ∧ (aFrame 0).seq = x.rcvNext ∧ ((withPeer x).part 0).frameFits (aFrame 0) = true) ∧
    (((withPeer { aPeer 1 [] with rcvNext := 1 }).part 0).peer 0).isNew (aFrame 0).seq = false ∧
    ((((withPeer (aPeer 1 [dueFrame])).part 0).peer 0).pendingTx = [] ∧ (aFrame 0).sack = 0) ∧
    ((((withPeer (aPeer 1 [dueFrame])).part 0).peer 0).down = false ∧ dueFrame.gap = true ∧ dueFrame.tries < (aPeer 1 [dueFrame]).retry ∧ (aPeer 0 [dueFrame]).retry ≤ dueFrame.tries) ∧
    (0 < 8 ∧ (quiet.rdyPort.getLsbD 0 = false)) := by
  refine ⟨⟨by decide +kernel, by decide +kernel, by decide +kernel, noRegroup_of (by decide +kernel) (by decide +kernel), by decide +kernel⟩,
    ⟨by decide +kernel, by decide +kernel, by decide, by decide, noRegroup_of (by decide +kernel) (by decide +kernel)⟩, by decide +kernel, by decide +kernel, by decide +kernel, by decide +kernel,
    by decide +kernel, by decide +kernel⟩

def ready2 (k : Nat) : QRegs := { QRegs.reset k with state := 2, pmerge := 1 }
def merging (p : Part) : State := { quiet with regs := ⟨ready2 0, ready2 1, ready2 2, ready2 3⟩, parts := ⟨p, Part.reset, Part.reset, Part.reset⟩ }
def half : State := { quiet with regs := ⟨{ QRegs.reset 0 with state := 2, quarters := 3 }, QRegs.reset 1, QRegs.reset 2, QRegs.reset 3⟩, parts := ⟨Part.reset, Part.reset, Part.reset, Part.reset⟩ }
def aSite : Site := ⟨.hbmRow, 7, .stack 0⟩
def aLane : Site := ⟨.linkLane, 3, .port 0⟩

theorem witness_PartitionsAndHealth :
    ((quiet.reg 0).quarters.toNat = 2 ^ 0 ∧ (quiet.reg 1).quarters.toNat = 2 ^ 1 ∧ (quiet.reg 1).pmerge ≠ 1) ∧
    (((merging (probePart 0)).reg 2).quarters.toNat = 2 ^ 2 ∧ ((merging (probePart 0)).reg 3).quarters.toNat = 2 ^ 3) ∧
    (((merging (probePart 0)).reg 0).pmerge = 1 ∧ ((merging (probePart 0)).reg 0).state = 2 ∧ ((merging (probePart 0)).reg 1).state = 2 ∧
      (((merging (probePart 0)).part 0).anyBusy || ((merging (probePart 0)).part 1).anyBusy) = true) ∧
    ((((merging Part.reset).part 0).anyBusy || ((merging Part.reset).part 1).anyBusy) = false ∧ (((merging Part.reset).part 0).occupied || ((merging Part.reset).part 1).occupied) = false) ∧
    ((half.reg 0).quarters.toNat = 3 * 2 ^ 0 ∧ (half.reg 0).state = 2 ∧ (half.part 0).anyBusy = false ∧ (half.part 0).occupied = false) ∧
    (let es : List (Site × Nat) := ([(aSite, 0), (aSite, 0), (aSite, 0)].filter (fun e => decide (quiet.now < e.2 + 600 * 14000000 * quiet.clkPct))) ++ [(aSite, quiet.now)];
      4 ≤ (es.filter (fun e => e.1 == aSite)).length ∧ aSite ∉ (quiet.dies.rd 0).lasting ∧ aSite ∉ (quiet.dies.rd 0).narrow ∧ (aSite.kind = .hbmRow ∨ aSite.kind = .sramRow)) ∧
    (aLane.kind = .linkLane ∧ aLane ∈ { quiet.dies.rd 0 with narrow := [aLane] }.narrow ∧ (List.replicate 32 (0 : Byte)).length = 32 ∧ (quiet.dies.rd 0).recovery = false) := by decide +kernel

/-- The fetch state's word is translated and fetched, and the step picks it. -/
def fetching : State := State.reset.withFetchWord 32 0x86807D02
/-- The fetch state with its page in host memory; and with a prefix word that carries the bung. -/
def hostCode : State := fetching.wrDramL 0 0x3000 (leBytes 8 0x3F)
def bungPrefix : State := State.reset.withFetchWord 32 0xFE000000
/-- The fetch state with memory on a die behind a boundary that is not open. -/
def shut : State := { fetching with regs := fetching.regs.wr 0 { fetching.reg 0 with pmemil := 0x0C } }
theorem witness_StepRunsDecodedWord_lost : ∃ c pa, (shut.part 0).ctx ⟨0, 0⟩ = some c ∧ shut.fetchBarred 0 c c.x.nextPc = some pa := by
  have key : ((shut.part 0).ctx ⟨0, 0⟩).any (fun c => (shut.fetchBarred 0 c c.x.nextPc).isSome) = true := by decide +kernel
  obtain ⟨c, hc, h⟩ := any_some key
  obtain ⟨pa, h⟩ := Option.isSome_iff_exists.mp h
  exact ⟨c, pa, hc, h⟩
def picksWord (s : State) : Bool := match s.pick s.agents with | some (.word 0 _ (.run _ _)) => true | _ => false

theorem witness_StepRunsDecodedWord :
    (∃ c l, (fetching.part 0).ctx ⟨0, 0⟩ = some c ∧ c.grid.k.target c.x.nextPc = true ∧ regionOf c.x.nextPc = .global ∧ fetching.translate 0 c.w.core c.x.nextPc.toNat = .ok l ∧ l.x = true ∧
      l.place c.x.nextPc.toNat = .dev 0x10000 ∧ fetching.ueBelow 0 (some (cluOf c.w.core)) (.dev 0x10000) = false ∧ fetching.fetchBarred 0 c c.x.nextPc = none ∧ fetching.fetchWord 0 c c.x.nextPc = .ok 0x86807D02) ∧
    decodeBytes (bytesOfWord 0x86807D02) = .ok ⟨.shli 1 122 2, true, .none⟩ 0x86807D02 0 4 ∧
    (isPfx 0x7E000000 = true ∧ decodeBytes (bytesOfWord 0x7E000000 ++ bytesOfWord 0xD8000000) = .ok ⟨.exit, true, .g ⟨0, false⟩⟩ 0xD8000000 0x7E000000 8) ∧
    (fetching.inbox = [] ∧ picksWord fetching = true) ∧
    (((hostCode.part 0).ctx ⟨0, 0⟩).any (fun c => match hostCode.translate 0 c.w.core c.x.nextPc.toNat with
      | .error _ => false
      | .ok l => decide (c.grid.k.target c.x.nextPc = true ∧ regionOf c.x.nextPc = .global ∧ l.x = true ∧ l.place c.x.nextPc.toNat = .host 0x10000 ∧ hostCode.ueBelow 0 (some (cluOf c.w.core)) (.host 0x10000) = false))) = true ∧
    ((bungPrefix.part 0).ctx ⟨0, 0⟩).any (fun c => match bungPrefix.fetchWord 0 c c.x.nextPc with | .ok v => decide (v.toNat / 2 ^ 25 = 127 ∧ bungPrefix.fetchBarred 0 c c.x.nextPc = none) | .error _ => false) = true := by
  have key : (match (fetching.part 0).ctx ⟨0, 0⟩ with
      | none => false
      | some c => match fetching.translate 0 c.w.core c.x.nextPc.toNat with
        | .error _ => false
        | .ok l => decide (c.grid.k.target c.x.nextPc = true ∧ regionOf c.x.nextPc = .global ∧ l.x = true ∧ l.place c.x.nextPc.toNat = .dev 0x10000 ∧ fetching.ueBelow 0 (some (cluOf c.w.core)) (.dev 0x10000) = false ∧ fetching.fetchBarred 0 c c.x.nextPc = none ∧
            fetching.fetchWord 0 c c.x.nextPc = .ok 0x86807D02)) = true := by decide +kernel
  refine ⟨?_, by decide +kernel, by decide +kernel, by decide +kernel, by decide +kernel, by decide +kernel⟩
  split at key
  · cases key
  · rename_i c hc
    split at key
    · cases key
    · rename_i l hl
      obtain ⟨h1, h2, h3, h4, h5, h6, h7⟩ := of_decide_eq_true key
      exact ⟨c, l, hc, h1, h2, hl, h3, h4, h5, h6, h7⟩

theorem witness_DecodeOfEncode : Decoded.wf ⟨.fadd 5 6 7, true, .c ⟨2, false, 1, 1, 0, 0, 0, 0, 1⟩⟩ = true ∧ ∀ e : Event, Instr.fadd 5 6 7 ≠ e.instr :=
  ⟨by decide +kernel, fun e h => by cases e <;> cases h⟩

theorem witness_MemoryFormKept : fetching.memWf = true ∧ ∃ t, step fetching = .next t := by
  refine ⟨by decide +kernel, ?_⟩
  have h : (next (step fetching)).isSome = true := by decide +kernel
  obtain ⟨t, ht⟩ := Option.isSome_iff_exists.mp h
  refine ⟨t, ?_⟩
  unfold next at ht
  split at ht
  · rw [‹step fetching = _›, Option.some.inj ht]
  · cases ht

end Sys2Proof.Tests
end

section
/-! SUPPORT. A run of one word in a quiet partition that aborts on a supervisor's condition, once for all meanings. -/

namespace Sys2Proof.Machine

/-! ### A run of one word that aborts -/

/-- After a partition is set, a partition reads as what was set, if it is that one, or as before. -/
theorem State.setPart_part_cases (s : State) (q : Nat) (p : Part) (r : Nat) :
    ((s.setPart q p).part r = p ∧ s.part r = s.part q) ∨ (s.setPart q p).part r = s.part r := by
  by_cases h : min q 3 = min r 3
  · have same : ∀ t : State, t.part r = t.part q := fun t => by
      unfold State.part Quad.rd
      rcases q with _ | _ | _ | q <;> rcases r with _ | _ | _ | r <;> simp_all
    exact .inl ⟨by rw [same, State.setPart_part], same s⟩
  · exact .inr (State.setPart_part_other s p h)

/-- A partition whose directory and cores stay gives the same bytes. -/
theorem State.rdLoc_setPart {s : State} {q : Nat} {p : Part} (hd : p.dir = (s.part q).dir) (hc : p.cores = (s.part q).cores) (v g : Nat) (b : Bool) (l : Loc) :
    (s.setPart q p).rdLoc v g b l = s.rdLoc v g b l := by
  have hv : ((s.setPart q p).part v).dir = (s.part v).dir ∧ ((s.setPart q p).part v).cores = (s.part v).cores := by
    rcases s.setPart_part_cases q p v with ⟨e, f⟩ | e
    · rw [e, f]; exact ⟨hd, hc⟩
    · rw [e]; exact ⟨rfl, rfl⟩
  have hpk : ∀ pa, ((s.setPart q p).part v).parked pa = (s.part v).parked pa := fun pa => by unfold Part.parked; rw [hv.1]
  have hcore : ∀ k, ((s.setPart q p).part v).core k = (s.part v).core k := fun k => by unfold Part.core; rw [hv.2]
  have hhome : ∀ pa, (s.setPart q p).rdHome v pa = s.rdHome v pa := fun pa => by unfold State.rdHome; rw [hpk]; rfl
  cases l with
  | scratch c o => simp only [State.rdLoc, hcore]
  | dev pa => simp only [State.rdLoc, hpk, hcore, hhome]
  | host pa => simp only [State.rdLoc, hcore]; rfl

/-- What is being issued has no part in a byte. -/
theorem State.rdLoc_cur (s : State) (x : Option Issue) (v g : Nat) (b : Bool) (l : Loc) : ({ s with cur := x } : State).rdLoc v g b l = s.rdLoc v g b l := by
  cases l <;> rfl

/-- A run with a condition and without accesses, outside loop bodies, closes into its abort. -/
theorem State.held_aborts {s : State} {q : Nat} {w : WRef} {c : Ctx} {x : Warp} {cs : AMap Core} {r : Run} {k : Cond} (h : (s.part q).ctx w = some c)
    (hb : x.block = c.x.block) (hr : x.run = some r) (hk : r.cond = some k) (hl : x.levels = []) (hacc : r.accesses = []) (pos : Nat) (d : W64) :
    (s.held q w x cs).closeRun q w pos d = (s.held q w x cs).abort q { c with x := x } r k := by
  have hloop : r.loopCond x c.grid.prio pos d = none := by
    have : ∀ y, loopBad y r.last (r.rdAfter x) x.levels = false := by simp [hl, loopBad]
    simp [Run.loopCond, this]
  have hlock : (s.held q w x cs).lockCond q { c with x := x } r = none := by simp [State.lockCond, hacc]
  have hrace : (s.held q w x cs).raceCond q { c with x := x } r = none := by simp [State.raceCond, hacc]
  unfold State.closeRun
  simp only [State.held_part, State.held_ctx h hb cs, hr, hk, hloop, hlock, hrace, Cond.first]

/-- A change of the partition that holds the warp. -/
theorem State.held_modPart_eq (s : State) (q : Nat) (w : WRef) (x : Warp) (cs : AMap Core) (f : Part → Part) :
    (s.held q w x cs).modPart q f = ({ s with cur := none } : State).setPart q (f ((s.part q).holding w x cs)) := by
  unfold State.modPart
  rw [State.held_part]
  exact State.setPart_setPart _ _ _ _

/-- A warp as a run's abort on a supervisor's condition leaves it. -/
def Warp.faulted (x : Warp) (k : Cond) (pc : W64) (now : Nat) : Warp :=
  { x with run := none, pc := pc, wait := .fault x.trap.epc now false k, trap := { x.trap with epc := pc } }

/-- An abort on a supervisor's condition other than MEMUE, with no swap under way, parks the warp and posts the record. -/
theorem State.held_abort {s : State} {q : Nat} {c : Ctx} {x : Warp} {cs : AMap Core} {r : Run} {k : Cond} (hu : k.cause.isUser = false) (hm : k.cause ≠ .memue)
    (hs : (s.part q).swaps = []) :
    (s.held q c.w x cs).abort q { c with x := x } r k =
      (s.held q c.w (x.faulted k r.start s.now) cs).modPart q (fun p => p.post (faultRec { c with x := x } k r.start)) := by
  have hfault : (((s.part q).holding c.w x cs).takeCond { c with x := x } k r.start s.now).swapStops s.now =
      ((s.part q).holding c.w (x.faulted k r.start s.now) cs).post (faultRec { c with x := x } k r.start) := by
    unfold Part.takeCond
    rw [hu, if_neg Bool.false_ne_true]
    unfold Part.supFault
    dsimp only
    rw [Part.swapStops_nil (by simpa using hs), Part.holding_setWarp]
    rfl
  unfold State.abort
  rw [if_neg hm]
  dsimp only
  rw [State.held_modPart_eq, State.held_modPart_eq, State.held_now, hfault]

/-- A lone word with a supervisor's condition aborts its run. -/
theorem Lone.faults {s : State} {i : Instr} {iss : Issue} {c : Ctx} (h : Lone s i iss c) {w : Word} {k : Cond} (hk : w.cond = some k) (hu : k.cause.isUser = false)
    (hm : k.cause ≠ .memue) (hreg : ∀ a ∈ w.acts, a.isReg = true) (hat : ∀ op d ps x y m, w.term ≠ .atom op d ps x y m) :
    FaultStep s (s.issued iss c w) iss c k := by
  have hctx := h.ctx
  rw [← (Part.ctx_some hctx).1] at hctx
  have hc : (s.runWith iss c w).cond = some k := by simp [State.runWith, h.runAt, Run.add, openRun, hk, Cond.first]
  have ha : (s.runWith iss c w).acts = w.acts := by simp [State.runWith, h.runAt, Run.add, openRun]
  have hstart : (s.runWith iss c w).start = iss.addr := by simp [State.runWith, h.runAt, Run.add, openRun]
  have hacc : (s.runWith iss c w).accesses = [] := Run.quiet (by rw [ha]; exact hreg) (by rw [h.runWith_term]; exact hat)
  have e : s.issued iss c w = (s.held iss.q c.w ((c.x.queued s.now (s.runWith iss c w)).faulted k iss.addr s.now) (s.part iss.q).cores).modPart iss.q
      (fun p => p.post (faultRec c k iss.addr)) := by
    unfold State.issued
    have hq : s.queued iss c w = s.held iss.q c.w (c.x.queued s.now (s.runWith iss c w)) (s.part iss.q).cores := h.queued w
    rw [if_pos (by simp [h.bung]), hq, State.held_aborts (x := c.x.queued s.now (s.runWith iss c w)) hctx rfl rfl hc h.noLoop hacc,
      State.held_abort hu hm h.unswapped, hstart]
    rfl
  rw [e]
  exact
    { device := by
        rw [State.modPart_setPart]
        unfold State.held
        rw [State.setPart_setPart]
        exact State.setPart_self { s with cur := none } iss.q
      part := by rw [State.modPart_part, State.held_part]; rfl
      warp := by rw [State.modPart_part, State.held_part, Part.post_warp, Part.holding_warp]; rfl
      others := fun j hj => by rw [State.modPart_part, State.held_part]; exact AMap.find_wr_other _ _ (Ne.symm hj)
      posted := by rw [State.modPart_part, State.held_part]; rfl
      counted := by rw [State.modPart_part, State.held_part]; rfl
      csr := by rw [State.modPart_part, State.held_part]; rfl
      bytes := fun v g b l => by
        rw [State.held_modPart_eq, State.rdLoc_setPart (by rfl) (by rfl), State.rdLoc_cur] }

/-- A meaning that is the frame around `f` faults where `f` gives a supervisor's condition and no effect. -/
theorem Faults.of {i : Instr} {ok : State → Env → Prop} {f : State → Env → Word} {k : State → Env → Cond} (hx : ∀ s, exec i s = withWord s i f)
    (hf : ∀ s e, ok s e → (f s e).cond = some (k s e) ∧ (f s e).acts = [] ∧ (f s e).term = .none)
    (hk : ∀ s e, (k s e).cause.isUser = false ∧ (k s e).cause ≠ .memue) : Faults i ok k := by
  intro s iss c h hok
  obtain ⟨hcond, hacts, hterm⟩ := hf _ _ hok
  obtain ⟨hu, hm⟩ := hk (s.begun iss c) (s.env iss c)
  exact ⟨_, by rw [hx, withWord_issues h.toIssues], h.faults hcond hu hm (by simp [hacts]) (by simp [hterm])⟩

end Sys2Proof.Machine
end

section
/-! SUPPORT. The words that write control registers: how they are judged, and what a write leaves. -/

namespace Sys2Proof.Machine

/-! ### Writes of the warp's own control registers (R4, R328) -/

/-- The partition's registers that a write of number `n` leaves as they are. -/
def PCsr.untouched (c : PCsr) (n : Nat) (v : W64) : Prop := c.set n v = c ∧ n ≠ 0x100 ∧ n ≠ 0x101 ∧ ¬ (0x140 ≤ n ∧ n < 0x150)

/-- A write that leaves the partition's registers as they are does nothing to the partition. -/
theorem State.setPCsr_of_untouched {s : State} {q n : Nat} {v : W64} (h : (s.part q).csr.untouched n v) : s.setPCsr q n v = s := by
  obtain ⟨hset, h0, h1, hr⟩ := h
  have e : s.modPart q (fun p => { p with csr := p.csr.set n v }) = s := by
    unfold State.modPart
    dsimp only
    rw [hset]
    exact State.setPart_self s q
  unfold State.setPCsr
  simp only [if_neg hr, e, if_neg (not_or.2 ⟨h0, h1⟩)]
  exact if_neg (by simp)

/-- A number below 0x021 names no register of the partition. -/
theorem PCsr.untouched_of_lt {n : Nat} (h : n < 0x021) (c : PCsr) (v : W64) : c.untouched n v := by
  refine ⟨?_, by omega, by omega, by omega⟩
  unfold PCsr.set
  split
  case h_12 => exact if_neg (by omega)
  all_goals omega

/-- A partition's counter keeps its value under a write of that value. -/
theorem PCsr.untouched_counter {n : Nat} (h : n ∈ [0x040, 0x041, 0x042]) (c : PCsr) : c.untouched n (c.get n) := by
  simp only [List.mem_cons, List.not_mem_nil, or_false] at h
  rcases h with rfl | rfl | rfl <;> exact ⟨rfl, by decide, by decide, by decide⟩

/-- A user may change no bit of a partition's counter. -/
theorem rwBits_counter {n : Nat} (h : n ∈ [0x040, 0x041, 0x042]) : rwBits n false = 0 := by
  simp only [List.mem_cons, List.not_mem_nil, or_false] at h
  rcases h with rfl | rfl | rfl <;> rfl

/-- A write that may change no bit gives the value as it was. -/
theorem and_all_or_and_none (old new : W64) : (old &&& ~~~(0 : W64)) ||| (new &&& 0) = old := by
  change (old &&& ~~~(0#64)) ||| (new &&& 0#64) = old
  rw [BitVec.not_zero, BitVec.and_allOnes, BitVec.and_zero, BitVec.or_zero]

/-- The partition's counters are not registers of a warp. -/
theorem Warp.csrSet_counter {n : Nat} (h : n ∈ [0x040, 0x041, 0x042]) {x : Warp} {g : Nat} {op : CsrOp} {v : W64} : x.csrSet g n op v = x := by
  simp only [List.mem_cons, List.not_mem_nil, or_false] at h
  rcases h with rfl | rfl | rfl <;> rfl

/-- What a write of a control register leaves of its warp, apart from the register. -/
theorem Warp.csrSet_keeps (x : Warp) (g n : Nat) (op : CsrOp) (v : W64) :
    (x.csrSet g n op v).block = x.block ∧ (x.csrSet g n op v).path = x.path ∧ (x.csrSet g n op v).levels = x.levels ∧ (x.csrSet g n op v).wait = x.wait := by
  unfold Warp.csrSet
  dsimp only
  split <;> exact ⟨rfl, rfl, rfl, rfl⟩

/-- A write of a control register, where the partition's own stay as they are, changes the warp alone. -/
theorem State.held_csrWrite {s : State} {q : Nat} {w : WRef} {c : Ctx} {x : Warp} {cs : AMap Core} {op : CsrOp} {n : Nat} {v : W64} (h : (s.part q).ctx w = some c)
    (hb : x.block = c.x.block)
    (hn : (s.part q).csr.untouched n (((s.part q).csr.get n &&& ~~~(rwBits n ((s.part q).isSup c.grid))) |||
      (op.apply ((s.part q).csr.get n) v &&& rwBits n ((s.part q).isSup c.grid)))) :
    (s.held q w x cs).csrWrite q w op n v = s.held q w (x.csrSet c.grid.prio n op v) cs := by
  unfold State.csrWrite
  simp only [State.held_part, State.held_ctx h hb cs, State.held_setWarp]
  refine State.setPCsr_of_untouched ?_
  rw [State.held_part]
  exact hn

/-- The meaning of the three words. -/
theorem exec_csrInstr (op : CsrOp) (d : Reg) (n : BitVec 14) (s : State) :
    exec (csrInstr op d n) s = withWord s (csrInstr op d n) (fun s e => s.csrWord e op d n.toNat) := by
  cases op <;> rfl

theorem csrInstr_ne_refill (op : CsrOp) (d : Reg) (n : BitVec 14) : csrInstr op d n ≠ .refill := by cases op <;> simp [csrInstr]

/-- A number that the level may reach (R4). -/
theorem Env.mayCsr_iff (e : Env) (n : Nat) : e.mayCsr n = true ↔ n < 0x100 ∨ (e.sup = true ∧ n < 0x200) := by simp [Env.mayCsr]

/-- A level that may not reach the register is PRIV (R4). -/
theorem State.csrWord_priv {s : State} {e : Env} {n : Nat} (h : e.mayCsr n = false) (op : CsrOp) (d : Reg) : s.csrWord e op d n = e.priv n := by
  unfold State.csrWord
  rw [h]
  rfl

/-- A value that the register takes is written (R328). -/
theorem State.csrWord_ok {s : State} {e : Env} {op : CsrOp} {d : Reg} {n : Nat} (h : e.mayCsr n = true)
    (hok : s.csrOk e.q n e.sup op (s.csrRead e n) (e.srcS d) = true) : s.csrWord e op d n = .ofTerm (.csr op n (e.srcS d)) := by
  unfold State.csrWord
  rw [h, hok]
  rfl

/-- A value that the register does not take is OPERAND (R328). -/
theorem State.csrWord_operand {s : State} {e : Env} {op : CsrOp} {d : Reg} {n : Nat} (h : e.mayCsr n = true)
    (hok : s.csrOk e.q n e.sup op (s.csrRead e n) (e.srcS d) = false) : s.csrWord e op d n = e.operand := by
  unfold State.csrWord
  rw [h, hok]
  rfl

/-- A lone word that writes a control register, where the partition's own stay as they are, leaves its warp with the register written. -/
theorem Lone.csrs {s : State} {i : Instr} {iss : Issue} {c : Ctx} (h : Lone s i iss c) (hp : c.x.path ≠ 0) {op : CsrOp} {n : Nat} {v : W64}
    (hn : (s.part iss.q).csr.untouched n (((s.part iss.q).csr.get n &&& ~~~(rwBits n ((s.part iss.q).isSup c.grid))) |||
      (op.apply ((s.part iss.q).csr.get n) v &&& rwBits n ((s.part iss.q).isSup c.grid)))) :
    OnlyWarp s (s.issued iss c (.ofTerm (.csr op n v))) iss.q c.w ((c.x.passed iss s.now).csrSet c.grid.prio n op v) (Sparse.rd ((s.part iss.q).core c.w.core).rf) := by
  have hctx := h.ctx
  rw [← (Part.ctx_some hctx).1] at hctx
  obtain ⟨hb, hpath, hl, hw⟩ := (c.x.passed iss s.now).csrSet_keeps c.grid.prio n op v
  refine h.turns (w := .ofTerm (.csr op n v)) (by simp [Word.ofTerm, Word.nil]) rfl rfl (by simp [Word.ofTerm, Word.nil]) (by simp [Word.ofTerm, Word.nil])
    (by simp [Word.ofTerm, Word.nil, Part.termReady]) rfl (fun _ => State.commitFail_none (by rw [h.runWith_term]; rfl) _ _ _) (fun cs => ?_) hb
    (by rw [hpath]; exact hp) (hl.trans h.noLoop) (by rw [hw]; exact h.noAbwait)
  unfold State.doTerm
  rw [h.runWith_term]
  exact State.held_csrWrite hctx rfl hn

/-- A value with no bit above `hi` has none outside bits [hi:0]. -/
theorem and_not_span_of_lt {x : W64} {hi : Nat} (h : x.toNat < 2 ^ (hi + 1)) : x &&& ~~~(span hi 0) = 0 := by
  refine BitVec.eq_of_getLsbD_eq fun i h64 => ?_
  have hspan : (span hi 0).getLsbD i = decide (i < hi + 1) := by
    rw [span, BitVec.getLsbD_ofNat, pow_zero, Nat.testBit_two_pow_sub_one]
    simp [h64]
  rw [BitVec.getLsbD_and, BitVec.getLsbD_not, hspan]
  by_cases hle : i < hi + 1
  · simp [hle]
  · have hx : x.getLsbD i = false := Nat.testBit_lt_two_pow (Nat.lt_of_lt_of_le h (Nat.pow_le_pow_right (by omega) (by omega)))
    simp [hx]

/-- A register whose bits [hi:0] alone are RW, and which has no limit of its own, takes every value of them (R328). -/
theorem State.csrOk_of_field {s : State} {q n hi : Nat} {sup : Bool} {op : CsrOp} {old v : W64} (hw : isW1c n = false) (hn : n < 0x020) (hrw : rwBits n sup = span hi 0)
    (hold : old.toNat < 2 ^ (hi + 1)) (hnew : (op.apply old v).toNat < 2 ^ (hi + 1)) : s.csrOk q n sup op old v = true := by
  have hlim : s.csrLimit q n (op.apply old v) = true := by
    unfold State.csrLimit
    dsimp only
    split
    case h_4 => exact if_neg (by omega)
    all_goals omega
  have hbits : (op.apply old v ^^^ old) &&& ~~~(span hi 0) = 0 := and_not_span_of_lt (by rw [BitVec.toNat_xor]; exact Nat.xor_lt_two_pow hnew hold)
  unfold State.csrOk
  rw [hw, if_neg Bool.false_ne_true, if_neg (by omega)]
  simp [hrw, hbits, hlim]

/-- PRIO takes every value without a set bit in [3] or [63:15] (R253). -/
theorem State.csrOk_prio {v : W64} (h : v &&& 0xFFFFFFFFFFFF8008 = 0) (s : State) (q : Nat) (sup : Bool) (op : CsrOp) (old : W64) :
    s.csrOk q 0x020 sup op old v = true := by
  have hs : span 3 3 ||| span 63 15 = 0xFFFFFFFFFFFF8008 := by decide
  unfold State.csrOk
  rw [hs, h]
  rfl

/-- A W1C register takes every value (R234). -/
theorem State.csrOk_w1c {n : Nat} (h : isW1c n = true) (s : State) (q : Nat) (sup : Bool) (op : CsrOp) (old v : W64) : s.csrOk q n sup op old v = true := by
  simp [State.csrOk, h]

/-- A word that writes a register of its warp's own, with a value that the register takes, writes it and changes nothing else. -/
theorem csrInstr_turns {op : CsrOp} {d : Reg} {n : BitVec 14} {ok : State → Env → Prop} {f : State → Env → Warp → Warp} (hlt : n.toNat < 0x021)
    (hok : ∀ s e, ok s e → s.csrOk e.q n.toNat e.sup op (s.csrRead e n.toNat) (e.srcS d) = true)
    (hf : ∀ (s t : State) (iss : Issue) (c : Ctx), f t (s.env iss c) (c.x.passed iss s.now) = (c.x.passed iss s.now).csrSet c.grid.prio n.toNat op ((s.env iss c).srcS d)) :
    Turns (csrInstr op d n) ok f := by
  refine Turns.of (w := fun _ e => .ofTerm (.csr op n.toNat (e.srcS d))) (csrInstr_ne_refill op d n) (exec_csrInstr op d n)
    (fun s e h => State.csrWord_ok ((e.mayCsr_iff _).2 (.inl (by omega))) (hok s e h)) fun s iss c h hp _ => ?_
  rw [hf]
  exact h.csrs hp (PCsr.untouched_of_lt hlt _ _)

/-- A user's write of a partition's counter, of a value that the register takes, changes nothing (R4). -/
theorem csrInstr_counter_turns {op : CsrOp} {d : Reg} {n : BitVec 14} :
    Turns (csrInstr op d n) (fun s e => n.toNat ∈ [0x040, 0x041, 0x042] ∧ e.sup = false ∧ s.csrOk e.q n.toNat e.sup op (s.csrRead e n.toNat) (e.srcS d) = true)
      (fun _ _ x => x) := by
  refine Turns.of (w := fun _ e => .ofTerm (.csr op n.toNat (e.srcS d))) (csrInstr_ne_refill op d n) (exec_csrInstr op d n)
    (fun s e ⟨hn, _, hok⟩ => State.csrWord_ok ((e.mayCsr_iff _).2 (.inl (by simp at hn; omega))) hok) fun s iss c h hp ⟨hn, hsup, _⟩ => ?_
  have hu : (s.part iss.q).isSup c.grid = false := by
    have e : (s.env iss c).sup = ((s.begun iss c).part iss.q).isSup c.grid := rfl
    rw [← hsup, e, h.begun]
    rfl
  have hkeep : (c.x.passed iss s.now).csrSet c.grid.prio n.toNat op ((s.env iss c).srcS d) = c.x.passed iss s.now := Warp.csrSet_counter hn
  have := h.csrs hp (op := op) (n := n.toNat) (v := (s.env iss c).srcS d) (by
    rw [hu, rwBits_counter hn, and_all_or_and_none]
    exact PCsr.untouched_counter hn _)
  rwa [hkeep] at this

/-- A register of `n` bits reads below 2^n. -/
theorem setWidth_lt {n : Nat} (x : BitVec n) : (x.setWidth 64 : W64).toNat < 2 ^ n := by
  rw [BitVec.toNat_setWidth]
  exact Nat.lt_of_le_of_lt (Nat.mod_le _ _) x.isLt

/-- Settles O44: the judgement of the word by level and value, and one lemma for all the registers of the warp's own, whose writes leave the partition's registers alone. -/
theorem controlRegisterWrites : Obligations.ControlRegisterWrites := by
  intro op d n may new drop
  have hnew : ∀ e old, new e old = op.apply old (e.srcS d) := fun e old => by cases op <;> rfl
  have hmay : ∀ e, may e ↔ e.mayCsr n.toNat = true := fun e => (e.mayCsr_iff _).symm
  refine ⟨?commits, ?priv, ?operand, ?fflags, ?lc0, ?lc1, ?lc2, ?trdy, ?terr, ?thnd, ?epc, ?prio, csrInstr_counter_turns⟩
  case commits => exact Commits.of (exec_csrInstr op d n) fun s e h => State.csrWord_ok ((hmay e).1 h.1) h.2
  case priv =>
    refine Faults.of (exec_csrInstr op d n) (fun s e h => ?_) fun s e => ⟨rfl, Cause.noConfusion⟩
    rw [State.csrWord_priv (by simpa [hmay] using h)]
    exact ⟨rfl, rfl, rfl⟩
  case operand =>
    refine Faults.of (exec_csrInstr op d n) (fun s e h => ?_) fun s e => ⟨rfl, Cause.noConfusion⟩
    rw [State.csrWord_operand ((hmay e).1 h.1) h.2]
    exact ⟨rfl, rfl, rfl⟩
  all_goals refine csrInstr_turns (by decide) (fun s e h => ?_) fun s t iss c => by cases op <;> rfl
  case fflags => exact State.csrOk_of_field (hi := 5) rfl (by decide) rfl (setWidth_lt e.c.x.fflags) (hnew e _ ▸ h)
  case lc0 => exact State.csrOk_of_field (hi := 31) rfl (by decide) rfl (setWidth_lt e.c.x.lc0) (hnew e _ ▸ h)
  case lc1 => exact State.csrOk_of_field (hi := 31) rfl (by decide) rfl (setWidth_lt e.c.x.lc1) (hnew e _ ▸ h)
  case lc2 => exact State.csrOk_of_field (hi := 31) rfl (by decide) rfl (setWidth_lt e.c.x.lc2) (hnew e _ ▸ h)
  case trdy => exact State.csrOk_w1c rfl _ _ _ _ _ _
  case terr => exact State.csrOk_w1c rfl _ _ _ _ _ _
  case thnd => exact State.csrOk_of_field (hi := 63) rfl (by decide) rfl (BitVec.isLt _) (BitVec.isLt _)
  case epc => exact State.csrOk_of_field (hi := 63) rfl (by decide) rfl (BitVec.isLt _) (BitVec.isLt _)
  case prio => exact State.csrOk_prio h _ _ _ _ _

end Sys2Proof.Machine
end

section
/-! SUPPORT. What time and fetching leave of a partition's work, from which contexts are read. -/

namespace Sys2Proof.Machine

/-! ### What time and fetching leave of the work -/

/-- The warps of a partition and the work that they belong to, from which contexts are read. -/
def Part.roster (p : Part) : AMap Warp × List Block × List Gang × List Grid := (p.warps, p.blocks, p.gangs, p.grids)

/-- Partitions with the same work have the same contexts. -/
theorem Part.ctx_of_roster {p r : Part} (h : r.roster = p.roster) (w : WRef) : r.ctx w = p.ctx w := by
  simp only [Part.roster, Prod.mk.injEq] at h
  obtain ⟨hw, hb, hg, hr⟩ := h
  simp only [Part.ctx, Part.warp, Part.block?, Part.gang?, Part.grid?, hw, hb, hg, hr]

/-- A fold of changes that each leave a partition's work leaves it. -/
theorem Part.roster_foldl {α : Type} {f : Part → α → Part} (hf : ∀ p a, (f p a).roster = p.roster) : ∀ (l : List α) (p : Part), (l.foldl f p).roster = p.roster
  | [], _ => rfl
  | a :: l, p => (Part.roster_foldl hf l (f p a)).trans (hf p a)

@[simp] theorem Part.setCore_roster (p : Part) (g : Nat) (k : Core) : (p.setCore g k).roster = p.roster := rfl
@[simp] theorem Part.setClu_roster (p : Part) (c : Nat) (k : Cluster) : (p.setClu c k).roster = p.roster := rfl

theorem Part.raceDrop_roster (p : Part) (rdr : Bool) : (p.raceDrop rdr).roster = p.roster := by
  unfold Part.raceDrop Part.roster
  dsimp only

theorem Part.raceRoom_roster (p : Part) (table sector : Nat) : (p.raceRoom table sector).roster = p.roster := by
  unfold Part.raceRoom
  dsimp only
  split
  · rfl
  · split
    · exact Part.raceDrop_roster _ _
    · rfl

theorem Part.retable_roster (p : Part) (line table : Nat) : (p.retable line table).roster = p.roster := by
  unfold Part.retable
  refine Part.roster_foldl (fun p r => ?_) _ p
  exact Part.raceRoom_roster p table r.sector

theorem Part.debt_roster (p : Part) (g cls now hbm fab : Nat) : (p.debt g cls now hbm fab).roster = p.roster := by
  unfold Part.debt
  split <;> rfl

theorem Part.cluTlbFill_roster (p : Part) (c : Nat) (l : Leaf) : (p.cluTlbFill c l).roster = p.roster := by
  unfold Part.cluTlbFill
  dsimp only
  split <;> rfl

theorem Part.tlbFill_roster (p : Part) (g : Nat) (l : Leaf) : (p.tlbFill g l).roster = p.roster := by
  unfold Part.tlbFill
  dsimp only
  rw [Part.cluTlbFill_roster]
  split <;> rfl

/-- Every partition has the same work in both states. -/
def State.SameWork (s t : State) : Prop := ∀ q, (t.part q).roster = (s.part q).roster

theorem State.SameWork.refl (s : State) : s.SameWork s := fun _ => rfl
theorem State.SameWork.trans {s t u : State} (h : s.SameWork t) (k : t.SameWork u) : s.SameWork u := fun q => (k q).trans (h q)

/-- A fold of steps that each leave the work leaves it. -/
theorem State.SameWork.foldl {α : Type} {f : State → α → State} (hf : ∀ (s : State) (a : α), s.SameWork (f s a)) : ∀ (l : List α) (s : State), s.SameWork (l.foldl f s)
  | [], s => .refl s
  | a :: l, s => (hf s a).trans (State.SameWork.foldl hf l (f s a))

/-- A change of a partition that leaves its work. -/
theorem State.SameWork.modPart (s : State) (q : Nat) {f : Part → Part} (hf : ∀ p, (f p).roster = p.roster) : s.SameWork (s.modPart q f) := fun r => by
  rcases s.setPart_part_cases q (f (s.part q)) r with ⟨e, h⟩ | e
  · rw [State.modPart, e, hf, h]
  · rw [State.modPart, e]

theorem State.SameWork.wrDramL : ∀ (s : State) (q pa : Nat) (bs : List Byte), s.SameWork (s.wrDramL q pa bs)
  | s, _, _, [] => .refl s
  | s, q, pa, b :: bs => State.SameWork.wrDramL (s.wrDram q pa b) q (pa + 1) bs

theorem State.SameWork.owe (s : State) (q : Nat) (pay : Payer) (hbm fab : Nat) : s.SameWork (s.owe q pay hbm fab) :=
  .modPart s q fun p => p.debt_roster ..

theorem State.SameWork.logUe (s : State) (q pa : Nat) : s.SameWork (s.logUe q pa) := .modPart s q fun _ => rfl

theorem State.SameWork.logBits (s : State) (q line : Nat) (mask : BitVec 4) : s.SameWork (s.logBits q line mask) :=
  .foldl (fun s i => by
    split
    · exact .logUe s q _
    · exact .refl s) _ s

theorem State.SameWork.logLine (s : State) (q line : Nat) : s.SameWork (s.logLine q line) := by
  unfold State.logLine
  split
  · exact .refl s
  · refine .foldl (fun s i => ?_) _ s
    dsimp only
    split
    · exact .logUe s q _
    · exact .refl s

theorem State.SameWork.markHome (s : State) (q line : Nat) (mask bad : BitVec 4) : s.SameWork (s.markHome q line mask bad) := by
  unfold State.markHome
  dsimp only
  split <;> exact .refl s

theorem State.SameWork.writeBack (s : State) (q : Nat) (pay : Payer) (x : CcLine) (mask : BitVec 4) : s.SameWork (s.writeBack q pay x mask) := by
  have logged (s : State) (d : BitVec 4) : s.SameWork (if x.bad = 0 then s else s.logBits q x.line (x.bad &&& d)) := by
    split
    · exact .refl s
    · exact .logBits s q _ _
  have marked (s : State) (d : BitVec 4) : s.SameWork (if x.host then s else s.markHome q x.line d x.bad) := by
    split
    · exact .refl s
    · exact .markHome s q _ _ _
  unfold State.writeBack
  dsimp only
  split
  · exact .refl s
  · exact ((logged s _).trans (marked _ _)).trans (.owe _ q pay _ _)

theorem State.SameWork.grainDrop (s : State) (q : Nat) (pay : Payer) (c : Option Nat) (host : Bool) (pa : Nat) : s.SameWork (s.grainDrop q pay c host pa) := by
  refine .foldl (fun s k => ?_) _ s
  have hwb := State.SameWork.foldl (fun s x => .writeBack s q pay x (x.touched host pa)) (k.2.cc.filter (fun x => x.touched host pa != 0)) s
  dsimp only
  split
  · exact .refl s
  · split
    · exact hwb
    · exact hwb.trans (.modPart _ q fun _ => rfl)

theorem State.SameWork.dropCopies (s : State) (q : Nat) (pay : Payer) (c : Option Nat) (l : Loc) (n : Nat) : s.SameWork (s.dropCopies q pay c l n) := by
  cases l with
  | scratch c o => exact .refl s
  | dev pa => exact .foldl (fun s i => .grainDrop s q pay c false _) _ s
  | host pa => exact .foldl (fun s i => .grainDrop s q pay c true _) _ s

theorem State.SameWork.unpark (s : State) (q : Nat) (pay : Payer) (line : Nat) : s.SameWork (s.unpark q pay line) := by
  unfold State.unpark
  split
  · exact .refl s
  · rename_i d _
    have freed := State.SameWork.modPart s q (f := fun p => { p with dir := p.dir.filter (fun x => x.line != line) }) fun _ => rfl
    have home := (freed.trans (.wrDramL _ q (line * 128) d.data)).trans (.logLine _ q line)
    exact (home.trans (.owe _ q pay 128 128)).trans (.modPart _ q fun p => p.retable_roster line _)

theorem State.SameWork.clearUe (s : State) (q : Nat) (g c : Option Nat) (ls : List Loc) : s.SameWork (s.clearUe q g c ls) := by
  have cleared (s : State) (keep : Bool) (f : Part → Part) (hf : ∀ p, (f p).roster = p.roster) : s.SameWork (if keep then s else s.modPart q f) := by
    split
    · exact .refl s
    · exact .modPart s q hf
  unfold State.clearUe
  split
  · exact .refl s
  · refine .foldl (fun s b => ?_) _ s
    exact State.SameWork.trans (t := { s with ue := s.ue.filter (fun u => s.ueKey q b != some u) }) (.refl s) (cleared _ _ _ fun p => by cases g <;> cases c <;> rfl)

theorem State.SameWork.engStore_dev (s : State) (q : Nat) (pay : Payer) (c : Option Nat) (pa : Nat) (bs : List Byte) : s.SameWork (s.engStore q pay c (.dev pa) bs) :=
  (((State.SameWork.foldl (fun s n => .unpark s q pay n) _ s).trans (.wrDramL _ q pa bs)).trans (.dropCopies _ q pay c _ _)).trans (.clearUe _ q none c _)

theorem State.SameWork.errPost (s : State) (q : Nat) : s.SameWork (s.errPost q) := by
  unfold State.errPost
  dsimp only
  split
  · exact .refl s
  · split
    · exact .refl s
    · split
      · exact (State.SameWork.engStore_dev s q noPayer none _ _).trans (.modPart _ q fun _ => rfl)
      · exact .modPart s q fun _ => rfl

/-- Time that passes leaves every partition's work. -/
theorem State.SameWork.elapsed (s : State) : s.SameWork s.elapsed :=
  State.SameWork.trans (t := s.ticked) (.refl s) (.foldl (fun s q => .foldl (fun s _ => .errPost s q) _ s) _ _)

/-- The translations of a fetch leave every partition's work. -/
theorem State.SameWork.fetchFill (s : State) (iss : Issue) : s.SameWork (s.fetchFill iss) := by
  refine .foldl (fun s i => ?_) _ s
  split
  · exact .modPart s iss.q fun p => p.tlbFill_roster _ _
  · exact .refl s

end Sys2Proof.Machine
end

section
/-! SUPPORT. Every step answers a state: device steps with their operands, words with a context, and what a fetch can bring. -/

namespace Sys2Proof.Machine

/-! ### Device steps -/

/-- Every device step with its operands answers a state. -/
theorem happens_total (s : State) (q : Nat) (e : Event) : ∃ t, Happens s q e t := by
  cases e <;> exact ⟨_, rfl⟩

/-- A word of a warp that has a context answers a state. -/
theorem withWord_total {s : State} {iss : Issue} {c : Ctx} (hcur : s.cur = some iss) (hctx : (s.part iss.q).ctx iss.w = some c) (i : Instr) (f : State → Env → Word) :
    ∃ t, withWord s i f = .next t := by
  unfold withWord
  simp only [hcur, hctx]
  exact ⟨_, rfl⟩

/-- Every instruction with a word answers a state, because its meaning is the frame around a word; the device's steps have none. -/
theorem exec_total {s : State} {iss : Issue} {c : Ctx} (hcur : s.cur = some iss) (hctx : (s.part iss.q).ctx iss.w = some c) {i : Instr} (hi : (encodeFields i).isSome = true) :
    ∃ t, exec i s = .next t := by
  cases i
  case commit | qtail | resume | skip | register_write | event_counter_write | record_accept | grid_start | placement_pass | head_gang_reserve | donation | reserved_inject
      | carveout_interval | warp_retire | block_retire | grid_complete | parked_placement | copy_unit | copy_completion | product_start | product_land | lock_release_arrive
      | lock_grant | lock_timeout | inherit_hop | racq_timeout | split_timeout | fuse_timeout | sleep_expiry | safepoint_force | swap_image_write | restore | unit_kill
      | tlbi_complete | record_post | aged | coll_instance_end | coll_timeout | data | counts | ack | abort_frame | retransmit | pause | host_write | host_read | merge_request
      | divide_request | device_reset | boot_stage | partition_reset | attestation_report | unit_ready | corrected_error | kiln_replan | thermal_stop | thermal_resume
      | power_throttle => cases hi
  all_goals exact withWord_total hcur hctx _ _

/-! ### What is decoded has a word -/

/-- Each arm of the opcode map lays out an instruction with a word, under its fixed bits or none (R52). -/
theorem decodeFields_hasWord {w : BitVec 32} : (decodeFields w).all (fun i => (encodeFields i).isSome) = true := by
  unfold decodeFields
  split
  case h_49 => rfl
  all_goals simp only [decodeOp01, decodeOp02, decodeOp03, decodeOp04, decodeOp05, decodeOp06, decodeOp07, decodeOp08, decodeOp09, decodeOp0A, decodeOp0B, decodeOp0C,
    decodeOp0D, decodeOp0E, decodeOp0F, decodeOp10, decodeOp11, decodeOp12, decodeOp13, decodeOp14, decodeOp15, decodeOp16, decodeOp18, decodeOp19, decodeOp1A, decodeOp1B,
    decodeOp1C, decodeOp1D, decodeOp1E, decodeOp1F, decodeOp20, decodeOp21, decodeOp22, decodeOp23, decodeOp24, decodeOp25, decodeOp28, decodeOp29, decodeOp2A, decodeOp2B,
    decodeOp2C, decodeOp2D, decodeOp2E, decodeOp2F, decodeOp30, decodeOp31, decodeOp32, decodeOp33]
  all_goals repeat' split
  all_goals rfl

/-- No word decodes to a step of the device. -/
theorem decode_hasWord {p : Option (BitVec 25)} {w : BitVec 32} {x : Decoded} (h : decode p w = some x) : (encodeFields x.i).isSome = true := by
  unfold decode at h
  split at h
  · cases h
  · rename_i i hi
    have := decodeFields_hasWord (w := w)
    rw [hi, Option.all_some] at this
    split at h
    · cases h
    · split at h
      · cases h
        exact this
      · cases h

theorem decodeOne_hasWord {w v p : BitVec 32} {x : Decoded} {n : Nat} (h : decodeOne w = .ok x v p n) : (encodeFields x.i).isSome = true := by
  unfold decodeOne at h
  split at h
  · rename_i y hy
    cases h
    exact decode_hasWord hy
  · cases h

theorem decodePair_hasWord {u w v p : BitVec 32} {x : Decoded} {n : Nat} (h : decodePair u w = .ok x v p n) : (encodeFields x.i).isSome = true := by
  unfold decodePair at h
  split at h
  · cases h
  · split at h
    · rename_i y hy
      cases h
      exact decode_hasWord hy
    · cases h

theorem decodeBytes_hasWord {l : List Byte} {v p : BitVec 32} {x : Decoded} {n : Nat} (h : decodeBytes l = .ok x v p n) : (encodeFields x.i).isSome = true := by
  unfold decodeBytes at h
  split at h
  · dsimp only at h
    split at h
    · cases h
    · split at h
      · split at h
        · exact decodePair_hasWord h
        · cases h
      · exact decodeOne_hasWord h
  · cases h

/-! ### A granted word -/

/-- What a run's fetch brings is an instruction with a word, for the warp that fetched it. -/
theorem supplyOf_run {q : Nat} {w : WRef} {a : W64} {l : List Byte} {iss : Issue} {i : Instr} (h : supplyOf q w a (decodeBytes l) = .run iss i) :
    iss.q = q ∧ iss.w = w ∧ (encodeFields i).isSome = true := by
  unfold supplyOf at h
  split at h
  · rename_i x v p n hd
    cases h
    exact ⟨rfl, rfl, decodeBytes_hasWord hd⟩
  · cases h
  · cases h

theorem State.supply_run {s : State} {q : Nat} {c : Ctx} {iss : Issue} {i : Instr} (h : s.supply q c = .run iss i) :
    iss.q = q ∧ iss.w = c.w ∧ (encodeFields i).isSome = true := by
  unfold State.supply at h
  dsimp only at h
  split at h
  · cases h
  · cases h
  · split at h
    · split at h
      · cases h
      · cases h
      · exact supplyOf_run h
    · exact supplyOf_run h

/-- A ready warp has a context, and the word that its fetch brings. -/
theorem State.ready_some {s : State} {q : Nat} {w : WRef} {a : Ready} (h : s.ready q w = some a) : (s.part q).ctx w = some a.c ∧ a.word = s.supply q a.c := by
  unfold State.ready at h
  split at h
  · cases h
  · rename_i c hc
    split at h
    · cases h
    · split at h
      · cases h
      · dsimp only at h
        split at h
        · cases h
          exact ⟨hc, rfl⟩
        · cases h

theorem mem_insReady {a b : Ready} : ∀ {l : List Ready}, b ∈ insReady a l → b = a ∨ b ∈ l
  | [], h => .inl (List.mem_singleton.1 h)
  | x :: l, h => by
    unfold insReady at h
    split at h
    · exact List.mem_cons.1 h
    · rcases List.mem_cons.1 h with e | e
      · exact .inr (by simp [e])
      · exact (mem_insReady e).imp_right (List.mem_cons_of_mem x)

/-- Sorting ready warps brings no other ones. -/
theorem mem_foldl_insReady (l : List Ready) : ∀ b ∈ l.foldl (fun k a => insReady a k) [], b ∈ l :=
  List.foldlRecOn l (fun k a => insReady a k) (motive := fun k => ∀ b ∈ k, b ∈ l) (by simp) fun _ hk a ha b hb =>
    (mem_insReady hb).elim (fun e => e ▸ ha) (hk b)

/-- What is granted is among what is ready. -/
theorem mem_grants (l : List Ready) : ∀ a ∈ grants l, a ∈ l := by
  refine List.foldlRecOn l _ (motive := fun r : List Ready × List Nat => ∀ a ∈ r.1, a ∈ l) (by simp) fun r hr a ha b hb => ?_
  split at hb
  · exact hr b hb
  · rcases List.mem_append.1 hb with e | e
    · exact hr b e
    · exact List.mem_singleton.1 e ▸ ha

/-- A granted word stands for a warp of the partition that is ready. -/
theorem State.mem_granted {s : State} {q : Nat} {a : Ready} (h : a ∈ s.granted q) : ∃ w, s.ready q w = some a := by
  unfold State.granted at h
  obtain ⟨g, -, hg⟩ := List.mem_flatMap.1 h
  have hs := mem_foldl_insReady _ a (mem_grants _ a hg)
  obtain ⟨w, -, hw⟩ := List.mem_filterMap.1 (List.mem_filter.1 hs).1
  exact ⟨w, hw⟩

/-- The schedule picks one of what can happen. -/
theorem State.pick_mem {s : State} {l : List Agent} {a : Agent} (h : s.pick l = some a) : a ∈ l := by
  unfold State.pick at h
  split at h
  · cases h
  · cases h
    exact List.mem_singleton.2 rfl
  · exact List.mem_of_getElem? h

/-- A word that the step picks is what the fetch of a warp with a context brings. -/
theorem State.pick_word {s : State} {q : Nat} {w : WRef} {x : Supply} (h : s.pick s.agents = some (.word q w x)) :
    ∃ c, (s.part q).ctx c.w = some c ∧ x = s.supply q c := by
  obtain ⟨r, -, hr⟩ := List.mem_flatMap.1 (State.pick_mem h)
  unfold State.agentsOf at hr
  rcases List.mem_append.1 hr with e | e
  · obtain ⟨_, -, e⟩ := List.mem_map.1 e
    cases e
  · obtain ⟨a, ha, e⟩ := List.mem_map.1 e
    cases e
    obtain ⟨w, hw⟩ := State.mem_granted ha
    obtain ⟨hc, hx⟩ := State.ready_some hw
    exact ⟨a.c, by rw [(Part.ctx_some hc).1]; exact hc, hx⟩

/-- A word that a fetch has brought issues into a next state, whatever time has passed. -/
theorem State.issue_total {s t : State} (h : s.SameWork t) {q : Nat} {c : Ctx} (hc : (s.part q).ctx c.w = some c) : ∃ u, t.issue (s.supply q c) = .next u := by
  cases hx : s.supply q c with
  | run iss i =>
    obtain ⟨rfl, hw, hi⟩ := State.supply_run hx
    have hctx : ((t.fetchFill iss).part iss.q).ctx iss.w = some c := by
      rw [Part.ctx_of_roster ((h.trans (.fetchFill t iss)) iss.q), hw]
      exact hc
    exact exec_total (s := { t.fetchFill iss with cur := some iss }) rfl hctx hi
  | lost iss pa => exact ⟨_, rfl⟩
  | fail iss cause acc addr detail => exact ⟨_, rfl⟩

/-- Every step answers a state: what the outside has put in, time alone, a device step, or a word that a warp with a context has fetched. -/
theorem step_total (s : State) : ∃ t, step s = .next t := by
  unfold step
  split
  · exact happens_total _ _ _
  · split
    · exact ⟨_, rfl⟩
    · exact happens_total _ _ _
    · rename_i hx
      obtain ⟨c, hc, rfl⟩ := State.pick_word hx
      exact State.issue_total (.elapsed s) hc

/-- Settles O46: a device step finds its own operands in `ev`, and a granted word has a word to decode from and a context that the passing of time leaves. -/
theorem everyStepAnswers : Obligations.EveryStepAnswers := ⟨happens_total, step_total⟩

end Sys2Proof.Machine
end

section
/-! SUPPORT. What traffic between memory and the cluster caches leaves of a partition, and the bytes of device memory after a write from outside the clusters. -/

namespace Sys2Proof.Machine

/-! ### What traffic leaves of a partition -/

/-- A view of a partition in which traffic between memory and the cluster caches does not show: neither its debts, nor the errors that it logs, nor the tags of the
clusters (R88, R190, R208). -/
structure Part.IgnoresTraffic {α : Type} (f : Part → α) : Prop where
  debt : ∀ (p : Part) (g cls now hbm fab : Nat), f (p.debt g cls now hbm fab) = f p
  logErr : ∀ (p : Part) (e : ErrRec), f (p.logErr e) = f p
  setClu : ∀ (p : Part) (c : Nat) (k : Cluster), f (p.setClu c k) = f p

/-- Every partition gives the same view in both states. -/
def State.SameView {α : Type} (f : Part → α) (s t : State) : Prop := ∀ q, f (t.part q) = f (s.part q)

section view

variable {α : Type} {f : Part → α}

theorem State.SameView.refl (s : State) : State.SameView f s s := fun _ => rfl

theorem State.SameView.trans {s t u : State} (h : State.SameView f s t) (k : State.SameView f t u) : State.SameView f s u := fun q => (k q).trans (h q)

/-- A fold of steps that each leave the view leaves it. -/
theorem State.SameView.foldl {β : Type} {step : State → β → State} (h : ∀ s b, State.SameView f s (step s b)) : ∀ (l : List β) (s : State), State.SameView f s (l.foldl step s)
  | [], s => .refl s
  | b :: l, s => (h s b).trans (State.SameView.foldl h l (step s b))

/-- A change of one partition that leaves its view. -/
theorem State.SameView.modPart (s : State) (q : Nat) {m : Part → Part} (hm : ∀ p, f (m p) = f p) : State.SameView f s (s.modPart q m) := fun r => by
  rcases s.setPart_part_cases q (m (s.part q)) r with ⟨e, h⟩ | e
  · rw [State.modPart, e, hm, h]
  · rw [State.modPart, e]

theorem State.SameView.wrDramL : ∀ (s : State) (q pa : Nat) (bs : List Byte), State.SameView f s (s.wrDramL q pa bs)
  | s, _, _, [] => .refl s
  | s, q, pa, b :: bs => State.SameView.wrDramL (s.wrDram q pa b) q (pa + 1) bs

theorem State.SameView.markHome (s : State) (q line : Nat) (mask bad : BitVec 4) : State.SameView f s (s.markHome q line mask bad) := by
  unfold State.markHome
  dsimp only
  split <;> exact .refl s

variable (hf : Part.IgnoresTraffic f)
include hf

theorem Part.IgnoresTraffic.owe (s : State) (q : Nat) (pay : Payer) (hbm fab : Nat) : State.SameView f s (s.owe q pay hbm fab) :=
  .modPart s q fun p => hf.debt p ..

theorem Part.IgnoresTraffic.logBits (s : State) (q line : Nat) (mask : BitVec 4) : State.SameView f s (s.logBits q line mask) :=
  .foldl (fun s i => by
    split
    · exact .modPart s q fun p => hf.logErr p _
    · exact .refl s) _ s

theorem Part.IgnoresTraffic.writeBack (s : State) (q : Nat) (pay : Payer) (x : CcLine) (mask : BitVec 4) : State.SameView f s (s.writeBack q pay x mask) := by
  have logged (d : BitVec 4) : State.SameView f s (if x.bad = 0 then s else s.logBits q x.line (x.bad &&& d)) := by
    split
    · exact .refl s
    · exact hf.logBits s q _ _
  have marked (t : State) (d : BitVec 4) : State.SameView f t (if x.host then t else t.markHome q x.line d x.bad) := by
    split
    · exact .refl t
    · exact .markHome t q _ _ _
  unfold State.writeBack
  dsimp only
  split
  · exact .refl s
  · exact ((logged _).trans (marked _ _)).trans (hf.owe _ q pay _ _)

theorem Part.IgnoresTraffic.grainDrop (s : State) (q : Nat) (pay : Payer) (c : Option Nat) (host : Bool) (pa : Nat) : State.SameView f s (s.grainDrop q pay c host pa) := by
  refine .foldl (fun s k => ?_) _ s
  have written := State.SameView.foldl (fun s x => hf.writeBack s q pay x (x.touched host pa)) (k.2.cc.filter (fun x => x.touched host pa != 0)) s
  dsimp only
  split
  · exact .refl s
  · split
    · exact written
    · exact written.trans (.modPart _ q fun p => hf.setClu p _ _)

theorem Part.IgnoresTraffic.dropCopies (s : State) (q : Nat) (pay : Payer) (c : Option Nat) (l : Loc) (n : Nat) : State.SameView f s (s.dropCopies q pay c l n) := by
  cases l with
  | scratch c o => exact .refl s
  | dev pa => exact .foldl (fun s i => hf.grainDrop s q pay c false _) _ s
  | host pa => exact .foldl (fun s i => hf.grainDrop s q pay c true _) _ s

/-- Codes that a cluster or an agent outside the cores clears: no core's copies are touched (R208). -/
theorem Part.IgnoresTraffic.clearUe (s : State) (q : Nat) (c : Option Nat) (ls : List Loc) : State.SameView f s (s.clearUe q none c ls) := by
  have cleared (s : State) (keep : Bool) (m : Part → Part) (hm : ∀ p, f (m p) = f p) : State.SameView f s (if keep then s else s.modPart q m) := by
    split
    · exact .refl s
    · exact .modPart s q hm
  unfold State.clearUe
  split
  · exact .refl s
  · refine .foldl (fun s b => ?_) _ s
    refine State.SameView.trans (t := { s with ue := s.ue.filter (fun u => s.ueKey q b != some u) }) (.refl s) (cleared _ _ _ fun p => ?_)
    cases c with
    | none => rfl
    | some c => exact hf.setClu p _ _

end view

/-! ### Scratchpads -/

theorem Part.core_setCore (p : Part) (g : Nat) (k : Core) (j : Nat) : (p.setCore g k).core j = if g = j then k else p.core j := by
  split
  case isTrue e => rw [← e, Part.setCore_core]
  case isFalse e => exact Part.setCore_core_other p k e

/-- Traffic leaves every scratchpad. -/
theorem Part.scratch_ignoresTraffic (g : Nat) : Part.IgnoresTraffic (fun p => (p.core g).scratch) where
  debt p j cls now hbm fab := by
    unfold Part.debt
    split
    · simp only [Part.setBucket, Part.core_setCore]
      split
      case isTrue e => rw [e]
      case isFalse => rfl
    · rfl
  logErr _ _ := rfl
  setClu _ _ _ := rfl

/-! ### Bytes written from outside the clusters -/

/-- Consecutive bytes of device memory, each at its place. -/
def devBytes (pa : Nat) (bs : List Byte) : List (Loc × Byte) := (List.range bs.length).map (fun j => (.dev (pa + j), bs.getD j 0))

@[simp] theorem devBytes_nil (pa : Nat) : devBytes pa [] = [] := rfl

@[simp] theorem devBytes_cons (pa : Nat) (b : Byte) (bs : List Byte) : devBytes pa (b :: bs) = (.dev pa, b) :: devBytes (pa + 1) bs := by
  simp [devBytes, List.range_succ_eq_map, Function.comp_def, Nat.add_assoc, Nat.add_comm 1]

/-- Bytes of device memory lie neither in host memory nor in a scratchpad. -/
theorem hostAfter_devBytes (pa : Nat) (bs : List Byte) (k : Nat) (v : Byte) : hostAfter (devBytes pa bs) k v = v := by
  induction bs generalizing pa with
  | nil => rfl
  | cons b bs ih => rw [devBytes_cons]; exact ih (pa + 1)

theorem scratchAfter_devBytes (g pa : Nat) (bs : List Byte) (k : Nat) (v : Byte) : scratchAfter g (devBytes pa bs) k v = v := by
  induction bs generalizing pa with
  | nil => rfl
  | cons b bs ih => rw [devBytes_cons]; exact ih (pa + 1)

@[simp] theorem State.wrDram_dramKey (s : State) (q pa : Nat) (b : Byte) (r a : Nat) : (s.wrDram q pa b).dramKey r a = s.dramKey r a := rfl

/-- What writes leave of DRAM depends on the state by the places of its bytes alone. -/
theorem dramAfter_congr {s t : State} {q : Nat} (h : ∀ pa, t.dramKey q pa = s.dramKey q pa) (l : List (Loc × Byte)) (k : Nat) (v : Byte) :
    dramAfter t q l k v = dramAfter s q l k v := by
  unfold dramAfter
  rw [show State.dramKey t q = State.dramKey s q from funext h]

theorem dramAfter_cons_dev (s : State) (q pa : Nat) (b : Byte) (l : List (Loc × Byte)) (k : Nat) (v : Byte) :
    dramAfter s q ((.dev pa, b) :: l) k v = dramAfter s q l k (if s.dramKey q pa = k then b else v) := by
  unfold dramAfter
  rw [List.foldl_cons]

/-- A byte of DRAM after consecutive writes. -/
theorem State.rd_dram_wrDramL (s : State) (q pa : Nat) (bs : List Byte) (k : Nat) :
    Sparse.rd (s.wrDramL q pa bs).dram k = dramAfter s q (devBytes pa bs) k (Sparse.rd s.dram k) := by
  induction bs generalizing s pa with
  | nil => rfl
  | cons b bs ih =>
    have written : Sparse.rd (s.wrDram q pa b).dram k = if s.dramKey q pa = k then b else Sparse.rd s.dram k := Sparse.rd_wr ..
    rw [devBytes_cons, dramAfter_cons_dev, State.wrDramL, ih, written, dramAfter_congr (State.wrDram_dramKey s q pa b q)]

theorem State.wrDramL_hostMem (s : State) (q pa : Nat) (bs : List Byte) : (s.wrDramL q pa bs).hostMem = s.hostMem := by
  induction bs generalizing s pa with
  | nil => rfl
  | cons b bs ih => exact ih (s.wrDram q pa b) (pa + 1)

/-- Which device step is being executed has no part in what it writes. -/
theorem Wrote.of_ev {s t : State} {q : Nat} {l : List (Loc × Byte)} (h : Wrote { s with ev := none } t q l) : Wrote s t q l where
  dram k := (h.dram k).trans (dramAfter_congr (fun _ => rfl) ..)
  host := h.host
  scratch := h.scratch

/-- Where no line is parked, none is unparked. -/
theorem State.unpark_of_unparked {s : State} {q : Nat} (h : (s.part q).dir = []) (pay : Payer) (line : Nat) : s.unpark q pay line = s := by
  simp [State.unpark, h]

/-- Where no line is parked, a write from outside the clusters writes its bytes at their homes and no other byte (R191, R374). -/
theorem Wrote.engStore_dev {s : State} {q : Nat} (h : (s.part q).dir = []) (pay : Payer) (c : Option Nat) (pa : Nat) (bs : List Byte) :
    Wrote s (s.engStore q pay c (.dev pa) bs) q (devBytes pa bs) := by
  have parked : (linesOf pa bs.length).foldl (fun (s : State) n => s.unpark q pay n) s = s :=
    List.foldlRecOn _ _ (motive := fun t => t = s) rfl fun t e n _ => by rw [e]; exact State.unpark_of_unparked h pay n
  have stored : s.engStore q pay c (.dev pa) bs =
      ((s.wrDramL q pa bs).dropCopies q pay c (.dev pa) bs.length).clearUe q none c ((List.range bs.length).map (Loc.dev pa).add) := by
    simp only [State.engStore, parked]
  obtain ⟨clearDram, clearHost⟩ := State.clearUe_memories ((s.wrDramL q pa bs).dropCopies q pay c (.dev pa) bs.length) q none c ((List.range bs.length).map (Loc.dev pa).add)
  obtain ⟨dropDram, dropHost⟩ := State.dropCopies_memories (s.wrDramL q pa bs) q pay c (.dev pa) bs.length
  rw [stored]
  exact
    { dram := fun k => by rw [clearDram, dropDram, State.rd_dram_wrDramL]
      host := fun k => by rw [clearHost, dropHost, State.wrDramL_hostMem, hostAfter_devBytes]
      scratch := fun g k => by
        have ht := Part.scratch_ignoresTraffic g
        rw [scratchAfter_devBytes]
        exact congrArg (Sparse.rd · k) (((State.SameView.wrDramL s q pa bs).trans (ht.dropCopies _ q pay c _ _)).trans (ht.clearUe _ q c _) q) }

end Sys2Proof.Machine
end

section
/-! SUPPORT. The device in service: the host's windows, resets, boot stages and RDY bits. -/

namespace Sys2Proof.Machine

/-! ### What the host's and the firmware's steps answer -/

/-- The state as a device step finds it: its operands have been taken out of `ev`. -/
def State.taken (s : State) : State := { s with ev := none }

theorem Happens.of_eq {s t u : State} {q : Nat} {e : Event} (h : Happens s q e t) (he : t = u) : Happens s q e u := he ▸ h

theorem happens_hostWrite (s : State) (q pa : Nat) (bs : List Byte) : Happens s q (.host_write pa bs) (s.taken.hostWrite q pa bs) := rfl
theorem happens_hostRead (s : State) (q : Nat) (r : HostRead) : Happens s q (.host_read r) (s.taken.hostRead q r) := rfl
theorem happens_thermalStop (s : State) (q : Nat) : Happens s q .thermal_stop s.taken.thermalStop := rfl
theorem happens_thermalResume (s : State) (q : Nat) : Happens s q .thermal_resume s.taken.thermalResume := rfl
theorem happens_powerThrottle (s : State) (q n : Nat) : Happens s q (.power_throttle n) (s.taken.throttle n) := rfl
theorem happens_deviceReset (s : State) (q : Nat) : Happens s q .device_reset s.taken.deviceReset := rfl
theorem happens_bootStage (s : State) (q d : Nat) (im : BootImage) : Happens s q (.boot_stage d im) (s.taken.bootStage d im) := rfl
theorem happens_unitReady (s : State) (q : Nat) (u : UnitId) : Happens s q (.unit_ready u) (s.taken.unitReady u) := rfl

/-! ### The host's windows (R374) -/

/-- The bytes of a number, one by one. -/
theorem leBytes_eq_map (n v : Nat) : leBytes n v = (List.range n).map (fun j => BitVec.ofNat 8 (v / 2 ^ (8 * j))) := by
  induction n generalizing v with
  | zero => rfl
  | succ n ih =>
    have shifted (j : Nat) : v / 256 / 2 ^ (8 * j) = v / 2 ^ (8 * (j + 1)) := by rw [Nat.div_div_eq_div_mul, Nat.mul_succ, Nat.add_comm, Nat.pow_add]
    simp [leBytes, ih, List.range_succ_eq_map, Function.comp_def, shifted]

/-- What a partition gives the host. -/
def State.gave (s : State) (q : Nat) (bs : List Byte) : State := { s with outbox := s.outbox ++ [.data q bs] }

section served

variable (s : State) {q : Nat} (h : (s.dies.rd q).recovery = false)
include h

theorem State.hostWrite_served {pa : Nat} {bs : List Byte} (hb : bs ≠ []) (hp : s.paOk q (pa + bs.length - 1) = true) :
    s.hostWrite q pa bs = s.engStore q noPayer none (.dev pa) bs := by
  simp [State.hostWrite, State.served, h, hb, hp]

theorem State.hostRead_mem {pa n : Nat} (hn : 0 < n) (hp : s.paOk q (pa + n - 1) = true) : s.hostRead q (.mem pa n) = s.gave q (s.rdHomeL q pa n) := by
  simp [State.hostRead, State.served, h, Nat.ne_of_gt hn, hp, State.gave]

theorem State.hostRead_reg (r : RegAddr) : s.hostRead q (.reg r) = s.gave q (leBytes 8 (s.registerRead q r).toNat) := by
  simp [State.hostRead, State.served, h, State.gave]

theorem State.hostRead_event {n : Nat} (hn : n < 4096) : s.hostRead q (.event n) = s.gave q (leBytes 8 (Sparse.rd (s.part q).events n).toNat) := by
  simp [State.hostRead, State.served, h, hn, State.gave]

theorem State.hostRead_rdy : s.hostRead q .rdy = s.gave q (leBytes 8 s.rdy.toNat) := by
  simp [State.hostRead, State.served, h, State.gave]

end served

/-- A partition whose first die is in recovery serves the host neither writes nor reads (R366). -/
theorem State.hostWrite_recovery (s : State) {q : Nat} (h : (s.dies.rd q).recovery = true) (pa : Nat) (bs : List Byte) : s.hostWrite q pa bs = s := by
  simp [State.hostWrite, State.served, h]

theorem State.hostRead_recovery (s : State) {q : Nat} (h : (s.dies.rd q).recovery = true) (r : HostRead) : s.hostRead q r = s := by
  simp [State.hostRead, State.served, h]

theorem State.registerRead_csr {n : Nat} (h : hostCsr n = true) (s : State) (q : Nat) : s.registerRead q (.csr n) = (s.part q).csr.get n := if_pos h

/-- An offset of the CSR window that no supervisor CSR takes reads 0. -/
theorem State.registerRead_noCsr {n : Nat} (h : n < 0x021 ∨ (0x042 < n ∧ n < 0x100) ∨ 0x162 < n) (s : State) (q : Nat) : s.registerRead q (.csr n) = 0 := by
  have : hostCsr n = false := by
    simp only [hostCsr, Bool.or_eq_false_iff, beq_eq_false_iff_ne, decide_eq_false_iff_not]
    omega
  exact if_neg (by simp [this])

/-- The window's CSRs by offset (R374). -/
def PCsr.window (c : PCsr) : List (Nat × W64) :=
  [(0x021, c.rsbase), (0x040, c.racedrop), (0x041, c.locmiss), (0x042, c.pkfall), (0x100, c.fqbase), (0x101, c.fqhead), (0x102, c.fqtail), (0x103, c.fqstat), (0x104, c.sqmask),
    (0x105, c.fltto), (0x160, c.ptbase), (0x161, c.ccquota), (0x162, c.pkquota)]

theorem PCsr.window_get (c : PCsr) : ∀ x ∈ c.window, hostCsr x.1 = true ∧ c.get x.1 = x.2 := by
  simp [PCsr.window, hostCsr, PCsr.get]

theorem State.rdy_toNat {s : State} (h : s.rdyHbm.toNat + s.rdyClu.toNat * 2 ^ 8 + s.rdyPort.toNat * 2 ^ 32 + s.rdyPart.toNat * 2 ^ 40 + s.gradeNum * 2 ^ 48 < 2 ^ 64) :
    s.rdy.toNat = s.rdyHbm.toNat + s.rdyClu.toNat * 2 ^ 8 + s.rdyPort.toNat * 2 ^ 32 + s.rdyPart.toNat * 2 ^ 40 + s.gradeNum * 2 ^ 48 := by
  rw [State.rdy, BitVec.toNat_ofNat, Nat.mod_eq_of_lt h]

/-! ### Boot (R366, R367) -/

/-- A stage that verifies extends the measurement, and the die stays out of recovery. -/
theorem State.bootStage_verified (s : State) {d : Nat} {im : BootImage} (hd : d < 4) (hr : (s.dies.rd d).recovery = false) (hu : (s.dies.rd d).up = false)
    (hv : Config.verifies im.bytes im.signature = true ∧ Config.minVersion d ≤ im.version) :
    (s.bootStage d im).dies.rd d = { s.dies.rd d with
      m := shake256 ((s.dies.rd d).m ++ shake256 im.bytes)
      stages := (s.dies.rd d).stages + 1
      up := im.last
      versions := (s.dies.rd d).versions ++ [im.version] } := by
  simp [State.bootStage, Nat.not_lt.2 (Nat.le_of_lt_succ hd), hr, hu, hv.1, hv.2]

/-- A stage that does not verify leaves the die in recovery and its units not ready. -/
theorem State.bootStage_failed (s : State) {d : Nat} {im : BootImage} (hd : d < 4) (hr : (s.dies.rd d).recovery = false) (hu : (s.dies.rd d).up = false)
    (hv : ¬ (Config.verifies im.bytes im.signature = true ∧ Config.minVersion d ≤ im.version)) :
    s.bootStage d im = ({ s with dies := s.dies.wr d { s.dies.rd d with recovery := true } } : State).dieDown d := by
  have idle : ¬ (3 < d ∨ (s.dies.rd d).recovery = true ∨ (s.dies.rd d).up = true) := by simp [hr, hu]; omega
  unfold State.bootStage
  rw [if_neg idle, if_neg (by simpa using hv)]

@[simp] theorem State.dieDown_dies (s : State) (d : Nat) : (s.dieDown d).dies = s.dies := rfl

/-- A die that goes down clears the bit of its quarter's partition. -/
theorem State.dieDown_rdyPart (s : State) {d : Nat} (hd : d < 4) : (s.dieDown d).rdyPart.getLsbD d = false := by
  have bit : (BitVec.ofNat 4 (2 ^ d)).getLsbD d = true := by simp only [BitVec.getLsbD_ofNat, Nat.testBit_two_pow, hd, decide_true, Bool.and_self]
  simp only [State.dieDown, BitVec.getLsbD_and, BitVec.getLsbD_not, bit, Bool.not_true, Bool.and_false]

/-! ### Ready clusters (R8, R368) -/

/-- A physical cluster is in working order where it is not harvested and 48 of its 52 cores are not. -/
theorem State.clusterOk_eq (s : State) (c : Nat) : s.clusterOk c =
    (decide (.cluster c ∉ s.harvested) && decide (48 ≤ ((List.range 52).filter (fun j => decide (.core c j ∉ s.harvested))).length)) := by
  simp [State.clusterOk, cluCores]

theorem State.cluEnabled_iff {s : State} {c : Nat} (hc : c < 4 * s.cpd) :
    s.cluEnabled c = true ↔ c % s.cpd < ((List.range 7).filter (fun j => s.clusterOk (7 * (c / s.cpd) + j))).length := by
  rw [State.cluEnabled, decide_eq_true hc, Bool.true_and, dieClusters, decide_eq_true_iff]

/-- A die has at most 6 device cluster numbers. -/
theorem State.cpd_le (s : State) : s.cpd ≤ 6 := by
  unfold State.cpd
  split <;> decide

/-- An enabled cluster of a die that serves sets its own bit. -/
theorem State.unitReady_cluster (s : State) {c : Nat} (hc : c < 4 * s.cpd) (he : s.cluEnabled c = true) (hd : (s.dies.rd (c / s.cpd)).serves = true) (k : Nat) :
    (s.unitReady (.cluster c)).rdyClu.getLsbD k = (s.rdyClu.getLsbD k || decide (k = c)) := by
  have := s.cpd_le
  have bit : (BitVec.ofNat 24 (2 ^ c)).getLsbD k = decide (k = c) := by
    rw [BitVec.getLsbD_ofNat, Nat.testBit_two_pow, ← Bool.decide_and]
    exact decide_eq_decide.2 (by omega)
  simp only [State.unitReady, he, hd, and_self, if_true, BitVec.getLsbD_or, bit]

/-- A device cluster number with no enabled cluster behind it stays not ready. -/
theorem State.unitReady_cluster_disabled (s : State) {c : Nat} (he : s.cluEnabled c ≠ true) : s.unitReady (.cluster c) = s := by
  simp [State.unitReady, he]

/-! ### The host and the firmware -/

/-- Settles O49: each window gives the bytes of what it reads, a write lands at its bytes' homes, and each service step leaves what its own lemma says. -/
theorem hostAndService : Obligations.HostAndService := by
  intro s q
  dsimp only
  refine ⟨fun hr => ⟨fun pa bs hb hp hdir => ?write, fun pa n hn hp => ?mem, fun x hx => ?csr, fun n hn => ?noCsr, fun n hn => ?event, fun hrdy => ?rdy⟩,
    fun hr => ⟨fun pa bs => ?noWrite, fun x => ?noRead⟩, happens_thermalStop s q, happens_thermalResume s q, fun n h1 h100 => ?throttle, ?reset,
    fun d im hd hr hu => ?boot, fun c hc => ⟨fun he hr hs => ?ready, fun he => ?disabled⟩⟩
  case write =>
    exact ⟨_, (happens_hostWrite s q pa bs).of_eq (s.taken.hostWrite_served hr hb hp), (Wrote.engStore_dev (s := s.taken) hdir ..).of_ev⟩
  case mem => exact (happens_hostRead s q _).of_eq (s.taken.hostRead_mem hr hn hp)
  case csr =>
    obtain ⟨hw, hv⟩ := PCsr.window_get _ x hx
    rw [← leBytes_eq_map, ← hv, ← State.registerRead_csr hw]
    exact (happens_hostRead s q _).of_eq (s.taken.hostRead_reg hr _)
  case noCsr =>
    refine (happens_hostRead s q _).of_eq ((s.taken.hostRead_reg hr _).trans ?_)
    rw [State.registerRead_noCsr hn]
    rfl
  case event =>
    rw [← leBytes_eq_map]
    exact (happens_hostRead s q _).of_eq (s.taken.hostRead_event hr hn)
  case rdy =>
    rw [← leBytes_eq_map, ← State.rdy_toNat hrdy]
    exact (happens_hostRead s q _).of_eq (s.taken.hostRead_rdy hr)
  case noWrite => exact (happens_hostWrite s q pa bs).of_eq (s.taken.hostWrite_recovery hr pa bs)
  case noRead => exact (happens_hostRead s q x).of_eq (s.taken.hostRead_recovery hr x)
  case throttle => exact (happens_powerThrottle s q n).of_eq (if_pos ⟨h1, h100⟩)
  case reset =>
    refine ⟨_, happens_deviceReset s q, rfl, rfl, rfl, rfl, rfl, rfl, fun k hk => ?_⟩
    interval_cases k <;> exact ⟨rfl, rfl, rfl⟩
  case boot =>
    refine ⟨_, happens_bootStage s q d im, ?_⟩
    split
    case isTrue hv =>
      rw [s.taken.bootStage_verified hd hr hu hv]
      exact ⟨rfl, hr⟩
    case isFalse hv =>
      rw [s.taken.bootStage_failed hd hr hu hv, State.dieDown_dies, Quad.rd_wr_same]
      exact ⟨rfl, rfl, State.dieDown_rdyPart _ hd⟩
  case ready =>
    simp only [← State.clusterOk_eq] at he
    have serves : (s.dies.rd (c / s.cpd)).serves = true := by simp [Maltster.serves, hr, hs]
    exact ⟨_, happens_unitReady s q _, s.taken.unitReady_cluster hc ((State.cluEnabled_iff hc).2 he) serves⟩
  case disabled =>
    simp only [← State.clusterOk_eq] at he
    have hn : s.cluEnabled c ≠ true := fun h => Nat.not_lt.2 he ((State.cluEnabled_iff hc).1 h)
    exact (happens_unitReady s q _).of_eq (s.taken.unitReady_cluster_disabled hn)

/-! ### What reset leaves (R7, R359, R366) -/

/-- Settles O56: memories are empty, and each quarter has its reset registers, the reset partition, and a Maltster that has measured nothing. -/
theorem resetValues : Obligations.ResetValues := by
  refine ⟨State.memWf_iff.2 ⟨Sparse.wf_nil, Sparse.wf_nil⟩, rfl, rfl, rfl, rfl, fun q hq => ?_⟩
  have quarter : State.reset.part q = Part.reset ∧ State.reset.reg q = QRegs.reset q ∧ State.reset.dies.rd q = Maltster.reset := by
    interval_cases q <;> exact ⟨rfl, rfl, rfl⟩
  obtain ⟨hpart, hreg, hdie⟩ := quarter
  have registers : (QRegs.reset q).pmemil.toNat = 3 * 2 ^ (2 * q) ∧ (QRegs.reset q).quarters.toNat = 2 ^ q := by
    interval_cases q <;> decide
  rw [hpart, hreg, hdie]
  exact ⟨registers.1, rfl, rfl, rfl, registers.2, rfl, rfl, rfl, rfl, rfl, rfl, rfl, rfl, fun _ => rfl, rfl⟩

end Sys2Proof.Machine
end

section
/-! SUPPORT. What the moves of a core's boundary leave of the work, and which blocks, gangs and contexts stand after the steps that come with placing and retiring. -/

namespace Sys2Proof.Machine

/-! ### The boundary of a core (R84, R189, R200) -/

theorem State.SameWork.ccOut (s : State) (q : Nat) (pay : Payer) (c : Nat) (x : CcLine) : s.SameWork (s.ccOut q pay c x) := by
  have logged : s.SameWork (if x.bad = 0 then s else s.logBits q x.line (x.bad &&& ~~~x.dirty)) := by
    split
    · exact .refl s
    · exact .logBits s q _ _
  exact (logged.trans (.writeBack _ q pay x 15)).trans (.modPart _ q fun _ => rfl)

theorem State.SameWork.ccFit (s : State) (q : Nat) (pay : Payer) (c line cls fuel : Nat) : s.SameWork (s.ccFit q pay c line cls fuel) := by
  induction fuel generalizing s with
  | zero => exact .refl s
  | succ fuel ih =>
    unfold State.ccFit
    dsimp only
    split
    · exact (State.SameWork.ccOut s q pay c _).trans (ih _)
    · split
      · exact .refl s
      · split
        · exact (State.SameWork.ccOut s q pay c _).trans (ih _)
        · exact .refl s

/-- A parked line takes another level: what the directory, the log, the debts and the race tables note of it. -/
theorem State.SameWork.relevel (s : State) (q : Nat) (pay : Payer) (line table : Nat) (f : Parked → Parked) :
    s.SameWork ((((s.modPart q (fun p => { p with dir := updIf (fun x => x.line == line) f p.dir })).logLine q line).owe q pay 128 128).modPart q (fun p => p.retable line table)) := by
  have moved : s.SameWork (s.modPart q (fun p => { p with dir := updIf (fun x => x.line == line) f p.dir })) := .modPart s q fun _ => rfl
  exact ((moved.trans (.logLine _ q line)).trans (.owe _ q pay 128 128)).trans (.modPart _ q fun p => p.retable_roster line table)

theorem State.SameWork.pkfall (s : State) (q : Nat) : s.SameWork (s.modPart q Part.pkfall) := .modPart s q fun _ => rfl

theorem State.SameWork.moveOut (s : State) (q : Nat) (pay : Payer) (d : Parked) : s.SameWork (s.moveOut q pay d) := by
  unfold State.moveOut
  dsimp only
  split
  · exact (State.SameWork.pkfall s q).trans (.relevel _ q pay d.line _ _)
  · exact (State.SameWork.pkfall s q).trans (.unpark _ q pay d.line)

theorem State.SameWork.ccOverflow (s : State) (q : Nat) (pay : Payer) (c line : Nat) : s.SameWork (s.ccOverflow q pay c line) := by
  unfold State.ccOverflow
  dsimp only
  split
  · exact .refl s
  · split
    · exact .refl s
    · split
      · exact (State.SameWork.pkfall s q).trans (.modPart _ q fun _ => rfl)
      · exact .moveOut s q pay _

theorem State.SameWork.ccAdmit (s : State) (q : Nat) (pay : Payer) (d : Parked) (c : Nat) : s.SameWork (s.ccAdmit q pay d c) :=
  (State.SameWork.ccOverflow s q pay c d.line).trans (.ccFit _ q pay c d.line d.cls 16)

theorem State.SameWork.shrinkPark (s : State) (q g : Nat) (pay : Payer) (fuel : Nat) : s.SameWork (s.shrinkPark q g pay fuel) := by
  induction fuel generalizing s with
  | zero => exact .refl s
  | succ fuel ih =>
    unfold State.shrinkPark
    dsimp only
    split
    · exact .refl s
    · split
      · exact .refl s
      · refine State.SameWork.trans ?_ (ih _)
        refine (State.SameWork.pkfall s q).trans ?_
        split
        · exact .unpark _ q pay _
        · split
          · exact (State.SameWork.relevel _ q pay _ _ _).trans (.ccAdmit _ q pay _ _)
          · exact .relevel _ q pay _ _ _

theorem Part.logGone_roster (p : Part) (g clk : Nat) (old : List L1Sector) : (p.logGone g clk old).roster = p.roster := by
  unfold Part.logGone
  refine Part.roster_foldl (fun p x => ?_) _ p
  rfl

/-- A core's boundary moves cached copies and parked lines, and no work. -/
theorem State.SameWork.setBnd (s : State) (q g b : Nat) (pay : Payer) : s.SameWork (s.setBnd q g b pay) := by
  have bounded : s.SameWork (s.modPart q (fun p => p.setCore g { p.core g with bnd := b })) := .modPart s q fun p => p.setCore_roster g _
  exact (bounded.trans (.shrinkPark _ q g pay _)).trans (.modPart _ q fun p => (Part.logGone_roster _ g _ _).trans (p.setCore_roster g _))

end Sys2Proof.Machine
end

section
/-! SUPPORT. Which blocks, gangs and contexts stand after the steps that come with placing and retiring: triggers, draws of items, unwinds, and the start of a collective. -/

namespace Sys2Proof.Machine

/-! ### What stands -/

/-- Whether a context of a partition, given by its key, holds a warp. -/
def Part.resident (p : Part) (k : Nat) : Bool := (AMap.find p.warps k).isSome

/-- The blocks and gangs of a partition, and the contexts that hold a warp. -/
def Part.standing (p : Part) : List Block × List Gang × (Nat → Bool) := (p.blocks, p.gangs, p.resident)

theorem Part.resident_wkey (p : Part) (w : WRef) : p.resident (wkey w) = (p.warp w).isSome := rfl

theorem Part.blocks_of_standing {p r : Part} (h : r.standing = p.standing) : r.blocks = p.blocks := congrArg (·.1) h
theorem Part.gangs_of_standing {p r : Part} (h : r.standing = p.standing) : r.gangs = p.gangs := congrArg (·.2.1) h
theorem Part.resident_of_standing {p r : Part} (h : r.standing = p.standing) : r.resident = p.resident := congrArg (·.2.2) h

theorem Part.standing_of_roster {p r : Part} (h : r.roster = p.roster) : r.standing = p.standing := by
  simp only [Part.roster, Prod.mk.injEq] at h
  obtain ⟨hw, hb, hg, -⟩ := h
  have ho : r.resident = p.resident := by unfold Part.resident; rw [hw]
  simp only [Part.standing, hb, hg, ho]

/-! ### Which contexts hold a warp -/

theorem wkey_keyRef (k : Nat) : wkey (keyRef k) = k := Nat.div_add_mod' k 64

theorem AMap.isSome_find_of_mem {α : Type} {m : AMap α} {x : Nat × α} (h : x ∈ m) : (AMap.find m x.1).isSome = true := by
  induction m with
  | nil => simp at h
  | cons y l ih =>
    unfold AMap.find
    split
    · rfl
    case isFalse e => exact ih ((List.mem_cons.1 h).resolve_left fun hx => e (by rw [hx]))

theorem Part.resident_of_mem {p : Part} {x : Nat × Warp} (h : x ∈ p.warps) : p.resident (wkey (keyRef x.1)) = true := by
  rw [wkey_keyRef]
  exact AMap.isSome_find_of_mem h

theorem Part.resident_of_mem_warpsOf {p : Part} {b : Nat} {y : WRef × Warp} (h : y ∈ p.warpsOf b) : p.resident (wkey y.1) = true := by
  obtain ⟨x, hx, rfl⟩ := List.mem_map.1 h
  exact Part.resident_of_mem (List.mem_filter.1 hx).1

theorem Part.resident_of_mem_warpsOfGang {p : Part} {g : Nat} {y : WRef × Warp} (h : y ∈ p.warpsOfGang g) : p.resident (wkey y.1) = true := by
  obtain ⟨b, -, hy⟩ := List.mem_flatMap.1 h
  exact Part.resident_of_mem_warpsOf hy

theorem Part.resident_of_ctx {p : Part} {w : WRef} {c : Ctx} (h : p.ctx w = some c) : p.resident (wkey w) = true := by
  obtain ⟨-, hx, -⟩ := Part.ctx_some h
  rw [Part.resident_wkey, hx]
  rfl

/-- A warp that changes where one stands leaves the contexts as they are. -/
theorem Part.setWarp_standing {p : Part} {w : WRef} (h : p.resident (wkey w) = true) (x : Warp) : (p.setWarp w x).standing = p.standing := by
  have ho : (p.setWarp w x).resident = p.resident := by
    funext k
    by_cases e : wkey w = k
    · subst e
      rw [h, Part.resident_wkey, Part.setWarp_warp]
      rfl
    · exact congrArg Option.isSome (AMap.find_wr_other _ _ e)
  simp only [Part.standing, ho, Part.setWarp_blocks, Part.setWarp_gangs]

theorem Part.modWarp_standing (p : Part) (w : WRef) (f : Warp → Warp) : (p.modWarp w f).standing = p.standing := by
  unfold Part.modWarp
  split
  · rfl
  case h_2 x hx => exact Part.setWarp_standing (by rw [Part.resident_wkey, hx]; rfl) _

/-- A fold of changes that each leave what stands leaves it. -/
theorem Part.standing_foldl {α : Type} {f : Part → α → Part} {l : List α} {p : Part} (hf : ∀ a ∈ l, ∀ r : Part, r.standing = p.standing → (f r a).standing = r.standing) :
    (l.foldl f p).standing = p.standing :=
  List.foldlRecOn l f (motive := fun r => r.standing = p.standing) rfl fun r hr a ha => (hf a ha r hr).trans hr

/-! ### Event counters and triggers (R78-R80) -/

theorem Part.acquirePoint_roster (p : Part) (g : Nat) (sc : Scope) : (p.acquirePoint g sc).roster = p.roster := by cases sc <;> rfl

theorem Part.orderPaths_roster (p : Part) (f t : BitVec 4) : (p.orderPaths f t).roster = p.roster := by
  unfold Part.orderPaths
  split <;> rfl

/-- Where an acquire point precedes the change of a warp that stands. -/
theorem Part.setWarp_acquirePoint_standing {p : Part} {w : WRef} (h : p.resident (wkey w) = true) (sc : Scope) (x : Warp) :
    ((p.acquirePoint w.core sc).setWarp w x).standing = p.standing := by
  have ha := Part.standing_of_roster (p.acquirePoint_roster w.core sc)
  exact (Part.setWarp_standing (by rw [Part.resident_of_standing ha]; exact h) x).trans ha

theorem Part.endLwait_standing {p : Part} {w : WRef} (h : p.resident (wkey w) = true) (x : Warp) : (p.endLwait w x).standing = p.standing := by
  unfold Part.endLwait
  split
  · dsimp only
    split
    · exact Part.setWarp_acquirePoint_standing h .sys _
    · rfl
  · rfl

theorem Part.wakeLwait_standing (p : Part) : p.wakeLwait.standing = p.standing :=
  Part.standing_foldl fun _ hx _ hr => Part.endLwait_standing (by rw [Part.resident_of_standing hr]; exact Part.resident_of_mem hx) _

theorem Part.bumpEvent_standing (p : Part) (e : Nat) : (p.bumpEvent e).standing = p.standing :=
  (Part.wakeLwait_standing _).trans (Eq.trans (b := (p.orderPaths 15 1).standing) rfl (Part.standing_of_roster (p.orderPaths_roster 15 1)))

theorem Part.checkTrigger_standing (p : Part) (seq : Nat) : (p.checkTrigger seq).standing = p.standing := by
  unfold Part.checkTrigger
  split
  · rfl
  · split
    · dsimp only
      split
      · exact (Part.bumpEvent_standing _ _).trans rfl
      · rfl
    · rfl

/-! ### Views of a state -/

theorem State.SameWork.standing {s t : State} (h : s.SameWork t) : State.SameView Part.standing s t := fun q => Part.standing_of_roster (h q)

/-- A partition that is set to one of the same view. -/
theorem State.SameView.setPart {α : Type} {f : Part → α} (s : State) (q : Nat) {p : Part} (h : f p = f (s.part q)) : State.SameView f s (s.setPart q p) := fun r => by
  rcases s.setPart_part_cases q p r with ⟨e, hr⟩ | e
  · rw [e, hr, h]
  · rw [e]

theorem State.modPart_modWarp_standing (s : State) (q : Nat) (w : WRef) (f : Warp → Warp) : State.SameView Part.standing s (s.modPart q (fun p => p.modWarp w f)) :=
  .modPart s q fun p => p.modWarp_standing w f

/-! ### The unwind (R122, R124) -/

theorem State.SameWork.oweSpill (s : State) (q : Nat) (c : Ctx) (width n : Nat) : s.SameWork (s.oweSpill q c width n) := by
  unfold State.oweSpill
  dsimp only
  split
  · exact .refl s
  · exact .owe s q _ _ _

theorem State.SameWork.oweReload (s : State) (q : Nat) (w : WRef) : s.SameWork (s.oweReload q w) := by
  unfold State.oweReload
  split
  · exact .refl s
  · split
    · exact .oweSpill s q _ _ _
    · exact .refl s

theorem State.pop_standing (s : State) (q : Nat) (w : WRef) : State.SameView Part.standing s (s.pop q w) := by
  unfold State.pop
  split
  · exact .refl s
  case h_2 c hc =>
    have popped (x : Warp) : State.SameView Part.standing s (s.modPart q (fun p => p.setWarp w x)) := .setPart s q (Part.setWarp_standing (Part.resident_of_ctx hc) x)
    dsimp only
    split
    · split <;> exact popped _
    · exact popped _

theorem State.unwind_standing (s : State) (q : Nat) (w : WRef) (fuel : Nat) : State.SameView Part.standing s (s.unwind q w fuel) := by
  induction fuel generalizing s with
  | zero => exact .refl s
  | succ fuel ih =>
    unfold State.unwind
    split
    · exact .refl s
    case h_2 x hx =>
      split
      · exact .refl s
      · split
        · exact .refl s
        · dsimp only
          split
          · exact .setPart s q (Part.setWarp_standing (by rw [Part.resident_wkey, hx]; rfl) _)
          · exact (((State.SameWork.oweReload s q w).standing.trans (State.pop_standing _ q w)).trans (State.modPart_modWarp_standing _ q w _)).trans (ih _)

theorem State.settleWarp_standing (s : State) (q : Nat) (w : WRef) : State.SameView Part.standing s (s.settleWarp q w) := by
  unfold State.settleWarp
  split
  · exact .refl s
  case h_2 c hc =>
    split
    · exact .refl s
    · split
      · split
        · exact .refl s
        · exact .setPart s q (Part.setWarp_standing (Part.resident_of_ctx hc) _)
      · exact State.unwind_standing s q w 300

/-! ### Drawing items (R85, R95) -/

theorem State.drawLane_standing (s : State) (q seq clu : Nat) (w : WRef) (l : Nat) : State.SameView Part.standing s (s.drawLane q seq clu w l) := by
  unfold State.drawLane
  split
  · exact .refl s
  · split <;> exact .modPart s q fun p => (Part.modWarp_standing _ w _).trans rfl

/-- The lanes of a gang draw, and its warps settle; no block, gang or warp comes or goes. -/
theorem State.fillGang_standing (s : State) (q gang : Nat) : State.SameView Part.standing s (s.fillGang q gang) := by
  have settled (l : List (WRef × Warp)) (t : State) : State.SameView Part.standing t (l.foldl (fun s x => s.settleWarp q x.1) t) :=
    State.SameView.foldl (step := fun (s : State) (x : WRef × Warp) => s.settleWarp q x.1) (fun s x => State.settleWarp_standing s q x.1) l t
  refine State.SameView.trans ?drawn (settled _ _)
  refine .foldl (fun s x => ?_) _ s
  split
  · exact .refl s
  · exact .foldl (fun s l => s.drawLane_standing q _ _ _ l) _ s

/-! ### The start of a collective (R343, R344) -/

theorem State.SameWork.setCore (s : State) (q g : Nat) (k : Part → Core) : s.SameWork (s.modPart q (fun p => p.setCore g (k p))) :=
  .modPart s q fun p => p.setCore_roster g (k p)

theorem State.SameWork.wrLoc (s : State) (q g : Nat) (l : Loc) (b : Byte) : s.SameWork (s.wrLoc q g l b) := by
  cases l with
  | scratch c o => exact .setCore s q c _
  | host pa => exact (State.SameWork.setCore s q g fun p => (p.core g).l1Update true pa b).trans fun _ => rfl
  | dev pa =>
    have updated := State.SameWork.setCore s q g fun p => (p.core g).l1Update false pa b
    unfold State.wrLoc
    dsimp only
    split
    · exact updated.trans (.modPart _ q fun _ => by rfl)
    · exact updated.trans fun _ => rfl

theorem State.SameWork.wrLocL (s : State) (q g : Nat) (l : Loc) (bs : List Byte) : s.SameWork (s.wrLocL q g l bs) := by
  induction bs generalizing s l with
  | nil => exact .refl s
  | cons b bs ih => exact (State.SameWork.wrLoc s q g l b).trans (ih _ _)

theorem State.SameWork.logBarred (s : State) (q : Nat) (l : List Nat) : s.SameWork (s.logBarred q l) := .foldl (fun s _ => .modPart s q fun _ => by rfl) l s

theorem State.SameWork.sendFrame (s : State) (q : Nat) (f : Frame) : s.SameWork (s.sendFrame q f) := by
  have noted (u : Peer) : s.SameWork (s.modPart q (fun p => p.setPeer f.peer u)) := .modPart s q fun _ => by rfl
  unfold State.sendFrame
  dsimp only
  split
  · exact .refl s
  · split
    · exact noted _
    · split
      · exact (noted _).trans fun _ => rfl
      · exact noted _

theorem State.SameWork.sendBytes (s : State) (q n kind inst src dst peer : Nat) (bytes : List Byte) : s.SameWork (s.sendBytes q n kind inst src dst peer bytes) :=
  .foldl (fun s _ => .sendFrame s q _) _ s

theorem State.SameWork.sendSource (s : State) (q n inst r seg : Nat) (src : Source) : s.SameWork (s.sendSource q n inst r seg src) := by
  refine .foldl (fun s x => ?_) _ s
  split
  case h_3 =>
    split
    · exact .sendBytes _ _ _ _ _ _ _ _ _
    · exact .refl s
  all_goals exact .sendBytes _ _ _ _ _ _ _ _ _

theorem State.SameWork.moveTokens (s : State) (q n num r : Nat) : s.SameWork (s.moveTokens q n num r) := by
  unfold State.moveTokens
  dsimp only
  split
  · split
    · exact .refl s
    · refine State.SameWork.trans ?marked (.foldl (fun s d => ?_) _ _)
      case marked => exact .modPart s q fun _ => by rfl
      split
      · exact .refl s
      · exact .sendBytes _ _ _ _ _ _ _ _ _
  · exact .refl s

theorem State.SameWork.moveAll (s : State) (q n num : Nat) : s.SameWork (s.moveAll q n num) := by
  unfold State.moveAll
  dsimp only
  split
  · exact .foldl (fun s r => .moveTokens s q n num r) _ s
  · exact .refl s

theorem State.wakeAb_standing (s : State) (q : Nat) : State.SameView Part.standing s (s.wakeAb q) := by
  refine .foldl (fun s x => ?_) _ s
  split
  · split
    · exact .modPart s q fun p => (Part.modWarp_standing _ _ _).trans (Part.standing_of_roster (p.acquirePoint_roster _ _))
    · exact .refl s
  · exact .refl s

theorem State.abAnnounce_standing (s : State) (q : Nat) (l : Loc) (n : Nat) : State.SameView Part.standing s (s.abAnnounce q l n) :=
  (State.SameWork.wrLocL s q 0 l _).standing.trans (State.wakeAb_standing _ q)

theorem Part.postAsync_roster (p : Part) (w : WRef) (tag : Nat) (f : CopyFail) : (p.postAsync w tag f).roster = p.roster := by
  unfold Part.postAsync
  split <;> rfl

theorem State.startInst_standing (s : State) (q n : Nat) (w : WRef) (b : Block) (t : Tile) : State.SameView Part.standing s (s.startInst q n w b t) := by
  unfold State.startInst
  extract_lets h num ab
  split
  · exact .refl s
  · extract_lets len bytes dests ue st cut src s1 x s2 s3
    have logged : State.SameView Part.standing s s1 := (State.SameWork.logBarred s q _).standing
    have flown : State.SameView Part.standing s1 s2 := .modPart s1 q fun p => Part.modWarp_standing _ w _
    have told : State.SameView Part.standing s s3 := (logged.trans flown).trans (State.abAnnounce_standing s2 q _ 16)
    clear_value s3 src st ue
    split
    · exact told.trans ((State.SameWork.sendSource s3 q n num _ t.n src).trans (.moveAll _ q n num)).standing
    · split
      · exact told.trans ((State.SameWork.logUe s3 q _).trans (.modPart _ q fun p => p.postAsync_roster w 0 _)).standing
      · exact told
    · exact told

theorem Part.collGive_standing (p : Part) (blk v : Nat) : (p.collGive blk v).standing = p.standing := by
  refine Part.standing_foldl fun y _ r _ => ?_
  split
  · exact r.modWarp_standing _ _
  · rfl

theorem State.tryColl_standing (s : State) (q blk : Nat) (w : WRef) : State.SameView Part.standing s (s.tryColl q blk w) := by
  have given (v : Nat) : State.SameView Part.standing s (s.setPart q ((s.part q).collGive blk v)) := .setPart s q (Part.collGive_standing _ blk v)
  unfold State.tryColl
  dsimp only
  split
  · split
    · exact given 3
    · split
      · split
        · exact .refl s
        · split
          · exact (given _).trans (State.startInst_standing _ q _ w _ _)
          · exact given _
      · exact .refl s
  · exact .refl s

/-- The rendezvous that a retirement completes may start a collective, and moves no block, gang or warp. -/
theorem State.retestColl_standing (s : State) (q blk : Nat) : State.SameView Part.standing s (s.retestColl q blk) := by
  unfold State.retestColl
  split
  · exact .refl s
  · split
    · exact State.tryColl_standing s q blk _
    · exact .refl s

end Sys2Proof.Machine
end

section
/-! SUPPORT. The items of a grid as a donation leaves them, the barriers of a block as a warp's retirement leaves them, and event counters as a grid's completion leaves them. -/

namespace Sys2Proof.Machine

/-! ### Entries of a list that are updated -/

theorem find?_updIf {α : Type} {c : α → Bool} {f : α → α} (h : ∀ x, c x = true → c (f x) = true) (l : List α) : (updIf c f l).find? c = (l.find? c).map f := by
  unfold updIf
  induction l with
  | nil => rfl
  | cons x l ih =>
    by_cases e : c x = true
    · simp [e, h x e]
    · simp [e, ih]

/-- A search that passes the updated entries by, before and after. -/
theorem find?_updIf_other {α : Type} {c d : α → Bool} {f : α → α} (h : ∀ x, c x = true → d x = false ∧ d (f x) = false) (l : List α) :
    (updIf c f l).find? d = l.find? d := by
  unfold updIf
  induction l with
  | nil => rfl
  | cons x l ih =>
    by_cases e : c x = true
    · simp [e, h x e, ih]
    · simp [e, ih, List.find?_cons]

theorem setAt_get {α : Type} (v : α) : ∀ (l : List α) (i k : Nat), (setAt l i v)[k]? = if k = i then (l[k]?).map (fun _ => v) else l[k]?
  | [], i, k => by simp [setAt]
  | a :: l, 0, 0 => by simp [setAt]
  | a :: l, 0, k + 1 => by simp [setAt]
  | a :: l, i + 1, 0 => by simp [setAt]
  | a :: l, i + 1, k + 1 => by simp [setAt, setAt_get v l i k]

/-- The first `n` entries updated one after another. -/
theorem foldl_modAt_get {α : Type} (f : α → α) (l : List α) (n k : Nat) :
    ((List.range n).foldl (fun l i => modAt l i f) l)[k]? = if k < n then (l[k]?).map f else l[k]? := by
  induction n with
  | zero => simp
  | succ n ih =>
    rw [List.range_succ, List.foldl_append, List.foldl_cons, List.foldl_nil, modAt_get, ih]
    by_cases e : k = n
    · simp [e]
    · have : k < n + 1 ↔ k < n := by omega
      simp [e, this]

/-! ### Donations (R85) -/

theorem largest_eq_none {l : List Range} (h : largest l = none) : l = [] := by
  cases l with
  | nil => rfl
  | cons r l =>
    unfold largest at h
    split at h <;> simp at h

/-- The largest range is one of them, and none is larger, nor as large and of a lower cluster. -/
theorem largest_spec {l : List Range} {m : Range} (h : largest l = some m) : m ∈ l ∧ ∀ y ∈ l, y.size < m.size ∨ (y.size = m.size ∧ m.clu ≤ y.clu) := by
  induction l generalizing m with
  | nil => simp [largest] at h
  | cons r l ih =>
    unfold largest at h
    split at h
    case h_1 e =>
      obtain rfl := Option.some.inj h
      simp [largest_eq_none e]
    case h_2 x e =>
      obtain ⟨hx, hl⟩ := ih e
      obtain rfl := Option.some.inj h
      split
      case isTrue hr =>
        refine ⟨List.mem_cons_self, fun y hy => ?_⟩
        rcases List.mem_cons.1 hy with rfl | hy
        · omega
        · have := hl y hy
          omega
      case isFalse hr =>
        refine ⟨List.mem_cons_of_mem _ hx, fun y hy => ?_⟩
        rcases List.mem_cons.1 hy with rfl | hy
        · omega
        · exact hl y hy

/-- The donor is the range that beats every other of the clusters but the one that receives. -/
theorem Grid.donor_eq {x : Grid} {k : Nat} {r : Range} (hs : x.l.nosteal = false) (hr : r ∈ x.ranges) (hk : r.clu ≠ k) (h2 : 2 ≤ r.size)
    (hmax : ∀ y ∈ x.ranges, y.clu ≠ k → y = r ∨ y.size < r.size ∨ (y.size = r.size ∧ r.clu < y.clu)) : x.donor k = some r := by
  have mem : r ∈ x.ranges.filter (fun y => y.clu != k) := List.mem_filter.2 ⟨hr, by simpa using hk⟩
  have found : largest (x.ranges.filter (fun y => y.clu != k)) = some r := by
    cases e : largest (x.ranges.filter (fun y => y.clu != k)) with
    | none => simp [largest_eq_none e] at mem
    | some m =>
      obtain ⟨hm, hl⟩ := largest_spec e
      obtain ⟨hm, hmk⟩ := List.mem_filter.1 hm
      have beats := hl r mem
      rcases hmax m hm (by simpa using hmk) with rfl | lost
      · rfl
      · omega
  simp [Grid.donor, hs, found, h2]

theorem Grid.setRange_range (g : Grid) (r : Range) : (g.setRange r).range r.clu = r := by
  unfold Grid.setRange Grid.range
  dsimp only
  split
  case isTrue h =>
    rw [find?_updIf (c := fun x : Range => x.clu == r.clu) fun _ _ => beq_self_eq_true r.clu]
    obtain ⟨x, hx⟩ := Option.isSome_iff_exists.1 (List.find?_isSome.2 (List.any_eq_true.1 h))
    simp [hx]
  case isFalse h =>
    have absent : g.ranges.find? (fun x => x.clu == r.clu) = none := List.find?_eq_none.2 fun x hx e => h (List.any_eq_true.2 ⟨x, hx, e⟩)
    simp [List.find?_append, absent]

theorem Grid.setRange_range_other (g : Grid) {r : Range} {j : Nat} (h : r.clu ≠ j) : (g.setRange r).range j = g.range j := by
  have hj : (r.clu == j) = false := by simpa using h
  unfold Grid.setRange Grid.range
  dsimp only
  split
  · rw [find?_updIf_other (d := fun x : Range => x.clu == j) fun x hx => ⟨by rw [beq_iff_eq.1 hx]; exact hj, hj⟩]
  · rw [List.find?_append]
    simp [hj]

/-- A donation: the upper half of the donor's items goes to the cluster whose range is empty (R85). -/
theorem Grid.donate_eq {x : Grid} {k : Nat} {r : Range} (he : (x.range k).size = 0) (hd : x.donor k = some r) :
    x.donate k = (x.setRange ⟨r.clu, r.lo, r.hi - r.size / 2⟩).setRange ⟨k, r.hi - r.size / 2, r.hi⟩ := by
  simp [Grid.donate, he, hd]

theorem Grid.donate_seq (x : Grid) (k : Nat) : (x.donate k).seq = x.seq := by
  unfold Grid.donate
  split
  · rfl
  · split <;> rfl

theorem Part.grid?_modGrid {p : Part} {seq : Nat} {f : Grid → Grid} (hf : ∀ g, (f g).seq = g.seq) : (p.modGrid seq f).grid? seq = (p.grid? seq).map f :=
  find?_updIf (fun x hx => by rwa [hf]) p.grids

/-! ### The barriers of a block (R98, R255) -/

/-- A barrier after the test of its phase. -/
def Bar.tested (b : Bar) : Bar := if b.complete then { b with a := 0 } else b

/-- The barriers of a block as a warp that retires leaves them, before the tests. -/
def Block.barsWithout (b : Block) (x : Warp) : List Bar :=
  (List.range b.bars.length).map (fun i => ⟨(b.bars.getD i ⟨0, 0, 0⟩).n, (b.bars.getD i ⟨0, 0, 0⟩).a - x.arrivals i, (b.bars.getD i ⟨0, 0, 0⟩).r + 1⟩)

/-- A block as a warp's retirement leaves it: its barriers without the warp, and tested. -/
def Block.leftBy (b : Block) (x : Warp) : Block := { b with bars := (List.range 16).foldl (fun l i => modAt l i Bar.tested) (b.barsWithout x) }

/-- Each barrier of a block that a warp has left. -/
theorem Block.leftBy_bar (b : Block) (x : Warp) (h : b.bars.length = 16) {i : Nat} (hi : i < 16) : (b.leftBy x).bars.getD i ⟨0, 0, 0⟩ =
    Bar.tested ⟨(b.bars.getD i ⟨0, 0, 0⟩).n, (b.bars.getD i ⟨0, 0, 0⟩).a - x.arrivals i, (b.bars.getD i ⟨0, 0, 0⟩).r + 1⟩ := by
  rw [Block.leftBy, List.getD_eq_getElem?_getD, foldl_modAt_get, if_pos hi]
  simp [Block.barsWithout, h, hi]

theorem Part.block?_modBlock {p : Part} {id : Nat} {f : Block → Block} (hf : ∀ b, (f b).id = b.id) : (p.modBlock id f).block? id = (p.block? id).map f :=
  find?_updIf (fun x hx => by rwa [hf]) p.blocks

theorem Part.block?_testBar (p : Part) (blk i : Nat) :
    (p.testBar blk i).block? blk = (p.block? blk).map (fun b => { b with bars := modAt b.bars i Bar.tested }) := by
  unfold Part.testBar
  split
  case h_1 hb => rw [hb]; rfl
  case h_2 b hb =>
    have unchanged (h : ∀ r, b.bars[i]? = some r → r.complete = false) : modAt b.bars i Bar.tested = b.bars := by
      refine List.ext_getElem? fun k => ?_
      rw [modAt_get]
      split
      case isTrue e =>
        subst e
        cases hr : b.bars[k]? with
        | none => rfl
        | some r => simp [Bar.tested, h r hr]
      case isFalse => rfl
    split
    case h_1 hr => rw [hb, Option.map_some, unchanged fun r e => by simp [hr] at e]
    case h_2 r hr =>
      split
      case isTrue hc =>
        have reset : setAt b.bars i { r with a := 0 } = modAt b.bars i Bar.tested := by
          refine List.ext_getElem? fun k => ?_
          rw [setAt_get, modAt_get]
          split
          case isTrue e => subst e; simp [hr, Bar.tested, hc]
          case isFalse => rfl
        have found : (p.modBlock blk (fun b => { b with bars := setAt b.bars i { r with a := 0 } })).block? blk = some { b with bars := modAt b.bars i Bar.tested } := by
          rw [Part.block?_modBlock (fun _ => by rfl), hb, Option.map_some, reset]
        rw [hb]
        exact found
      case isFalse hc => rw [hb, Option.map_some, unchanged fun x e => by obtain rfl := Option.some.inj (hr.symm.trans e); simpa using hc]

theorem Part.block?_testBars (p : Part) (blk n : Nat) : ((List.range n).foldl (fun p i => p.testBar blk i) p).block? blk =
    (p.block? blk).map (fun b => { b with bars := (List.range n).foldl (fun l i => modAt l i Bar.tested) b.bars }) := by
  induction n with
  | zero => simp
  | succ n ih =>
    simp only [List.range_succ, List.foldl_append, List.foldl_cons, List.foldl_nil]
    rw [Part.block?_testBar, ih, Option.map_map]
    rfl

theorem AMap.isSome_find_map {α : Type} {f : Nat × α → Nat × α} (hf : ∀ x, (f x).1 = x.1) (m : AMap α) (k : Nat) :
    (AMap.find (m.map f) k).isSome = (AMap.find m k).isSome := by
  induction m with
  | nil => rfl
  | cons x l ih =>
    rw [List.map_cons, AMap.find, AMap.find, hf]
    split
    · rfl
    · exact ih

theorem Part.testBar_resident (p : Part) (blk i : Nat) : (p.testBar blk i).resident = p.resident := by
  unfold Part.testBar
  split
  · rfl
  · split
    · rfl
    · split
      · exact funext fun k => AMap.isSome_find_map (fun x => by split <;> rfl) p.warps k
      · rfl

/-- The gang barrier's test leaves the blocks, and no warp comes or goes. -/
theorem Part.testGangBar_stands (p : Part) (g : Nat) : (p.testGangBar g).blocks = p.blocks ∧ (p.testGangBar g).resident = p.resident := by
  have stands {r t : Part} (h : r.standing = t.standing) (hb : t.blocks = p.blocks) (ht : t.resident = p.resident) : r.blocks = p.blocks ∧ r.resident = p.resident :=
    ⟨(Part.blocks_of_standing h).trans hb, (Part.resident_of_standing h).trans ht⟩
  unfold Part.testGangBar
  split
  · exact ⟨rfl, rfl⟩
  · split
    · refine stands (Part.standing_foldl fun y hy t ht => ?_) rfl rfl
      have hocc : t.resident (wkey y.1) = true := by rw [Part.resident_of_standing ht]; exact Part.resident_of_mem_warpsOfGang hy
      dsimp only
      split
      · exact Part.setWarp_acquirePoint_standing hocc .gng _
      · exact Part.setWarp_standing hocc _
    · exact ⟨rfl, rfl⟩

/-- The barriers as a warp that retires leaves them, before the tests. -/
def Part.leaveBars (p : Part) (x : Warp) (blk : Block) : Part :=
  (p.modBlock blk.id (fun b => { b with bars := b.barsWithout x })).modGang blk.gang (fun g => { g with bar := { g.bar with a := g.bar.a - x.arrivals 16, r := g.bar.r + 1 } })

theorem Part.retireAtBars_eq (p : Part) (x : Warp) (blk : Block) :
    p.retireAtBars x blk = ((List.range 16).foldl (fun p i => p.testBar blk.id i) (p.leaveBars x blk)).testGangBar blk.gang := rfl

theorem Part.retireAtBars_resident (p : Part) (x : Warp) (blk : Block) : (p.retireAtBars x blk).resident = p.resident := by
  have tested (l : List Nat) (r : Part) : (l.foldl (fun p i => p.testBar blk.id i) r).resident = r.resident :=
    List.foldlRecOn l _ (motive := fun t : Part => t.resident = r.resident) rfl fun t ht i _ => (t.testBar_resident blk.id i).trans ht
  rw [Part.retireAtBars_eq, (Part.testGangBar_stands _ _).2, tested]
  rfl

theorem Part.block?_retireAtBars (p : Part) (x : Warp) (blk : Block) : (p.retireAtBars x blk).block? blk.id = (p.block? blk.id).map (fun b => b.leftBy x) := by
  have left : (p.leaveBars x blk).block? blk.id = (p.block? blk.id).map (fun b => { b with bars := b.barsWithout x }) := Part.block?_modBlock fun _ => by rfl
  have same (r : Part) : (r.testGangBar blk.gang).block? blk.id = r.block? blk.id := by rw [Part.block?, (r.testGangBar_stands blk.gang).1, Part.block?]
  rw [Part.retireAtBars_eq, same, Part.block?_testBars, left, Option.map_map]
  rfl

/-! ### A warp that retires (R98) -/

theorem AMap.find_del_same {α : Type} {m : AMap α} (h : onceEach m) (k : Nat) : AMap.find (AMap.del m k) k = none := by
  induction m with
  | nil => rfl
  | cons x l ih =>
    obtain ⟨hx, hl⟩ := List.nodup_cons.1 h
    unfold AMap.del
    split
    case isTrue e =>
      subst e
      cases hf : AMap.find l x.1 with
      | none => rfl
      | some v => exact absurd (List.mem_map.2 ⟨_, AMap.find_mem hf, rfl⟩) hx
    case isFalse e =>
      rw [AMap.find, if_neg e]
      exact ih hl

theorem Part.breakLocks_roster (p : Part) (uid : Nat) : (p.breakLocks uid).roster = p.roster := by
  have left : (p.leaveQueues uid).roster = p.roster := by
    unfold Part.leaveQueues
    split <;> rfl
  unfold Part.breakLocks
  refine (Part.roster_foldl (fun r line => ?_) _ _).trans left
  rfl

theorem Part.freeRaces_standing (p : Part) : p.freeRaces.standing = p.standing := rfl

/-- A warp's context and locks are let go: the context is free, and every block stands. -/
theorem Part.delWarp_breakLocks {p : Part} (h : onceEach p.warps) (w : WRef) (uid : Nat) :
    ((p.breakLocks uid).delWarp w).resident (wkey w) = false ∧ ((p.breakLocks uid).delWarp w).blocks = p.blocks := by
  have hroster := p.breakLocks_roster uid
  simp only [Part.roster, Prod.mk.injEq] at hroster
  obtain ⟨hwarps, hblocks, -, -⟩ := hroster
  refine ⟨?_, hblocks⟩
  rw [Part.resident, Part.delWarp, hwarps, AMap.find_del_same h]
  rfl

/-- What a warp's retirement leaves: its context is free, and its block's barriers have been tested without it. -/
theorem Part.retireWarp_leaves {p : Part} {w : WRef} {c : Ctx} (hc : p.ctx w = some c) (ho : onceEach p.warps) : (p.retireWarp w).warp w = none ∧
    (p.retireWarp w).block? c.blk.id = some (c.blk.leftBy c.x) := by
  obtain ⟨free, hblocks⟩ := Part.delWarp_breakLocks ho w c.x.uid
  have hblk : p.block? c.blk.id = some c.blk := by
    obtain ⟨-, -, found, -⟩ := Part.ctx_some hc
    have hid : c.blk.id = c.x.block := by simpa using List.find?_some found
    rw [hid, found]
  have retired : p.retireWarp w = ((((p.breakLocks c.x.uid).delWarp w).retireAtBars c.x c.blk).checkTrigger c.grid.seq).freeRaces := by
    unfold Part.retireWarp
    rw [hc]
  have here : ((p.breakLocks c.x.uid).delWarp w).block? c.blk.id = some c.blk := by rw [Part.block?, hblocks]; exact hblk
  generalize (p.breakLocks c.x.uid).delWarp w = r at free retired here
  have standing : (p.retireWarp w).standing = (r.retireAtBars c.x c.blk).standing := by
    rw [retired, Part.freeRaces_standing, Part.checkTrigger_standing]
  constructor
  · have gone : (p.retireWarp w).resident (wkey w) = false := by rw [Part.resident_of_standing standing, Part.retireAtBars_resident, free]
    simpa [Part.resident_wkey] using gone
  · have hb : (p.retireWarp w).blocks = (r.retireAtBars c.x c.blk).blocks := Part.blocks_of_standing standing
    have same : (p.retireWarp w).block? c.blk.id = (r.retireAtBars c.x c.blk).block? c.blk.id := by rw [Part.block?, hb, Part.block?]
    rw [same, Part.block?_retireAtBars, here]
    rfl

theorem State.warpRetire_eq {s : State} {q : Nat} {w : WRef} {x : Warp} (h : (s.part q).warp w = some x) (hw : x.wait = .retire) (hi : x.ifc = 0) :
    s.warpRetire q w = (s.modPart q (fun p => p.retireWarp w)).retestColl q x.block := by
  simp [State.warpRetire, h, hw, hi]

/-! ### A block that retires (R98) -/

theorem Part.retireBlock_leaves (p : Part) (b : Block) (now : Nat) : (p.retireBlock b now).blocks = p.blocks.filter (fun x => x.id != b.id) ∧
    (p.retireBlock b now).gangs = if ∃ x ∈ p.blocks, x.id ≠ b.id ∧ x.gang = b.gang then p.gangs else p.gangs.filter (fun x => x.id != b.gang) := by
  let r : Part := { p.settle now with blocks := p.blocks.filter (fun x => x.id != b.id) }
  have last : (r.blocksOf b.gang).isEmpty = true ↔ ¬ ∃ x ∈ p.blocks, x.id ≠ b.id ∧ x.gang = b.gang := by
    simp only [r, Part.blocksOf, List.isEmpty_iff, List.filter_filter, List.filter_eq_nil_iff, Bool.and_eq_true, beq_iff_eq, bne_iff_ne, not_exists, not_and]
    exact forall₂_congr fun x _ => ⟨fun h hi hg => h hg hi, fun h hg hi => h hi hg⟩
  have standing := Part.checkTrigger_standing (if (r.blocksOf b.gang).isEmpty then { r with gangs := r.gangs.filter (fun g => g.id != b.gang) } else r) b.grid
  refine ⟨(Part.blocks_of_standing standing).trans ?_, (Part.gangs_of_standing standing).trans ?_⟩
  · split <;> rfl
  · by_cases h : ∃ x ∈ p.blocks, x.id ≠ b.id ∧ x.gang = b.gang
    · rw [if_pos h, if_neg (mt last.1 (not_not.2 h))]
      rfl
    · rw [if_neg h, if_pos (last.2 h)]
      rfl

/-! ### A grid that completes (R78, R79, R358) -/

/-- The event counters and the grids of a partition, but for which dependences of theirs are known to hold. -/
def Part.counted (p : Part) : Sparse 64 × List Nat := (p.events, p.grids.map (fun g => g.seq))

theorem Part.wakeLwait_counted (p : Part) : p.wakeLwait.counted = p.counted := by
  refine List.foldlRecOn _ _ (motive := fun r : Part => r.counted = p.counted) rfl fun r hr x _ => Eq.trans ?_ hr
  unfold Part.endLwait
  split
  · dsimp only
    split <;> rfl
  · rfl

theorem Part.bumpEvent_counted (p : Part) (e : Nat) :
    (p.bumpEvent e).counted = (Sparse.wr p.events e (BitVec.ofNat 64 (stick 64 (Sparse.rd p.events e).toNat 1)), p.grids.map (fun g => g.seq)) := by
  refine (Part.wakeLwait_counted _).trans ?_
  unfold Part.orderPaths
  split <;> simp [Part.counted, Part.evalDeps]

/-- One event counter rises by 1, and sticks at its largest value (R78). -/
theorem Part.bumpEvent_rd (p : Part) (e j : Nat) : (Sparse.rd (p.bumpEvent e).events j).toNat = min (2 ^ 64 - 1) ((Sparse.rd p.events j).toNat + if e = j then 1 else 0) := by
  have hev : (p.bumpEvent e).events = Sparse.wr p.events e (BitVec.ofNat 64 (stick 64 (Sparse.rd p.events e).toNat 1)) := congrArg (·.1) (p.bumpEvent_counted e)
  have := (Sparse.rd p.events j).isLt
  rw [hev, Sparse.rd_wr]
  split
  case isTrue e =>
    subst e
    rw [BitVec.toNat_ofNat, stick]
    omega
  case isFalse => omega

theorem Part.bumpEvents_rd (l : List Nat) (p : Part) (j : Nat) :
    (Sparse.rd (l.foldl Part.bumpEvent p).events j).toNat = min (2 ^ 64 - 1) ((Sparse.rd p.events j).toNat + l.count j) := by
  induction l generalizing p with
  | nil =>
    have := (Sparse.rd p.events j).isLt
    simp only [List.foldl_nil, List.count_nil]
    omega
  | cons e l ih =>
    rw [List.foldl_cons, ih, Part.bumpEvent_rd, List.count_cons]
    simp only [beq_iff_eq]
    omega

theorem Part.bumpEvents_seqs (l : List Nat) (p : Part) : (l.foldl Part.bumpEvent p).grids.map (fun g => g.seq) = p.grids.map (fun g => g.seq) :=
  List.foldlRecOn l _ (motive := fun r : Part => r.grids.map (fun g => g.seq) = p.grids.map (fun g => g.seq)) rfl fun r hr e _ =>
    (congrArg (·.2) (r.bumpEvent_counted e)).trans hr

/-- The counters that a grid raises as it completes: TEV, if it is still due, then CEV. -/
def Grid.raises (g : Grid) : List Nat := (if g.triggered then [] else g.l.tev.toList) ++ g.l.cev.toList

theorem Grid.count_raises (g : Grid) (e : Nat) :
    g.raises.count e = (if g.triggered = false ∧ g.l.tev = some e then 1 else 0) + (if g.l.cev = some e then 1 else 0) := by
  have single (o : Option Nat) : o.toList.count e = if o = some e then 1 else 0 := by
    cases o with
    | none => rfl
    | some x => simp [List.count_singleton]
  unfold Grid.raises
  rw [List.count_append, single]
  cases g.triggered with
  | true => rfl
  | false => simp [single]

/-- A partition as the completion of a grid leaves it. -/
def Part.closeGrid (p : Part) (g : Grid) : Part :=
  { g.raises.foldl Part.bumpEvent p with grids := (g.raises.foldl Part.bumpEvent p).grids.filter (fun x => x.seq != g.seq) }

theorem Part.bumpEvents_raises (p : Part) (g : Grid) : g.raises.foldl Part.bumpEvent p =
    let r := if g.triggered then p else g.l.tev.elim p p.bumpEvent
    g.l.cev.elim r r.bumpEvent := by
  have single (o : Option Nat) (p : Part) : o.toList.foldl Part.bumpEvent p = o.elim p p.bumpEvent := by cases o <;> rfl
  unfold Grid.raises
  rw [List.foldl_append, single]
  split
  · rfl
  · rw [single]

theorem State.completeGrid_eq (s : State) (q : Nat) (g : Grid) : s.completeGrid q g =
    { s.modPart q (fun p => p.closeGrid g) with outbox := s.outbox ++ if g.l.irq then [.irq q g.queue] else [] } := by
  have closed : s.completeGrid q g =
      let t := s.modPart q (fun p => p.closeGrid g)
      if g.l.irq then { t with outbox := t.outbox ++ [.irq q g.queue] } else t := by
    unfold Part.closeGrid State.completeGrid
    simp only [Part.bumpEvents_raises]
    cases g.l.tev <;> cases g.l.cev <;> rfl
  rw [closed]
  dsimp only
  split
  · rfl
  · rw [List.append_nil]
    rfl

theorem State.completeGrid_part (s : State) (q : Nat) (g : Grid) : (s.completeGrid q g).part q = (s.part q).closeGrid g := by
  rw [State.completeGrid_eq]
  exact State.modPart_part s q fun p => p.closeGrid g

theorem State.completeGrid_outbox (s : State) (q : Nat) (g : Grid) : (s.completeGrid q g).outbox = s.outbox ++ if g.l.irq then [.irq q g.queue] else [] := by
  rw [State.completeGrid_eq]

/-- The grids of its number are gone, and no other. -/
theorem Part.closeGrid_seqs (p : Part) (g : Grid) : (p.closeGrid g).grids.map (fun x => x.seq) = (p.grids.map (fun x => x.seq)).filter (fun n => n != g.seq) := by
  rw [← Part.bumpEvents_seqs g.raises p, List.filter_map]
  rfl

theorem Part.closeGrid_events (p : Part) (g : Grid) (e : Nat) : (Sparse.rd (p.closeGrid g).events e).toNat =
    min (2 ^ 64 - 1) ((Sparse.rd p.events e).toNat + (if g.triggered = false ∧ g.l.tev = some e then 1 else 0) + (if g.l.cev = some e then 1 else 0)) := by
  rw [Nat.add_assoc, ← Grid.count_raises]
  exact Part.bumpEvents_rd g.raises p e

end Sys2Proof.Machine
end

section
/-! SUPPORT. What placing a gang leaves of a partition, and the placing, donating, retiring and completing of work. -/

namespace Sys2Proof.Machine

/-! ### The warps of the other cores -/

theorem AMap.filter_wr {α : Type} {c : Nat × α → Bool} {k : Nat} {v : α} (h : ∀ u, c (k, u) = false) (m : AMap α) : (AMap.wr m k v).filter c = m.filter c := by
  induction m with
  | nil => simp [AMap.wr, h]
  | cons x l ih =>
    unfold AMap.wr
    split
    · simp [h]
    · split
      case isTrue e => subst e; simp [h]
      case isFalse => simp [List.filter_cons, ih]

/-- A warp that is put on a core leaves the warps of every other core. -/
theorem Part.setWarp_warpsOn_other (p : Part) {w : WRef} (hw : w.slot < 64) (x : Warp) {g : Nat} (h : g ≠ w.core) : (p.setWarp w x).warpsOn g = p.warpsOn g := by
  have off : ((w.core * 64 + w.slot) / 64 == g) = false := by
    rw [beq_eq_false_iff_ne]
    omega
  unfold Part.warpsOn Part.setWarp wkey
  dsimp only
  rw [AMap.filter_wr fun _ => off]

/-- What a partition has besides the warps of core `g`: its blocks, gangs and grids, and the warps of the other cores. -/
def Part.besides (g : Nat) (p : Part) : List Block × List Gang × List Grid × (Nat → List (WRef × Warp)) :=
  (p.blocks, p.gangs, p.grids, fun c => if c = g then [] else p.warpsOn c)

theorem Part.besides_of_roster {p r : Part} (h : r.roster = p.roster) (g : Nat) : r.besides g = p.besides g := by
  simp only [Part.roster, Prod.mk.injEq] at h
  obtain ⟨hw, hb, hg, hr⟩ := h
  simp only [Part.besides, Part.warpsOn, hw, hb, hg, hr]

theorem Part.setWarp_besides (p : Part) {w : WRef} (hw : w.slot < 64) (x : Warp) : (p.setWarp w x).besides w.core = p.besides w.core := by
  have others : (fun c => if c = w.core then [] else (p.setWarp w x).warpsOn c) = fun c => if c = w.core then [] else p.warpsOn c := by
    funext c
    split
    · rfl
    case isFalse h => exact Part.setWarp_warpsOn_other p hw x h
  simp only [Part.besides, others, Part.setWarp_blocks, Part.setWarp_gangs, Part.setWarp_grids]

/-! ### Placing a block (R81, R84) -/

/-- Where a block stands: its grid, its gang, its number and its core. -/
def Block.site (b : Block) : Nat × Nat × Nat × Nat := (b.grid, b.gang, b.bid, b.core)

/-- A partition after blocks at sites `l` have been placed: its gangs and grids stand, and so do the warps of every core at which none has been placed. -/
structure Part.Adds (p r : Part) (l : List (Nat × Nat × Nat × Nat)) : Prop where
  sites : r.blocks.map Block.site = p.blocks.map Block.site ++ l
  gangs : r.gangs = p.gangs
  grids : r.grids = p.grids
  elsewhere : ∀ c, (∀ x ∈ l, x.2.2.2 ≠ c) → r.warpsOn c = p.warpsOn c

theorem Part.Adds.refl (p : Part) : p.Adds p [] := ⟨by simp, rfl, rfl, fun _ _ => rfl⟩

theorem Part.Adds.trans {p r t : Part} {l m : List (Nat × Nat × Nat × Nat)} (h : p.Adds r l) (k : r.Adds t m) : p.Adds t (l ++ m) where
  sites := by rw [k.sites, h.sites, List.append_assoc]
  gangs := k.gangs.trans h.gangs
  grids := k.grids.trans h.grids
  elsewhere c hc := (k.elsewhere c fun x hx => hc x (List.mem_append_right _ hx)).trans (h.elsewhere c fun x hx => hc x (List.mem_append_left _ hx))

/-- A new block and what is besides the warps of its core make up what its placing leaves. -/
theorem Part.Adds.of_besides {p r t : Part} {b : Block} (hr : r.roster = p.roster) (ht : t.besides b.core = ({ r with blocks := r.blocks ++ [b] } : Part).besides b.core) :
    p.Adds t [b.site] := by
  simp only [Part.roster, Prod.mk.injEq] at hr
  obtain ⟨hw, hb, hg, hgr⟩ := hr
  simp only [Part.besides, Prod.mk.injEq] at ht
  obtain ⟨tb, tg, tgr, tw⟩ := ht
  refine ⟨by simp [tb, hb], tg.trans hg, tgr.trans hgr, fun c hc => ?_⟩
  have hne : c ≠ b.core := fun e => hc _ (List.mem_singleton_self _) e.symm
  have := congrFun tw c
  simp only [if_neg hne] at this
  rw [this]
  unfold Part.warpsOn
  dsimp only
  rw [hw]

theorem Part.freshBucket_roster (p : Part) (g cls now : Nat) : (p.freshBucket g cls now).roster = p.roster := by
  unfold Part.freshBucket
  split <;> rfl

theorem Part.slot_lt (p : Part) (g i : Nat) : (p.freeSlots g).getD i 0 < 64 := by
  rw [List.getD_eq_getElem?_getD]
  cases h : (p.freeSlots g)[i]? with
  | none => decide
  | some k =>
    have := List.mem_of_getElem? h
    simpa using (List.mem_filter.1 this).1

theorem State.placeBlock_adds {s : State} {q seq gang bid gcx core : Nat} {g : Grid} (hg : (s.part q).grid? seq = some g) (hp : ((s.part q).planOn g.k core).isSome = true) :
    (s.part q).Adds ((s.placeBlock q seq gang bid gcx core).part q) [(seq, gang, bid, core)] := by
  unfold State.placeBlock
  split
  case h_1 hn => simp [hn] at hg
  case h_2 g' hg' =>
    obtain rfl := Option.some.inj (hg'.symm.trans hg)
    extract_lets p b cls s1 p1 id len off p2 src p3 p4 slots
    have bounded : s.SameWork s1 := by
      unfold s1
      split
      · exact .refl s
      · exact .setBnd s q core b _
    have opened : p4.roster = p2.roster := (Part.freshBucket_roster _ core cls _).trans ((Part.acquirePoint_roster _ core .sys).trans rfl)
    split
    case h_1 hn => simp [p, hn] at hp
    case h_2 plan hplan =>
      extract_lets p5
      have housed : p5.besides core = p4.besides core := by
        refine List.foldlRecOn _ _ (motive := fun r : Part => r.besides core = p4.besides core) rfl fun r hr i _ => ?_
        refine (Part.setWarp_besides _ (w := ⟨core, slots.getD i 0⟩) (p4.slot_lt core i) _).trans (Eq.trans ?_ hr)
        exact Part.besides_of_roster rfl core
      rw [State.setPart_part]
      exact Part.Adds.of_besides (b := ⟨id, seq, gang, bid, gcx, core, off, len, freshBars, true⟩) (bounded q) (housed.trans (Part.besides_of_roster opened core))

/-! ### Placing a gang (R81) -/

/-- The partition as a gang opens, before its blocks stand. -/
def Part.openGang (p : Part) (seq : Nat) (cores : List Nat) (now : Nat) : Part :=
  ({ p.settle now with gangs := p.gangs ++ [⟨p.gangSeq, seq, cores, ⟨0, 0, 0⟩, cores.length⟩], gangSeq := p.gangSeq + 1 } : Part).modGrid seq (fun g => { g with gangs := g.gangs + 1 })

/-- The site of block `i` of the next gang of a grid. -/
def Grid.siteOf (g : Grid) (id : Nat) (cores : List Nat) (i : Nat) : Nat × Nat × Nat × Nat := (g.seq, id, g.gangs * cores.length + i, cores.getD i 0)

/-- Blocks placed one after another on different cores, of which each has room. -/
theorem State.placeBlocks_add {s : State} {q seq id first : Nat} {g : Grid} {cores : List Nat} (hg : (s.part q).grid? seq = some g)
    (hroom : ∀ c ∈ cores, ((s.part q).planOn g.k c).isSome = true) (hnodup : cores.Nodup) (gcx : Nat → Nat) {n : Nat} (hn : n ≤ cores.length) :
    (s.part q).Adds (((List.range n).foldl (fun s i => s.placeBlock q seq id (first + i) (gcx i) (cores.getD i 0)) s).part q)
      ((List.range n).map (fun i => (seq, id, first + i, cores.getD i 0))) := by
  induction n with
  | zero => exact Part.Adds.refl _
  | succ n ih =>
    have before := ih (by omega)
    simp only [List.range_succ, List.foldl_append, List.foldl_cons, List.foldl_nil, List.map_append, List.map_cons, List.map_nil]
    generalize (List.range n).foldl (fun s i => s.placeBlock q seq id (first + i) (gcx i) (cores.getD i 0)) s = t at before ⊢
    refine before.trans (State.placeBlock_adds (g := g) ?_ ?_)
    · unfold Part.grid? at hg ⊢
      rw [before.grids, hg]
    · have new : ∀ x ∈ (List.range n).map (fun i => (seq, id, first + i, cores.getD i 0)), x.2.2.2 ≠ cores.getD n 0 := by
        intro x hx
        obtain ⟨i, hi, rfl⟩ := List.mem_map.1 hx
        have hlt : i < n := List.mem_range.1 hi
        rw [List.getD_eq_getElem _ _ (by omega), List.getD_eq_getElem _ _ (by omega)]
        exact fun e => absurd (hnodup.getElem_inj_iff.1 e) (by omega)
      have := hroom (cores.getD n 0) (by rw [List.getD_eq_getElem _ _ (by omega)]; exact List.getElem_mem _)
      unfold Part.planOn at this ⊢
      rwa [before.elsewhere _ new]

theorem State.placeGang_adds {s : State} {q : Nat} {g : Grid} {cores : List Nat} (hg : (s.part q).grid? g.seq = some g)
    (hroom : ∀ c ∈ cores, ((s.part q).planOn g.k c).isSome = true) (hnodup : cores.Nodup) :
    ((s.part q).openGang g.seq cores s.now).Adds ((s.placeGang q g.seq cores).part q) ((List.range cores.length).map (g.siteOf (s.part q).gangSeq cores)) := by
  have opened : ((s.part q).openGang g.seq cores s.now).grid? g.seq = some { g with gangs := g.gangs + 1 } := by
    refine (Part.grid?_modGrid fun _ => by rfl).trans ?_
    exact congrArg (Option.map _) hg
  unfold State.placeGang
  rw [hg]
  have := State.placeBlocks_add (s := s.modPart q (fun p => p.openGang g.seq cores s.now)) (q := q) (seq := g.seq) (id := (s.part q).gangSeq) (first := g.gangs * cores.length)
    (g := { g with gangs := g.gangs + 1 }) (cores := cores) (by rw [State.modPart_part]; exact opened) (by rw [State.modPart_part]; exact hroom) hnodup
    (fun i => if 1 < cores.length then i else 0) (Nat.le_refl _)
  rw [State.modPart_part] at this
  exact this

/-! ### A pass (R81, R82) -/

/-- The run of cores that is found passes the test, and names no core twice. -/
theorem firstRun_spec {nclu n : Nat} {oct : Bool} {serve : Nat → Bool} {ok : List Nat → Bool} {r : List Nat} (h : firstRun nclu n oct serve ok = some r) :
    ok r = true ∧ r.Nodup := by
  obtain ⟨inOct, found⟩ : ∃ inOct : Bool, ((List.range nclu).filter serve).findSome? (fun c => (List.range (49 - n)).findSome? (fun k =>
      if inOct && k / 8 != (k + n - 1) / 8 then none
      else if ok ((List.range n).map (fun i => c * 48 + k + i)) then some ((List.range n).map (fun i => c * 48 + k + i)) else none)) = some r := by
    unfold firstRun at h
    dsimp only at h
    split at h
    case h_1 x hx => exact ⟨true, hx.trans h⟩
    case h_2 =>
      split at h
      · simp at h
      · exact ⟨false, h⟩
  obtain ⟨c, -, hc⟩ := List.exists_of_findSome?_eq_some found
  obtain ⟨k, -, hk⟩ := List.exists_of_findSome?_eq_some hc
  split at hk
  · simp at hk
  · split at hk
    case isTrue hok =>
      obtain rfl := Option.some.inj hk
      exact ⟨hok, List.nodup_range.map fun i j e => by simpa using e⟩
    case isFalse => simp at hk

theorem State.gangRun_spec {s : State} {q : Nat} {g : Grid} {r : List Nat} (h : s.gangRun q g = some r) :
    (∀ c ∈ r, ((s.part q).planOn g.k c).isSome = true) ∧ r.Nodup := by
  unfold State.gangRun at h
  dsimp only at h
  split at h
  · simp at h
  · obtain ⟨fit, nodup⟩ := firstRun_spec h
    refine ⟨fun c hc => ?_, nodup⟩
    have := List.all_eq_true.1 fit c hc
    simp only [Part.fits, Bool.and_eq_true] at this
    exact this.2

section first

variable {s : State} {q : Nat} {g : Grid} {r : List Nat} (hg : (s.part q).grid? g.seq = some g) (hr : s.gangRun q g = some r)
include hg hr

/-- The blocks of a grid's next gang stand at the cores of its run. -/
theorem State.placeGang_gangRun :
    ((s.part q).openGang g.seq r s.now).Adds ((s.placeGang q g.seq r).part q) ((List.range r.length).map (g.siteOf (s.part q).gangSeq r)) :=
  State.placeGang_adds hg (State.gangRun_spec hr).1 (State.gangRun_spec hr).2

variable (h0 : 0 < g.l.items) (hl : g.l.items ≤ g.gangLanes)
include h0 hl

/-- A first pass whose first gang has a lane for every item places that gang alone. -/
theorem State.placeFirst_one (n : Nat) : s.placeFirst q g.seq 0 (n + 2) = s.placeGang q g.seq r := by
  have placed : ((s.placeGang q g.seq r).part q).grid? g.seq = some { g with gangs := g.gangs + 1 } := by
    rw [Part.grid?, (State.placeGang_gangRun hg hr).grids]
    exact (Part.grid?_modGrid fun _ => by rfl).trans (congrArg (Option.map _) hg)
  have first : s.placeFirst q g.seq 0 (n + 2) = (s.placeGang q g.seq r).placeFirst q g.seq (0 + g.gangLanes) (n + 1) := by
    rw [State.placeFirst, hg]
    simp only [hr, if_neg (Nat.not_le.2 h0)]
  rw [first, State.placeFirst, placed]
  simp only [Nat.zero_add, if_pos hl]

/-- What follows in the pass, the draws of the lanes and the look at the trigger, leaves the gang and its blocks where they are. -/
theorem State.placeGrid_one (hs : g.started = true) (hp : g.pooled = true) : State.SameView Part.standing (s.placeGang q g.seq r) (s.placeGrid q g.seq) := by
  have first : s.placeFirst q g.seq 0 passFuel = s.placeGang q g.seq r := State.placeFirst_one hg hr h0 hl 79998
  have filled (l : List Nat) (t : State) : State.SameView Part.standing t (l.foldl (fun s i => s.fillGang q i) t) :=
    State.SameView.foldl (step := fun (s : State) (i : Nat) => s.fillGang q i) (fun s i => State.fillGang_standing s q i) l t
  have placeable : g.placeable = true := by simp [Grid.placeable, Grid.exhausted, hs, hp]
  unfold State.placeGrid
  rw [hg]
  simp only [placeable, hp, first, Bool.not_true, Bool.false_eq_true, if_false, if_true]
  split
  · exact .refl _
  · refine State.SameView.trans (State.SameView.trans ?ranged (filled _ _)) (.modPart _ q fun p => p.checkTrigger_standing g.seq)
    exact .modPart _ q fun _ => by rfl

end first

theorem State.newHead_standing (s : State) (q : Nat) (old : Option Grid) : State.SameView Part.standing s (s.newHead q old) := by
  unfold State.newHead
  dsimp only
  split
  · exact .setPart s q rfl
  · split
    · split
      · exact .refl s
      · exact .setPart s q rfl
    · exact .setPart s q rfl

/-- A pass over the only grid, whose first gang has a lane for every item. -/
theorem State.placementPass_one {s : State} {q : Nat} {g : Grid} {r : List Nat} (hgrids : (s.part q).grids = [g]) (hs : g.started = true) (hp : g.pooled = true)
    (h0 : 0 < g.l.items) (hl : g.l.items ≤ g.gangLanes) (hr : s.gangRun q g = some r) :
    State.SameView Part.standing (s.placeGang q g.seq r) (s.placementPass q none) := by
  have hg : (s.part q).grid? g.seq = some g := by simp [Part.grid?, hgrids]
  have order : (s.part q).order = [g] := by simp [Part.order, hgrids, insGrid, Grid.placeable, Grid.exhausted, hs, hp]
  unfold State.placementPass
  simp only [order, Grid.above, List.filter_cons, List.filter_nil, if_true, List.foldl_cons, List.foldl_nil]
  exact (State.placeGrid_one hg hr h0 hl hs hp).trans (State.newHead_standing _ q _)

/-! ### What the steps answer -/

theorem happens_placementPass (s : State) (q : Nat) : Happens s q .placement_pass (s.taken.placementPass q (s.taken.restoreFloor q)) := rfl
theorem happens_headGangReserve (s : State) (q : Nat) : Happens s q .head_gang_reserve (s.taken.reserveHead q) := rfl
theorem happens_donation (s : State) (q g k : Nat) : Happens s q (.donation g k) (s.taken.modPart q (fun p => p.modGrid g (fun x => x.donate k))) := rfl
theorem happens_warpRetire (s : State) (q : Nat) (w : WRef) : Happens s q (.warp_retire w) (s.taken.warpRetire q w) := rfl

theorem happens_blockRetire {s : State} {q g bid : Nat} {b : Block} (h : (s.part q).blockAt g bid = some b) (hd : (s.part q).blockDone b = true) :
    Happens s q (.block_retire g bid) (s.taken.modPart q (fun p => p.retireBlock b s.now)) := by
  have answers : Happens s q (.block_retire g bid) (match (s.part q).blockAt g bid with
    | some b => if (s.part q).blockDone b then s.taken.modPart q (fun p => p.retireBlock b s.now) else s.taken
    | none => s.taken) := rfl
  rw [h] at answers
  simpa only [hd, if_true] using answers

theorem happens_gridComplete {s : State} {q g : Nat} {x : Grid} (h : (s.part q).grid? g = some x) (hd : (s.part q).gridDone x = true) :
    Happens s q (.grid_complete g) (s.taken.completeGrid q x) := by
  have answers : Happens s q (.grid_complete g) (match (s.part q).grid? g with
    | some x => if (s.part q).gridDone x then s.taken.completeGrid q x else s.taken
    | none => s.taken) := rfl
  rw [h] at answers
  simpa only [hd, if_true] using answers

/-! ### The step under way has no part in what an image holds -/

theorem State.taken_part (s : State) : s.taken.part = s.part := rfl

theorem State.taken_imageRead (s : State) : s.taken.imageRead = s.imageRead := rfl

theorem State.taken_readBlock (s : State) : s.taken.readBlock = s.readBlock := by
  funext q a
  unfold State.readBlock
  rw [State.taken_imageRead]

theorem State.taken_readUnit (s : State) : s.taken.readUnit = s.readUnit := by
  funext q n a
  induction n generalizing a with
  | zero => dsimp only [State.readUnit]
  | succ n ih =>
    dsimp only [State.readUnit]
    simp only [State.taken_readBlock, ih]

theorem State.taken_restoreClu (s : State) : s.taken.restoreClu = s.restoreClu := rfl

theorem State.taken_restorePlan (s : State) (q : Nat) (r : Restoration) : s.taken.restorePlan q r = s.restorePlan q r := by
  unfold State.restorePlan
  rw [State.taken_imageRead, State.taken_readUnit, State.taken_restoreClu, State.taken_part]

theorem State.taken_restoreFloor (s : State) (q : Nat) : s.taken.restoreFloor q = s.restoreFloor q := by
  unfold State.restoreFloor State.restoreDue
  simp only [State.taken_restorePlan]
  rfl

end Sys2Proof.Machine
end

section
/-! SUPPORT. The statement about placing, reserving, donating, retiring and completing. -/

namespace Sys2Proof.Machine

/-! ### Each step's answer -/

theorem happens_place {s : State} {q : Nat} {g : Grid} {r : List Nat} (hgrids : (s.part q).grids = [g]) (hs : g.started = true) (hp : g.pooled = true) (h0 : 0 < g.l.items)
    (hl : g.l.items ≤ g.gangLanes) (hfloor : s.restoreFloor q = none) (hr : s.gangRun q g = some r) :
    ∃ t, Happens s q .placement_pass t ∧
      (t.part q).gangs.map (fun x => (x.id, x.grid, x.cores)) = (s.part q).gangs.map (fun x => (x.id, x.grid, x.cores)) ++ [((s.part q).gangSeq, g.seq, r)] ∧
      (t.part q).blocks.map Block.site = (s.part q).blocks.map Block.site ++ (List.range r.length).map (g.siteOf (s.part q).gangSeq r) := by
  have hg : (s.part q).grid? g.seq = some g := by simp [Part.grid?, hgrids]
  have placed := State.placeGang_gangRun (s := s.taken) hg hr
  have pass := State.placementPass_one (s := s.taken) hgrids hs hp h0 hl hr q
  refine ⟨_, happens_placementPass s q, ?_, ?_⟩ <;> rw [State.taken_restoreFloor, hfloor]
  · rw [Part.gangs_of_standing pass, placed.gangs]
    exact List.map_append
  · rw [Part.blocks_of_standing pass]
    exact placed.sites

theorem State.reserveHead_eq {s : State} {q h u : Nat} {x : Grid} {r : List Nat} (hh : (s.part q).headGang = some (h, u)) (hx : (s.part q).grid? h = some x)
    (hu : u + 4096 ≤ s.now) (hn : (s.part q).reserved = []) (hr : s.headRun q x = some r) : s.reserveHead q = s.setPart q { s.part q with reserved := r } := by
  have due : ¬(s.now < u + 4096 ∨ (!(s.part q).reserved.isEmpty) = true) := by simp [hn, hu]
  unfold State.reserveHead
  simp only [hh, hx, if_neg due, hr]

theorem Grid.donate_ranges {x : Grid} {k : Nat} {r : Range} (he : (x.range k).size = 0) (hd : x.donor k = some r) (hk : r.clu ≠ k) :
    (x.donate k).range r.clu = ⟨r.clu, r.lo, r.hi - r.size / 2⟩ ∧ (x.donate k).range k = ⟨k, r.hi - r.size / 2, r.hi⟩ ∧
      ∀ j, j ≠ k → j ≠ r.clu → (x.donate k).range j = x.range j := by
  rw [Grid.donate_eq he hd]
  refine ⟨?_, Grid.setRange_range _ ⟨k, r.hi - r.size / 2, r.hi⟩, fun j hj hr => ?_⟩
  · rw [Grid.setRange_range_other _ (Ne.symm hk)]
    exact Grid.setRange_range x ⟨r.clu, r.lo, r.hi - r.size / 2⟩
  · exact (Grid.setRange_range_other _ (Ne.symm hj)).trans (Grid.setRange_range_other x (Ne.symm hr))

theorem happens_retire {s : State} {q : Nat} {w : WRef} {c : Ctx} (hc : (s.part q).ctx w = some c) (hw : c.x.wait = .retire) (hi : c.x.ifc = 0) (ho : onceEach (s.part q).warps) :
    ∃ t, Happens s q (.warp_retire w) t ∧ (t.part q).warp w = none ∧
      (t.part q).block? c.blk.id = some (c.blk.leftBy c.x) := by
  obtain ⟨-, hx, -⟩ := Part.ctx_some hc
  obtain ⟨gone, found⟩ := Part.retireWarp_leaves hc ho
  have stands := State.retestColl_standing (s.taken.modPart q (fun p => p.retireWarp w)) q c.x.block q
  rw [State.modPart_part] at stands
  refine ⟨_, (happens_warpRetire s q w).of_eq (State.warpRetire_eq hx hw hi), ?_, ?_⟩
  · rw [← Option.not_isSome_iff_eq_none, ← Part.resident_wkey, Part.resident_of_standing stands, Part.resident_wkey]
    exact Option.not_isSome_iff_eq_none.2 gone
  · rw [Part.block?, Part.blocks_of_standing stands]
    exact found

/-- Settles O51: each step answers what the lemma on its operation says, and what it does besides, draws of items, triggers and the start of a collective, moves no block, gang or warp. -/
theorem placingAndRetiring : Obligations.PlacingAndRetiring := by
  intro s q
  dsimp only
  refine ⟨fun g r hgrids hs hp h0 hl hfloor hr => happens_place hgrids hs hp h0 hl hfloor hr, fun g x u r hh hx hu hn hr => ?reserve,
    fun g x k r hx hs he hr hk h2 hmax => ?donate, fun w c hc hw hi hb ho => ?warp, fun g bid b hb hw hm => ?block, fun x hx hs he hb ha => ?grid⟩
  case reserve => exact (happens_headGangReserve s q).of_eq (State.reserveHead_eq (s := s.taken) hh hx hu hn hr)
  case donate =>
    have given : ((s.part q).modGrid g (fun x => x.donate k)).grid? g = some (x.donate k) := by rw [Part.grid?_modGrid fun x => x.donate_seq k, hx, Option.map_some]
    exact ⟨_, x.donate k, happens_donation s q g k, by rw [State.modPart_part]; exact given, Grid.donate_ranges he (Grid.donor_eq hs hr hk h2 hmax) hk⟩
  case warp =>
    obtain ⟨t, ht, gone, found⟩ := happens_retire hc hw hi ho
    refine ⟨t, _, ht, gone, found, fun i hlt => ?_⟩
    rw [c.blk.leftBy_bar c.x hb hlt]
    simp [Bar.tested, Bar.complete]
  case block =>
    refine ⟨_, happens_blockRetire hb (by simp [Part.blockDone, hw, hm]), ?_⟩
    rw [State.modPart_part]
    exact (s.part q).retireBlock_leaves b s.now
  case grid =>
    have done : (s.part q).gridDone x = true := by simpa [Part.gridDone, Part.gridBlocks, Part.awayOf, hs, he] using ⟨hb, ha⟩
    refine ⟨_, happens_gridComplete hx done, ?_⟩
    rw [State.completeGrid_part]
    exact ⟨(s.part q).closeGrid_seqs x, s.taken.completeGrid_outbox q x, (s.part q).closeGrid_events x⟩

end Sys2Proof.Machine
end

section
/-! SUPPORT. The fields of a word, and words of the common layout of three fields. -/

namespace Sys2Proof

/-! ### The fields of a word -/

/-- A field below the bung reads its bits of the other 31. -/
theorem nat_word (bg : Bool) (x : Nat) {lo n : Nat} (h : lo + n ≤ 31) : nat (word bg x) lo n = x / 2 ^ lo % 2 ^ n := by
  have hp : (2 : Nat) ^ 31 = 2 ^ lo * (2 ^ n * 2 ^ (31 - lo - n)) := by rw [← pow_add, ← pow_add]; congr 1; omega
  have low (y : Nat) : y / 2 ^ lo % 2 ^ n = y % 2 ^ 31 / 2 ^ lo % 2 ^ n := by rw [hp, Nat.mod_mul_right_div_self, Nat.mod_mul_right_mod]
  have hb : ((if bg then 2 ^ 31 else 0) + x) % 2 ^ 32 % 2 ^ 31 = x % 2 ^ 31 := by cases bg <;> simp
  unfold nat word
  rw [BitVec.toNat_ofNat, low, hb, ← low]

theorem bungOf_word (bg : Bool) {x : Nat} (h : x < 2 ^ 31) : bungOf (word bg x) = bg := by
  cases bg <;> simp [bungOf, nat, word] <;> omega

/-- A field holds the value that its number is. -/
theorem fld_of_nat {w : BitVec 32} {lo n : Nat} {v : BitVec n} (h : nat w lo n = v.toNat) : fld w lo n = v := by
  apply BitVec.eq_of_toNat_eq
  rw [← h]
  simp [fld, nat]

/-- A field within a wider one. -/
theorem nat_within (w : BitVec 32) (lo : Nat) {k j n : Nat} (h : j + n ≤ k) : nat w (lo + j) n = nat w lo k / 2 ^ j % 2 ^ n := by
  have hk : (2 : Nat) ^ k = 2 ^ j * (2 ^ n * 2 ^ (k - j - n)) := by rw [← pow_add, ← pow_add]; congr 1; omega
  unfold nat
  rw [hk, Nat.mod_mul_right_div_self, Nat.mod_mul_right_mod, pow_add, Nat.div_div_eq_div_mul]

theorem fld_within {w : BitVec 32} (lo k j : Nat) {n : Nat} {v : BitVec n} (h : j + n ≤ k) (hv : nat w lo k / 2 ^ j % 2 ^ n = v.toNat) : fld w (lo + j) n = v :=
  fld_of_nat (by rw [nat_within w lo h, hv])

/-- Two fields side by side. -/
theorem nat_add (w : BitVec 32) (lo m n : Nat) : nat w lo (m + n) = nat w lo m + 2 ^ m * nat w (lo + m) n := by
  unfold nat
  rw [pow_add 2 m n, pow_add 2 lo m, ← Nat.div_div_eq_div_mul, Nat.mod_mul]

/-! ### Words of the common layout (R41) -/

/-- A word holds fixed bits `x` above three fields of seven bits. -/
structure Lays (w : BitVec 32) (x d a b : Nat) : Prop where
  op : nat w 25 6 = x / 2 ^ 25
  fn : nat w 21 4 = x / 2 ^ 21 % 2 ^ 4
  d : nat w 14 7 = d
  a : nat w 7 7 = a
  b : nat w 0 7 = b

theorem lays_fields (bg : Bool) {x d a b : Nat} (h : x < 2 ^ 31) (hx : x % 2 ^ 21 = 0) (hd : d < 2 ^ 7) (ha : a < 2 ^ 7) (hb : b < 2 ^ 7) :
    Lays (word bg (fields x d a b)) x d a b := by
  constructor <;> rw [nat_word _ _ (by decide)] <;> unfold fields <;> omega

/-- A value of at most seven bits in a place of seven. -/
theorem fld_of_place {w : BitVec 32} {lo n : Nat} {v : BitVec n} (h : nat w lo 7 = v.toNat) (hn : n ≤ 7) : fld w lo n = v :=
  fld_within lo 7 0 (by omega) (by rw [h, pow_zero, Nat.div_one, Nat.mod_eq_of_lt v.isLt])

/-- The bits above such a value are zero. -/
theorem nat_above {w : BitVec 32} {lo n k : Nat} {v : BitVec n} (h : nat w lo 7 = v.toNat) (hk : n + k = 7) : nat w (lo + n) k = 0 := by
  rw [nat_within w lo (Nat.le_of_eq hk), h, Nat.div_eq_of_lt v.isLt, Nat.zero_mod]

section Lays
variable {w : BitVec 32} {x d a b n i k : Nat} {v : BitVec n}
theorem Lays.fld_d (h : Lays w x v.toNat a b) (hn : n ≤ 7) : fld w 14 n = v := fld_of_place h.d hn
theorem Lays.fld_a (h : Lays w x d v.toNat b) (hn : n ≤ 7) : fld w 7 n = v := fld_of_place h.a hn
theorem Lays.fld_b (h : Lays w x d a v.toNat) (hn : n ≤ 7) : fld w 0 n = v := fld_of_place h.b hn
theorem Lays.top_d (h : Lays w x v.toNat a b) (hk : n + k = 7) (hi : i = 14 + n) : nat w i k = 0 := hi ▸ nat_above h.d hk
theorem Lays.top_a (h : Lays w x d v.toNat b) (hk : n + k = 7) (hi : i = 7 + n) : nat w i k = 0 := hi ▸ nat_above h.a hk
theorem Lays.top_b (h : Lays w x d a v.toNat) (hk : n + k = 7) (hi : i = 0 + n) : nat w i k = 0 := hi ▸ nat_above h.b hk
theorem Lays.zero_ab (h : Lays w x d 0 0) : nat w 0 14 = 0 := by rw [nat_add w 0 7 7, h.a, h.b, Nat.mul_zero]
theorem Lays.zero_da (h : Lays w x 0 0 b) : nat w 7 14 = 0 := by rw [nat_add w 7 7 7, h.d, h.a, Nat.mul_zero]
theorem Lays.zero_dab (h : Lays w x 0 0 0) : nat w 0 21 = 0 := by rw [nat_add w 0 14 7, h.d, h.zero_ab, Nat.mul_zero]
theorem Lays.zero_d_top_a {v : BitVec 4} (h : Lays w x 0 v.toNat b) : nat w 11 10 = 0 := by rw [nat_add w 11 3 7, h.d, h.top_a rfl rfl, Nat.mul_zero]
end Lays

end Sys2Proof
end

section
/-! SUPPORT. The encoder's words read back: every instruction by its major opcode, and the statements about decoding. -/

namespace Sys2Proof

/-! ### Every instruction's word reads back (R41, R52) -/

/-- What the encoder lays out of an instruction reads back, with the bung and without. -/
def Instr.ReadsBack (i : Instr) : Prop := ∃ f, encodeFields i = some f ∧ f < 2 ^ 31 ∧ ∀ bg, decodeFields (word bg f) = some i

theorem Instr.ReadsBack.of_lays {i : Instr} {x d a b : Nat} (he : encodeFields i = some (fields x d a b)) (h : ∀ w, Lays w x d a b → decodeFields w = some i)
    (hx : x ≤ 2 ^ 31 - 2 ^ 21 ∧ x % 2 ^ 21 = 0 := by decide) (hd : d < 2 ^ 7 := by omega) (ha : a < 2 ^ 7 := by omega) (hb : b < 2 ^ 7 := by omega) :
    i.ReadsBack :=
  ⟨_, he, by unfold fields; omega, fun bg => h _ (lays_fields bg (by omega) hx.2 hd ha hb)⟩

/-- The same where bits [24:21] hold a code `fn` of the instruction's own. -/
theorem Instr.ReadsBack.of_coded {i : Instr} {x d a b : Nat} (op fn : Nat) (he : encodeFields i = some (fields x d a b))
    (h : ∀ w, nat w 25 6 = op → nat w 21 4 = fn → Lays w x d a b → decodeFields w = some i)
    (hx : x = op * 2 ^ 25 + fn * 2 ^ 21 := by omega) (hop : op < 2 ^ 6 := by decide) (hfn : fn < 2 ^ 4 := by omega)
    (hd : d < 2 ^ 7 := by omega) (ha : a < 2 ^ 7 := by omega) (hb : b < 2 ^ 7 := by omega) : i.ReadsBack :=
  .of_lays he (fun w hw => h w (by rw [hw.op]; omega) (by rw [hw.fn]; omega) hw) (by omega) hd ha hb

/-- The same where bits [13:0] hold one field (R51). -/
theorem Instr.ReadsBack.of_wide {i : Instr} {x d : Nat} {c : BitVec 14} (he : encodeFields i = some (fields x d 0 c.toNat))
    (h : ∀ w, Lays w x d (c.toNat / 2 ^ 7) (c.toNat % 2 ^ 7) → fld w 0 14 = c → decodeFields w = some i)
    (hx : x ≤ 2 ^ 31 - 2 ^ 21 ∧ x % 2 ^ 21 = 0 := by decide) (hd : d < 2 ^ 7 := by omega) : i.ReadsBack :=
  .of_lays (he.trans (congrArg some (by unfold fields; omega)))
    (fun w hw => h w hw (fld_of_nat (by rw [nat_add w 0 7 7, hw.a, hw.b]; omega))) hx

/-- The same for the words of long immediates (R41). -/
theorem Instr.ReadsBack.of_long {i : Instr} {f : Nat} (op : Nat) (he : encodeFields i = some f)
    (h : ∀ w, nat w 25 6 = op → (∀ {lo n}, lo + n ≤ 31 → nat w lo n = f / 2 ^ lo % 2 ^ n) → decodeFields w = some i)
    (hf : f < 2 ^ 31 := by unfold fields; omega) (hop : f / 2 ^ 25 = op := by unfold fields; omega) : i.ReadsBack :=
  ⟨f, he, hf, fun bg => h _ (by rw [nat_word bg f (by decide), hop]; omega) fun hl => nat_word bg f hl⟩

/-- An instruction that is no step of the device has a word. -/
theorem encodeFields_isSome {i : Instr} (hi : ∀ e : Event, i ≠ e.instr) : (encodeFields i).isSome = true := by
  cases i with
  | commit => exact (hi (.commit ⟨0, 0⟩) rfl).elim
  | qtail => exact (hi (.qtail 0 0 .bar0) rfl).elim
  | resume => exact (hi (.resume 0 .bar0) rfl).elim
  | skip => exact (hi (.skip 0 .bar0) rfl).elim
  | register_write => exact (hi (.register_write .errHead 0 .bar0) rfl).elim
  | event_counter_write => exact (hi (.event_counter_write 0 0) rfl).elim
  | record_accept => exact (hi (.record_accept 0) rfl).elim
  | grid_start => exact (hi (.grid_start 0) rfl).elim
  | placement_pass => exact (hi (.placement_pass) rfl).elim
  | head_gang_reserve => exact (hi (.head_gang_reserve) rfl).elim
  | donation => exact (hi (.donation 0 0) rfl).elim
  | reserved_inject => exact (hi (.reserved_inject ⟨0, 0⟩) rfl).elim
  | carveout_interval => exact (hi (.carveout_interval) rfl).elim
  | warp_retire => exact (hi (.warp_retire ⟨0, 0⟩) rfl).elim
  | block_retire => exact (hi (.block_retire 0 0) rfl).elim
  | grid_complete => exact (hi (.grid_complete 0) rfl).elim
  | parked_placement => exact (hi (.parked_placement) rfl).elim
  | copy_unit => exact (hi (.copy_unit 0) rfl).elim
  | copy_completion => exact (hi (.copy_completion 0) rfl).elim
  | product_start => exact (hi (.product_start 0 0) rfl).elim
  | product_land => exact (hi (.product_land 0 0 .pass) rfl).elim
  | lock_release_arrive => exact (hi (.lock_release_arrive) rfl).elim
  | lock_grant => exact (hi (.lock_grant) rfl).elim
  | lock_timeout => exact (hi (.lock_timeout ⟨0, 0⟩) rfl).elim
  | inherit_hop => exact (hi (.inherit_hop ⟨0, 0⟩) rfl).elim
  | racq_timeout => exact (hi (.racq_timeout ⟨0, 0⟩) rfl).elim
  | split_timeout => exact (hi (.split_timeout ⟨0, 0⟩) rfl).elim
  | fuse_timeout => exact (hi (.fuse_timeout ⟨0, 0⟩) rfl).elim
  | sleep_expiry => exact (hi (.sleep_expiry ⟨0, 0⟩) rfl).elim
  | safepoint_force => exact (hi (.safepoint_force ⟨0, 0⟩) rfl).elim
  | swap_image_write => exact (hi (.swap_image_write 0) rfl).elim
  | restore => exact (hi (.restore) rfl).elim
  | unit_kill => exact (hi (.unit_kill 0) rfl).elim
  | tlbi_complete => exact (hi (.tlbi_complete) rfl).elim
  | record_post => exact (hi (.record_post) rfl).elim
  | aged => exact (hi (.aged ⟨0, 0⟩) rfl).elim
  | coll_instance_end => exact (hi (.coll_instance_end 0 0) rfl).elim
  | coll_timeout => exact (hi (.coll_timeout 0 0) rfl).elim
  | data => exact (hi (.data ⟨0, 0, 0, 0, 0, 0, 0, 0, 0, 0, 0, 0, []⟩) rfl).elim
  | counts => exact (hi (.counts ⟨0, 0, 0, 0, 0, 0, 0, 0, 0, 0, 0, 0, []⟩) rfl).elim
  | ack => exact (hi (.ack ⟨0, 0, 0, 0, 0, 0, 0, 0, 0, 0, 0, 0, []⟩) rfl).elim
  | abort_frame => exact (hi (.abort_frame ⟨0, 0, 0, 0, 0, 0, 0, 0, 0, 0, 0, 0, []⟩) rfl).elim
  | retransmit => exact (hi (.retransmit 0) rfl).elim
  | pause => exact (hi (.pause 0 true) rfl).elim
  | host_write => exact (hi (.host_write 0 []) rfl).elim
  | host_read => exact (hi (.host_read .rdy) rfl).elim
  | merge_request => exact (hi (.merge_request 0) rfl).elim
  | divide_request => exact (hi (.divide_request 0) rfl).elim
  | device_reset => exact (hi (.device_reset) rfl).elim
  | boot_stage => exact (hi (.boot_stage 0 ⟨[], [], 0, true⟩) rfl).elim
  | partition_reset => exact (hi (.partition_reset 0) rfl).elim
  | attestation_report => exact (hi (.attestation_report []) rfl).elim
  | unit_ready => exact (hi (.unit_ready (.stack 0)) rfl).elim
  | corrected_error => exact (hi (.corrected_error ⟨.hbmRow, 0, .stack 0⟩ true) rfl).elim
  | kiln_replan => exact (hi (.kiln_replan 0 0) rfl).elim
  | thermal_stop => exact (hi (.thermal_stop) rfl).elim
  | thermal_resume => exact (hi (.thermal_resume) rfl).elim
  | power_throttle => exact (hi (.power_throttle 0) rfl).elim
  | _ => rfl

/-- The encoder and the decoder agree on every instruction that has a word; `sel` of p7 has none (R148). -/
theorem Instr.readsBack {i : Instr} (hw : (encodeFields i).isSome = true) (hs : ∀ n d a b, i = .sel n d a b → n.toNat ≤ 6) : i.ReadsBack := by
  cases i with
  | iadd d a b | isub d a b | imin d a b | imax d a b | umin d a b | umax d a b | iabsd d a b | iavg d a b | iadds d a b | isubs d a b | uadds d a b
  | usubs d a b | imul d a b | imulh d a b | umulh d a b | imad d a b =>
    refine .of_lays rfl fun w h => ?_
    rw [decodeFields, h.op]
    change decodeOp01 w = _
    simp [decodeOp01, h.fn, h.fld_d, h.fld_a, h.fld_b]
  | and d a b | or d a b | xor d a b | andn d a b | orn d a b | xnor d a b | shl d a b | shr d a b | sar d a b | rol d a b | bfx d a b | bfi d a b
  | prmb d a b =>
    refine .of_lays rfl fun w h => ?_
    rw [decodeFields, h.op]
    change decodeOp02 w = _
    simp [decodeOp02, h.fn, h.fld_d, h.fld_a, h.fld_b]
  | popc d a | clz d a | brev d a =>
    refine .of_lays rfl fun w h => ?_
    rw [decodeFields, h.op]
    change decodeOp02 w = _
    simp [decodeOp02, h.fn, h.b, h.fld_d, h.fld_a]
  | iaddi d a i | andi d a i | ori d a i | xori d a i | imini d a i | imaxi d a i =>
    refine .of_lays rfl fun w h => ?_
    rw [decodeFields, h.op]
    change decodeOp03 w = _
    simp [decodeOp03, h.fn, h.fld_d, h.fld_a, h.fld_b]
  | shli d a i | shri d a i | sari d a i | roli d a i =>
    refine .of_lays rfl fun w h => ?_
    rw [decodeFields, h.op]
    change decodeOp03 w = _
    simp [decodeOp03, h.fn, h.top_b, h.fld_d, h.fld_a, h.fld_b]
  | mov d a =>
    refine .of_lays rfl fun w h => ?_
    rw [decodeFields, h.op]
    change decodeOp08 w = _
    simp [decodeOp08, h.fn, h.b, h.fld_d, h.fld_a]
  | pand d a b | por d a b | pxor d a b | qand d a b | qor d a b | qxor d a b =>
    refine .of_lays rfl fun w h => ?_
    rw [decodeFields, h.op]
    change decodeOp09 w = _
    simp [decodeOp09, h.fn, h.top_a, h.top_b, h.top_d, h.fld_d, h.fld_a, h.fld_b]
  | pnot d a | qnot d a =>
    refine .of_lays rfl fun w h => ?_
    rw [decodeFields, h.op]
    change decodeOp09 w = _
    simp [decodeOp09, h.fn, h.b, h.top_a, h.top_d, h.fld_d, h.fld_a]
  | ptov d =>
    refine .of_lays rfl fun w h => ?_
    rw [decodeFields, h.op]
    change decodeOp09 w = _
    simp [decodeOp09, h.fn, h.zero_ab, h.fld_d]
  | vtop a b =>
    refine .of_lays rfl fun w h => ?_
    rw [decodeFields, h.op]
    change decodeOp09 w = _
    simp [decodeOp09, h.fn, h.d, h.fld_a, h.fld_b]
  | sadd d a b | ssub d a b | smul d a b | smulhu d a b | smin d a b | smax d a b | sminu d a b | smaxu d a b | sand d a b | sor d a b | sxor d a b
  | sshl d a b | sshr d a b | ssar d a b =>
    refine .of_lays rfl fun w h => ?_
    rw [decodeFields, h.op]
    change decodeOp0A w = _
    simp [decodeOp0A, h.fn, h.fld_d, h.fld_a, h.fld_b]
  | spopc d a | sclz d a =>
    refine .of_lays rfl fun w h => ?_
    rw [decodeFields, h.op]
    change decodeOp0A w = _
    simp [decodeOp0A, h.fn, h.b, h.fld_d, h.fld_a]
  | saddi d a i | sandi d a i | sori d a i | sxori d a i =>
    refine .of_lays rfl fun w h => ?_
    rw [decodeFields, h.op]
    change decodeOp0B w = _
    simp [decodeOp0B, h.fn, h.fld_d, h.fld_a, h.fld_b]
  | sshli d a i | sshri d a i | ssari d a i =>
    refine .of_lays rfl fun w h => ?_
    rw [decodeFields, h.op]
    change decodeOp0B w = _
    simp [decodeOp0B, h.fn, h.top_b, h.fld_d, h.fld_a, h.fld_b]
  | vany d a | vall d a =>
    refine .of_lays rfl fun w h => ?_
    rw [decodeFields, h.op]
    change decodeOp0E w = _
    simp [decodeOp0E, h.fn, h.b, h.top_a, h.top_d, h.fld_d, h.fld_a]
  | ballot d a | vcnt d a | vfirst d a =>
    refine .of_lays rfl fun w h => ?_
    rw [decodeFields, h.op]
    change decodeOp0E w = _
    simp [decodeOp0E, h.fn, h.b, h.top_a, h.fld_d, h.fld_a]
  | rdlane d a b | wrlane d a b =>
    refine .of_lays rfl fun w h => ?_
    rw [decodeFields, h.op]
    change decodeOp0E w = _
    simp [decodeOp0E, h.fn, h.fld_d, h.fld_a, h.fld_b]
  | lget_idx d a b | lget_up d a k | lget_dn d a k | lget_xor d a b =>
    refine .of_lays rfl fun w h => ?_
    rw [decodeFields, h.op]
    change decodeOp0F w = _
    simp [decodeOp0F, h.fn, h.fld_d, h.fld_a, h.fld_b]
  | lget_wxor d a k | lget_wrot d a k =>
    refine .of_lays rfl fun w h => ?_
    rw [decodeFields, h.op]
    change decodeOp0F w = _
    simp [decodeOp0F, h.fn, h.top_b, h.fld_d, h.fld_a, h.fld_b]
  | radd d a | rmin d a | rmax d a | rumin d a | rumax d a | rfadd d a | rfmin d a | rfmax d a | scan_add d a | scan_fadd d a =>
    refine .of_lays rfl fun w h => ?_
    rw [decodeFields, h.op]
    change decodeOp10 w = _
    simp [decodeOp10, h.fn, h.b, h.fld_d, h.fld_a]
  | rstep_add d a b | rstep_fadd d a b | rstep_fmax d a b =>
    refine .of_lays rfl fun w h => ?_
    rw [decodeFields, h.op]
    change decodeOp10 w = _
    simp [decodeOp10, h.fn, h.fld_d, h.fld_a, h.fld_b]
  | fadd d a b | fsub d a b | fmul d a b | fma d a b | fnma d a b | fmin d a b | fmax d a b | fcpys d a b | fscale d a b =>
    refine .of_lays rfl fun w h => ?_
    rw [decodeFields, h.op]
    change decodeOp11 w = _
    simp [decodeOp11, h.fn, h.fld_d, h.fld_a, h.fld_b]
  | fabs d a | fneg d a | fmov d a | frnd d a | fclass d a =>
    refine .of_lays rfl fun w h => ?_
    rw [decodeFields, h.op]
    change decodeOp11 w = _
    simp [decodeOp11, h.fn, h.b, h.fld_d, h.fld_a]
  | frcp d a | frsq d a | fsqrt d a | fex2 d a | flg2 d a | fsin d a | fcos d a | ftanh d a =>
    refine .of_lays rfl fun w h => ?_
    rw [decodeFields, h.op]
    change decodeOp12 w = _
    simp [decodeOp12, h.fn, h.b, h.fld_d, h.fld_a]
  | hadd2 d a b | hmul2 d a b | hfma2 d a b | hmin2 d a b | hmax2 d a b | hadd2_bf d a b | hmul2_bf d a b | hfma2_bf d a b | hmin2_bf d a b | hmax2_bf d a b =>
    refine .of_lays rfl fun w h => ?_
    rw [decodeFields, h.op]
    change decodeOp13 w = _
    simp [decodeOp13, h.fn, h.fld_d, h.fld_a, h.fld_b]
  | f2i d a | f2z d a | i2f d a | z2f d a | f2l d a | l2f d a =>
    refine .of_lays rfl fun w h => ?_
    rw [decodeFields, h.op]
    change decodeOp15 w = _
    simp [decodeOp15, h.fn, h.b, h.fld_d, h.fld_a]
  | pkh2 d a b | pkbf2 d a b =>
    refine .of_lays rfl fun w h => ?_
    rw [decodeFields, h.op]
    change decodeOp15 w = _
    simp [decodeOp15, h.fn, h.fld_d, h.fld_a, h.fld_b]
  | bexp d a =>
    refine .of_lays rfl fun w h => ?_
    rw [decodeFields, h.op]
    change decodeOp16 w = _
    simp [decodeOp16, h.fn, h.b, h.fld_d, h.fld_a]
  | bq_8 d a b | bq_6 d a b | bq_4 d a b | bq_2 d a b | bdq_8 d a b | bdq_6 d a b | bdq_4 d a b | bdq_2 d a b =>
    refine .of_lays rfl fun w h => ?_
    rw [decodeFields, h.op]
    change decodeOp16 w = _
    simp [decodeOp16, h.fn, h.fld_d, h.fld_a, h.fld_b]
  | ldf6 d a b | ldloc_w d a b | ldloc_d d a b | ldloc_q d a b =>
    refine .of_lays rfl fun w h => ?_
    rw [decodeFields, h.op]
    change decodeOp1A w = _
    simp [decodeOp1A, h.fn, h.fld_d, h.fld_a, h.fld_b]
  | rsdef d a b | rsadd d a b | rsdel d a b | rsqry d a b =>
    refine .of_lays rfl fun w h => ?_
    rw [decodeFields, h.op]
    change decodeOp1C w = _
    simp [decodeOp1C, h.fn, h.fld_d, h.fld_a, h.fld_b]
  | unpark a =>
    refine .of_lays rfl fun w h => ?_
    rw [decodeFields, h.op]
    change decodeOp1C w = _
    simp [decodeOp1C, h.fn, h.b, h.d, h.fld_a]
  | atom_add d a b | atom_min d a b | atom_max d a b | atom_umin d a b | atom_umax d a b | atom_and d a b | atom_or d a b | atom_xor d a b | atom_xchg d a b
  | atom_cas d a b | atom_fadd d a b | atom_bfadd2 d a b | atom_inc d a b | atom_add64 d a b | atom_cas64 d a b =>
    refine .of_lays rfl fun w h => ?_
    rw [decodeFields, h.op]
    change decodeOp1D w = _
    simp [decodeOp1D, h.fn, h.fld_d, h.fld_a, h.fld_b]
  | llock d a b =>
    refine .of_lays rfl fun w h => ?_
    rw [decodeFields, h.op]
    change decodeOp1E w = _
    simp [decodeOp1E, h.fn, h.fld_d, h.fld_a, h.fld_b]
  | ltry d a | lunlk d a | lqry d a | labnd d a =>
    refine .of_lays rfl fun w h => ?_
    rw [decodeFields, h.op]
    change decodeOp1E w = _
    simp [decodeOp1E, h.fn, h.b, h.fld_d, h.fld_a]
  | nbwait i b | nbarv i b =>
    refine .of_lays rfl fun w h => ?_
    rw [decodeFields, h.op]
    change decodeOp1F w = _
    simp [decodeOp1F, h.fn, h.zero_d_top_a, h.fld_a, h.fld_b]
  | gbwait b =>
    refine .of_lays rfl fun w h => ?_
    rw [decodeFields, h.op]
    change decodeOp1F w = _
    simp [decodeOp1F, h.fn, h.zero_da, h.fld_b]
  | abinit a b | abwait a b =>
    refine .of_lays rfl fun w h => ?_
    rw [decodeFields, h.op]
    change decodeOp1F w = _
    simp [decodeOp1F, h.fn, h.d, h.fld_a, h.fld_b]
  | abarv d a b | abtest d a b =>
    refine .of_lays rfl fun w h => ?_
    rw [decodeFields, h.op]
    change decodeOp1F w = _
    simp [decodeOp1F, h.fn, h.fld_d, h.fld_a, h.fld_b]
  | pref a b | cwb a b | cinv a b =>
    refine .of_lays rfl fun w h => ?_
    rw [decodeFields, h.op]
    change decodeOp21 w = _
    simp [decodeOp21, h.fn, h.d, h.fld_a, h.fld_b]
  | cpy t a b | cpy2d t a b | cpybs t a b | bsz t a b | mcrd t a b =>
    refine .of_lays rfl fun w h => ?_
    rw [decodeFields, h.op]
    change decodeOp22 w = _
    simp [decodeOp22, h.fn, h.top_d, h.fld_d, h.fld_a, h.fld_b]
  | twall a | twany a | tclr a =>
    refine .of_lays rfl fun w h => ?_
    rw [decodeFields, h.op]
    change decodeOp23 w = _
    simp [decodeOp23, h.fn, h.b, h.d, h.fld_a]
  | tff d a =>
    refine .of_lays rfl fun w h => ?_
    rw [decodeFields, h.op]
    change decodeOp23 w = _
    simp [decodeOp23, h.fn, h.b, h.fld_d, h.fld_a]
  | trd d =>
    refine .of_lays rfl fun w h => ?_
    rw [decodeFields, h.op]
    change decodeOp23 w = _
    simp [decodeOp23, h.fn, h.zero_ab, h.fld_d]
  | mxst d =>
    refine .of_lays rfl fun w h => ?_
    rw [decodeFields, h.op]
    change decodeOp25 w = _
    simp [decodeOp25, h.fn, h.zero_ab, h.fld_d]
  | ret | join | nop =>
    refine .of_lays rfl fun w h => ?_
    rw [decodeFields, h.op]
    change decodeOp2A w = _
    simp [decodeOp2A, h.fn, h.zero_dab]
  | brx a b | brxv a b =>
    refine .of_lays rfl fun w h => ?_
    rw [decodeFields, h.op]
    change decodeOp2A w = _
    simp [decodeOp2A, h.fn, h.d, h.fld_a, h.fld_b]
  | loop e a e2 =>
    refine .of_lays rfl fun w h => ?_
    rw [decodeFields, h.op]
    change decodeOp2A w = _
    simp [decodeOp2A, h.fn, h.fld_d, h.fld_a, h.fld_b]
  | split d a | fuse d a | fuse_r d a =>
    refine .of_lays rfl fun w h => ?_
    rw [decodeFields, h.op]
    change decodeOp2B w = _
    simp [decodeOp2B, h.fn, h.b, h.fld_d, h.fld_a]
  | yield =>
    refine .of_lays rfl fun w h => ?_
    rw [decodeFields, h.op]
    change decodeOp2B w = _
    simp [decodeOp2B, h.fn, h.zero_dab]
  | sleep a =>
    refine .of_lays rfl fun w h => ?_
    rw [decodeFields, h.op]
    change decodeOp2B w = _
    simp [decodeOp2B, h.fn, h.b, h.d, h.fld_a]
  | exit | refill | exitw =>
    refine .of_lays rfl fun w h => ?_
    rw [decodeFields, h.op]
    change decodeOp2C w = _
    simp [decodeOp2C, h.fn, h.zero_dab]
  | iqry d =>
    refine .of_lays rfl fun w h => ?_
    rw [decodeFields, h.op]
    change decodeOp2C w = _
    simp [decodeOp2C, h.fn, h.zero_ab, h.fld_d]
  | racq d a b =>
    refine .of_lays rfl fun w h => ?_
    rw [decodeFields, h.op]
    change decodeOp2D w = _
    simp [decodeOp2D, h.fn, h.fld_d, h.fld_a, h.fld_b]
  | rrel d a =>
    refine .of_lays rfl fun w h => ?_
    rw [decodeFields, h.op]
    change decodeOp2D w = _
    simp [decodeOp2D, h.fn, h.b, h.fld_d, h.fld_a]
  | wbase a =>
    refine .of_lays rfl fun w h => ?_
    rw [decodeFields, h.op]
    change decodeOp2D w = _
    simp [decodeOp2D, h.fn, h.b, h.d, h.fld_a]
  | launch d a b | lwait d a b =>
    refine .of_lays rfl fun w h => ?_
    rw [decodeFields, h.op]
    change decodeOp2E w = _
    simp [decodeOp2E, h.fn, h.fld_d, h.fld_a, h.fld_b]
  | trig =>
    refine .of_lays rfl fun w h => ?_
    rw [decodeFields, h.op]
    change decodeOp2E w = _
    simp [decodeOp2E, h.fn, h.zero_dab]
  | trap a =>
    refine .of_lays rfl fun w h => ?_
    rw [decodeFields, h.op]
    change decodeOp30 w = _
    simp [decodeOp30, h.fn, h.b, h.d, h.fld_a]
  | eret =>
    refine .of_lays rfl fun w h => ?_
    rw [decodeFields, h.op]
    change decodeOp30 w = _
    simp [decodeOp30, h.fn, h.zero_dab]
  | clock d =>
    refine .of_lays rfl fun w h => ?_
    rw [decodeFields, h.op]
    change decodeOp30 w = _
    simp [decodeOp30, h.fn, h.zero_ab, h.fld_d]
  | tlbi a b =>
    refine .of_lays rfl fun w h => ?_
    rw [decodeFields, h.op]
    change decodeOp31 w = _
    simp [decodeOp31, h.fn, h.d, h.fld_a, h.fld_b]
  | tlbsync =>
    refine .of_lays rfl fun w h => ?_
    rw [decodeFields, h.op]
    change decodeOp31 w = _
    simp [decodeOp31, h.fn, h.zero_dab]
  | bswap d a b | bresume d a b =>
    refine .of_lays rfl fun w h => ?_
    rw [decodeFields, h.op]
    change decodeOp31 w = _
    simp [decodeOp31, h.fn, h.fld_d, h.fld_a, h.fld_b]
  | coll d a b | cinit d a b =>
    refine .of_lays rfl fun w h => ?_
    rw [decodeFields, h.op]
    change decodeOp32 w = _
    simp [decodeOp32, h.fn, h.fld_d, h.fld_a, h.fld_b]
  | cqry d a =>
    refine .of_lays rfl fun w h => ?_
    rw [decodeFields, h.op]
    change decodeOp32 w = _
    simp [decodeOp32, h.fn, h.b, h.fld_d, h.fld_a]
  | seed a =>
    refine .of_lays rfl fun w h => ?_
    rw [decodeFields, h.op]
    change decodeOp33 w = _
    simp [decodeOp33, h.fn, h.b, h.d, h.fld_a]
  | icmp c d a b =>
    refine .of_coded 0x06 c.toNat rfl fun w hop hfn h => ?_
    rw [decodeFields, hop]
    change decodeOp06 w = _
    simp [decodeOp06, fld_of_nat hfn, h.top_d, h.fld_d, h.fld_a, h.fld_b]
  | icmpi c d a i =>
    refine .of_coded 0x07 c.toNat rfl fun w hop hfn h => ?_
    rw [decodeFields, hop]
    change decodeOp07 w = _
    simp [decodeOp07, fld_of_nat hfn, h.top_d, h.fld_d, h.fld_a, h.fld_b]
  | scmp c d a b =>
    refine .of_coded 0x0C c.toNat rfl fun w hop hfn h => ?_
    rw [decodeFields, hop]
    change decodeOp0C w = _
    simp [decodeOp0C, fld_of_nat hfn, h.top_d, h.fld_d, h.fld_a, h.fld_b]
  | scmpi c d a i =>
    refine .of_coded 0x0D c.toNat rfl fun w hop hfn h => ?_
    rw [decodeFields, hop]
    change decodeOp0D w = _
    simp [decodeOp0D, fld_of_nat hfn, h.top_d, h.fld_d, h.fld_a, h.fld_b]
  | fcmp c d a b =>
    refine .of_coded 0x14 c.toNat rfl fun w hop hfn h => ?_
    have hc : fld w 21 3 = c := fld_within 21 4 0 (by decide) (by rw [hfn]; omega)
    have hz : nat w 24 1 = 0 := by rw [nat_within w 21 (show 3 + 1 ≤ 4 by decide), hfn]; omega
    rw [decodeFields, hop]
    change decodeOp14 w = _
    simp [decodeOp14, hc, hz, h.top_d, h.fld_d, h.fld_a, h.fld_b]
  | sel n d a b =>
    have h6 := hs n d a b rfl
    refine .of_coded 0x08 (8 + n.toNat) rfl fun w hop hfn h => ?_
    have hn : fld w 21 3 = n := fld_within 21 4 0 (by decide) (by rw [hfn]; omega)
    rw [decodeFields, hop]
    change decodeOp08 w = _
    rw [decodeOp08, hfn, hn, h.fld_d (by decide), h.fld_a (by decide), h.fld_b (by decide)]
    interval_cases n.toNat <;> rfl
  | ld z i d a b =>
    refine .of_coded 0x18 (z.toNat * 2 + i.toNat) rfl fun w hop hfn h => ?_
    have hz : fld w 22 3 = z := fld_within 21 4 1 (by decide) (by rw [hfn]; omega)
    have hm : fld w 21 1 = i := fld_within 21 4 0 (by decide) (by rw [hfn]; omega)
    rw [decodeFields, hop]
    change decodeOp18 w = _
    simp [decodeOp18, hz, hm, h.fld_d, h.fld_a, h.fld_b]
  | st z i d a b =>
    refine .of_coded 0x19 (z.toNat * 2 + i.toNat) rfl fun w hop hfn h => ?_
    have hz : fld w 22 3 = z := fld_within 21 4 1 (by decide) (by rw [hfn]; omega)
    have hm : fld w 21 1 = i := fld_within 21 4 0 (by decide) (by rw [hfn]; omega)
    rw [decodeFields, hop]
    change decodeOp19 w = _
    simp [decodeOp19, hz, hm, h.fld_d, h.fld_a, h.fld_b]
  | stp z d a b =>
    refine .of_coded 0x1B (z.toNat * 2) rfl fun w hop hfn h => ?_
    have hz : fld w 22 3 = z := fld_within 21 4 1 (by decide) (by rw [hfn]; omega)
    have hm : nat w 21 1 = 0 := by rw [nat_within w 21 (show 0 + 1 ≤ 4 by decide), hfn]; omega
    rw [decodeFields, hop]
    change decodeOp1B w = _
    simp [decodeOp1B, hz, hm, h.fld_d, h.fld_a, h.fld_b]
  | mma z x y d a b =>
    refine .of_coded 0x24 (z.toNat * 8 + x.toNat * 2 + y.toNat) rfl fun w hop hfn h => ?_
    have hz : fld w 24 1 = z := fld_within 21 4 3 (by decide) (by rw [hfn]; omega)
    have hx : fld w 22 2 = x := fld_within 21 4 1 (by decide) (by rw [hfn]; omega)
    have hy : fld w 21 1 = y := fld_within 21 4 0 (by decide) (by rw [hfn]; omega)
    rw [decodeFields, hop]
    change decodeOp24 w = _
    simp [decodeOp24, hx, hy, hz, h.fld_d, h.fld_a, h.fld_b]
  | fence k z f t =>
    refine .of_lays (x := 0x40000000) (d := z.toNat + k.toNat * 2 ^ 3) (a := f.toNat) (b := t.toNat) (congrArg some (by unfold fields; omega)) fun w h => ?_
    have hk : fld w 17 2 = k := fld_within 14 7 3 (by decide) (by rw [h.d]; omega)
    have hc : fld w 14 3 = z := fld_within 14 7 0 (by decide) (by rw [h.d]; omega)
    have hz : nat w 19 2 = 0 := by rw [nat_within w 14 (show 5 + 2 ≤ 7 by decide), h.d]; omega
    rw [decodeFields, h.op]
    change decodeOp20 w = _
    simp [decodeOp20, h.fn, hk, hc, hz, h.top_a, h.top_b, h.fld_a, h.fld_b]
  | csrr d c | csrw d c | csrs d c | csrc d c =>
    refine .of_wide rfl fun w h hc => ?_
    rw [decodeFields, h.op]
    change decodeOp30 w = _
    simp [decodeOp30, h.fn, hc, h.fld_d]
  | movl d i =>
    refine .of_long 0x04 rfl fun w hop h => ?_
    have hd : fld w 18 7 = d := fld_of_nat (by rw [h (by decide)]; unfold fields; omega)
    have hi : fld w 0 18 = i := fld_of_nat (by rw [h (by decide)]; unfold fields; omega)
    rw [decodeFields, hop]
    change decodeOp04 w = _
    simp [decodeOp04, hd, hi]
  | movhi d i =>
    refine .of_long 0x05 rfl fun w hop h => ?_
    have hd : fld w 18 7 = d := fld_of_nat (by rw [h (by decide)]; unfold fields; omega)
    have hi : fld w 0 18 = i := fld_of_nat (by rw [h (by decide)]; unfold fields; omega)
    rw [decodeFields, hop]
    change decodeOp05 w = _
    simp [decodeOp05, hd, hi]
  | safept i =>
    refine .of_long 0x2F rfl fun w hop h => ?_
    have hz : nat w 18 7 = 0 := by rw [h (by decide)]; unfold fields; omega
    have hi : fld w 0 18 = i := fld_of_nat (by rw [h (by decide)]; unfold fields; omega)
    rw [decodeFields, hop]
    change decodeOp2F w = _
    simp [decodeOp2F, hz, hi]
  | bra n p o =>
    refine .of_long 0x28 rfl fun w hop h => ?_
    have hz : nat w 24 1 = 0 := by rw [h (by decide)]; unfold fields; omega
    have hn : fld w 23 1 = n := fld_of_nat (by rw [h (by decide)]; unfold fields; omega)
    have hp : fld w 20 3 = p := fld_of_nat (by rw [h (by decide)]; unfold fields; omega)
    have ho : fld w 0 20 = o := fld_of_nat (by rw [h (by decide)]; unfold fields; omega)
    rw [decodeFields, hop]
    change decodeOp28 w = _
    simp [decodeOp28, hz, hn, hp, ho]
  | brv n p o =>
    refine .of_long 0x28 rfl fun w hop h => ?_
    have hz : nat w 24 1 = 1 := by rw [h (by decide)]; unfold fields; omega
    have hn : fld w 23 1 = n := fld_of_nat (by rw [h (by decide)]; unfold fields; omega)
    have hp : fld w 20 3 = p := fld_of_nat (by rw [h (by decide)]; unfold fields; omega)
    have ho : fld w 0 20 = o := fld_of_nat (by rw [h (by decide)]; unfold fields; omega)
    rw [decodeFields, hop]
    change decodeOp28 w = _
    simp [decodeOp28, hz, hn, hp, ho]
  | call n p o =>
    refine .of_long 0x29 rfl fun w hop h => ?_
    have hz : nat w 24 1 = 0 := by rw [h (by decide)]; unfold fields; omega
    have hn : fld w 23 1 = n := fld_of_nat (by rw [h (by decide)]; unfold fields; omega)
    have hp : fld w 20 3 = p := fld_of_nat (by rw [h (by decide)]; unfold fields; omega)
    have ho : fld w 0 20 = o := fld_of_nat (by rw [h (by decide)]; unfold fields; omega)
    rw [decodeFields, hop]
    change decodeOp29 w = _
    simp [decodeOp29, hz, hn, hp, ho]
  | _ => exact absurd hw (by decide)

/-! ### Words of OP 0x3F (R43, R44) -/

theorem getLsbD_append_ofBool {u : Nat} (x : BitVec u) (b : Bool) : (x ++ BitVec.ofBool b).getLsbD 0 = b := by
  rw [BitVec.getLsbD_append, if_pos (by decide)]
  cases b <;> rfl

theorem getLsbD_append_ge {u v i : Nat} (x : BitVec u) (y : BitVec v) (h : v ≤ i) : (x ++ y).getLsbD i = x.getLsbD (i - v) := by
  rw [BitVec.getLsbD_append, if_neg (by omega)]

theorem pfxC_bits (p : PfxC) : pfxC p.bits = p := by
  obtain ⟨g, gn, saf, sap, sbf, sbp, dnf, dnp, rm⟩ := p
  unfold pfxC PfxC.bits
  congr 1
  case e_gn =>
    repeat rw [getLsbD_append_ge _ _ (by decide)]
    exact getLsbD_append_ofBool _ _
  all_goals
    repeat rw [BitVec.extractLsb'_append_eq_of_le (by decide)]
    try rw [BitVec.extractLsb'_append_eq_of_add_le (by decide)]
    exact BitVec.extractLsb'_eq_self

theorem pfxM_bits (p : PfxM) : pfxM p.bits = some p := by
  obtain ⟨g, gn, offx, scope, order, hint⟩ := p
  unfold pfxM PfxM.bits
  refine (if_pos ((BitVec.extractLsb'_append_eq_of_add_le (by decide)).trans BitVec.extractLsb'_eq_self)).trans ?_
  congr 2
  case e_gn =>
    repeat rw [getLsbD_append_ge _ _ (by decide)]
    exact getLsbD_append_ofBool _ _
  all_goals
    repeat rw [BitVec.extractLsb'_append_eq_of_le (by decide)]
    try rw [BitVec.extractLsb'_append_eq_of_add_le (by decide)]
    exact BitVec.extractLsb'_eq_self

theorem pfxX_bits (p : PfxX) : pfxX p.bits = some p := by
  obtain ⟨g, gn, scale, sb⟩ := p
  unfold pfxX PfxX.bits
  refine (if_pos ((BitVec.extractLsb'_append_eq_of_add_le (by decide)).trans BitVec.extractLsb'_eq_self)).trans ?_
  congr 2
  case e_gn =>
    repeat rw [getLsbD_append_ge _ _ (by decide)]
    exact getLsbD_append_ofBool _ _
  all_goals
    repeat rw [BitVec.extractLsb'_append_eq_of_le (by decide)]
    try rw [BitVec.extractLsb'_append_eq_of_add_le (by decide)]
    exact BitVec.extractLsb'_eq_self

theorem pfxG_bits (p : PfxG) : pfxG p.bits = some p := by
  obtain ⟨g, gn⟩ := p
  unfold pfxG PfxG.bits
  refine (if_pos ((BitVec.extractLsb'_append_eq_of_add_le (by decide)).trans BitVec.extractLsb'_eq_self)).trans ?_
  congr 2
  case e_gn =>
    rw [getLsbD_append_ge _ _ (by decide)]
    exact getLsbD_append_ofBool _ _
  case e_g =>
    repeat rw [BitVec.extractLsb'_append_eq_of_le (by decide)]
    exact BitVec.extractLsb'_eq_self

/-- Fields of an instruction's class, laid out in the word before it, read back under that class. -/
theorem parsePfx_bits {p : Pfx} {k : PClass} (h : p.fits k = true) : parsePfx k p.bits = some p := by
  cases p with
  | none => rfl
  | c p => cases k with
    | c => exact congrArg (fun x => some (Pfx.c x)) (pfxC_bits p)
    | _ => cases h
  | m p => cases k with
    | m => exact congrArg (Option.map Pfx.m) (pfxM_bits p)
    | _ => cases h
  | x p => cases k with
    | x => exact congrArg (Option.map Pfx.x) (pfxX_bits p)
    | _ => cases h
  | g p => cases k with
    | g => exact congrArg (Option.map Pfx.g) (pfxG_bits p)
    | _ => cases h

/-- Bits [31:25] of the word before an instruction: no bung, and OP 0x3F. -/
theorem nat_pfxWord (x : BitVec 25) : nat (pfxWord x) 25 7 = 0x3F := by
  have := x.isLt
  unfold nat pfxWord
  rw [BitVec.toNat_append, ← Nat.shiftLeft_add_eq_or_of_lt x.isLt, Nat.shiftLeft_eq, show (0b0111111#7).toNat = 0x3F from rfl]
  omega

theorem isPfx_pfxWord (x : BitVec 25) : isPfx (pfxWord x) = true := by
  unfold isPfx
  rw [nat_within (pfxWord x) 25 (show 0 + 6 ≤ 7 by decide), nat_pfxWord]
  rfl

theorem bungOf_pfxWord (x : BitVec 25) : bungOf (pfxWord x) = false := by
  unfold bungOf
  rw [nat_within (pfxWord x) 25 (show 6 + 1 ≤ 7 by decide), nat_pfxWord]
  rfl

theorem setWidth_pfxWord (x : BitVec 25) : (pfxWord x).setWidth 25 = x := BitVec.setWidth_append_eq_right

/-! ### Words and bytes (R30) -/

theorem wordOfBytes_bytesOfWord (w : BitVec 32) :
    wordOfBytes (w.extractLsb' 0 8) (w.extractLsb' 8 8) (w.extractLsb' 16 8) (w.extractLsb' 24 8) = w := by
  unfold wordOfBytes
  rw [BitVec.extractLsb'_append_extractLsb'_eq_extractLsb' (show 24 = 16 + 8 from rfl), BitVec.extractLsb'_append_extractLsb'_eq_extractLsb' (show 16 = 8 + 8 from rfl),
    BitVec.extractLsb'_append_extractLsb'_eq_extractLsb' (show 8 = 0 + 8 from rfl)]
  exact BitVec.extractLsb'_eq_self

/-- The bytes of a word that is not of OP 0x3F. -/
theorem decodeBytes_one {w : BitVec 32} (h : isPfx w = false) (rest : List Byte) : decodeBytes (bytesOfWord w ++ rest) = decodeOne w := by
  simp only [bytesOfWord, List.cons_append, List.nil_append, decodeBytes, wordOfBytes_bytesOfWord, h, Bool.false_and, Bool.false_eq_true, if_false]

/-- The bytes of a word of OP 0x3F without the bung and of the word after it. -/
theorem decodeBytes_pair {p w : BitVec 32} (hp : isPfx p = true) (hb : bungOf p = false) (rest : List Byte) :
    decodeBytes (bytesOfWord p ++ (bytesOfWord w ++ rest)) = decodePair p w := by
  simp only [bytesOfWord, List.cons_append, List.nil_append, decodeBytes, wordOfBytes_bytesOfWord, hp, hb, Bool.and_false, Bool.false_eq_true, if_false, if_true]

/-! ### Decode of encode -/

theorem isPfx_of_decodeFields {w : BitVec 32} {i : Instr} (h : decodeFields w = some i) : isPfx w = false := by
  unfold isPfx
  rw [beq_eq_false_iff_ne]
  intro e
  rw [decodeFields, e] at h
  cases h

/-- A well-formed instruction whose word reads back is decoded from it and the fields before it. -/
theorem decode_word {x : Decoded} {f : Nat} (hx : x.wf = true) (hf : f < 2 ^ 31) (hd : ∀ bg, decodeFields (word bg f) = some x.i) :
    decode x.pfx.bits (word x.bung f) = some x := by
  have hp : x.pfx.fits x.i.pclass = true := by
    simp only [Decoded.wf, Bool.and_eq_true] at hx
    exact hx.1.1
  unfold decode
  rw [hd, bungOf_word x.bung hf]
  simp only [parsePfx_bits hp]
  exact if_pos hx

/-- `sel` reads a predicate below p7 (R148). -/
theorem Decoded.sel_of_wf {x : Decoded} (hx : x.wf = true) (n : BitVec 3) (d a b : Reg) (hi : x.i = .sel n d a b) : n.toNat ≤ 6 := by
  simp only [Decoded.wf, hi, Instr.wf, Bool.and_eq_true, decide_eq_true_eq] at hx
  obtain ⟨⟨-, ⟨⟨⟨-, hn⟩, -⟩, -⟩, -⟩, -⟩ := hx
  exact hn

/-- Settles O59: the word reads back by its layout, the fields before it by the class of their instruction, and their bytes by the word. -/
theorem decodeOfEncode : Obligations.DecodeOfEncode := by
  intro x hx hi
  obtain ⟨f, he, hf, hd⟩ := Instr.readsBack (encodeFields_isSome hi) (x.sel_of_wf hx)
  have hw := decode_word hx hf hd
  have hn := isPfx_of_decodeFields (hd x.bung)
  unfold encode
  rw [he]
  cases hp : x.pfx.bits with
  | none =>
    rw [hp] at hw
    refine ⟨_, word x.bung f, 0, rfl, fun rest => ?_⟩
    simp only [List.flatMap_cons, List.flatMap_nil, List.append_nil]
    rw [decodeBytes_one hn, decodeOne, hw]
    rfl
  | some p =>
    rw [hp] at hw
    refine ⟨_, word x.bung f, pfxWord p, rfl, fun rest => ?_⟩
    simp only [List.flatMap_cons, List.flatMap_nil, List.append_nil, List.append_assoc]
    rw [decodeBytes_pair (isPfx_pfxWord p) (bungOf_pfxWord p), decodePair, bungOf_pfxWord, hn, setWidth_pfxWord, hw]
    rfl

/-- Settles O58: each word as the decoder reads it. -/
theorem decodeWords : Obligations.DecodeWords := by
  refine ⟨?_, ?_, ?_, ?_, ?_, ?_, ?_, ?_, ?_⟩ <;> decide

end Sys2Proof
end

section
/-! SUPPORT. The machine's clock through what no word does: time that passes, errors that are posted, and translations that a fetch leaves. -/

namespace Sys2Proof.Machine

/-- The same moment, and as many steps taken. -/
def State.SameClock (s t : State) : Prop := t.now = s.now ∧ t.tick = s.tick

theorem State.SameClock.refl (s : State) : s.SameClock s := ⟨rfl, rfl⟩
theorem State.SameClock.trans {s t u : State} (h : s.SameClock t) (k : t.SameClock u) : s.SameClock u := ⟨k.1.trans h.1, k.2.trans h.2⟩

theorem State.SameClock.ite {s t u : State} {p : Prop} [Decidable p] (h : s.SameClock t) (k : s.SameClock u) : s.SameClock (if p then t else u) := by
  split
  · exact h
  · exact k

theorem State.SameClock.modPart (s : State) (q : Nat) (f : Part → Part) : s.SameClock (s.modPart q f) := ⟨rfl, rfl⟩

/-- A fold of steps that each take no time takes none. -/
theorem State.SameClock.foldl {α : Type} {f : State → α → State} (hf : ∀ (s : State) (a : α), s.SameClock (f s a)) : ∀ (l : List α) (s : State), s.SameClock (l.foldl f s)
  | [], s => .refl s
  | a :: l, s => (hf s a).trans (State.SameClock.foldl hf l (f s a))

theorem State.SameClock.wrDramL : ∀ (s : State) (q pa : Nat) (bs : List Byte), s.SameClock (s.wrDramL q pa bs)
  | s, _, _, [] => .refl s
  | s, q, pa, b :: bs => State.SameClock.wrDramL (s.wrDram q pa b) q (pa + 1) bs

theorem State.SameClock.logBits (s : State) (q line : Nat) (mask : BitVec 4) : s.SameClock (s.logBits q line mask) :=
  .foldl (fun s _ => .ite (.modPart s q _) (.refl s)) _ s

theorem State.SameClock.logLine (s : State) (q line : Nat) : s.SameClock (s.logLine q line) := by
  unfold State.logLine
  exact .ite (.refl s) (.foldl (fun s _ => .ite (.modPart s q _) (.refl s)) _ s)

theorem State.SameClock.markHome (s : State) (q line : Nat) (mask bad : BitVec 4) : s.SameClock (s.markHome q line mask bad) := by
  unfold State.markHome
  exact .ite (.refl s) ⟨rfl, rfl⟩

theorem State.SameClock.writeBack (s : State) (q : Nat) (pay : Payer) (x : CcLine) (mask : BitVec 4) : s.SameClock (s.writeBack q pay x mask) := by
  unfold State.writeBack
  exact .ite (.refl s) (((State.SameClock.ite (.refl s) (.logBits s q _ _)).trans (.ite (.refl _) (.markHome _ q _ _ _))).trans (.modPart _ q _))

theorem State.SameClock.grainDrop (s : State) (q : Nat) (pay : Payer) (c : Option Nat) (host : Bool) (pa : Nat) : s.SameClock (s.grainDrop q pay c host pa) := by
  refine .foldl (fun s k => ?_) _ s
  have written := State.SameClock.foldl (fun s x => .writeBack s q pay x (x.touched host pa)) (k.2.cc.filter (fun x => x.touched host pa != 0)) s
  exact .ite (.refl s) (.ite written (written.trans (.modPart _ q _)))

theorem State.SameClock.dropCopies (s : State) (q : Nat) (pay : Payer) (c : Option Nat) (l : Loc) (n : Nat) : s.SameClock (s.dropCopies q pay c l n) := by
  cases l with
  | scratch c o => exact .refl s
  | dev pa => exact .foldl (fun s i => .grainDrop s q pay c false _) _ s
  | host pa => exact .foldl (fun s i => .grainDrop s q pay c true _) _ s

theorem State.SameClock.unpark (s : State) (q : Nat) (pay : Payer) (line : Nat) : s.SameClock (s.unpark q pay line) := by
  unfold State.unpark
  split
  · exact .refl s
  · exact ((((State.SameClock.modPart s q _).trans (.wrDramL _ q _ _)).trans (.logLine _ q line)).trans (.modPart _ q _)).trans (.modPart _ q _)

theorem State.SameClock.clearUe (s : State) (q : Nat) (g c : Option Nat) (ls : List Loc) : s.SameClock (s.clearUe q g c ls) := by
  unfold State.clearUe
  exact .ite (.refl s) (.foldl (fun s b =>
    State.SameClock.trans (t := { s with ue := s.ue.filter (fun u => s.ueKey q b != some u) }) ⟨rfl, rfl⟩ (.ite (.refl _) (.modPart _ q _))) _ s)

theorem State.SameClock.errPost (s : State) (q : Nat) : s.SameClock (s.errPost q) := by
  have stored (pa : Nat) (bs : List Byte) : s.SameClock (s.engStore q noPayer none (.dev pa) bs) :=
    (((State.SameClock.foldl (fun s n => .unpark s q noPayer n) _ s).trans (.wrDramL _ q pa bs)).trans (.dropCopies _ q noPayer none _ _)).trans (.clearUe _ q none none _)
  unfold State.errPost
  dsimp only
  split
  · exact .refl s
  · split
    · exact .refl s
    · split
      · exact (stored _ _).trans (.modPart _ q _)
      · exact .modPart s q _

/-- A step's passing of time is one cc, whatever errors it posts (R370). -/
theorem State.elapsed_clock (s : State) : s.elapsed.now = s.now + 2 ∧ s.elapsed.tick = s.tick + 1 :=
  State.SameClock.foldl (fun s q => .foldl (fun s _ => .errPost s q) _ s) _ s.ticked

end Sys2Proof.Machine
end

section
/-! SUPPORT. The words that a fetch reads and the supply that they decode to; settles O57. -/

namespace Sys2Proof.Machine

/-! ### The bytes of a fetched word -/

/-- A word of four bytes, lowest first, holds them. -/
theorem byte_of_leNat4 (b0 b1 b2 b3 : Byte) : ∀ j, j < 4 → (BitVec.ofNat 32 (leNat [b0, b1, b2, b3])).extractLsb' (8 * j) 8 = [b0, b1, b2, b3].getD j 0 := by
  intro j hj
  have h0 := b0.isLt
  have h1 := b1.isLt
  have h2 := b2.isLt
  have h3 := b3.isLt
  apply BitVec.eq_of_toNat_eq
  rw [BitVec.extractLsb'_toNat, BitVec.toNat_ofNat, Nat.shiftRight_eq_div_pow]
  obtain rfl | rfl | rfl | rfl : j = 0 ∨ j = 1 ∨ j = 2 ∨ j = 3 := by omega
  all_goals simp [leNat]; omega

/-- The word of four consecutive bytes of a memory holds each of them. -/
theorem byte_of_range4 (f : Nat → Byte) : ∀ j, j < 4 → (BitVec.ofNat 32 (leNat ((List.range 4).map f))).extractLsb' (8 * j) 8 = f j := by
  intro j hj
  refine (byte_of_leNat4 (f 0) (f 1) (f 2) (f 3) j hj).trans ?_
  obtain rfl | rfl | rfl | rfl : j = 0 ∨ j = 1 ∨ j = 2 ∨ j = 3 := by omega
  all_goals rfl

section fetched

variable {s : State} {q : Nat} {c : Ctx} {a : W64} {l : Leaf} {pa : Nat} (ht : c.grid.k.target a = true) (hr : regionOf a = .global)
  (hl : s.translate q c.w.core a.toNat = .ok l) (hx : l.x = true)
include ht hr hl hx

/-- A code word of device memory, from its four bytes (R116). -/
theorem State.fetchWord_dev (hp : l.place a.toNat = .dev pa) (hu : s.ueBelow q (some (cluOf c.w.core)) (.dev pa) = false) :
    s.fetchWord q c a = .ok (BitVec.ofNat 32 (leNat (s.rdHomeL q pa 4))) := by
  simp [State.fetchWord, ht, hr, hl, hx, hp, hu]

/-- A code word of host memory. -/
theorem State.fetchWord_host (hp : l.place a.toNat = .host pa) (hu : s.ueBelow q (some (cluOf c.w.core)) (.host pa) = false) :
    s.fetchWord q c a = .ok (BitVec.ofNat 32 (leNat ((List.range 4).map (fun i => s.rdHost (pa + i))))) := by
  simp [State.fetchWord, ht, hr, hl, hx, hp, hu]

end fetched

/-! ### What fetched words supply -/

/-- A prefix word with the bung is illegal, whatever stands after it (R43). -/
theorem decodeBytes_pfxBung {v : W32} (hp : isPfx v = true) (hb : bungOf v = true) (rest : List Byte) : decodeBytes (bytesOfWord v ++ rest) = .illegal v 0 4 := by
  simp only [bytesOfWord, List.cons_append, List.nil_append, decodeBytes, wordOfBytes_bytesOfWord, hp, hb, Bool.and_self, if_true]

/-- A prefix word without it awaits the word after it. -/
theorem decodeBytes_pfxAlone {v : W32} (hp : isPfx v = true) (hb : bungOf v = false) : decodeBytes (bytesOfWord v) = .short := by
  simp only [bytesOfWord, decodeBytes, wordOfBytes_bytesOfWord, hp, hb, Bool.and_false, Bool.false_eq_true, if_false, if_true]

section supplied

variable {s : State} {q : Nat} {c : Ctx} {v : W32} (hb : s.fetchBarred q c c.x.nextPc = none) (hv : s.fetchWord q c c.x.nextPc = .ok v)
include hb hv

/-- A word that awaits no second one is decoded alone (R43). -/
theorem State.supply_one (h : (isPfx v && !bungOf v) = false) : s.supply q c = supplyOf q c.w c.x.nextPc (decodeBytes (bytesOfWord v)) := by
  simp [State.supply, hb, hv, h]

/-- A prefix word is decoded with the word after it. -/
theorem State.supply_pair (h : (isPfx v && !bungOf v) = true) {u : W32} (hb' : s.fetchBarred q c (c.x.nextPc + 4) = none) (hu : s.fetchWord q c (c.x.nextPc + 4) = .ok u) :
    s.supply q c = supplyOf q c.w c.x.nextPc (decodeBytes (bytesOfWord v ++ bytesOfWord u)) := by
  simp only [State.supply, hb, hv, h, if_true, hb', hu]

/-- Words that decode to an instruction supply it. -/
theorem State.supply_ok {x : Decoded} {w u p : W32} {n : Nat}
    (h : decodeBytes (bytesOfWord v) = .ok x u p n ∨ (isPfx v = true ∧ s.fetchBarred q c (c.x.nextPc + 4) = none ∧ s.fetchWord q c (c.x.nextPc + 4) = .ok w ∧
      decodeBytes (bytesOfWord v ++ bytesOfWord w) = .ok x u p n)) :
    s.supply q c = .run ⟨q, c.w, c.x.nextPc, n, x.bung, x.pfx, u, p⟩ x.i := by
  rcases h with h | ⟨hp, hb', hw, h⟩
  · have alone : (isPfx v && !bungOf v) = false := by
      by_contra awaits
      obtain ⟨hp, hbg⟩ : isPfx v = true ∧ bungOf v = false := by simpa using awaits
      rw [decodeBytes_pfxAlone hp hbg] at h
      cases h
    rw [State.supply_one hb hv alone, h, supplyOf]
  · have awaits : bungOf v = false := by
      by_contra hbg
      rw [decodeBytes_pfxBung hp (Bool.eq_true_of_not_eq_false hbg)] at h
      cases h
    rw [State.supply_pair hb hv (by rw [hp, awaits]; rfl) hb' hw, h, supplyOf]

/-- A prefix word with the bung is ILLEGAL (R43). -/
theorem State.supply_pfxBung (h : v.toNat / 2 ^ 25 = 127) : ∃ iss, s.supply q c = .fail iss .illegal .read 0 (BitVec.ofNat 64 v.toNat) := by
  have hp : isPfx v = true := by unfold isPfx nat; simp; omega
  have hbg : bungOf v = true := by unfold bungOf nat; simp; omega
  rw [State.supply_one hb hv (by simp [hbg]), ← List.append_nil (bytesOfWord v), decodeBytes_pfxBung hp hbg]
  exact ⟨_, by simp [supplyOf]; rfl⟩

end supplied

theorem State.supply_lost {s : State} {q : Nat} {c : Ctx} {pa : Nat} (h : s.fetchBarred q c c.x.nextPc = some pa) : ∃ iss, s.supply q c = .lost iss pa :=
  ⟨_, by unfold State.supply; dsimp only; rw [h]⟩

/-! ### The word that a step takes -/

/-- A picked word is what the fetch of its warp's context brings. -/
theorem State.pick_ctx {s : State} {q : Nat} {w : WRef} {x : Supply} (h : s.pick s.agents = some (.word q w x)) :
    ∃ c, (s.part q).ctx w = some c ∧ c.w = w ∧ s.supply q c = x := by
  obtain ⟨r, -, hr⟩ := List.mem_flatMap.1 (State.pick_mem h)
  unfold State.agentsOf at hr
  rcases List.mem_append.1 hr with e | e
  · obtain ⟨_, -, e⟩ := List.mem_map.1 e
    cases e
  · obtain ⟨a, ha, e⟩ := List.mem_map.1 e
    cases e
    obtain ⟨w, hw⟩ := State.mem_granted ha
    obtain ⟨hc, hx⟩ := State.ready_some hw
    exact ⟨a.c, by rw [(Part.ctx_some hc).1]; exact hc, rfl, hx.symm⟩

theorem step_of_pick {s : State} {q : Nat} {w : WRef} {iss : Issue} {i : Instr} (hin : s.inbox = []) (h : s.pick s.agents = some (.word q w (.run iss i))) :
    step s = exec i { s.elapsed.fetchFill iss with cur := some iss } := by
  simp [step, hin, h, State.issue]

/-- Settles O57: the word of four bytes holds each of them, the fetched words' decoding says which of them the supply waits for, and a picked word is what its warp's own
fetch brings. -/
theorem stepRunsDecodedWord : Obligations.StepRunsDecodedWord := by
  refine ⟨fun s q c a l pa ht hr hl hx => ⟨fun hp hu => ⟨_, State.fetchWord_dev ht hr hl hx hp hu, byte_of_range4 _⟩,
      fun hp hu => ⟨_, State.fetchWord_host ht hr hl hx hp hu, byte_of_range4 _⟩⟩,
    fun _ _ _ _ _ _ _ _ _ hb hv h => State.supply_ok hb hv h, fun _ _ _ _ hb hv h => State.supply_pfxBung hb hv h, fun _ _ _ _ h => State.supply_lost h,
    fun s q w iss i hin h => ?_⟩
  obtain ⟨c, hc, hw, hs⟩ := State.pick_ctx h
  obtain ⟨hq, hcw, -⟩ := State.supply_run hs
  exact ⟨step_of_pick hin h, s.elapsed_clock.1, s.elapsed_clock.2, hcw.trans hw, hq, c, hc, hs⟩

end Sys2Proof.Machine
end

section
/-! SUPPORT. Words whose operation changes at most their own warp; settles O28. -/

namespace Sys2Proof.Machine

/-! ### Lanes left on a path -/

/-- A mask made by a test holds the lanes that pass it. -/
theorem getLsbD_maskOf (w : Nat) (f : Nat → Bool) (j : Nat) : (maskOf w f).getLsbD j = (decide (j < w) && decide (j < 128) && f j) := by
  have grow (w : Nat) : maskOf (w + 1) f = if f w then maskOf w f ||| BitVec.ofNat 128 (2 ^ w) else maskOf w f := by
    simp only [maskOf, List.range_succ, List.foldl_append, List.foldl_cons, List.foldl_nil]
  have bit (w : Nat) : (BitVec.ofNat 128 (2 ^ w)).getLsbD j = (decide (j < 128) && decide (w = j)) := by rw [BitVec.getLsbD_ofNat, Nat.testBit_two_pow]
  induction w with
  | zero => simp [maskOf]
  | succ w ih =>
    have step : (maskOf (w + 1) f).getLsbD j = ((maskOf w f).getLsbD j || (decide (j < 128) && decide (w = j) && f w)) := by
      rw [grow]
      cases f w
      · simp
      · rw [if_pos rfl, BitVec.getLsbD_or, bit, Bool.and_true]
    rw [step, ih]
    by_cases hj : w = j
    · subst hj
      simp
    · have more : j < w + 1 ↔ j < w := by omega
      simp [hj, more]

/-- A mask that is not empty holds a lane. -/
theorem exists_lane {m : Mask} (h : m ≠ 0) : ∃ j, m.getLsbD j = true := by
  by_contra empty
  exact h (BitVec.eq_of_getLsbD_eq fun j _ => by simpa using fun k => empty ⟨j, k⟩)

/-- A lane on the path that another warp has as it was, live at the same place and in its path mask, is on that warp's path. -/
theorem Warp.path_of_lane {x y : Warp} (hw : y.width = x.width) (hm : y.m = x.m) {j : Nat} (hl : y.lanes[j]? = x.lanes[j]?) (h : x.path.getLsbD j = true) : y.path ≠ 0 := by
  have same : y.path.getLsbD j = x.path.getLsbD j := by
    simp only [Warp.path, Warp.live, BitVec.getLsbD_and, getLsbD_maskOf, hw, hm, hl]
  intro gone
  rw [gone, h] at same
  simp at same

/-- The lanes of a mask that end (R99). -/
theorem Warp.exitLanes_eq (x : Warp) (m : Mask) (k : W64) :
    x.exitLanes m (k != 0) = { x with lanes := x.lanes.mapIdx (fun j l => if m.getLsbD j then { l with st := if k = 0 then .drained else .vacant } else l) } := by
  have ended : (if (k != 0) = true then LaneSt.vacant else .drained) = if k = 0 then .drained else .vacant := by by_cases h : k = 0 <;> simp [h]
  unfold Warp.exitLanes
  rw [ended]
  congr 1
  exact List.ext_getElem (by simp) fun j h _ => by simp [show j < x.lanes.length by simpa using h]

theorem Warp.exitLanes_none (x : Warp) (k : W64) : x.exitLanes 0 (k != 0) = x := by
  rw [Warp.exitLanes_eq]
  congr 1
  exact List.ext_getElem (by simp) fun j _ _ => by simp

/-- A lane outside the mask stays as it is. -/
theorem Warp.exitLanes_lane (x : Warp) {m : Mask} {j : Nat} (h : m.getLsbD j = false) (refill : Bool) : (x.exitLanes m refill).lanes[j]? = x.lanes[j]? := by
  by_cases hj : j < x.lanes.length <;> simp [Warp.exitLanes, hj, h]

/-- While a lane of the path is outside the mask, a lane is left on the path. -/
theorem Warp.exitLanes_path {x : Warp} {m : Mask} (h : x.path &&& ~~~m ≠ 0) (refill : Bool) : (x.exitLanes m refill).path ≠ 0 := by
  obtain ⟨j, hj⟩ := exists_lane h
  obtain ⟨hp, hm⟩ : x.path.getLsbD j = true ∧ m.getLsbD j = false := by
    simp only [BitVec.getLsbD_and, BitVec.getLsbD_not, Bool.and_eq_true, Bool.not_eq_true'] at hj
    exact ⟨hj.1, hj.2.2⟩
  exact Warp.path_of_lane (x := x) rfl rfl (x.exitLanes_lane hm refill) hp

/-- Back from a handler the path is what SAVEDM holds of the live lanes. -/
theorem Warp.eret_path (x : Warp) : x.eret.path = x.trap.savedM &&& x.live := by
  change (x.trap.savedM &&& x.live) &&& x.live = _
  rw [BitVec.and_assoc, BitVec.and_self]

/-! ### Operations on the warp alone -/

/-- An operation that needs nothing and changes at most its own warp, and cannot fail. -/
def Term.inWarp : Term → Bool
  | .none | .nop | .yield | .sleep _ | .exit _ | .eret => true
  | _ => false

/-- Such an operation makes no access, is always ready and cannot fail. -/
theorem Term.inWarp_quiet {t : Term} (h : t.inWarp = true) : (∀ op d ps x y m, t ≠ .atom op d ps x y m) ∧ (∀ a, t ≠ .trap a) ∧ (∀ x, t.plain x = true) ∧
    (∀ p c, Part.termReady p c t = true) ∧ (∀ s q c r, r.term = t → State.commitFail s q c r = .none) := by
  cases t <;> first
    | exact absurd h Bool.false_ne_true
    | exact ⟨nofun, nofun, fun _ => rfl, fun _ _ => rfl, fun s q c r e => State.commitFail_none (by rw [e]; rfl) _ _ _⟩

/-- A run of one word whose operation turns its warp into `y`, and that queues no effect. -/
theorem Lone.ends {s : State} {i : Instr} {iss : Issue} {c : Ctx} (h : Lone s i iss c) {w : Word} {y : Warp} (ha : w.acts = []) (hcond : w.cond = none) (hwait : w.waits = [])
    (ht : w.term.inWarp = true)
    (hdo : ∀ cs r k, r.term = w.term → (s.held iss.q c.w (c.x.passed iss s.now) cs).doTerm iss.q c.w r (c.x.queued s.now r) k = s.held iss.q c.w y cs)
    (hb : y.block = c.x.block) (hp : y.path ≠ 0) (hl : y.levels = []) (hw : ∀ l g t, y.wait ≠ .abwait l g t) :
    OnlyWarp s (s.issued iss c w) iss.q c.w y (Sparse.rd ((s.part iss.q).core c.w.core).rf) := by
  obtain ⟨hat, htrap, hplain, hready, hfail⟩ := Term.inWarp_quiet ht
  have turned := h.turns (w := w) (y := y) (by simp [ha]) hcond hwait hat htrap (hready _ _) (hplain _) (fun _ => hfail _ _ _ _ (h.runWith_term w))
    (fun cs => by rw [ha]; exact hdo cs _ _ (h.runWith_term w)) hb hp hl hw
  rwa [ha] at turned

/-! ### The words -/

theorem nop_turns : Turns .nop always (fun _ _ x => x) :=
  Turns.of (w := fun _ _ => .ofTerm .nop) nofun (fun _ => rfl) (fun _ _ _ => rfl) fun _ _ _ h hp _ =>
    h.ends rfl rfl rfl rfl (fun cs r k hr => by unfold State.doTerm; rw [hr]; rfl) rfl hp h.noLoop h.noAbwait

/-- `yield` sets the warp's age, which the issue of its word has set already. -/
theorem yield_turns : Turns .yield always (fun _ _ x => x) :=
  Turns.of (w := fun _ _ => .ofTerm .yield) nofun (fun _ => rfl) (fun _ _ _ => rfl) fun _ _ _ h hp _ =>
    h.ends rfl rfl rfl rfl (fun cs r k hr => by unfold State.doTerm; rw [hr]; exact State.held_modW ..) rfl hp h.noLoop h.noAbwait

theorem safept_turns (i : BitVec 18) : Turns (.safept i) always (fun _ _ x => x) :=
  Turns.of (w := fun _ _ => { Word.nil with safept := some i }) nofun (fun _ => rfl) (fun _ _ _ => rfl) fun _ _ _ h hp _ =>
    h.ends rfl rfl rfl rfl (fun cs r k hr => by unfold State.doTerm; rw [hr]; rfl) rfl hp h.noLoop h.noAbwait

theorem sleep_turns (a : Reg) : Turns (.sleep a) (fun _ e => 0 < (e.srcS a).toNat ∧ (e.srcS a).toNat ≤ 2 ^ 20)
    (fun s e x => { x with wait := .sleep (s.now + 2 * (e.srcS a).toNat) }) :=
  Turns.of (w := fun _ e => .ofTerm (.sleep (e.srcS a).toNat)) nofun (fun _ => rfl) (fun _ _ ok => if_neg (Nat.not_lt.2 ok.2)) fun _ _ _ h hp ok =>
    h.ends rfl rfl rfl rfl (fun cs r k hr => by
      unfold State.doTerm
      rw [hr]
      refine (State.held_modW ..).trans ?_
      rw [if_neg (Nat.pos_iff_ne_zero.1 ok.1), h.begun]
      rfl) rfl hp h.noLoop nofun

/-- A sleep of no cycles leaves the warp, which waits for nothing when it takes a word. -/
theorem sleep_zero_turns (a : Reg) : Turns (.sleep a) (fun _ e => e.srcS a = 0) (fun _ _ x => x) :=
  Turns.of (w := fun _ _ => .ofTerm (.sleep 0)) nofun (fun _ => rfl) (fun s e ok => by simp only [show e.srcS a = 0 from ok]; rfl) fun s iss c h hp _ =>
    h.ends rfl rfl rfl rfl (fun cs r k hr => by
      unfold State.doTerm
      rw [hr]
      refine (State.held_modW ..).trans ?_
      have idle : c.x.wait = .none := by
        have := h.takes
        simp only [Warp.takes, Bool.and_eq_true, decide_eq_true_eq] at this
        simp_all
      rw [if_pos rfl, ← show (c.x.passed iss s.now).wait = .none from idle]) rfl hp h.noLoop h.noAbwait

theorem sleep_faults (a : Reg) : Faults (.sleep a) (fun _ e => 2 ^ 20 < (e.srcS a).toNat) (fun _ e => e.cond .operand 0 e.iss.detail) :=
  Faults.of (f := fun _ e => if 2 ^ 20 < (e.srcS a).toNat then e.operand else .ofTerm (.sleep (e.srcS a).toNat)) (fun _ => rfl)
    (fun s e ok => by rw [if_pos ok]; exact ⟨rfl, rfl, rfl⟩) (fun _ _ => ⟨rfl, nofun⟩)

/-- The lanes that a held warp ends. -/
theorem Lone.held_exit {s : State} {i : Instr} {iss : Issue} {c : Ctx} (h : Lone s i iss c) (m : Mask) (cs : AMap Core) :
    (s.held iss.q c.w (c.x.passed iss s.now) cs).modPart iss.q (fun p => match p.ctx c.w with | none => p | some y => p.setWarp c.w (y.x.exitLanes m (y.grid.k.refill != 0))) =
      s.held iss.q c.w ((c.x.passed iss s.now).exitLanes m (c.grid.k.refill != 0)) cs := by
  have hctx := h.ctx
  rw [← (Part.ctx_some hctx).1] at hctx
  refine State.held_modPart _ _ _ _ _ _ _ ?_
  rw [State.held_ctx hctx (x := c.x.passed iss s.now) rfl]
  exact Part.holding_setWarp ..

/-- The lanes of the mask end, of which a guard may leave none. -/
theorem exit_turns : Turns .exit (fun _ e => e.c.x.path &&& ~~~e.act ≠ 0) (fun _ e x => { x with lanes := x.lanes.mapIdx (fun j l =>
    if e.act.getLsbD j then { l with st := if e.c.grid.k.refill = 0 then .drained else .vacant } else l) }) :=
  Turns.of (w := fun _ e => if e.act = 0 then .nil else .ofTerm (.exit e.act)) nofun (fun _ => rfl) (fun _ _ _ => rfl) fun s iss c h hp ok => by
    rw [← Warp.exitLanes_eq]
    have left := Warp.exitLanes_path (x := c.x.passed iss s.now) ok (c.grid.k.refill != 0)
    split
    · rename_i idle
      exact h.ends rfl rfl rfl rfl (fun cs r k hr => by unfold State.doTerm; rw [hr, idle, Warp.exitLanes_none]; rfl) rfl left h.noLoop h.noAbwait
    · exact h.ends rfl rfl rfl rfl (fun cs r k hr => by unfold State.doTerm; rw [hr]; exact h.held_exit _ cs) rfl left h.noLoop h.noAbwait

theorem eret_turns : Turns .eret
    (fun _ e => e.c.x.trap.inh = true ∧ e.c.x.rd = e.c.x.trap.rd0 ∧ e.c.grid.k.target e.c.x.trap.epc = true ∧ e.c.x.trap.savedM &&& e.c.x.live ≠ 0)
    (fun _ e x => { x with pc := e.c.x.trap.epc, m := e.c.x.trap.savedM &&& e.c.x.live, trap := { e.c.x.trap with inh := false } }) :=
  Turns.of (w := fun _ _ => .ofTerm .eret) nofun (fun _ => rfl) (fun _ e ⟨inh, depth, target, _⟩ => if_pos (by simp [Warp.eretOk, inh, depth, target])) fun s iss c h hp ok =>
    h.ends (y := (c.x.passed iss s.now).eret) rfl rfl rfl rfl (fun cs r k hr => by unfold State.doTerm; rw [hr]; exact State.held_modW ..) rfl
      (by rw [Warp.eret_path]; exact ok.2.2.2) h.noLoop h.noAbwait

theorem eret_faults : Faults .eret (fun _ e => e.c.x.trap.inh = false ∨ e.c.x.rd ≠ e.c.x.trap.rd0 ∨ e.c.grid.k.target e.c.x.trap.epc = false)
    (fun _ e => e.cond .operand 0 e.iss.detail) :=
  Faults.of (f := fun _ e => if e.c.x.eretOk e.c.grid.k then .ofTerm .eret else e.operand) (fun _ => rfl)
    (fun s e bad => by
      rw [if_neg]
      · exact ⟨rfl, rfl, rfl⟩
      · simp only [Warp.eretOk, Bool.and_eq_true, beq_iff_eq, not_and, Bool.not_eq_true]
        rintro ⟨inh, depth⟩
        rcases bad with k | k | k
        · exact absurd inh (by simp [k])
        · exact absurd depth k
        · exact k) (fun _ _ => ⟨rfl, nofun⟩)

/-- Settles O28: each of the words queues one operation that changes at most its own warp, and a lane is left on the path. -/
theorem runEnds : Obligations.RunEnds := fun a i =>
  ⟨nop_turns, yield_turns, safept_turns i, sleep_turns a, sleep_zero_turns a, sleep_faults a, exit_turns, eret_turns, eret_faults⟩

end Sys2Proof.Machine
end

section
/-! SUPPORT. A parked run of register effects commits. -/

namespace Sys2Proof.Machine

/-- What is being issued has no part in a register effect. -/
theorem State.doAct_cur {a : Act} (h : a.isReg = true) (s : State) (k : Option Issue) (q : Nat) (w : WRef) (r : Run) (plan : Plan) :
    ({ s with cur := k } : State).doAct q w r plan a = { s.doAct q w r plan a with cur := k } := by
  cases a <;> simp only [Act.isReg, Bool.false_eq_true] at h
  all_goals rfl

/-! ### Runs of register effects on a state that is not yet held -/

theorem Part.setWarp_setWarp (p : Part) (w : WRef) (x y : Warp) : (p.setWarp w x).setWarp w y = p.setWarp w y := by
  simp [Part.setWarp, AMap.wr_wr]

/-- A warp is `x`; with any warp in its place the state, with nothing being issued, is held so. -/
structure State.HeldOpen (s t : State) (q : Nat) (w : WRef) (x : Warp) (cs : AMap Core) : Prop where
  warp : (t.part q).warp w = some x
  held : ∀ y, ({ t.modPart q (fun p => p.setWarp w y) with cur := none } : State) = s.held q w y cs

theorem State.HeldOpen.refl {s : State} {q : Nat} {w : WRef} {x : Warp} (h : (s.part q).warp w = some x) : s.HeldOpen s q w x (s.part q).cores := ⟨h, fun _ => rfl⟩

section heldOpen

variable {s t : State} {q : Nat} {w : WRef} {x : Warp} {cs : AMap Core} (h : s.HeldOpen t q w x cs)
include h

theorem State.HeldOpen.part (y : Warp) : (t.part q).setWarp w y = (s.part q).holding w y cs :=
  (State.modPart_part t q (fun p => p.setWarp w y)).symm.trans ((congrArg (fun z : State => z.part q) (h.held y)).trans (State.held_part ..))

theorem State.HeldOpen.modW (f : Warp → Warp) : ({ t.modW q w f with cur := none } : State) = s.held q w (f x) cs := by
  rw [← h.held]
  simp only [State.modW, State.modPart, Part.modWarp, h.warp]

/-- One register effect. -/
theorem State.HeldOpen.doAct (r : Run) (plan : Plan) {a : Act} (ha : a.isReg = true) {rf : Nat → W32} (hc : FileOnly (s.part q).cores cs w.core rf) :
    ∃ ds, s.HeldOpen (t.doAct q w r plan a) q w (x.took a) ds ∧ FileOnly (s.part q).cores ds w.core (fun k => a.file k (rf k)) := by
  obtain ⟨ds, done, file⟩ := State.held_doAct (x := x) r plan ha hc
  have placed (y : Warp) : (t.doAct q w r plan a).modPart q (fun p => p.setWarp w y) =
      ((t.modPart q (fun p => p.setWarp w x)).doAct q w r plan a).modPart q (fun p => p.setWarp w y) := by
    cases a <;> simp only [Act.isReg, Bool.false_eq_true] at ha
    case v => simp only [State.doAct, State.modPart_modPart, Part.setCore, Part.setWarp, Part.core, AMap.wr_wr]
    all_goals simp only [State.doAct, State.modPart, Part.modWarp, h.warp, State.setPart_part, State.setPart_setPart, Part.setWarp_warp, Part.setWarp_setWarp]
  have uncur : ({ (t.modPart q (fun p => p.setWarp w x)).doAct q w r plan a with cur := none } : State) = s.held q w (x.took a) ds := by
    rw [← done, ← h.held x]
    exact (State.doAct_cur ha (t.modPart q (fun p => p.setWarp w x)) none q w r plan).symm
  refine ⟨ds, ⟨?_, fun y => ?_⟩, file⟩
  · cases a <;> simp only [Act.isReg, Bool.false_eq_true] at ha
    case v => exact (congrArg (fun p : Part => p.warp w) (State.modPart_part ..)).trans h.warp
    all_goals simp only [State.doAct, State.modPart, Part.modWarp, h.warp, State.setPart_part, Part.setWarp_warp]; rfl
  · rw [placed]
    exact (congrArg (fun z : State => z.modPart q (fun p => p.setWarp w y)) uncur).trans (by simp)

end heldOpen

/-- Register effects in order. -/
theorem State.HeldOpen.doActList {s : State} {q : Nat} {w : WRef} (r : Run) (plan : Plan) : ∀ {l : List Act} {t : State} {x : Warp} {cs : AMap Core} {rf : Nat → W32},
    s.HeldOpen t q w x cs → (∀ a ∈ l, a.isReg = true) → FileOnly (s.part q).cores cs w.core rf →
    ∃ ds, s.HeldOpen (l.foldl (fun s a => s.doAct q w r plan a) t) q w (l.foldl Warp.took x) ds ∧ FileOnly (s.part q).cores ds w.core (fun k => l.foldl (Act.file k) (rf k))
  | [], _, _, cs, _, h, _, hc => ⟨cs, h, hc⟩
  | a :: l, _, _, _, _, h, hl, hc =>
    have ⟨_, one, file⟩ := h.doAct r plan (hl a (by simp)) hc
    State.HeldOpen.doActList r plan (l := l) one (fun b hb => hl b (by simp [hb])) file

/-! ### Effects in their order -/

/-- An effect that is neither a store nor a `tlbi`: a commit performs it in its place, and no store waits for a plan. -/
def Act.inOrder (a : Act) : Bool := match a with | .store .. => false | .stp .. => false | .tlbi .. => false | _ => true

theorem Act.inOrder_of_isReg {a : Act} (h : a.isReg = true) : a.inOrder = true := by
  cases a <;> first | rfl | exact absurd h Bool.false_ne_true

/-- A run without stores makes no plan. -/
theorem Part.plan_inOrder (p : Part) (c : Ctx) {l : List Act} (h : ∀ a ∈ l, a.inOrder = true) : p.plan c l = [] := by
  unfold Part.plan
  dsimp only
  refine (congrArg (fun lines => List.filterMap _ (List.dedup lines)) (List.flatMap_eq_nil_iff.2 fun a ha => ?_)).trans rfl
  have := h a ha
  cases a <;> first | rfl | exact absurd this Bool.false_ne_true

/-- A run of such effects without an operation leaves what its loads leave, then the effects in order. -/
theorem State.doActs_inOrder {s : State} {q : Nat} {c : Ctx} {r : Run} (h : ∀ a ∈ r.acts, a.inOrder = true) (ht : r.term = .none) :
    s.doActs q c r = r.acts.foldl (fun s a => s.doAct q c.w r [] a) (r.acts.foldl (fun s a => s.doLoadAct q c.w a) s) := by
  have noTlbi (a : Act) (ha : a ∈ r.acts) : a.isTlbi = false := by
    have := h a ha
    cases a <;> first | rfl | exact absurd this Bool.false_ne_true
  have others : r.acts.filter (fun a => !a.isTlbi) = r.acts := List.filter_eq_self.2 fun a ha => by rw [noTlbi a ha]; rfl
  have tlbis : r.acts.filter Act.isTlbi = [] := List.filter_eq_nil_iff.2 fun a ha => by simp [noTlbi a ha]
  have unsettled : r.settles = false := by
    refine Bool.or_eq_false_iff.2 ⟨List.any_eq_false.2 fun a ha => ?_, by rw [ht]⟩
    have := h a ha
    cases a <;> first | exact Bool.false_ne_true | exact absurd this Bool.false_ne_true
  unfold State.doActs
  dsimp only
  rw [others, tlbis, unsettled, Part.plan_inOrder _ c h]
  rfl

/-! ### The commit of such a run -/

section holding

variable {z : State} {p : Part} {q : Nat} {w : WRef} {y : Warp} {ds : AMap Core} (h : z.part q = p.holding w y ds)
include h

/-- A change that leaves the warp of a held partition leaves the state. -/
theorem State.modW_same {f : Warp → Warp} (hf : f y = y) : z.modW q w f = z := by
  unfold State.modW State.modPart
  dsimp only
  rw [h, Part.holding_modWarp, hf, ← h, State.setPart_self]

/-- Outside loops nothing precedes what follows a commit of a run without an operation. -/
theorem State.endRun_none {c : Ctx} {r : Run} (hw : c.w = w) (ht : r.term = .none) (hl : y.levels = []) (k : Core) : z.endRun q c r k = z := by
  have tested : z.loopTest q c r = z := by
    unfold State.loopTest
    rw [hw, State.modW_same h (by simp [Warp.loopEnd, hl]), ite_self]
  unfold State.endRun State.doTerm
  rw [ht]
  exact tested

end holding

/-- What follows a commit changes nothing where no swap is under way, no warp is on an object, the warp has a lane on its path, and no `trap` has committed. -/
theorem State.afterCommit_same {z : State} {q : Nat} {w : WRef} {c : Ctx} {r : Run} (hc : (z.part q).ctx w = some c) (hp : c.x.path ≠ 0) (hs : (z.part q).swaps = [])
    (ht : ∀ a, r.term ≠ .trap a) (hw : ∀ y ∈ (z.part q).warps, ∀ l g t, y.2.wait ≠ .abwait l g t) : z.afterCommit q w r = z := by
  have untrapped : z.afterTrap q w r = z := by
    unfold State.afterTrap
    split
    · rename_i a _ e _
      exact absurd e (ht a)
    · rfl
  have unstopped : z.modPart q (fun p => (p.boundaryStop w r.safept z.now).swapStops z.now) = z := by
    unfold State.modPart
    dsimp only
    rw [Part.boundaryStop_nil hs, Part.swapStops_nil hs, State.setPart_self]
  unfold State.afterCommit
  dsimp only
  rw [untrapped, State.settleWarp_path hc hp, unstopped]
  exact State.wakeAb_none hw

/-- A run without an operation commits into what its effects leave, with its warp between runs: `u` holds what the effects leave beyond the warp `y` and its core's file. -/
theorem State.commit_held {s u : State} {q : Nat} {c d : Ctx} {r : Run} {y : Warp} {ds : AMap Core} (hp : (s.part q).placeQ = [])
    (done : u.HeldOpen (s.doActs q c r) q c.w y ds) (hctx : (u.part q).ctx c.w = some d) (hb : y.block = d.x.block) (hl : y.levels = []) (hpath : y.path ≠ 0)
    (hw : ∀ l g t, y.wait ≠ .abwait l g t) (hs : (u.part q).swaps = []) (ho : ∀ y ∈ (u.part q).warps, ∀ l g t, y.2.wait ≠ .abwait l g t) (hlag : (u.part q).lag = (s.part q).lag)
    (ht : r.term = .none) : ({ s.commit q c r with cur := none } : State) = u.held q c.w { y with run := none, pc := r.next, refillRun := false } ds := by
  let f (x : Warp) : Warp := { x with run := none, pc := r.next, refillRun := false }
  have held := done.modW f
  have part : ((s.doActs q c r).modW q c.w f).part q = (u.part q).holding c.w (f y) ds := (congrArg (fun z : State => z.part q) held).trans (State.held_part ..)
  have ctx := State.held_ctx hctx (x := f y) hb ds
  have objects (x : Nat × Warp) (hx : x ∈ (((s.doActs q c r).modW q c.w f).part q).warps) (l : Loc) (g : Bool) (t : Nat) : x.2.wait ≠ .abwait l g t := by
    rw [part, Part.holding_warps] at hx
    rcases AMap.mem_wr hx with rfl | old
    · exact hw l g t
    · exact ho x old l g t
  rw [← part] at ctx
  have following := State.afterCommit_same (r := r) ctx hpath (by rw [part]; exact hs) (by simp [ht]) objects
  rw [State.commit_done (z := (s.doActs q c r).modW q c.w f)]
  · exact held
  · exact State.commitFail_none (by rw [ht]; rfl) _ _ _
  · rw [State.drainAll_nil hp, State.endRun_none part rfl ht hl]
    exact following
  · rw [State.drainAll_nil hp, part]
    exact hlag
  · unfold State.stuck
    rw [ctx]
    exact if_pos (.inr hpath)

/-- A parked run of register effects commits: its effects, and the warp between runs. -/
theorem Parks.commits {s : State} {q : Nat} {w : WRef} {c : Ctx} {r : Run} (h : Parks s q w c r) (hreg : ∀ a ∈ r.acts, a.isReg = true) :
    ∃ ds, ({ s.commit q c r with cur := none } : State) = s.held q w { r.acts.foldl Warp.took c.x with run := none, pc := r.next, refillRun := false } ds ∧
      FileOnly (s.part q).cores ds w.core (fun k => r.acts.foldl (Act.file k) (Sparse.rd ((s.part q).core w.core).rf k)) := by
  obtain rfl := (Part.ctx_some h.ctx).1
  obtain ⟨hb, hl, hwait, hpath⟩ := Warp.tooks_keep (x := c.x) hreg
  obtain ⟨ds, done, file⟩ := State.HeldOpen.doActList r [] (.refl (Part.ctx_some h.ctx).2.1) hreg ⟨fun _ _ => rfl, rfl, fun _ => rfl⟩
  refine ⟨ds, State.commit_held h.placed ?_ h.ctx hb (hl.trans h.noLoop) (by rw [hpath]; exact h.path) (by rw [hwait, h.wait]; nofun) h.unswapped h.noObject rfl h.term, file⟩
  rwa [State.doActs_inOrder (fun a ha => Act.inOrder_of_isReg (hreg a ha)) h.term, State.doLoadActs_reg _ _ _ _ hreg]

/-! ### The step -/

/-- A park that holds no more, and register effects: the run may commit. -/
theorem Part.runReady_over {p : Part} {c : Ctx} {r : Run} (hreg : ∀ a ∈ r.acts, a.isReg = true) (hwait : ∀ k ∈ r.waits, p.waitOver c.x k = true) (ht : r.term = .none) :
    p.runReady c r = true := by
  have acts := Part.runReady_reg (p := p) (c := c) (r := { r with waits := [] }) hreg rfl (by rw [ht]; rfl)
  simp only [Part.runReady, List.all_nil, Bool.true_and, Bool.and_eq_true] at acts ⊢
  exact ⟨⟨List.all_eq_true.2 hwait, acts.1⟩, acts.2⟩

theorem happens_commit (s : State) (q : Nat) (w : WRef) : Happens s q (.commit w) (s.taken.tryCommit q w) := rfl

/-- A parked run of register effects commits once its tags are ready (R35). -/
theorem Parks.happens {s : State} {q : Nat} {w : WRef} {c : Ctx} {r : Run} (h : Parks s q w c r) (hreg : ∀ a ∈ r.acts, a.isReg = true)
    (hwait : ∀ k ∈ r.waits, ∃ m, k = .twall m ∧ c.x.trdy &&& m = m) :
    ∃ t, Happens s q (.commit w) t ∧ (t.part q).warp w = some (r.acts.foldl Warp.took { c.x with run := none, pc := r.next, refillRun := false }) ∧
      (∀ k, Sparse.rd ((t.part q).core w.core).rf k = r.acts.foldl (Act.file k) (Sparse.rd ((s.part q).core w.core).rf k)) ∧
      ∀ v g b l, t.rdLoc v g b l = s.rdLoc v g b l := by
  have taken : Parks s.taken q w c r := ⟨h.ctx, h.run, h.closed, h.term, h.path, h.wait, h.placed, h.unswapped, h.noLoop, h.noObject⟩
  have ready : (s.taken.part q).runReady c r = true := Part.runReady_over hreg (fun k hk => by
    obtain ⟨m, rfl, hm⟩ := hwait k hk
    exact beq_iff_eq.2 hm) h.term
  have committed : s.taken.tryCommit q w = s.taken.commit q c r := by
    unfold State.tryCommit
    rw [taken.ctx]
    dsimp only
    rw [h.run]
    dsimp only
    rw [h.closed, ready]
    rfl
  obtain ⟨ds, done, file⟩ := taken.commits hreg
  have part : ((s.taken.commit q c r).part q) = (s.part q).holding w _ ds := (congrArg (fun z : State => z.part q) done).trans (State.held_part ..)
  have warp : r.acts.foldl Warp.took { c.x with run := none, pc := r.next, refillRun := false } = { r.acts.foldl Warp.took c.x with run := none, pc := r.next, refillRun := false } := by
    have now : (r.acts.foldl Warp.took (c.x.between c.x.last c.x.run c.x.pc c.x.refillRun)).last = c.x.last :=
      by rw [Warp.tooks_between]; rfl
    refine (Warp.tooks_between (now := c.x.last) (r := none) (pc := r.next) (b := false) (x := c.x)).trans ?_
    exact congrArg (fun u => (r.acts.foldl Warp.took c.x).between u none r.next false) now.symm
  refine ⟨_, happens_commit s q w, ?_, ?_, ?_⟩
  · rw [committed, part, Part.holding_warp, warp]
  · intro k
    rw [committed, part]
    exact file.file k
  · intro v g b l
    rw [committed, ← State.rdLoc_cur _ none, done, State.held_bytes file]
    cases l <;> rfl

end Sys2Proof.Machine
end
section
/-! SUPPORT. Queue registers, and records that are accepted. -/

namespace Sys2Proof.Machine

/-! ### Queue registers (R75, R366) -/

theorem happens_qtail (s : State) (q i : Nat) (v : BitVec 32) (view : View) : Happens s q (.qtail i v view) (s.taken.fromHost q view (s.taken.writeTail q i v)) := rfl
theorem happens_resume (s : State) (q i : Nat) (view : View) : Happens s q (.resume i view) (s.taken.fromHost q view (s.taken.unhalt q i false)) := rfl
theorem happens_skip (s : State) (q i : Nat) (view : View) : Happens s q (.skip i view) (s.taken.fromHost q view (s.taken.unhalt q i true)) := rfl
theorem happens_registerWrite (s : State) (q : Nat) (r : RegAddr) (v : W64) (view : View) :
    Happens s q (.register_write r v view) (s.taken.fromHost q view (s.taken.registerWrite q r v view)) := rfl

/-- A die in recovery takes no write from the host; every other write is taken. -/
theorem State.fromHost_recovery {s : State} {q : Nat} (h : (s.dies.rd q).recovery = true) (t : State) : s.fromHost q .bar0 t = s :=
  if_pos ⟨rfl, by simp [State.served, h]⟩

theorem State.fromHost_served {s : State} {q : Nat} {view : View} (h : view = .bar0 → (s.dies.rd q).recovery = false) (t : State) : s.fromHost q view t = t :=
  if_neg fun ⟨hv, hs⟩ => by simp [State.served, h hv] at hs

/-- Values of five bits differ in five bits. -/
theorem and_not_span {m n : Nat} (hm : m < 32) (hn : n < 32) : (BitVec.ofNat 64 m ^^^ BitVec.ofNat 64 n) &&& ~~~(span 4 0) = 0 := by
  have low : ∀ k < 32, BitVec.ofNat 64 k &&& ~~~(span 4 0) = 0 := by decide
  rw [← BitVec.ofNat_xor]
  exact low _ (Nat.xor_lt_two_pow (n := 5) hm hn)

section queueOpen

variable {s : State} {q i : Nat} (h : s.queueOpen q i = true)
include h

theorem State.writeTail_open (v : BitVec 32) : s.writeTail q i v = s.setPart q ((s.part q).setQueue i
    (if (((s.part q).queue i).qtail - ((s.part q).queue i).qhead).toNat ≤ (v - ((s.part q).queue i).qhead).toNat ∧
        (v - ((s.part q).queue i).qhead).toNat ≤ 2 ^ ((s.part q).queue i).qlog then { (s.part q).queue i with qtail := v }
      else { (s.part q).queue i with halt := true, err := 7, hidx := ((s.part q).queue i).qhead })) := by
  unfold State.writeTail
  rw [h]
  rfl

theorem State.unhalt_open (hh : ((s.part q).queue i).halt = true) (skip : Bool) : s.unhalt q i skip = s.setPart q ((s.part q).setQueue i
    { (s.part q).queue i with
      halt := false
      err := 0
      qhead := if skip && ((s.part q).queue i).err != 7 then ((s.part q).queue i).qhead + 1 else ((s.part q).queue i).qhead }) := by
  unfold State.unhalt State.modPart
  rw [h]
  simp only [hh, Bool.not_true, Bool.false_eq_true, if_false, if_true]

theorem State.skip_open (hh : ((s.part q).queue i).halt = true) : s.unhalt q i true = s.setPart q ((s.part q).setQueue i
    { (s.part q).queue i with
      halt := false
      err := 0
      qhead := if ((s.part q).queue i).err = 7 then ((s.part q).queue i).qhead else ((s.part q).queue i).qhead + 1 }) := by
  rw [State.unhalt_open h hh]
  by_cases e : ((s.part q).queue i).err = 7 <;> simp [e]

/-- A disabled queue's QLOG takes another value from 4 to 16 (R75). -/
theorem State.writeQueue_qlog {n : Nat} (he : ((s.part q).queue i).en = false) (hl : ((s.part q).queue i).qlog < 32) (hn : n ≠ ((s.part q).queue i).qlog)
    (h4 : 4 ≤ n) (h16 : n ≤ 16) (view : View) : s.writeQueue q i 0x08 (BitVec.ofNat 64 n) view = s.setPart q ((s.part q).setQueue i { (s.part q).queue i with qlog := n }) := by
  have value : (BitVec.ofNat 64 n).toNat = n := by rw [BitVec.toNat_ofNat]; omega
  have differs : BitVec.ofNat 64 n ≠ s.queueReg q i 0x08 := by
    intro e
    have := congrArg BitVec.toNat e
    rw [value, show s.queueReg q i 0x08 = BitVec.ofNat 64 ((s.part q).queue i).qlog from rfl, BitVec.toNat_ofNat] at this
    omega
  have low : (BitVec.ofNat 64 n ^^^ s.queueReg q i 0x08) &&& ~~~(queueRw 0x08 false) = 0 := and_not_span (by omega) hl
  have range : queueRange 0x08 (BitVec.ofNat 64 n) = true := by simp [queueRange, value, h4, h16]
  unfold State.writeQueue
  rw [h, he]
  dsimp only
  rw [if_neg (by simp), if_neg (by simp), if_neg (by decide), if_neg differs, low, range, if_neg (by decide), State.modPart]
  congr 2
  exact congrArg (fun m => ({ (s.part q).queue i with qlog := m } : Queue)) value

end queueOpen

/-- A write from the host to an open queue's register is what the partition makes of it. -/
theorem queueOpen_of {s : State} {q i : Nat} (hr : s.rdyPart.getLsbD q = true) (ho : s.owns q i = true) (hi : i < 64) : s.queueOpen q i = true := by
  simp [State.queueOpen, hr, ho, hi]

/-! ### Records (R76, R77) -/

theorem happens_recordAccept (s : State) (q i : Nat) : Happens s q (.record_accept i) (s.taken.recordAccept q i) := rfl

section record

variable {s : State} {q i : Nat} (h : s.hasRecord q i = true)
include h

/-- A record that breaks a rule halts its queue. -/
theorem State.recordAccept_error {e : Nat}
    (hc : s.checkRecord q ((s.part q).queue i).rcls
      (s.devRead q (((s.part q).queue i).qbase + BitVec.ofNat 64 (64 * (((s.part q).queue i).qhead.toNat % 2 ^ ((s.part q).queue i).qlog))) 64) = .error e) :
    s.recordAccept q i = s.setPart q ((s.part q).setQueue i { (s.part q).queue i with halt := true, err := e, hidx := ((s.part q).queue i).qhead }) := by
  unfold State.recordAccept
  dsimp only
  rw [h, hc]
  rfl

/-- A record that breaks none becomes a grid of its queue. -/
theorem State.recordAccept_ok {l : Launch} {k : KDesc}
    (hc : s.checkRecord q ((s.part q).queue i).rcls
      (s.devRead q (((s.part q).queue i).qbase + BitVec.ofNat 64 (64 * (((s.part q).queue i).qhead.toNat % 2 ^ ((s.part q).queue i).qlog))) 64) = .ok (l, k)) :
    s.recordAccept q i = s.setPart q (((s.part q).setQueue i { (s.part q).queue i with qhead := ((s.part q).queue i).qhead + 1 }).acceptGrid i l k) := by
  unfold State.recordAccept
  dsimp only
  rw [h, hc]
  rfl

end record

theorem State.hasRecord_of {s : State} {q i : Nat} (ho : s.owns q i = true) (he : ((s.part q).queue i).en = true) (hh : ((s.part q).queue i).halt = false)
    (ht : ((s.part q).queue i).qhead ≠ ((s.part q).queue i).qtail) (ha : ((s.part q).grids.filter (fun g => g.queue == i)).length < 16) : s.hasRecord q i = true := by
  simp [State.hasRecord, ho, he, hh, ht, Part.active, ha]

/-! ### The accepted grid (R76, R80) -/

/-- What names a grid, its queue and its priority. -/
def Grid.ticket (g : Grid) : Nat × Nat × Nat := (g.seq, g.queue, g.prio)

/-- The grid of an accepted record, before its dependences are looked at. -/
def Part.newGrid (p : Part) (queue : Nat) (l : Launch) (k : KDesc) : Grid :=
  ⟨p.gridSeq, queue, k, l, min l.prio (p.queue queue).pmax, l.deps.map (fun _ => false), false, true, [], 0, false⟩

/-- The partition with it, and with the dependences that hold. -/
def Part.withGrid (p : Part) (g : Grid) : Part := ({ p with grids := p.grids ++ [g], gridSeq := p.gridSeq + 1 } : Part).evalDeps

theorem Part.acceptGrid_eq (p : Part) (queue : Nat) (l : Launch) (k : KDesc) : p.acceptGrid queue l k =
    if l.deps.isEmpty then (p.withGrid (p.newGrid queue l k)).startGrid p.gridSeq else p.withGrid (p.newGrid queue l k) := rfl

theorem Part.evalDeps_tickets (p : Part) : p.evalDeps.grids.map Grid.ticket = p.grids.map Grid.ticket := by
  simp [Part.evalDeps, Grid.ticket, Function.comp_def]

theorem Part.startGrid_tickets (p : Part) (n : Nat) : (p.startGrid n).grids.map Grid.ticket = p.grids.map Grid.ticket := by
  unfold Part.startGrid
  split
  · rfl
  · split
    · simp [Part.modGrid, updIf, Grid.ticket, Function.comp_def, apply_ite]
    · rfl

theorem Part.acceptGrid_tickets (p : Part) (queue : Nat) (l : Launch) (k : KDesc) :
    (p.acceptGrid queue l k).grids.map Grid.ticket = p.grids.map Grid.ticket ++ [(p.gridSeq, queue, min l.prio (p.queue queue).pmax)] := by
  have joined : (p.withGrid (p.newGrid queue l k)).grids.map Grid.ticket = p.grids.map Grid.ticket ++ [(p.gridSeq, queue, min l.prio (p.queue queue).pmax)] := by
    rw [Part.withGrid, Part.evalDeps_tickets, List.map_append]
    rfl
  rw [Part.acceptGrid_eq]
  split
  · rw [Part.startGrid_tickets, joined]
  · exact joined

theorem Part.acceptGrid_queue (p : Part) (queue : Nat) (l : Launch) (k : KDesc) (i : Nat) : (p.acceptGrid queue l k).queue i = p.queue i := by
  have started (r : Part) (n : Nat) : (r.startGrid n).queue i = r.queue i := by
    unfold Part.startGrid
    split
    · rfl
    · split <;> rfl
  rw [Part.acceptGrid_eq]
  split
  · exact started _ _
  · rfl

/-- The accepted grid with the dependences that hold. -/
def Part.judged (p : Part) (g : Grid) : Grid := { g with held := (g.l.deps.zip g.held).map (fun d => d.2 || decide (d.1.2 ≤ (Sparse.rd p.events d.1.1).toNat)) }

section accepted

variable {p : Part} (hs : ∀ y ∈ p.grids, y.seq < p.gridSeq) {g : Grid} (hg : g.seq = p.gridSeq)
include hs hg

theorem Part.withGrid_grid? : (p.withGrid g).grid? p.gridSeq = some (p.judged g) := by
  have absent : p.grids.find? (fun y => y.seq == p.gridSeq) = none := List.find?_eq_none.2 fun y hy => by simpa using Nat.ne_of_lt (hs y hy)
  simp [Part.withGrid, Part.evalDeps, Part.grid?, List.find?_map, absent, hg, Part.judged]

/-- A grid without dependences may start when the earlier grids of its queue have started. -/
theorem Part.withGrid_mayStart (hn : g.started = false) (hd : g.l.deps = []) :
    (p.withGrid g).mayStartGrid (p.judged g) = true ↔ ∀ y ∈ p.grids, y.queue = g.queue → y.started = true := by
  have held : (p.judged g).held = [] := by simp [Part.judged, hd]
  have fresh : (p.judged g).started = false := hn
  have earlier (y : Grid) (hy : y ∈ p.grids) : (!(y.queue == g.queue && decide (y.seq < g.seq)) || y.started) = true ↔ (y.queue = g.queue → y.started = true) := by
    have older : y.seq < g.seq := hg ▸ hs y hy
    by_cases e : y.queue = g.queue <;> simp [e, older]
  have latest : (!(g.queue == g.queue && decide (g.seq < g.seq)) || g.started) = true := by simp
  have all : (p.withGrid g).grids.all (fun y => !(y.queue == (p.judged g).queue && decide (y.seq < (p.judged g).seq)) || y.started) =
      (p.grids ++ [g]).all (fun y => !(y.queue == g.queue && decide (y.seq < g.seq)) || y.started) := by
    rw [Part.withGrid, Part.evalDeps, List.all_map]
    rfl
  rw [Part.mayStartGrid, held, fresh, all, List.all_append, List.all_cons, latest]
  simp only [Bool.not_false, List.all_nil, Bool.and_true, Bool.true_and, List.all_eq_true]
  exact forall₂_congr earlier

end accepted

/-- The accepted grid holds its record and its kernel, and has started if it has no dependence and no earlier grid of its queue waits to start. -/
theorem Part.acceptGrid_new {p : Part} {queue : Nat} {l : Launch} {k : KDesc} (hs : ∀ y ∈ p.grids, y.seq < p.gridSeq) {x : Grid}
    (hx : (p.acceptGrid queue l k).grid? p.gridSeq = some x) :
    x.l = l ∧ x.k = k ∧ (x.started = true ↔ l.deps = [] ∧ ∀ y ∈ p.grids, y.queue = queue → y.started = true) := by
  have found := Part.withGrid_grid? hs (g := p.newGrid queue l k) rfl
  rw [Part.acceptGrid_eq] at hx
  split at hx
  case isTrue hd =>
    have hd : l.deps = [] := List.isEmpty_iff.1 hd
    have may := Part.withGrid_mayStart hs (g := p.newGrid queue l k) rfl rfl hd
    unfold Part.startGrid at hx
    rw [found] at hx
    dsimp only at hx
    split at hx
    case isTrue hm =>
      rw [Part.grid?_modGrid (f := fun g => { g with started := true }) (fun _ => rfl), found] at hx
      cases hx
      exact ⟨rfl, rfl, fun _ => ⟨hd, may.1 hm⟩, fun _ => rfl⟩
    case isFalse hm =>
      rw [found] at hx
      cases hx
      exact ⟨rfl, rfl, nofun, fun hall => absurd (may.2 hall.2) hm⟩
  case isFalse hd =>
    rw [found] at hx
    cases hx
    exact ⟨rfl, rfl, nofun, fun hall => absurd (List.isEmpty_iff.2 hall.1) hd⟩

/-- A record that cannot be read is ERR 6. -/
theorem State.checkRecord_none (s : State) (q rcls : Nat) {m : Option (List Byte)} (h : m = none) : s.checkRecord q rcls m = .error 6 := by rw [h]; rfl

/-- A record that passes the checks becomes a grid of its queue. -/
theorem happens_accepted {s : State} {q i : Nat} {l : Launch} {k : KDesc} (h : s.taken.hasRecord q i = true)
    (hc : s.checkRecord q ((s.part q).queue i).rcls
      (s.devRead q (((s.part q).queue i).qbase + BitVec.ofNat 64 (64 * (((s.part q).queue i).qhead.toNat % 2 ^ ((s.part q).queue i).qlog))) 64) = .ok (l, k)) :
    ∃ t, Happens s q (.record_accept i) t ∧ (t.part q).queue i = { (s.part q).queue i with qhead := ((s.part q).queue i).qhead + 1 } ∧
      (t.part q).grids.map (fun g => (g.seq, g.queue, g.prio)) = (s.part q).grids.map (fun g => (g.seq, g.queue, g.prio)) ++
        [((s.part q).gridSeq, i, min l.prio ((s.part q).queue i).pmax)] ∧
      ∀ x, (∀ y ∈ (s.part q).grids, y.seq < (s.part q).gridSeq) → (t.part q).grid? (s.part q).gridSeq = some x →
        x.l = l ∧ x.k = k ∧ (x.started = true ↔ l.deps = [] ∧ ∀ y ∈ (s.part q).grids, y.queue = i → y.started = true) := by
  have accepted := State.recordAccept_ok (s := s.taken) h hc
  refine ⟨_, happens_recordAccept s q i, ?_, ?_, fun x hs hx => ?_⟩
  · rw [accepted, State.setPart_part, Part.acceptGrid_queue, Part.setQueue_queue]
    rfl
  · rw [accepted, State.setPart_part]
    refine (Part.acceptGrid_tickets _ i l k).trans ?_
    rw [Part.setQueue_queue]
    rfl
  · rw [accepted, State.setPart_part] at hx
    exact Part.acceptGrid_new (p := (s.part q).setQueue i { (s.part q).queue i with qhead := ((s.part q).queue i).qhead + 1 }) hs hx

end Sys2Proof.Machine
end
section
/-! SUPPORT. The request that a class's buckets let through. -/

namespace Sys2Proof.Machine

/-! ### Buckets (R87, R88) -/

/-- A core's bucket of a class is of the class, brought up to date, and no fuller than its depths. -/
theorem Part.bucket_facts (p : Part) (g cls now : Nat) : (p.bucket g cls now).cls = cls ∧ (p.bucket g cls now).upd = now ∧
    (p.bucket g cls now).hbm ≤ depth (p.csr.rate cls).1 (p.clsCores cls) ∧ (p.bucket g cls now).fab ≤ depth (p.csr.rate cls).2.1 (p.clsCores cls) := by
  unfold Part.bucket
  split
  · rename_i b hb
    obtain rfl : b.cls = cls := by simpa using List.find?_some hb
    exact ⟨rfl, rfl, min_le_left _ _, min_le_left _ _⟩
  · exact ⟨rfl, rfl, le_refl _, le_refl _⟩

/-- A bucket within its depths reads back as it was set, at the same moment. -/
theorem Part.bucket_setBucket {p : Part} {g cls now : Nat} {b : Bucket} (hc : b.cls = cls) (hu : b.upd = now) (hh : b.hbm ≤ depth (p.csr.rate cls).1 (p.clsCores cls))
    (hf : b.fab ≤ depth (p.csr.rate cls).2.1 (p.clsCores cls)) : (p.setBucket g b).bucket g cls now = b := by
  subst hc hu
  have found : ((p.setBucket g b).core g).buckets.find? (fun x => x.cls == b.cls) = some b := by
    have absent : ((p.core g).buckets.filter (fun x => x.cls != b.cls)).find? (fun x => x.cls == b.cls) = .none :=
      List.find?_eq_none.2 fun x hx => by simpa using (List.mem_filter.1 hx).2
    simp only [Part.setBucket, Part.setCore_core, List.find?_append, absent, List.find?_cons, beq_self_eq_true, Option.none_or]
  have none (r n : Nat) : tokens r n 0 = 0 := by simp [tokens]
  unfold Part.bucket
  rw [found]
  change (⟨b.cls, min _ (b.hbm + tokens _ _ (b.upd - b.upd)), min _ (b.fab + tokens _ _ (b.upd - b.upd)), b.upd⟩ : Bucket) = b
  rw [Nat.sub_self, none, none, add_zero, add_zero]
  exact congrArg₂ (fun x y => (⟨b.cls, x, y, b.upd⟩ : Bucket)) (min_eq_right hh) (min_eq_right hf)

/-- What is reserved at a rate, and for how many cores, no debt changes. -/
theorem Part.debt_rates (p : Part) (g cls now hbm fab : Nat) : (p.debt g cls now hbm fab).reserves cls = p.reserves cls ∧
    depth ((p.debt g cls now hbm fab).csr.rate cls).1 ((p.debt g cls now hbm fab).clsCores cls) = depth (p.csr.rate cls).1 (p.clsCores cls) := by
  unfold Part.debt
  split <;> exact ⟨rfl, rfl⟩

/-- A debt of no bytes is none, and no debt fills a bucket. -/
theorem owed_zero (d v : Int) : owed d v 0 = v := by simp [owed]

theorem owed_le (d v : Int) (n : Nat) : owed d v n ≤ v := by
  unfold owed
  split
  · exact le_refl v
  · omega

theorem Part.debt_bucket {p : Part} {g cls now : Nat} (hr : p.reserves cls = true) (y : Nat) : (p.debt g cls now 0 y).bucket g cls now =
    { p.bucket g cls now with fab := owed (depth (p.csr.rate cls).2.1 (p.clsCores cls)) (p.bucket g cls now).fab y } := by
  obtain ⟨hc, hu, hh, hf⟩ := p.bucket_facts g cls now
  unfold Part.debt
  rw [if_pos hr]
  dsimp only
  rw [owed_zero]
  exact Part.bucket_setBucket hc hu hh ((owed_le _ _ y).trans hf)

/-- The credit of a request that was charged gives its bytes back. -/
theorem Part.refund_bucket {p : Part} {g cls now n : Nat} (hr : p.reserves cls = true) (hh : (p.bucket g cls now).hbm + (7 * n : Nat) ≤ depth (p.csr.rate cls).1 (p.clsCores cls)) :
    (p.refund g cls now n).bucket g cls now = { p.bucket g cls now with hbm := (p.bucket g cls now).hbm + (7 * n : Nat) } := by
  obtain ⟨hc, hu, -, hf⟩ := p.bucket_facts g cls now
  unfold Part.refund
  rw [if_pos hr]
  dsimp only
  rw [min_eq_right hh]
  exact Part.bucket_setBucket hc hu hh hf

/-- The buckets after a reserved request: its charge, its reply as debt, and what the HBM bucket was where the home slice serves it. -/
theorem Part.injected_bucket {p : Part} {g cls now h f y : Nat} (hr : p.reserves cls = true) (hit : Bool) :
    (p.injected g cls now true hit (h, f, y)).bucket g cls now =
      ⟨cls, if hit then (p.bucket g cls now).hbm else (p.bucket g cls now).hbm - (7 * h : Nat),
        owed (depth (p.csr.rate cls).2.1 (p.clsCores cls)) ((p.bucket g cls now).fab - (7 * f : Nat)) y, now⟩ := by
  obtain ⟨hc, hu, hh, hf⟩ := p.bucket_facts g cls now
  let charged := p.setBucket g ((p.bucket g cls now).charge h f)
  have charge : charged.bucket g cls now = (p.bucket g cls now).charge h f :=
    Part.bucket_setBucket hc hu (by simp only [Bucket.charge]; omega) (by simp only [Bucket.charge]; omega)
  have debt : (charged.debt g cls now 0 y).bucket g cls now =
      ⟨cls, (p.bucket g cls now).hbm - (7 * h : Nat), owed (depth (p.csr.rate cls).2.1 (p.clsCores cls)) ((p.bucket g cls now).fab - (7 * f : Nat)) y, now⟩ := by
    rw [Part.debt_bucket (p := charged) hr, charge, Bucket.charge, hc, hu]
    rfl
  unfold Part.injected
  dsimp only
  rw [if_pos rfl, Bool.true_and]
  cases hit with
  | false => exact debt
  | true =>
    refine (Part.refund_bucket (p := charged.debt g cls now 0 y) ?_ ?_).trans ?_
    · exact (charged.debt_rates g cls now 0 y).1.trans hr
    · rw [debt, (charged.debt_rates g cls now 0 y).2, Int.sub_add_cancel]
      exact hh
    · rw [debt, Int.sub_add_cancel]
      rfl

/-! ### The step -/

theorem happens_reservedInject (s : State) (q : Nat) (w : WRef) :
    Happens s q (.reserved_inject w) (if s.taken.injectDue q w then (s.taken.injectOne q w).tryCommit q w else s.taken) := rfl

/-- Requests that wait hold the commit of their run. -/
theorem State.tryCommit_injecting {t : State} {q : Nat} {w : WRef} {z : Warp} {r : Run} {l : List (Nat × Nat × Nat)} (hz : (t.part q).warp w = some z) (hr : z.run = some r)
    (hw : r.waits = [.inject l]) : t.tryCommit q w = t := by
  unfold State.tryCommit
  split
  · rfl
  · rename_i d hd
    obtain rfl : z = d.x := Option.some.inj (hz.symm.trans (Part.ctx_some hd).2.1)
    have held : (t.part q).runReady d r = false := by simp [Part.runReady, hw, Part.waitOver]
    rw [hr]
    dsimp only
    rw [held, Bool.and_false]
    rfl

section waiting

variable {s : State} {q : Nat} {w : WRef} {c : Ctx} {r : Run} {h f y : Nat} {x : Nat × Nat × Nat} {l : List (Nat × Nat × Nat)} (hc : (s.part q).ctx w = some c)
  (hr : c.x.run = some r) (hw : r.waits = [.inject ((h, f, y) :: x :: l)]) (hh : 7 * (h : Int) ≤ ((s.part q).bucket w.core ((s.part q).blockCls c.blk) s.now).hbm)
  (hf : 7 * (f : Int) ≤ ((s.part q).bucket w.core ((s.part q).blockCls c.blk) s.now).fab)
include hc hr hw hh hf

/-- The first request of the run that has waited longest, where both buckets hold its charge. -/
theorem State.injectDue_of (hcl : r.closed = true) (ho : ∀ y ∈ (s.part q).injectQueue w.core ((s.part q).blockCls c.blk), r.since ≤ y.2.since) : s.injectDue q w = true := by
  have first : r.injecting = (h, f, y) :: x :: l := by simp [Run.injecting, hw]
  have full : ((s.part q).bucket w.core ((s.part q).blockCls c.blk) s.now).has h f = true := by simp [Bucket.has, hh, hf]
  have oldest : ((s.part q).injectQueue w.core ((s.part q).blockCls c.blk)).all (fun y => decide (r.since ≤ y.2.since)) = true := by
    simpa using fun a b h => ho (a, b) h
  unfold State.injectDue
  rw [hc]
  dsimp only
  rw [hr]
  dsimp only
  rw [hcl, first]
  dsimp only
  rw [oldest, full, Bool.or_true]
  rfl

/-- It is injected with a reservation, and the others go on waiting. -/
theorem State.injectOne_of : s.injectOne q w = s.modPart q (fun p =>
    (p.injected w.core ((s.part q).blockCls c.blk) s.now true (Config.homeHit s.tick (l.length + 1)) (h, f, y)).setWarp w { c.x with run := some { r with waits := [.inject (x :: l)] } }) := by
  have first : r.injecting = (h, f, y) :: x :: l := by simp [Run.injecting, hw]
  have full : ((s.part q).bucket w.core ((s.part q).blockCls c.blk) s.now).has h f = true := by simp [Bucket.has, hh, hf]
  unfold State.injectOne
  rw [hc]
  dsimp only
  rw [hr]
  dsimp only
  rw [first]
  dsimp only
  rw [full, hw]
  rfl

end waiting

/-- The injection of the first of several waiting requests (R87, R88). -/
theorem happens_inject {s : State} {q : Nat} {w : WRef} {c : Ctx} {r : Run} {h f y : Nat} {x : Nat × Nat × Nat} {l : List (Nat × Nat × Nat)} (hc : (s.part q).ctx w = some c)
    (hr : c.x.run = some r) (hcl : r.closed = true) (hw : r.waits = [.inject ((h, f, y) :: x :: l)])
    (ho : ∀ y ∈ (s.part q).injectQueue w.core ((s.part q).blockCls c.blk), r.since ≤ y.2.since)
    (hh : 7 * (h : Int) ≤ ((s.part q).bucket w.core ((s.part q).blockCls c.blk) s.now).hbm)
    (hf : 7 * (f : Int) ≤ ((s.part q).bucket w.core ((s.part q).blockCls c.blk) s.now).fab) :
    ∃ t, Happens s q (.reserved_inject w) t ∧ (t.part q).warp w = some { c.x with run := some { r with waits := [.inject (x :: l)] } } ∧
      (t.part q).bucket w.core ((s.part q).blockCls c.blk) s.now =
        ((s.part q).injected w.core ((s.part q).blockCls c.blk) s.now true (Config.homeHit s.tick (l.length + 1)) (h, f, y)).bucket w.core ((s.part q).blockCls c.blk) s.now := by
  have one := State.injectOne_of (s := s.taken) hc hr hw hh hf
  have warp : ((s.taken.injectOne q w).part q).warp w = some { c.x with run := some { r with waits := [.inject (x :: l)] } } := by
    rw [one, State.modPart_part, Part.setWarp_warp]
  refine ⟨s.taken.injectOne q w, (happens_reservedInject s q w).of_eq ?_, warp, ?_⟩
  · rw [if_pos (State.injectDue_of (s := s.taken) hc hr hw hh hf hcl ho)]
    exact State.tryCommit_injecting warp rfl rfl
  · rw [one, State.modPart_part]
    rfl

end Sys2Proof.Machine
end
section
/-! SUPPORT. What the end of a carve-out interval leaves of each core's boundary and counts. -/

namespace Sys2Proof.Machine

/-! ### What traffic leaves -/

section traffic

variable {α : Type} {f : Part → α} (hf : Part.IgnoresTraffic f)
include hf

theorem Part.IgnoresTraffic.logLine (s : State) (q line : Nat) : State.SameView f s (s.logLine q line) := by
  unfold State.logLine
  split
  · exact .refl s
  · refine .foldl (fun s i => ?_) _ s
    dsimp only
    split
    · exact .modPart s q fun p => hf.logErr p _
    · exact .refl s

theorem Part.IgnoresTraffic.ccOut (s : State) (q : Nat) (pay : Payer) (c : Nat) (x : CcLine) : State.SameView f s (s.ccOut q pay c x) := by
  have logged : State.SameView f s (if x.bad = 0 then s else s.logBits q x.line (x.bad &&& ~~~x.dirty)) := by
    split
    · exact .refl s
    · exact hf.logBits s q _ _
  exact (logged.trans (hf.writeBack _ q pay x 15)).trans (.modPart _ q fun p => hf.setClu p _ _)

theorem Part.IgnoresTraffic.ccFit (s : State) (q : Nat) (pay : Payer) (c line cls fuel : Nat) : State.SameView f s (s.ccFit q pay c line cls fuel) := by
  induction fuel generalizing s with
  | zero => exact .refl s
  | succ fuel ih =>
    unfold State.ccFit
    dsimp only
    split
    · exact (hf.ccOut s q pay c _).trans (ih _)
    · split
      · exact .refl s
      · split
        · exact (hf.ccOut s q pay c _).trans (ih _)
        · exact .refl s

theorem Part.IgnoresTraffic.logGone (p : Part) (g clk : Nat) (old : List L1Sector) : f (p.logGone g clk old) = f p := by
  unfold Part.logGone
  exact List.foldlRecOn _ _ (motive := fun r => f r = f p) rfl fun _ hr _ _ => (hf.logErr _ _).trans hr

end traffic

/-! ### Views in which parked lines that move do not show -/

/-- A view of a partition in which neither traffic nor the moves of parked lines show: the directory, the counters and the race records. -/
structure Part.IgnoresMoves {α : Type} (f : Part → α) : Prop extends Part.IgnoresTraffic f where
  dir : ∀ (p : Part) (d : List Parked), f { p with dir := d } = f p
  csr : ∀ (p : Part) (c : PCsr), f { p with csr := c } = f p
  races : ∀ (p : Part) (r : List RaceRec), f { p with races := r } = f p

section moves

variable {α : Type} {f : Part → α} (hf : Part.IgnoresMoves f)
include hf

theorem Part.IgnoresMoves.raceRoom (p : Part) (table sector : Nat) : f (p.raceRoom table sector) = f p := by
  unfold Part.raceRoom
  dsimp only
  split
  · rfl
  · split
    · exact (hf.csr _ _).trans (hf.races p _)
    · rfl

theorem Part.IgnoresMoves.retable (p : Part) (line table : Nat) : f (p.retable line table) = f p := by
  unfold Part.retable
  exact List.foldlRecOn _ _ (motive := fun r => f r = f p) rfl fun _ hr _ _ => ((hf.races _ _).trans (hf.raceRoom _ _ _)).trans hr

theorem Part.IgnoresMoves.pkfall (s : State) (q : Nat) : State.SameView f s (s.modPart q Part.pkfall) := .modPart s q fun p => hf.csr p _

theorem Part.IgnoresMoves.unpark (s : State) (q : Nat) (pay : Payer) (line : Nat) : State.SameView f s (s.unpark q pay line) := by
  unfold State.unpark
  split
  · exact .refl s
  · rename_i d _
    have freed := State.SameView.modPart (f := f) s q (m := fun p => { p with dir := p.dir.filter (fun x => x.line != line) }) fun p => hf.dir p _
    exact (((freed.trans (.wrDramL _ q _ _)).trans (hf.logLine _ q line)).trans (hf.owe _ q pay 128 128)).trans (.modPart _ q fun p => hf.retable p line _)

/-- A parked line takes another level. -/
theorem Part.IgnoresMoves.relevel (s : State) (q : Nat) (pay : Payer) (line table : Nat) (m : Parked → Parked) : State.SameView f s
    ((((s.modPart q (fun p => { p with dir := updIf (fun x => x.line == line) m p.dir })).logLine q line).owe q pay 128 128).modPart q (fun p => p.retable line table)) := by
  have moved := State.SameView.modPart (f := f) s q (m := fun p => { p with dir := updIf (fun x => x.line == line) m p.dir }) fun p => hf.dir p _
  exact ((moved.trans (hf.logLine _ q line)).trans (hf.owe _ q pay 128 128)).trans (.modPart _ q fun p => hf.retable p line table)

theorem Part.IgnoresMoves.moveOut (s : State) (q : Nat) (pay : Payer) (d : Parked) : State.SameView f s (s.moveOut q pay d) := by
  unfold State.moveOut
  dsimp only
  split
  · exact (hf.pkfall s q).trans (hf.relevel _ q pay d.line _ _)
  · exact (hf.pkfall s q).trans (hf.unpark _ q pay d.line)

theorem Part.IgnoresMoves.ccOverflow (s : State) (q : Nat) (pay : Payer) (c line : Nat) : State.SameView f s (s.ccOverflow q pay c line) := by
  unfold State.ccOverflow
  dsimp only
  split
  · exact .refl s
  · split
    · exact .refl s
    · split
      · exact (hf.pkfall s q).trans (.modPart _ q fun p => hf.dir p _)
      · exact hf.moveOut s q pay _

theorem Part.IgnoresMoves.shrinkPark (s : State) (q g : Nat) (pay : Payer) (fuel : Nat) : State.SameView f s (s.shrinkPark q g pay fuel) := by
  induction fuel generalizing s with
  | zero => exact .refl s
  | succ fuel ih =>
    have admitted (t : State) (d : Parked) (c : Nat) : State.SameView f t (t.ccAdmit q pay d c) := (hf.ccOverflow t q pay c d.line).trans (hf.ccFit _ q pay c d.line d.cls 16)
    unfold State.shrinkPark
    dsimp only
    split
    · exact .refl s
    · split
      · exact .refl s
      · refine State.SameView.trans ?_ (ih _)
        refine (hf.pkfall s q).trans ?_
        split
        · exact hf.unpark _ q pay _
        · split
          · exact (hf.relevel _ q pay _ _ _).trans (admitted _ _ _)
          · exact hf.relevel _ q pay _ _ _

end moves

/-! ### A core's boundary and counts (R189) -/

/-- A core's boundary, and the counts of its interval. -/
def Part.carve (g : Nat) (p : Part) : Nat × Nat × Nat := ((p.core g).bnd, (p.core g).g, (p.core g).sc)

/-- A core's new state shows in its own boundary and counts alone. -/
theorem Part.carve_setCore (p : Part) (g j : Nat) (k : Core) : (p.setCore g k).carve j = if g = j then (k.bnd, k.g, k.sc) else p.carve j := by
  unfold Part.carve
  rw [Part.core_setCore]
  split <;> rfl

theorem Part.carve_ignoresMoves (j : Nat) : Part.IgnoresMoves (Part.carve j) where
  debt p g cls now hbm fab := by
    unfold Part.debt
    split
    · simp only [Part.setBucket, Part.carve_setCore]
      split
      case isTrue e => rw [e]; rfl
      case isFalse => rfl
    · rfl
  logErr _ _ := rfl
  setClu _ _ _ := rfl
  dir _ _ := rfl
  csr _ _ := rfl
  races _ _ := rfl

/-- A core's boundary moves, and no other's. -/
theorem State.setBnd_carve (s : State) (q g b j : Nat) (pay : Payer) :
    ((s.setBnd q g b pay).part q).carve j = if g = j then (b, ((s.part q).core j).g, ((s.part q).core j).sc) else (s.part q).carve j := by
  have moves := Part.carve_ignoresMoves j
  unfold State.setBnd
  dsimp only
  rw [State.modPart_part, moves.logGone, Part.carve_setCore]
  have shrunk (t : State) (n : Nat) : ((t.shrinkPark q g pay n).part q).carve j = (t.part q).carve j := moves.shrinkPark t q g pay n q
  have own (p : Part) (l : List L1Sector) : (if g = j then (({ p.core g with l1 := l } : Core).bnd, ({ p.core g with l1 := l } : Core).g, ({ p.core g with l1 := l } : Core).sc)
      else p.carve j) = p.carve j := by
    split
    case isTrue e => rw [e]; rfl
    case isFalse => rfl
  rw [own, shrunk, State.modPart_part, Part.carve_setCore]
  split
  case isTrue e => rw [e]
  case isFalse => rfl

/-- Whatever a core's boundary did, its counts start anew. -/
def State.recount (s : State) (q g : Nat) : State := s.modPart q (fun p => p.setCore g { p.core g with g := 0, sc := 0 })

theorem State.recount_carve (s : State) (q g j : Nat) : ((s.recount q g).part q).carve j = if g = j then (((s.part q).core j).bnd, 0, 0) else (s.part q).carve j := by
  unfold State.recount
  rw [State.modPart_part, Part.carve_setCore]
  split
  case isTrue e => rw [e]
  case isFalse => rfl

/-- The end of an interval on a core moves at most its boundary, and only where it holds a block. -/
theorem State.carveCore_eq (s : State) (q g : Nat) : s.carveCore q g = s.recount q g ∨
    ((∃ x ∈ (s.part q).blocks, x.core = g) ∧ ∃ b pay, s.carveCore q g = (s.setBnd q g b pay).recount q g) := by
  unfold State.carveCore
  dsimp only
  split
  · exact .inl rfl
  · rename_i held
    have block : ∃ x ∈ (s.part q).blocks, x.core = g := by
      by_contra none
      have empty : (s.part q).blocks.filter (fun b => b.core == g) = [] := List.filter_eq_nil_iff.2 fun x hx e => none ⟨x, hx, by simpa using e⟩
      simp [empty] at held
    split
    · exact .inr ⟨block, _, _, rfl⟩
    · split
      · split
        · exact .inr ⟨block, _, _, rfl⟩
        · exact .inl rfl
      · exact .inl rfl

/-- It shows in the core's own boundary and counts alone, and leaves the work. -/
theorem State.carveCore_other (s : State) {q g j : Nat} (h : g ≠ j) : ((s.carveCore q g).part q).carve j = (s.part q).carve j := by
  rcases s.carveCore_eq q g with e | ⟨-, b, pay, e⟩
  · rw [e, State.recount_carve, if_neg h]
  · rw [e, State.recount_carve, if_neg h, State.setBnd_carve, if_neg h]

theorem State.SameWork.carveCore (s : State) (q g : Nat) : s.SameWork (s.carveCore q g) := by
  have counted (t : State) : t.SameWork (t.recount q g) := .modPart t q fun p => p.setCore_roster g _
  rcases s.carveCore_eq q g with e | ⟨-, b, pay, e⟩
  · rw [e]
    exact counted s
  · rw [e]
    exact (State.SameWork.setBnd s q g b pay).trans (counted _)

theorem State.carveCore_counts (s : State) (q g : Nat) : (((s.carveCore q g).part q).core g).g = 0 ∧ (((s.carveCore q g).part q).core g).sc = 0 := by
  have counted (t : State) : (((t.recount q g).part q).core g).g = 0 ∧ (((t.recount q g).part q).core g).sc = 0 := by
    have e := t.recount_carve q g g
    rw [if_pos rfl] at e
    exact ⟨congrArg (fun x => x.2.1) e, congrArg (fun x => x.2.2) e⟩
  rcases s.carveCore_eq q g with e | ⟨-, b, pay, e⟩ <;> rw [e] <;> exact counted _

/-- A core without a block keeps its boundary. -/
theorem State.carveCore_bnd_free {s : State} {q g : Nat} (h : ∀ b ∈ (s.part q).blocks, b.core ≠ g) : (((s.carveCore q g).part q).core g).bnd = ((s.part q).core g).bnd := by
  rcases s.carveCore_eq q g with e | ⟨⟨x, hx, hg⟩, -⟩
  · have e' := s.recount_carve q g g
    rw [if_pos rfl] at e'
    rw [e]
    exact congrArg (fun x => x.1) e'
  · exact absurd hg (h x hx)

/-- The units of its scratchpad that a core's only block needs. -/
def Block.top (b : Block) : Nat := if b.scrLen = 0 then 0 else (b.scrOff + b.scrLen + 16383) / 16384

theorem Part.scrUsed_of_one {p : Part} {g : Nat} {b : Block} (hb : p.blocks.filter (fun b => b.core == g) = [b]) : (p.scrUsed g + 16383) / 16384 = b.top := by
  have allocs : p.scrAllocs g = ([b].filter (fun b => b.scrLen != 0)).map (fun b => (b.scrOff, b.scrLen)) := by
    rw [Part.scrAllocs, ← hb, List.filter_filter]
    exact congrArg _ (List.filter_congr fun _ _ => Bool.and_comm _ _)
  unfold Part.scrUsed Block.top
  rw [allocs]
  by_cases h : b.scrLen = 0 <;> simp [h]

/-- A core with one block gives a unit to its cache where the block's kernel and allocation allow it and its L1 has missed often enough. -/
theorem State.carveCore_bnd_shrinks {s : State} {q g : Nat} {b : Block} {x : Grid} (hb : (s.part q).blocks.filter (fun b => b.core == g) = [b])
    (hx : (s.part q).grid? b.grid = some x) (hg : 64 ≤ ((s.part q).core g).g) (hr : max x.k.cvlo b.top + 1 ≤ ((s.part q).core g).bnd) :
    (((s.carveCore q g).part q).core g).bnd = ((s.part q).core g).bnd - 1 := by
  have shrinks : s.carveCore q g = (s.setBnd q g (((s.part q).core g).bnd - 1) noPayer).recount q g := by
    unfold State.carveCore
    dsimp only
    rw [hb, Part.scrUsed_of_one hb]
    simp only [List.filterMap_cons, hx, Option.map_some, List.filterMap_nil, List.isEmpty_cons, Bool.false_eq_true, if_false, List.foldl_cons, List.foldl_nil, Nat.zero_max]
    rw [if_pos ⟨hg, hr⟩]
    rfl
  have e := (s.setBnd q g (((s.part q).core g).bnd - 1) noPayer).recount_carve q g g
  have moved := s.setBnd_carve q g (((s.part q).core g).bnd - 1) g noPayer
  rw [if_pos rfl] at e moved
  rw [shrinks]
  exact (congrArg (fun x => x.1) e).trans (congrArg (fun x => x.1) moved)

/-! ### All cores -/

/-- The cores of a list, one after another. -/
def State.carveCores (s : State) (q : Nat) (l : List Nat) : State := l.foldl (fun s g => s.carveCore q g) s

theorem State.SameWork.carveCores (s : State) (q : Nat) (l : List Nat) : s.SameWork (s.carveCores q l) := .foldl (fun s g => .carveCore s q g) l s

theorem State.carveCores_other {q j : Nat} : ∀ {l : List Nat} (s : State), j ∉ l → ((s.carveCores q l).part q).carve j = (s.part q).carve j
  | [], _, _ => rfl
  | g :: l, s, h => by
    have hg : g ≠ j := fun e => h (by simp [e])
    exact (State.carveCores_other (l := l) (s.carveCore q g) fun hl => h (by simp [hl])).trans (s.carveCore_other hg)

/-- A core of the list, once: its interval ends in a state with the same work and the same boundary and counts. -/
theorem State.carveCores_mem {q j : Nat} {l : List Nat} (s : State) (hn : l.Nodup) (h : j ∈ l) :
    ∃ t : State, s.SameWork t ∧ (t.part q).carve j = (s.part q).carve j ∧ ((s.carveCores q l).part q).carve j = ((t.carveCore q j).part q).carve j := by
  obtain ⟨l₁, l₂, rfl⟩ := List.append_of_mem h
  have split : s.carveCores q (l₁ ++ j :: l₂) = (((s.carveCores q l₁).carveCore q j)).carveCores q l₂ := by simp [State.carveCores, List.foldl_append]
  have before : j ∉ l₁ := fun hj => (List.nodup_append.1 hn).2.2 _ hj _ (by simp) rfl
  have after : j ∉ l₂ := (List.nodup_cons.1 (List.nodup_append.1 hn).2.1).1
  exact ⟨_, .carveCores s q l₁, State.carveCores_other s before, by rw [split, State.carveCores_other _ after]⟩

/-- A view that no core shows in is left by all of it. -/
theorem Part.IgnoresMoves.carveCores {α : Type} {f : Part → α} (hf : Part.IgnoresMoves f) (hc : ∀ p g k, f (Part.setCore p g k) = f p) (s : State) (q : Nat) (l : List Nat) :
    State.SameView f s (s.carveCores q l) := by
  refine .foldl (fun s g => ?_) l s
  have counted (t : State) : State.SameView f t (t.recount q g) := .modPart t q fun p => hc p g _
  rcases s.carveCore_eq q g with e | ⟨-, b, pay, e⟩
  · rw [e]
    exact counted s
  · have bounded := State.SameView.modPart (f := f) s q (m := fun p => p.setCore g { p.core g with bnd := b }) fun p => hc p g _
    have moved : State.SameView f s (s.setBnd q g b pay) :=
      (bounded.trans (hf.shrinkPark _ q g pay _)).trans (.modPart _ q fun p => (hf.logGone _ g _ _).trans (hc p g _))
    rw [e]
    exact State.SameView.trans moved (counted _)

theorem Part.carved_ignoresMoves : Part.IgnoresMoves Part.carved where
  debt p g cls now hbm fab := by
    unfold Part.debt
    split <;> rfl
  logErr _ _ := rfl
  setClu _ _ _ := rfl
  dir _ _ := rfl
  csr _ _ := rfl
  races _ _ := rfl

/-! ### The step -/

theorem happens_carveout (s : State) (q : Nat) : Happens s q .carveout_interval (if s.taken.carveDue q then s.taken.carveInterval q else s.taken) := rfl

/-- A core that the partition has no record of is as reset leaves it. -/
theorem Part.core_of_not_mem {p : Part} {g : Nat} (h : g ∉ p.cores.map (fun x => x.1)) : p.core g = Core.reset := by
  have missing (m : AMap Core) (hm : g ∉ m.map (fun x => x.1)) : AMap.rd Core.reset m g = Core.reset := by
    induction m with
    | nil => rfl
    | cons x m ih =>
      simp only [List.map_cons, List.mem_cons, not_or] at hm
      rw [AMap.rd, if_neg (Ne.symm hm.1)]
      exact ih hm.2
  exact missing p.cores h

/-- What an interval's end makes of one core. -/
theorem State.carveInterval_core {s : State} {q : Nat} (ho : onceEach (s.part q).cores) (g : Nat) :
    (((s.carveInterval q).part q).core g).g = 0 ∧ (((s.carveInterval q).part q).core g).sc = 0 ∧
      ((∀ b ∈ (s.part q).blocks, b.core ≠ g) → (((s.carveInterval q).part q).core g).bnd = ((s.part q).core g).bnd) ∧
      ∀ b x, (s.part q).blocks.filter (fun b => b.core == g) = [b] → (s.part q).grid? b.grid = some x → 64 ≤ ((s.part q).core g).g →
        max x.k.cvlo b.top + 1 ≤ ((s.part q).core g).bnd → (((s.carveInterval q).part q).core g).bnd = ((s.part q).core g).bnd - 1 := by
  have ended : ((s.carveInterval q).part q).carve g = ((s.carveCores q ((s.part q).cores.map (fun x => x.1))).part q).carve g := by
    unfold State.carveInterval
    dsimp only
    rw [State.modPart_part]
    rfl
  by_cases hm : g ∈ (s.part q).cores.map (fun x => x.1)
  case pos =>
    obtain ⟨t, work, same, done⟩ := State.carveCores_mem (q := q) s ho hm
    have placed := work q
    simp only [Part.roster, Prod.mk.injEq] at placed
    obtain ⟨-, blocks, -, grids⟩ := placed
    rw [done] at ended
    simp only [Part.carve, Prod.mk.injEq] at ended same
    obtain ⟨bnd, misses, scr⟩ := ended
    obtain ⟨oldBnd, oldMisses, -⟩ := same
    obtain ⟨noMiss, noScr⟩ := t.carveCore_counts q g
    refine ⟨misses.trans noMiss, scr.trans noScr, fun free => ?_, fun b x one hx often room => ?_⟩
    · rw [bnd, State.carveCore_bnd_free (by rw [blocks]; exact free), oldBnd]
    · rw [bnd, State.carveCore_bnd_shrinks (b := b) (x := x) (by rw [blocks]; exact one) (by unfold Part.grid?; rw [grids]; exact hx) (by rw [oldMisses]; exact often)
        (by rw [oldBnd]; exact room), oldBnd]
  case neg =>
    rw [State.carveCores_other s hm] at ended
    simp only [Part.carve, Prod.mk.injEq, Part.core_of_not_mem hm] at ended ⊢
    obtain ⟨bnd, misses, scr⟩ := ended
    exact ⟨misses, scr, fun _ => bnd, fun b x _ _ often => absurd often (by decide)⟩

/-- The intervals that have ended are counted. -/
theorem State.carveInterval_carved (s : State) (q : Nat) : ((s.carveInterval q).part q).carved = (s.part q).carved + 1 := by
  have counted := Part.carved_ignoresMoves.carveCores (fun _ _ _ => rfl) s q ((s.part q).cores.map (fun x => x.1)) q
  unfold State.carveInterval
  dsimp only
  rw [State.modPart_part]
  exact congrArg (· + 1) counted

/-! ### The family -/

/-- Settles O50: the commit of a parked run performs its effects on the one warp that it holds, open queues take their writes, an accepted record's grid joins its queue's, a
reserved request is charged at its core's buckets, and each core's interval ends in a state whose work the other cores' intervals have left. -/
theorem queuesAndCommits : Obligations.QueuesAndCommits := by
  intro s q p z with_
  refine ⟨fun w c r h hreg hwait => h.happens hreg hwait, fun i view hr ho hi hv => ?_, fun i v hrec => ?_, fun i ho he hh ht ha => ?_,
    fun w c r h f y x l hc hr hcl hw hres hold hhbm hfab => ?_, fun hdue honce => ?_⟩
  · have opened : s.taken.queueOpen q i = true := queueOpen_of (s := s.taken) hr ho hi
    refine ⟨fun v => (happens_qtail s q i v view).of_eq ?_, fun hh => ⟨(happens_resume s q i view).of_eq ?_, (happens_skip s q i view).of_eq ?_⟩,
      fun n he hl hn h4 h16 => (happens_registerWrite s q _ _ view).of_eq ?_⟩
    all_goals rw [State.fromHost_served (s := s.taken) hv]
    · exact State.writeTail_open opened v
    · exact State.unhalt_open opened hh false
    · exact State.skip_open opened hh
    · exact State.writeQueue_qlog opened he hl hn h4 h16 view
  · exact ⟨(happens_qtail s q i v .bar0).of_eq (State.fromHost_recovery (s := s.taken) hrec _), (happens_resume s q i .bar0).of_eq (State.fromHost_recovery (s := s.taken) hrec _),
      (happens_skip s q i .bar0).of_eq (State.fromHost_recovery (s := s.taken) hrec _)⟩
  · have reads : s.taken.hasRecord q i = true := State.hasRecord_of (s := s.taken) ho he hh ht ha
    exact ⟨fun hn => (happens_recordAccept s q i).of_eq (State.recordAccept_error (s := s.taken) reads (State.checkRecord_none _ _ _ hn)), fun l k hok => happens_accepted reads hok⟩
  · obtain ⟨t, step, warp, bucket⟩ := happens_inject hc hr hcl hw hold hhbm hfab
    obtain ⟨-, -, hbm, fab⟩ := p.bucket_facts w.core (p.blockCls c.blk) s.now
    exact ⟨t, step, warp, bucket.trans (Part.injected_bucket hres _), hbm, fab⟩
  · have due : s.taken.carveDue q = true := decide_eq_true hdue
    refine ⟨_, happens_carveout s q, ?_, fun g => ?_⟩ <;> rw [if_pos due]
    · exact s.taken.carveInterval_carved q
    · exact State.carveInterval_core (s := s.taken) honce g

end Sys2Proof.Machine
end

section
/-! SUPPORT. What cached copies, translations and parked lines that are placed anew leave of a partition. -/

namespace Sys2Proof.Machine

/-! ### Views in which cached copies do not show -/

/-- A core with the same register file and the same scratchpad: copies, translations and counts may differ. -/
def Core.SameData (k j : Core) : Prop := j.rf = k.rf ∧ j.scratch = k.scratch

theorem Core.SameData.refl (k : Core) : k.SameData k := ⟨rfl, rfl⟩
theorem Core.SameData.trans {i j k : Core} (h : i.SameData j) (h' : j.SameData k) : i.SameData k := ⟨h'.1.trans h.1, h'.2.trans h.2⟩

theorem Core.SameData.l1Trim (set n fuel : Nat) (k : Core) : k.SameData (k.l1Trim set n fuel) := by
  induction fuel generalizing k with
  | zero => exact .refl k
  | succ fuel ih =>
    unfold Core.l1Trim
    dsimp only
    split
    · exact .refl k
    · split
      case h_2 => exact .refl k
      case h_1 v _ =>
        have shadowed : k.SameData ({ k with l1 := k.l1.filter (fun y => y != v) }.setShadow v) := by
          unfold Core.setShadow
          split <;> exact ⟨rfl, rfl⟩
        exact shadowed.trans (ih _)

/-- A view of a partition in which neither traffic nor cached copies and translations show. -/
structure Part.IgnoresCaches {α : Type} (f : Part → α) : Prop extends Part.IgnoresTraffic f where
  cache : ∀ (p : Part) (g : Nat) (k : Core), (p.core g).SameData k → f (p.setCore g k) = f p

section caches

variable {α : Type} {f : Part → α} (hf : Part.IgnoresCaches f)
include hf

theorem Part.IgnoresCaches.tlbFill (p : Part) (g : Nat) (l : Leaf) : f (p.tlbFill g l) = f p := by
  have cluster (r : Part) : f (r.cluTlbFill (cluOf g) l) = f r := by
    unfold Part.cluTlbFill
    dsimp only
    split
    · rfl
    · exact hf.setClu _ _ _
  unfold Part.tlbFill
  dsimp only
  rw [cluster]
  split
  · rfl
  · exact hf.cache _ _ _ ⟨rfl, rfl⟩

theorem Part.IgnoresCaches.l1Fit (p : Part) (g set more clk : Nat) : f (p.l1Fit g set more clk) = f p :=
  (hf.logGone _ g clk _).trans (hf.cache _ _ _ (Core.SameData.l1Trim ..))

theorem Part.IgnoresCaches.l1Fill (p : Part) (g clk : Nat) (x : L1Sector) : f (p.l1Fill g clk x) = f p := by
  have dropped : f (p.setCore g ((p.core g).l1DropSector x.host x.sector)) = f p := hf.cache _ _ _ ⟨rfl, rfl⟩
  unfold Part.l1Fill
  dsimp only
  split
  · exact dropped
  · refine (hf.cache ((p.setCore g _).l1Fit g (x.sector % 512) 1 clk) g _ ?_).trans ((hf.l1Fit _ g (x.sector % 512) 1 clk).trans dropped)
    exact ⟨rfl, rfl⟩

theorem Part.IgnoresCaches.l1Miss (p : Part) (g : Nat) (host : Bool) (sector : Nat) : f (p.l1Miss g host sector) = f p := by
  unfold Part.l1Miss
  dsimp only
  split
  · exact hf.cache _ _ _ ⟨rfl, rfl⟩
  · rfl

theorem Part.IgnoresCaches.l1Hit (p : Part) (g : Nat) (x : L1Sector) (keep : Bool) : f (p.l1Hit g x keep) = f p := hf.cache _ _ _ ⟨rfl, rfl⟩

/-- The translations that a word of a warp used, filled into its core's TLB. -/
theorem Part.IgnoresCaches.tlbs (s : State) (q : Nat) (w : WRef) (l : List Leaf) : State.SameView f s (l.foldl (fun s x => s.modPart q (fun p => p.tlbFill w.core x)) s) :=
  .foldl (fun s x => .modPart s q fun p => hf.tlbFill p _ x) l s

end caches

/-! ### Cache words (R230) -/

section cacheWords

variable {α : Type} {f : Part → α} (hf : Part.IgnoresTraffic f)
include hf

theorem Part.IgnoresTraffic.ccFill (s : State) (q : Nat) (pay : Payer) (c : Nat) (x : Fill) : State.SameView f s (s.ccFill q pay c x) := by
  have left (v : Option CcLine) : State.SameView f s (match v with | some v => s.ccOut q pay c v | none => s) := by
    cases v with
    | none => exact .refl s
    | some v => exact hf.ccOut s q pay c v
  unfold State.ccFill
  dsimp only
  split
  · exact (State.SameView.modPart s q fun p => hf.setClu p _ _).trans (.modPart _ q fun p => hf.setClu p _ _)
  · split
    · split
      · exact (hf.ccOut s q pay c _).trans (.modPart _ q fun p => hf.setClu p _ _)
      · exact .refl s
    · split
      · exact .modPart s q fun p => hf.setClu p _ _
      · exact (left _).trans (.modPart _ q fun p => hf.setClu p _ _)

theorem Part.IgnoresTraffic.cwbLine (s : State) (q : Nat) (pay : Payer) (c : Nat) (host : Bool) (line : Nat) : State.SameView f s (s.cwbLine q pay c host line) := by
  unfold State.cwbLine
  split
  · exact .refl s
  · exact (hf.writeBack s q pay _ 15).trans (.modPart _ q fun p => hf.setClu p _ _)

end cacheWords

section cacheLines

variable {α : Type} {f : Part → α} (hf : Part.IgnoresCaches f)
include hf

theorem Part.IgnoresCaches.prefSector (s : State) (q g : Nat) (pay : Payer) (host : Bool) (sec : Nat) (l : Leaf) (hint : Nat) :
    State.SameView f s (s.prefSector q g pay host sec l hint) := by
  unfold State.prefSector
  by_cases bad : s.ueBelow q (some (cluOf g)) (if host then .host (sec * 32) else .dev (sec * 32)) = true
  · rw [if_pos bad]
    exact .modPart s q fun p => hf.logErr p _
  · rw [if_neg bad]
    dsimp only
    refine State.SameView.trans (hf.ccFill s q pay (cluOf g) ⟨host, sec * 32, l.cls, l.grain, hint == 2, false⟩) ?_
    by_cases near : hint = 0 ∨ hint = 2
    · rw [if_pos near]
      split
      · exact .modPart _ q fun p => hf.l1Hit p g _ _
      · exact .modPart _ q fun p => (hf.l1Fill _ g _ _).trans (hf.l1Miss p g host sec)
    · rw [if_neg near]
      exact .refl _

theorem Part.IgnoresCaches.cacheLine (s : State) (q g : Nat) (pay : Payer) (op : CacheOp) (host : Bool) (line : Nat) (l : Leaf) (hint : Nat) :
    State.SameView f s (s.cacheLine q g pay op host line l hint) := by
  cases op with
  | pref =>
    unfold State.cacheLine
    dsimp only
    split
    · exact .refl s
    · exact .foldl (fun s i => hf.prefSector s q g pay host _ l hint) _ s
  | cwb => exact hf.cwbLine s q pay (cluOf g) host line
  | cinv => exact (hf.cwbLine s q pay (cluOf g) host line).trans (.modPart _ q fun p => (hf.setClu _ _ _).trans (hf.cache p g _ ⟨rfl, rfl⟩))

theorem Part.IgnoresCaches.doCache (s : State) (q : Nat) (w : WRef) (plan : Plan) (op : CacheOp) (ps : List Piece) (m : MAttr) :
    State.SameView f s (s.doCache q w plan op ps m) := by
  unfold State.doCache
  refine .foldl (fun s x => ?_) _ s
  dsimp only
  split
  · split
    · exact .refl s
    · exact hf.cacheLine s q w.core _ op false _ _ m.hint
  · exact hf.cacheLine s q w.core _ op true _ _ m.hint
  · exact .refl s

end cacheLines

end Sys2Proof.Machine
end

section
/-! SUPPORT. How a lone word of effects that a commit performs in their order settles and commits. -/

namespace Sys2Proof.Machine

/-! ### Effects in their places -/

/-- An effect that a commit performs in its place among the others: no load, no store and no `tlbi`. -/
def Act.inPlace (a : Act) : Bool := match a with | .tlb _ => false | .load .. => false | .store .. => false | .stp .. => false | .tlbi .. => false | _ => true

theorem Act.inPlace_of_isReg {a : Act} (h : a.isReg = true) : a.inPlace = true := by
  cases a <;> first | rfl | exact absurd h Bool.false_ne_true

theorem Act.inOrder_of_inPlace {a : Act} (h : a.inPlace = true) : a.inOrder = true := by
  cases a <;> first | rfl | exact absurd h Bool.false_ne_true

theorem State.doLoadAct_inPlace {a : Act} (h : a.inPlace = true) (s : State) (q : Nat) (w : WRef) : s.doLoadAct q w a = s := by
  cases a <;> first | rfl | exact absurd h Bool.false_ne_true

/-- The translations that a word of a warp used, in its core's TLB and its cluster's. -/
def State.translated (s : State) (q : Nat) (w : WRef) (l : List Leaf) : State := l.foldl (fun s x => s.modPart q (fun p => p.tlbFill w.core x)) s

theorem Part.IgnoresCaches.translated {α : Type} {f : Part → α} (hf : Part.IgnoresCaches f) (s : State) (q : Nat) (w : WRef) (l : List Leaf) :
    State.SameView f s (s.translated q w l) := hf.tlbs s q w l

theorem State.translated_memories (s : State) (q : Nat) (w : WRef) (l : List Leaf) : (s.translated q w l).dram = s.dram ∧ (s.translated q w l).hostMem = s.hostMem :=
  State.memories_foldl (f := fun s x => s.modPart q (fun p => p.tlbFill w.core x)) (fun _ _ => ⟨rfl, rfl⟩) l s

/-- A run of translations and of effects in their places leaves the translations, then the effects. -/
theorem State.doActs_translated {s : State} {q : Nat} {c : Ctx} {r : Run} {ls : List Leaf} {l : List Act} (ha : r.acts = ls.map Act.tlb ++ l)
    (hl : ∀ a ∈ l, a.inPlace = true) (ht : r.term = .none) : s.doActs q c r = l.foldl (fun s a => s.doAct q c.w r [] a) (s.translated q c.w ls) := by
  have ordered (a : Act) (hm : a ∈ r.acts) : a.inOrder = true := by
    rw [ha] at hm
    rcases List.mem_append.1 hm with e | e
    · obtain ⟨x, -, rfl⟩ := List.mem_map.1 e
      rfl
    · exact Act.inOrder_of_inPlace (hl a e)
  have loads (t : State) : l.foldl (fun s a => s.doLoadAct q c.w a) t = t := List.foldl_same _ l t fun a ha => State.doLoadAct_inPlace (hl a ha) t q c.w
  rw [State.doActs_inOrder ordered ht, ha, List.foldl_append, List.foldl_append, loads, List.foldl_map, List.foldl_map]
  exact congrArg (l.foldl _) (List.foldl_same _ ls _ fun _ _ => rfl)

/-! ### Effects that meet nothing of another warp's -/

/-- An effect that accesses no bytes: a translation, a register effect, a reader set, or an `unpark` of a line of device memory. -/
def Act.light (a : Act) : Bool := a.isReg || match a with | .tlb _ => true | .rset .. => true | .unpark (.dev _) => true | _ => false

theorem Act.light_of_isReg {a : Act} (h : a.isReg = true) : a.light = true := Bool.or_eq_true_iff.2 (.inl h)

/-- The effect is a translation, a reader set or an `unpark`, or else a register effect. -/
theorem Act.light_cases {a : Act} (h : a.light = true) :
    a.isReg = true ∨ (∃ l, a = .tlb l) ∨ (∃ op d n b0 b1, a = .rset op d n b0 b1) ∨ ∃ pa, a = .unpark (.dev pa) := by
  cases a
  case tlb l => exact .inr (.inl ⟨l, rfl⟩)
  case rset op d n b0 b1 => exact .inr (.inr (.inl ⟨op, d, n, b0, b1, rfl⟩))
  case unpark l =>
    cases l with
    | dev pa => exact .inr (.inr (.inr ⟨pa, rfl⟩))
    | host pa => exact absurd h Bool.false_ne_true
    | scratch g o => exact absurd h Bool.false_ne_true
  all_goals exact .inl ((Bool.or_false _).symm.trans h)

section light

variable {r : Run} (hl : ∀ a ∈ r.acts, a.light = true) (ht : r.term = .none)
include hl

include ht in
/-- No router drops anything of such a run whose walks and whose lines' homes it can reach. -/
theorem State.barred_light {s : State} {q : Nat} {c : Ctx} (hwalk : ∀ l, .tlb l ∈ r.acts → s.barredWalk q c.w.core (BitVec.ofNat 64 l.va) = [])
    (hhome : ∀ pa, .unpark (.dev pa) ∈ r.acts → s.barred q c.w.core pa = false) : s.runBarred q c r (s.requests q c r) = [] := by
  have spills : (s.spillPieces q c r).1 = [] := State.spillPieces_plain (by rw [ht]; rfl)
  unfold State.runBarred
  rw [spills, List.flatMap_nil, List.append_nil]
  refine List.append_eq_nil_iff.2 ⟨List.flatMap_eq_nil_iff.2 fun a ha => ?walks, List.filterMap_eq_nil_iff.2 fun x hx => ?homes⟩
  case walks =>
    rcases Act.light_cases (hl a ha) with e | ⟨l, rfl⟩ | ⟨op, d, n, b0, b1, rfl⟩ | ⟨pa, rfl⟩
    · cases a <;> first | rfl | exact absurd e Bool.false_ne_true
    · exact hwalk l ha
    · rfl
    · rfl
  case homes =>
    unfold State.requests at hx
    dsimp only at hx
    rw [spills, ht] at hx
    simp only [pieceSectors, reqsOf, List.flatMap_nil, List.dedup_nil, List.map_nil, List.filterMap_nil, List.append_nil] at hx
    obtain ⟨a, ha, hx⟩ := List.mem_flatMap.1 hx
    rcases Act.light_cases (hl a ha) with e | ⟨l, rfl⟩ | ⟨op, d, n, b0, b1, rfl⟩ | ⟨pa, rfl⟩
    · cases a <;> first | exact absurd e Bool.false_ne_true | cases hx
    · cases hx
    · obtain rfl := List.mem_singleton.1 hx
      rfl
    · obtain rfl := List.mem_singleton.1 hx
      simp [hhome pa ha]

include ht in
theorem Run.accesses_light : r.accesses = [] := by
  unfold Run.accesses
  rw [ht, List.append_nil]
  refine List.append_eq_nil_iff.2 ⟨List.filterMap_eq_nil_iff.2 fun a ha => ?_, List.filterMap_eq_nil_iff.2 fun a ha => ?_⟩
  all_goals
    have := hl a ha
    cases a <;> first | rfl | exact absurd this Bool.false_ne_true

include ht in
theorem Part.runReady_light {p : Part} {c : Ctx} (hw : r.waits = []) : p.runReady c r = true := by
  unfold Part.runReady
  rw [hw, ht]
  simp only [List.all_nil, Bool.true_and, Part.termReady, Bool.and_true]
  refine List.all_eq_true.2 fun a ha => ?_
  have := hl a ha
  cases a <;> first | rfl | exact absurd this Bool.false_ne_true

end light

/-! ### The queued state's walks -/

section held

variable {s : State} {q : Nat} {w : WRef} {x : Warp}

theorem State.held_rdHome (pa : Nat) : (s.held q w x (s.part q).cores).rdHome q pa = s.rdHome q pa := by
  unfold State.rdHome
  rw [State.held_part]
  rfl

theorem State.held_isUe (pa : Nat) : (s.held q w x (s.part q).cores).isUe q pa = s.isUe q pa := by
  unfold State.isUe State.ueBelow State.anyBad
  rw [State.held_part]
  rfl

theorem State.held_walkReads (va fuel level table : Nat) : (s.held q w x (s.part q).cores).walkReads q va fuel level table = s.walkReads q va fuel level table := by
  induction fuel generalizing level table with
  | zero => rfl
  | succ fuel ih =>
    have bytes (pa n : Nat) : (s.held q w x (s.part q).cores).rdHomeL q pa n = s.rdHomeL q pa n := List.map_congr_left fun i _ => State.held_rdHome _
    unfold State.walkReads
    dsimp only
    rw [bytes, State.held_isUe, ih]
    rfl

/-- A warp that changes leaves the walks that a router bars. -/
theorem State.held_barredWalk (g : Nat) (va : W64) : (s.held q w x (s.part q).cores).barredWalk q g va = s.barredWalk q g va := by
  unfold State.barredWalk
  dsimp only
  rw [State.held_part, State.held_walkReads]
  rfl

end held

/-! ### A lone word -/

section lone

variable {s : State} {i : Instr} {iss : Issue} {c : Ctx} (h : Lone s i iss c) {w : Word}
include h

theorem Lone.runWith_acts : (s.runWith iss c w).acts = w.acts := by
  unfold State.runWith
  rw [h.runAt]
  simp [Run.add, openRun]

theorem Lone.runWith_waits : (s.runWith iss c w).waits = w.waits := by
  unfold State.runWith
  rw [h.runAt]
  simp [Run.add, openRun]

/-- A lone word that accesses no bytes settles where its walks and its lines' homes can be reached. -/
theorem Lone.settled_light (hc : w.cond = none) (ht : w.term = .none) (hw : w.waits = []) (hl : ∀ a ∈ w.acts, a.light = true)
    (hwalk : ∀ l, .tlb l ∈ w.acts → s.barredWalk iss.q c.w.core (BitVec.ofNat 64 l.va) = [])
    (hhome : ∀ pa, .unpark (.dev pa) ∈ w.acts → s.barred iss.q c.w.core pa = false) : Settled s iss c w := by
  have term : (s.runWith iss c w).term = .none := (h.runWith_term w).trans ht
  have light (a : Act) (ha : a ∈ (s.runWith iss c w).acts) : a.light = true := hl a (by rwa [h.runWith_acts] at ha)
  have quiet : (s.runWith iss c w).accesses = [] := Run.accesses_light light term
  exact
    { clear := hc
      unlocked := by simp [State.lockCond, quiet]
      raceless := by simp [State.raceCond, quiet]
      routed := State.barred_light light term (fun l hm => by rw [h.queued]; exact (State.held_barredWalk _ _).trans (hwalk l (by rwa [h.runWith_acts] at hm)))
        fun pa hm => by rw [h.queued]; exact hhome pa (by rwa [h.runWith_acts] at hm)
      ready := Part.runReady_light (r := { s.runWith iss c w with since := s.now }) light term (by rw [← hw]; exact h.runWith_waits) }

end lone

end Sys2Proof.Machine
end

section
/-! SUPPORT. The state that such a word's commit leaves. -/

namespace Sys2Proof.Machine

/-! ### Memories -/

/-- The memories are the same in both states. -/
def State.SameMemories (s t : State) : Prop := t.dram = s.dram ∧ t.hostMem = s.hostMem

theorem State.SameMemories.refl (s : State) : s.SameMemories s := ⟨rfl, rfl⟩
theorem State.SameMemories.trans {s t u : State} (h : s.SameMemories t) (k : t.SameMemories u) : s.SameMemories u := ⟨k.1.trans h.1, k.2.trans h.2⟩
theorem State.SameMemories.foldl {α : Type} {f : State → α → State} (hf : ∀ (s : State) (a : α), s.SameMemories (f s a)) (l : List α) (s : State) : s.SameMemories (l.foldl f s) :=
  State.memories_foldl hf l s
theorem State.SameMemories.modPart (s : State) (q : Nat) (f : Part → Part) : s.SameMemories (s.modPart q f) := ⟨rfl, rfl⟩

/-- Where memories and scratchpads stay, no byte is written. -/
theorem Wrote.nil_of {s t : State} {q : Nat} (h : s.SameMemories t) (scratch : ∀ g, ((t.part q).core g).scratch = ((s.part q).core g).scratch) : Wrote s t q [] :=
  ⟨fun k => by rw [h.1]; rfl, fun k => by rw [h.2]; rfl, fun g k => by rw [scratch]; rfl⟩

/-- Bytes written after something that writes none. -/
theorem Wrote.after {s s' t : State} {q : Nat} {l : List (Loc × Byte)} (h : s.SameMemories s') (scratch : ∀ g, ((s'.part q).core g).scratch = ((s.part q).core g).scratch)
    (keys : ∀ pa, s'.dramKey q pa = s.dramKey q pa) (wrote : Wrote s' t q l) : Wrote s t q l :=
  ⟨fun k => by rw [wrote.dram, h.1, dramAfter_congr keys], fun k => by rw [wrote.host, h.2], fun g k => by rw [wrote.scratch, scratch]⟩

/-! ### The warp -/

/-- A change of the warp on a state whose warp is open. -/
theorem State.HeldOpen.modWarp {s t : State} {q : Nat} {w : WRef} {x : Warp} {cs : AMap Core} (h : s.HeldOpen t q w x cs) (f : Warp → Warp) : s.HeldOpen (t.modW q w f) q w (f x) cs where
  warp := by
    simp only [State.modW, State.modPart, Part.modWarp, h.warp, State.setPart_part]
    exact Part.setWarp_warp ..
  held y := by
    rw [← h.held]
    simp only [State.modW, State.modPart, Part.modWarp, h.warp, State.setPart_part, State.setPart_setPart, Part.setWarp_setWarp]

/-! ### What stands still -/

/-- What contexts are read from, and what a commit asks of a partition beside them: its swaps, the writes that paths may miss, and the parked stores on
their way. -/
def Part.still (p : Part) := (p.roster, p.swaps, p.lag, p.placeQ)

theorem Part.still_ignoresMoves : Part.IgnoresMoves Part.still where
  debt p g cls now hbm fab := by
    unfold Part.debt
    split <;> rfl
  logErr _ _ := rfl
  setClu _ _ _ := rfl
  dir _ _ := rfl
  csr _ _ := rfl
  races _ _ := rfl

theorem Part.still_ignoresCaches : Part.IgnoresCaches Part.still := { Part.still_ignoresMoves with cache := fun _ _ _ _ => rfl }

/-- What traffic leaves of a core leaves its register file and its scratchpad. -/
theorem Part.coreData_ignoresMoves {α : Type} (g : Nat) {m : Core → α} (hm : ∀ k j : Core, k.SameData j → m j = m k) : Part.IgnoresMoves (fun p => m (p.core g)) where
  debt p j cls now hbm fab := by
    unfold Part.debt
    split
    · simp only [Part.setBucket, Part.core_setCore]
      split
      case isTrue e => exact hm _ _ (by rw [e]; exact ⟨rfl, rfl⟩)
      case isFalse => rfl
    · rfl
  logErr _ _ := rfl
  setClu _ _ _ := rfl
  dir _ _ := rfl
  csr _ _ := rfl
  races _ _ := rfl

theorem Part.coreData_ignoresCaches {α : Type} (g : Nat) {m : Core → α} (hm : ∀ k j : Core, k.SameData j → m j = m k) : Part.IgnoresCaches (fun p => m (p.core g)) :=
  { Part.coreData_ignoresMoves g hm with
    cache := fun p j k hk => by
      simp only [Part.core_setCore]
      split
      case isTrue e => exact hm _ _ (by rw [← e]; exact hk)
      case isFalse => rfl }

theorem Part.data_ignoresMoves (g : Nat) : Part.IgnoresMoves (fun p => ((p.core g).rf, (p.core g).scratch)) :=
  Part.coreData_ignoresMoves g (m := fun k => (k.rf, k.scratch)) fun _ _ h => Prod.ext h.1 h.2

theorem Part.data_ignoresCaches (g : Nat) : Part.IgnoresCaches (fun p => ((p.core g).rf, (p.core g).scratch)) :=
  Part.coreData_ignoresCaches g (m := fun k => (k.rf, k.scratch)) fun _ _ h => Prod.ext h.1 h.2

/-- The park directory. -/
theorem Part.dir_ignoresCaches : Part.IgnoresCaches (fun p => p.dir) where
  debt p g cls now hbm fab := by
    unfold Part.debt
    split <;> rfl
  logErr _ _ := rfl
  setClu _ _ _ := rfl
  cache _ _ _ _ := rfl

/-! ### The commit -/

/-- Register effects on the queued warp, which then stands past its word. -/
theorem Warp.tooks_queued (x : Warp) (now : Nat) (r : Run) (l : List Act) (iss : Issue) :
    ({ l.foldl Warp.took (x.queued now r) with run := none, pc := iss.addr + BitVec.ofNat 64 iss.len, refillRun := false } : Warp) = l.foldl Warp.took (x.passed iss now) := by
  have before : x.queued now r = x.between now (some r) x.pc x.refillRun := rfl
  have past : x.passed iss now = x.between now none (iss.addr + BitVec.ofNat 64 iss.len) false := rfl
  rw [before, past, Warp.tooks_between, Warp.tooks_between]
  rfl

section lone

variable {s : State} {i : Instr} {iss : Issue} {c : Ctx} (h : Lone s i iss c) {w : Word} (hs : Settled s iss c w)
include h

/-- The partition as the word queued leaves it. -/
theorem Lone.queued_part : (s.queued iss c w).part iss.q = (s.part iss.q).holding c.w (c.x.queued s.now (s.runWith iss c w)) (s.part iss.q).cores := by
  rw [h.queued]
  exact State.held_part ..

theorem Lone.queued_ctx : ((s.queued iss c w).part iss.q).ctx c.w = some (c.queued s.now (s.runWith iss c w)) := by
  have ctx := h.ctx
  rw [← (Part.ctx_some ctx).1] at ctx
  rw [h.queued_part]
  exact State.held_ctx ctx (x := c.x.queued s.now (s.runWith iss c w)) rfl _

include hs

/-- A settled word without an operation leaves what its effects leave, `u` beyond the warp `y`, with the warp past the word. -/
theorem Lone.leaves {u : State} {y : Warp} {ds : AMap Core} (hpath : c.x.path ≠ 0) (ht : w.term = .none)
    (done : u.HeldOpen ((s.queued iss c w).doActs iss.q (c.queued s.now (s.runWith iss c w)) (s.runWith iss c w)) iss.q c.w y ds)
    (still : State.SameView Part.still (s.queued iss c w) u)
    (hy : y.block = c.x.block ∧ y.levels = c.x.levels ∧ y.wait = c.x.wait ∧ y.path = c.x.path) :
    ({ s.issued iss c w with cur := none } : State) = u.held iss.q c.w { y with run := none, pc := iss.addr + BitVec.ofNat 64 iss.len, refillRun := false } ds := by
  obtain ⟨block, levels, wait, path⟩ := hy
  have same := still iss.q
  simp only [Part.still, Prod.mk.injEq] at same
  obtain ⟨roster, swaps, lag, -⟩ := same
  have part := h.queued_part (w := w)
  have warps : (u.part iss.q).warps = AMap.wr (s.part iss.q).warps (wkey c.w) (c.x.queued s.now (s.runWith iss c w)) :=
    (congrArg (fun x => x.1) roster).trans (congrArg Part.warps part)
  have context : (u.part iss.q).ctx c.w = some (c.queued s.now (s.runWith iss c w)) := (Part.ctx_of_roster roster c.w).trans h.queued_ctx
  rw [h.commits hs]
  refine State.commit_held (c := c.queued s.now (s.runWith iss c w)) (by rw [part]; exact h.placed) done context block (levels.trans h.noLoop) (by rw [path]; exact hpath)
    (by rw [wait]; exact h.noAbwait) (by rw [swaps, part]; exact h.unswapped) (fun z hz => ?_) lag ((h.runWith_term w).trans ht)
  rw [warps] at hz
  rcases AMap.mem_wr hz with rfl | old
  · exact h.noAbwait
  · exact h.noObject z old

/-- A settled word of translations, effects in their places and then register effects: `u` is what the effects before the registers' leave. -/
theorem Lone.leaves_regs {u : State} {ls : List Leaf} {l regs : List Act} (hpath : c.x.path ≠ 0) (ht : w.term = .none) (hw : w.acts = ls.map Act.tlb ++ (l ++ regs))
    (hl : ∀ a ∈ l, a.inPlace = true) (hreg : ∀ a ∈ regs, a.isReg = true)
    (hu : l.foldl (fun t a => t.doAct iss.q c.w (s.runWith iss c w) [] a) ((s.queued iss c w).translated iss.q c.w ls) = u)
    (still : State.SameView Part.still (s.queued iss c w) u) :
    ∃ ds, ({ s.issued iss c w with cur := none } : State) = u.held iss.q c.w (regs.foldl Warp.took (c.x.passed iss s.now)) ds ∧
      FileOnly (u.part iss.q).cores ds c.w.core (fun k => regs.foldl (Act.file k) (Sparse.rd ((u.part iss.q).core c.w.core).rf k)) := by
  have queued : ((s.queued iss c w).part iss.q).warp c.w = some (c.x.queued s.now (s.runWith iss c w)) := by rw [h.queued_part]; exact Part.holding_warp ..
  have warps : (u.part iss.q).warps = ((s.queued iss c w).part iss.q).warps := congrArg (fun x => x.1.1) (still iss.q)
  have warp : (u.part iss.q).warp c.w = some (c.x.queued s.now (s.runWith iss c w)) := by rw [← queued, Part.warp, Part.warp, warps]
  have acts : (s.runWith iss c w).acts = ls.map Act.tlb ++ (l ++ regs) := h.runWith_acts.trans hw
  obtain ⟨ds, done, file⟩ := State.HeldOpen.doActList (s.runWith iss c w) [] (.refl warp) hreg ⟨fun _ _ => rfl, rfl, fun _ => rfl⟩
  have effects : (s.queued iss c w).doActs iss.q (c.queued s.now (s.runWith iss c w)) (s.runWith iss c w) =
      regs.foldl (fun t a => t.doAct iss.q c.w (s.runWith iss c w) [] a) u := by
    have inPlace (a : Act) (ha : a ∈ l ++ regs) : a.inPlace = true := (List.mem_append.1 ha).elim (hl a) fun e => Act.inPlace_of_isReg (hreg a e)
    rw [State.doActs_translated acts inPlace ((h.runWith_term w).trans ht), List.foldl_append, ← hu]
    rfl
  refine ⟨ds, ?_, file⟩
  exact (h.leaves hs hpath ht (y := regs.foldl Warp.took (c.x.queued s.now (s.runWith iss c w))) (by rw [effects]; exact done) still (Warp.tooks_keep hreg)).trans
    (congrArg (fun x => u.held iss.q c.w x ds) (Warp.tooks_queued ..))

end lone

/-! ### What it shows -/

/-- Queueing a word writes no byte. -/
theorem Wrote.of_queued {s t : State} {i : Instr} {iss : Issue} {c : Ctx} (h : Lone s i iss c) {w : Word} {l : List (Loc × Byte)} (wrote : Wrote (s.queued iss c w) t iss.q l) :
    Wrote s t iss.q l :=
  Wrote.after ⟨by rw [h.queued]; rfl, by rw [h.queued]; rfl⟩ (fun _ => by rw [h.queued_part]; rfl) (fun _ => by rw [h.queued]; rfl) wrote

section shown

variable {s t u : State} {iss : Issue} {c : Ctx} {x : Warp} {ds : AMap Core} (e : ({ t with cur := none } : State) = u.held iss.q c.w x ds)
include e

theorem State.leaves_part : t.part iss.q = (u.part iss.q).holding c.w x ds := (congrArg (fun z : State => z.part iss.q) e).trans (State.held_part ..)

/-- Memory is what the effects before the registers' leave. -/
theorem Wrote.of_held {l : List (Loc × Byte)} {rf : Nat → W32} (file : FileOnly (u.part iss.q).cores ds c.w.core rf) (h : Wrote s u iss.q l) : Wrote s t iss.q l where
  dram k := (congrArg (fun z : State => Sparse.rd z.dram k) e).trans (h.dram k)
  host k := (congrArg (fun z : State => Sparse.rd z.hostMem k) e).trans (h.host k)
  scratch g k := by
    have same : (AMap.rd Core.reset ds g).scratch = ((u.part iss.q).core g).scratch := by
      by_cases hg : g = c.w.core
      · rw [hg]
        exact (congrArg Core.scratch file.same :)
      · exact congrArg Core.scratch (file.other g hg)
    rw [State.leaves_part e, Part.holding_core, same]
    exact h.scratch g k

end shown

/-- Registers are as the register effects leave them, where the effects before them leave the register files. -/
theorem Loaded.of_held {s t u : State} {iss : Issue} {c : Ctx} {l : List Act} {ds : AMap Core}
    (e : ({ t with cur := none } : State) = u.held iss.q c.w (l.foldl Warp.took (c.x.passed iss s.now)) ds)
    (file : FileOnly (u.part iss.q).cores ds c.w.core (fun k => l.foldl (Act.file k) (Sparse.rd ((u.part iss.q).core c.w.core).rf k)))
    (others : ∀ k, k ≠ wkey c.w → AMap.find (u.part iss.q).warps k = AMap.find (s.part iss.q).warps k)
    (files : ∀ g, ((u.part iss.q).core g).rf = ((s.part iss.q).core g).rf) : Loaded s t iss c l := by
  have part := State.leaves_part e
  refine ⟨?_, fun k hk => ?_, fun k => ?_, fun g hg => ?_⟩ <;> rw [part]
  · exact Part.holding_warp ..
  · rw [← others k hk]
    exact AMap.find_wr_other _ _ (Ne.symm hk)
  · rw [Part.holding_core, file.file, files]
  · rw [Part.holding_core, file.other g hg]
    exact files g

end Sys2Proof.Machine
end

section
/-! SUPPORT. What the placement of parked lines leaves of a partition. -/

namespace Sys2Proof.Machine

/-- A view of a partition in which neither the moves nor the placement of parked lines show, nor cached copies and translations. -/
structure Part.IgnoresPlacing {α : Type} (f : Part → α) : Prop extends Part.IgnoresMoves f, Part.IgnoresCaches f where
  enter : ∀ (p : Part) (l : List Parked) (n : Nat), f { p with dir := l, placeSeq := n } = f p
  forget : ∀ (p : Part) (line : Nat) (cc : Bool), f (p.forget line cc) = f p

/-- The directory records a line at its level, and nearer copies go. -/
def State.recorded (s : State) (q : Nat) (pay : Payer) (d : Parked) : State :=
  let s := s.modPart q (fun p =>
    let p := p.forget d.line true
    { p with dir := p.dir.filter (fun x => x.line != d.line) ++ [{ d with time := p.placeSeq }], placeSeq := p.placeSeq + 1 })
  let s := s.modPart q (fun p => p.retable d.line (s.tableOf q d.line))
  (s.logLine q d.line).owe q pay 128 128

theorem State.parkAt_eq (s : State) (q : Nat) (pay : Payer) (d : Parked) : s.parkAt q pay d =
    if !d.replicas.isEmpty then d.replicas.foldl (fun s c => s.ccAdmit q pay d c) (s.recorded q pay d)
    else if d.level = 1 then (s.recorded q pay d).ccAdmit q pay d d.unit
    else if d.level = 0 then (s.recorded q pay d).modPart q (fun p => (setsOf d.line).foldl (fun p i => p.l1Fit d.unit i 0 ((s.recorded q pay d).clkc q)) p)
    else s.recorded q pay d := rfl

theorem Part.IgnoresMoves.unparkAll {α : Type} {f : Part → α} (hf : Part.IgnoresMoves f) (s : State) (q : Nat) (pay : Payer) (rsid : Nat) :
    State.SameView f s (s.unparkAll q pay rsid) := .foldl (fun s (d : Parked) => hf.unpark s q pay d.line) _ s

section placing

variable {α : Type} {f : Part → α} (hf : Part.IgnoresPlacing f)
include hf

theorem Part.IgnoresPlacing.wrLoc (s : State) (q g pa : Nat) (b : Byte) : State.SameView f s (s.wrLoc q g (.dev pa) b) := by
  have copied : State.SameView f s (s.modPart q (fun p => p.setCore g ((p.core g).l1Update false pa b))) := .modPart s q fun p => hf.cache p g _ ⟨rfl, rfl⟩
  unfold State.wrLoc
  dsimp only
  split
  · exact copied.trans (.modPart _ q fun p => hf.dir p _)
  · exact copied

theorem Part.IgnoresPlacing.wrLocL (s : State) (q g pa : Nat) (bs : List Byte) : State.SameView f s (s.wrLocL q g (.dev pa) bs) := by
  induction bs generalizing s pa with
  | nil => exact .refl s
  | cons b bs ih => exact (hf.wrLoc s q g pa b).trans (ih _ (pa + 1))

theorem Part.IgnoresPlacing.storeHome (s : State) (q g : Nat) (pay : Payer) (line : Nat) (data : List Byte) : State.SameView f s (s.storeHome q g pay line data) :=
  (hf.wrLocL s q g (line * 128) data).trans (hf.dropCopies _ q pay none (.dev (line * 128)) 128)

theorem Part.IgnoresPlacing.recorded (s : State) (q : Nat) (pay : Payer) (d : Parked) : State.SameView f s (s.recorded q pay d) :=
  (((State.SameView.modPart s q fun p => (hf.enter (p.forget d.line true) _ _).trans (hf.forget p d.line true)).trans
    (.modPart _ q fun p => hf.retable p d.line _)).trans (hf.logLine _ q d.line)).trans (hf.owe _ q pay 128 128)

theorem Part.IgnoresPlacing.parkAt (s : State) (q : Nat) (pay : Payer) (d : Parked) : State.SameView f s (s.parkAt q pay d) := by
  have admitted (t : State) (c : Nat) : State.SameView f t (t.ccAdmit q pay d c) := (hf.ccOverflow t q pay c d.line).trans (hf.ccFit _ q pay c d.line d.cls 16)
  rw [State.parkAt_eq]
  refine (hf.recorded s q pay d).trans ?_
  split
  · exact .foldl admitted _ _
  · split
    · exact admitted _ _
    · split
      · exact .modPart _ q fun p => List.foldlRecOn _ _ (motive := fun r => f r = f p) rfl fun r hr i _ => (hf.l1Fit r d.unit i 0 _).trans hr
      · exact .refl _

theorem Part.IgnoresPlacing.place (s : State) (q : Nat) (pay : Payer) (g : Nat) (b : Parked) (d : RDesc) : State.SameView f s (s.place q pay g b d) := by
  have fallen (t : State) (k : Prop) [Decidable k] : State.SameView f t (if k then t.modPart q Part.pkfall else t) := by
    split
    · exact hf.pkfall t q
    · exact .refl t
  unfold State.place
  dsimp only
  refine State.SameView.trans (.modPart s q (m := fun p => { p with dir := updIf (fun x => x.line == b.line) (fun x => { x with data := b.data }) p.dir }) fun p => hf.dir p _) ?_
  have ordinary (t : State) : State.SameView f t (match ((t.modPart q Part.pkfall).part q).dir.find? (fun x => x.line == b.line) with
      | some _ => (t.modPart q Part.pkfall).unpark q pay b.line
      | none => (t.modPart q Part.pkfall).storeHome q g pay b.line b.data) := by
    split
    · exact (hf.pkfall t q).trans (hf.unpark _ q pay b.line)
    · exact (hf.pkfall t q).trans (hf.storeHome _ q g pay b.line b.data)
  split
  · exact ordinary _
  · split
    · split
      · exact ordinary _
      · exact (fallen _ _).trans (hf.parkAt _ q pay _)
    · split
      · exact ordinary _
      · exact (fallen _ _).trans (hf.parkAt _ q pay _)

theorem Part.IgnoresPlacing.sweep (s : State) (q : Nat) (pay : Payer) (rsid : Nat) : State.SameView f s (s.sweep q pay rsid) := by
  refine .foldl (fun s d => ?_) _ s
  dsimp only
  split
  · exact .refl s
  · split
    · exact hf.unpark s q pay _
    · exact hf.place s q pay pay.1 _ _

end placing

theorem Part.still_ignoresPlacing : Part.IgnoresPlacing Part.still :=
  { Part.still_ignoresMoves, Part.still_ignoresCaches with enter := fun _ _ _ => rfl, forget := fun _ _ _ => rfl }

/-- The reader sets. -/
theorem Part.rset_ignoresPlacing : Part.IgnoresPlacing (fun p => p.rset) where
  debt p g cls now hbm fab := by
    unfold Part.debt
    split <;> rfl
  logErr _ _ := rfl
  setClu _ _ _ := rfl
  dir _ _ := rfl
  csr _ _ := rfl
  races _ _ := rfl
  cache _ _ _ _ := rfl
  enter _ _ _ := rfl
  forget _ _ _ := rfl

end Sys2Proof.Machine
end

section
/-! SUPPORT. Reader-set words: what a revision leaves of the entries, the directory and the table's bytes (R222-R224). -/

namespace Sys2Proof.Machine

/-! ### The directory of an unparked line -/

theorem Part.setCsr_dir (p : Part) (c : PCsr) : ({ p with csr := c } : Part).dir = p.dir := rfl

theorem Part.raceDrop_dir (p : Part) (rdr : Bool) : (p.raceDrop rdr).dir = p.dir := Part.setCsr_dir p _

theorem Part.raceRoom_dir (p : Part) (table sector : Nat) : (p.raceRoom table sector).dir = p.dir := by
  unfold Part.raceRoom
  dsimp only
  split
  · rfl
  · split
    · exact Part.raceDrop_dir _ _
    · rfl

theorem Part.retable_dir (p : Part) (line table : Nat) : (p.retable line table).dir = p.dir := by
  unfold Part.retable
  refine List.foldlRecOn _ _ (motive := fun r : Part => r.dir = p.dir) rfl fun r hr x _ => ?_
  exact (Part.raceRoom_dir r table x.sector).trans hr

/-- An unparked line has no entry, and no other line loses its own. -/
theorem State.unpark_dir (s : State) (q : Nat) (pay : Payer) (line : Nat) : ((s.unpark q pay line).part q).dir = (s.part q).dir.filter (fun k => k.line != line) := by
  have ht := Part.dir_ignoresCaches.toIgnoresTraffic
  unfold State.unpark
  split
  case h_1 missing => exact (List.filter_eq_self.2 fun k hk => by simpa using List.find?_eq_none.1 missing k hk).symm
  case h_2 d _ =>
    rw [State.modPart_part, Part.retable_dir]
    refine (ht.owe _ q pay 128 128 q).trans ((ht.logLine _ q line q).trans ((State.SameView.wrDramL (f := fun p => p.dir) _ q (line * 128) d.data q).trans ?_))
    rw [State.modPart_part]

theorem State.unparks_dir (q : Nat) (pay : Payer) : ∀ (l : List Parked) (s : State),
    ((l.foldl (fun s d => s.unpark q pay d.line) s).part q).dir = (s.part q).dir.filter (fun k => l.all (fun d => k.line != d.line))
  | [], s => (List.filter_eq_self.2 fun _ _ => rfl).symm
  | d :: l, s => by
    rw [List.foldl_cons, State.unparks_dir q pay l, State.unpark_dir, List.filter_filter]
    exact List.filter_congr fun k _ => by simp [Bool.and_comm]

/-- No line stays parked under an RSID whose lines have all been unparked. -/
theorem State.unparkAll_rsid {s : State} {q : Nat} {pay : Payer} {rsid : Nat} : ∀ k ∈ ((s.unparkAll q pay rsid).part q).dir, k.rsid ≠ rsid := by
  intro k hk e
  unfold State.unparkAll at hk
  rw [State.unparks_dir] at hk
  obtain ⟨parked, gone⟩ := List.mem_filter.1 hk
  have mine : k ∈ (s.part q).dir.filter (fun d => d.rsid == rsid) := List.mem_filter.2 ⟨parked, by simp [e]⟩
  simpa using List.all_eq_true.1 gone k mine

/-! ### A revision -/

/-- The state as a revision leaves it before the new entry: with INIT the lines of the RSID are unparked, and before a GEN that wraps they are placed anew. -/
def State.cleared (s : State) (q : Nat) (pay : Payer) (rsid : Nat) (op : RsOp) (b1 : W64) : State :=
  if decide (op = .define) && b1.getLsbD 48 then (s.drainAll q).unparkAll q pay rsid
  else if decide (op ≠ .query) && ((s.part q).rdesc rsid).gen == 0xFFFF then (s.drainAll q).sweep q pay rsid else s

theorem State.revise_eq (s : State) (q : Nat) (pay : Payer) (rsid : Nat) (op : RsOp) (b0 b1 : W64) :
    s.revise q pay rsid op b0 b1 = (s.cleared q pay rsid op b1).setEntry q rsid (((s.part q).rdesc rsid).revised op b0 b1) := rfl

section cleared

variable {s : State} {q : Nat} (hp : (s.part q).placeQ = [])
include hp

theorem Part.IgnoresPlacing.cleared {α : Type} {f : Part → α} (hf : Part.IgnoresPlacing f) (pay : Payer) (rsid : Nat) (op : RsOp) (b1 : W64) :
    State.SameView f s (s.cleared q pay rsid op b1) := by
  unfold State.cleared
  rw [State.drainAll_nil hp]
  split
  · exact hf.unparkAll s q pay rsid
  · split
    · exact hf.sweep s q pay rsid
    · exact .refl s

/-- Where no line is parked nothing is unparked or placed anew. -/
theorem State.cleared_unparked (hd : (s.part q).dir = []) (pay : Payer) (rsid : Nat) (op : RsOp) (b1 : W64) : s.cleared q pay rsid op b1 = s := by
  unfold State.cleared State.unparkAll State.sweep
  rw [State.drainAll_nil hp, hd]
  simp

omit hp in
theorem State.cleared_init {pay : Payer} {rsid : Nat} {b1 : W64} (hi : b1.getLsbD 48 = true) : ∀ k ∈ ((s.cleared q pay rsid .define b1).part q).dir, k.rsid ≠ rsid := by
  unfold State.cleared
  rw [hi]
  exact State.unparkAll_rsid

end cleared

section setEntry

variable (s : State) (q rsid : Nat) (d : RDesc)

theorem State.setEntry_view {α : Type} {f : Part → α} (hf : ∀ (p : Part) (m : AMap RDesc), f { p with rset := m } = f p) : State.SameView f s (s.setEntry q rsid d) := by
  have entered := State.SameView.modPart (f := f) s q (m := fun p => p.setRdesc rsid d) fun p => hf p _
  unfold State.setEntry
  dsimp only
  split
  · exact entered.trans (.wrDramL _ q _ _)
  · exact entered

theorem State.setEntry_rset : ((s.setEntry q rsid d).part q).rset = AMap.wr (s.part q).rset rsid d := by
  unfold State.setEntry
  dsimp only
  split
  · exact (State.SameView.wrDramL (f := fun p => p.rset) _ q _ _ q).trans (by rw [State.modPart_part]; rfl)
  · rw [State.modPart_part]
    rfl

/-- The bytes of an entry in the table. -/
def RDesc.bytes (d : RDesc) : List Byte := leBytes 8 d.lo.toNat ++ leBytes 8 d.hi.toNat

/-- The entry's bytes are written at its place, where the table lies in the partition's memory, and no other byte. -/
theorem Wrote.setEntry : Wrote s (s.setEntry q rsid d) q
    (if s.paOk q ((s.part q).csr.rsAddr rsid + 15) = true then devBytes ((s.part q).csr.rsAddr rsid) d.bytes else []) := by
  have scratch (g : Nat) : (((s.setEntry q rsid d).part q).core g).scratch = ((s.part q).core g).scratch :=
    s.setEntry_view q rsid d (f := fun p => (p.core g).scratch) (fun _ _ => rfl) q
  have placed : (s.modPart q (fun p => p.setRdesc rsid d)).paOk q ((s.part q).csr.rsAddr rsid + 15) = s.paOk q ((s.part q).csr.rsAddr rsid + 15) := rfl
  by_cases room : s.paOk q ((s.part q).csr.rsAddr rsid + 15) = true
  · have written : s.setEntry q rsid d = (s.modPart q (fun p => p.setRdesc rsid d)).wrDramL q ((s.part q).csr.rsAddr rsid) d.bytes := if_pos (placed.trans room)
    rw [if_pos room]
    exact
      { dram := fun k => by rw [written, State.rd_dram_wrDramL]; exact dramAfter_congr (fun _ => rfl) ..
        host := fun k => by rw [written, State.wrDramL_hostMem, hostAfter_devBytes]; rfl
        scratch := fun g k => by rw [scratch, scratchAfter_devBytes] }
  · have kept : s.setEntry q rsid d = s.modPart q (fun p => p.setRdesc rsid d) := if_neg (by rw [placed]; exact room)
    rw [if_neg room]
    exact ⟨fun k => by rw [kept]; rfl, fun k => by rw [kept]; rfl, fun g k => by rw [scratch]; rfl⟩

end setEntry

/-! ### The words -/

/-- A write of a uniform register leaves what contexts and commits ask of a warp. -/
theorem Warp.setS_keeps (x : Warp) (d : Reg) (v : W64) :
    (x.setS d v).block = x.block ∧ (x.setS d v).levels = x.levels ∧ (x.setS d v).wait = x.wait ∧ (x.setS d v).path = x.path := by
  unfold Warp.setS
  split <;> exact ⟨rfl, rfl, rfl, rfl⟩

theorem Warp.setS_passed (x : Warp) (d : Reg) (v : W64) (now : Nat) (r : Run) (iss : Issue) :
    ({ (x.queued now r).setS d v with run := none, pc := iss.addr + BitVec.ofNat 64 iss.len, refillRun := false } : Warp) = (x.passed iss now).setS d v := by
  unfold Warp.setS
  split <;> rfl

/-- What a committed revision of entry `n` to `y` leaves: the entry, its new GEN in D, and its bytes in the table. -/
structure Revised (s t : State) (iss : Issue) (c : Ctx) (d : Reg) (n : Nat) (y : RDesc) : Prop where
  entry : ∀ k, (t.part iss.q).rdesc k = if k = n then y else (s.part iss.q).rdesc k
  warp : (t.part iss.q).warp c.w = some ((c.x.passed iss s.now).setS d (BitVec.ofNat 64 y.gen))
  table : (s.part iss.q).dir = [] → Wrote s t iss.q
    (if s.paOk iss.q ((s.part iss.q).csr.rsAddr n + 15) = true then devBytes ((s.part iss.q).csr.rsAddr n) y.bytes else [])

/-- The word that a revision of entry `n` queues. -/
def Word.ofRset (op : RsOp) (d : Reg) (n b0 b1 : W64) : Word := .ofActs [.rset op d n b0 b1]

/-- The state that the revision leaves before its GEN goes to D. -/
def State.revision (s : State) (iss : Issue) (c : Ctx) (op : RsOp) (d : Reg) (n b0 b1 : W64) : State :=
  let t := s.queued iss c (.ofRset op d n b0 b1)
  t.revise iss.q ((t.part iss.q).payerOf c.w) n.toNat op b0 b1

section revision

variable {s : State} {i : Instr} {iss : Issue} {c : Ctx} (h : Lone s i iss c) (op : RsOp) (d : Reg) (n b0 b1 : W64)
include h

theorem Lone.queued_placeQ (w : Word) : ((s.queued iss c w).part iss.q).placeQ = [] := by
  rw [h.queued_part]
  exact h.placed

/-- What the revision leaves, from the entry as it was. -/
theorem Lone.revision_eq : s.revision iss c op d n b0 b1 =
    ((s.queued iss c (.ofRset op d n b0 b1)).cleared iss.q (((s.queued iss c (.ofRset op d n b0 b1)).part iss.q).payerOf c.w) n.toNat op b1).setEntry iss.q n.toNat
      (((s.part iss.q).rdesc n.toNat).revised op b0 b1) := by
  have old (w : Word) : ((s.queued iss c w).part iss.q).rdesc n.toNat = (s.part iss.q).rdesc n.toNat := by
    rw [h.queued_part]
    rfl
  unfold State.revision
  dsimp only
  rw [State.revise_eq, old]

theorem Lone.revision_rdesc (k : Nat) : ((s.revision iss c op d n b0 b1).part iss.q).rdesc k =
    if k = n.toNat then ((s.part iss.q).rdesc n.toNat).revised op b0 b1 else (s.part iss.q).rdesc k := by
  have kept := Part.rset_ignoresPlacing.cleared (h.queued_placeQ (.ofRset op d n b0 b1)) (((s.queued iss c (.ofRset op d n b0 b1)).part iss.q).payerOf c.w) n.toNat op b1 iss.q
  have queued : ((s.queued iss c (.ofRset op d n b0 b1)).part iss.q).rset = (s.part iss.q).rset := by
    rw [h.queued_part]
    rfl
  unfold Part.rdesc
  rw [h.revision_eq, State.setEntry_rset, kept, queued]
  split
  case isTrue e => rw [e, AMap.rd_wr_same]; rfl
  case isFalse e => exact AMap.rd_wr_other _ _ _ (Ne.symm e)

theorem Lone.revision_still : State.SameView Part.still (s.queued iss c (.ofRset op d n b0 b1)) (s.revision iss c op d n b0 b1) := by
  rw [h.revision_eq]
  exact (Part.still_ignoresPlacing.cleared (h.queued_placeQ _) _ n.toNat op b1).trans (State.setEntry_view _ _ _ _ fun _ _ => rfl)

theorem Lone.revision_warp : ((s.revision iss c op d n b0 b1).part iss.q).warp c.w = some (c.x.queued s.now (s.runWith iss c (.ofRset op d n b0 b1))) := by
  have warps : ((s.revision iss c op d n b0 b1).part iss.q).warps = ((s.queued iss c (.ofRset op d n b0 b1)).part iss.q).warps :=
    congrArg (fun x => x.1.1) (h.revision_still op d n b0 b1 iss.q)
  rw [Part.warp, warps, h.queued_part]
  exact Part.holding_warp ..

/-- Where no line is parked the revision writes the entry's bytes in the table. -/
theorem Lone.revision_wrote (hd : (s.part iss.q).dir = []) : Wrote (s.queued iss c (.ofRset op d n b0 b1)) (s.revision iss c op d n b0 b1) iss.q
    (if s.paOk iss.q ((s.part iss.q).csr.rsAddr n.toNat + 15) = true then
      devBytes ((s.part iss.q).csr.rsAddr n.toNat) (((s.part iss.q).rdesc n.toNat).revised op b0 b1).bytes else []) := by
  have unparked : ((s.queued iss c (.ofRset op d n b0 b1)).part iss.q).dir = [] := by
    rw [h.queued_part]
    exact hd
  have wrote := Wrote.setEntry (s.queued iss c (.ofRset op d n b0 b1)) iss.q n.toNat (((s.part iss.q).rdesc n.toNat).revised op b0 b1)
  rw [h.revision_eq, State.cleared_unparked (h.queued_placeQ _) unparked]
  rw [h.queued_part] at wrote
  rw [h.queued] at wrote ⊢
  exact wrote

omit op b1 in
/-- With INIT no line stays parked under the entry's RSID. -/
theorem Lone.revision_unparked {b1 : W64} (hinit : b1.getLsbD 48 = true) : ∀ k ∈ ((s.revision iss c .define d n b0 b1).part iss.q).dir, k.rsid ≠ n.toNat := by
  intro k hk
  rw [h.revision_eq, State.setEntry_view _ _ _ _ (f := Part.dir) (fun _ _ => rfl) iss.q] at hk
  exact State.cleared_init hinit k hk

/-- The run's effects: the revision, then the entry's GEN in D. -/
theorem Lone.doActs_rset : (s.queued iss c (.ofRset op d n b0 b1)).doActs iss.q (c.queued s.now (s.runWith iss c (.ofRset op d n b0 b1))) (s.runWith iss c (.ofRset op d n b0 b1)) =
    (s.revision iss c op d n b0 b1).modW iss.q c.w (fun x => x.setS d (BitVec.ofNat 64 (((s.part iss.q).rdesc n.toNat).revised op b0 b1).gen)) := by
  have own := (h.revision_rdesc op d n b0 b1 n.toNat).trans (if_pos rfl)
  have inPlace : ∀ a ∈ [Act.rset op d n b0 b1], a.inPlace = true := fun a ha => by
    obtain rfl := List.mem_singleton.1 ha
    rfl
  rw [State.doActs_translated (ls := []) h.runWith_acts inPlace (h.runWith_term _), ← own]
  rfl

theorem Lone.settled_rset : Settled s iss c (.ofRset op d n b0 b1) :=
  h.settled_light rfl rfl rfl (fun a ha => by obtain rfl := List.mem_singleton.1 ha; rfl) (fun _ hl => absurd (List.mem_singleton.1 hl) nofun)
    fun _ hpa => absurd (List.mem_singleton.1 hpa) nofun

/-- A lone word that revises an entry. -/
theorem Lone.revises (hpath : c.x.path ≠ 0) :
    Revised s (s.issued iss c (.ofRset op d n b0 b1)) iss c d n.toNat (((s.part iss.q).rdesc n.toNat).revised op b0 b1) ∧
      (op = .define → b1.getLsbD 48 = true → ∀ k ∈ ((s.issued iss c (.ofRset op d n b0 b1)).part iss.q).dir, k.rsid ≠ n.toNat) := by
  have left := h.leaves (h.settled_rset op d n b0 b1) hpath rfl (u := s.revision iss c op d n b0 b1)
    (y := (c.x.queued s.now (s.runWith iss c (.ofRset op d n b0 b1))).setS d (BitVec.ofNat 64 (((s.part iss.q).rdesc n.toNat).revised op b0 b1).gen))
    (by rw [h.doActs_rset]; exact (State.HeldOpen.refl (h.revision_warp op d n b0 b1)).modWarp _) (h.revision_still op d n b0 b1) (Warp.setS_keeps _ _ _)
  rw [Warp.setS_passed] at left
  have after := State.leaves_part left
  refine ⟨⟨fun k => ?_, ?_, fun hd => ?_⟩, fun hop hinit => ?_⟩
  · rw [after]
    exact h.revision_rdesc op d n b0 b1 k
  · rw [after]
    exact Part.holding_warp ..
  · exact Wrote.of_held left ⟨fun _ _ => rfl, rfl, fun _ => rfl⟩ (Wrote.of_queued h (h.revision_wrote op d n b0 b1 hd))
  · subst hop
    rw [after]
    exact h.revision_unparked d n b0 hinit

end revision

end Sys2Proof.Machine
end

section
/-! SUPPORT. The values of reader-set entries: their generation, and what a revision makes of them (R193, R194, R222-R224). -/

namespace Sys2Proof.Machine

/-! ### Generations -/

/-- What stands below the generation. -/
theorem RDesc.clusters_withGen (d : RDesc) (g : Nat) : (d.withGen g).clusters = d.hi.toNat % 2 ^ 24 := by
  simp only [RDesc.clusters, RDesc.withGen, bits, BitVec.toNat_ofNat]
  omega

/-! ### `rsdef` (R223) -/

/-- An image that passes the check has no bit above its generation. -/
theorem RDesc.high_of_ok {d : RDesc} {n : Nat} (h : d.ok n = true) : bits d.hi.toNat 63 48 = 0 := by
  unfold RDesc.ok at h
  simp only [Bool.and_eq_true, beq_iff_eq] at h
  obtain ⟨⟨-, high⟩, -⟩ := h
  exact high

theorem RDesc.reviseOk_define (d : RDesc) (b0 b1 : W64) (n : Nat) :
    d.reviseOk .define b0 b1 n = true ↔ b1.toNat / 2 ^ 49 = 0 ∧ RDesc.ok ⟨b0, BitVec.ofNat 64 (b1.toNat % 2 ^ 32)⟩ n = true := by
  have small := b1.isLt
  by_cases top : b1.toNat / 2 ^ 49 = 0
  · have clear : bits b1.toNat 63 49 = 0 := by rw [bits, top, Nat.zero_mod]
    unfold RDesc.reviseOk
    dsimp only
    rw [clear, Nat.zero_mul, Nat.add_zero]
    exact ⟨fun h => ⟨top, h⟩, fun h => h.2⟩
  · refine ⟨fun h => absurd ?_ top, fun h => absurd h.1 top⟩
    have high := RDesc.high_of_ok h
    simp only [bits, BitVec.toNat_ofNat] at high
    omega

theorem RDesc.revised_define (d : RDesc) (b0 b1 : W64) :
    d.revised .define b0 b1 = ⟨b0, BitVec.ofNat 64 (b1.toNat % 2 ^ 32 + (if b1.getLsbD 48 then 0 else (d.gen + 1) % 2 ^ 16) * 2 ^ 32)⟩ := by
  have low : (BitVec.ofNat 64 (b1.toNat % 2 ^ 32)).toNat % 2 ^ 32 = b1.toNat % 2 ^ 32 := by
    rw [BitVec.toNat_ofNat]
    omega
  simp only [RDesc.revised, RDesc.withGen, low]
  split <;> rfl

/-! ### `rsadd` and `rsdel` (R224) -/

/-- The readers of a descriptor, cores or clusters by its KIND, changed by a mask under `f`. -/
def RDesc.masked (d : RDesc) (f : W64 → W64 → W64) (b : W64) : RDesc :=
  if d.kind = 1 then { d with lo := f d.lo (BitVec.ofNat 64 (b.toNat % 2 ^ 48 * 2 ^ 16)) } else { d with hi := f d.hi (BitVec.ofNat 64 (b.toNat % 2 ^ 24)) }

/-- The readers that a mask adds, and those that it leaves. -/
def RsOp.mask (op : RsOp) (x y : W64) : W64 := match op with | .add => x ||| y | _ => x &&& ~~~y

/-- A revision of the readers. -/
def RsOp.readers (op : RsOp) : Prop := op = .add ∨ op = .del

theorem RDesc.revised_readers {op : RsOp} (hop : op.readers) (d : RDesc) (b : W64) : d.revised op b 0 = (d.masked op.mask b).withGen (d.gen + 1) := by
  rcases hop with rfl | rfl <;> rfl

theorem RDesc.reviseOk_readers {op : RsOp} (hop : op.readers) (d : RDesc) (b : W64) (n : Nat) : d.reviseOk op b 0 n =
    ((d.kind == 1 && b.toNat / 2 ^ 48 == 0 && (d.revised op b 0).cores != 0) ||
      (d.kind == 2 && b.toNat / 2 ^ 24 == 0 && b.toNat / 2 ^ n == 0 && (d.revised op b 0).clusters != 0)) := by
  rcases hop with rfl | rfl <;> rfl

/-- A mask of cores at its place in the descriptor. -/
theorem mask_shiftLeft (b : W64) : BitVec.ofNat 64 (b.toNat % 2 ^ 48 * 2 ^ 16) = b <<< 16 := by
  refine BitVec.eq_of_toNat_eq ?_
  rw [BitVec.toNat_shiftLeft, BitVec.toNat_ofNat, Nat.shiftLeft_eq]
  omega

/-- A mask below 2^24 is its own. -/
theorem mask_below {b : W64} (h : b.toNat < 2 ^ 24) : BitVec.ofNat 64 (b.toNat % 2 ^ 24) = b := by
  rw [Nat.mod_eq_of_lt h, BitVec.ofNat_toNat, BitVec.setWidth_eq]

theorem lt_two_pow_min {x m n : Nat} : x < 2 ^ min m n ↔ x / 2 ^ m = 0 ∧ x / 2 ^ n = 0 := by
  rw [Nat.div_eq_zero_iff_lt (by positivity), Nat.div_eq_zero_iff_lt (by positivity)]
  rcases Nat.le_total m n with e | e
  · rw [Nat.min_eq_left e]
    exact ⟨fun h => ⟨h, h.trans_le (Nat.pow_le_pow_right (by decide) e)⟩, fun h => h.1⟩
  · rw [Nat.min_eq_right e]
    exact ⟨fun h => ⟨h.trans_le (Nat.pow_le_pow_right (by decide) e), h⟩, fun h => h.2⟩

section readers

variable {op : RsOp} (hop : op.readers) (d : RDesc) (b : W64)
include hop

/-- The check of a mask: cores of a descriptor of KIND 1, or clusters of the partition of one of KIND 2, some of which stay. -/
theorem RDesc.reviseOk_iff (n : Nat) : d.reviseOk op b 0 n = true ↔
    (d.kind = 1 ∧ b.toNat < 2 ^ 48 ∧ (op.mask d.lo (b <<< 16)).toNat / 2 ^ 16 ≠ 0) ∨
      (d.kind = 2 ∧ b.toNat < 2 ^ min 24 n ∧ (op.mask d.hi b).toNat % 2 ^ 24 ≠ 0) := by
  have cores (h : d.kind = 1) : (d.revised op b 0).cores = (op.mask d.lo (b <<< 16)).toNat / 2 ^ 16 := by
    have small := (op.mask d.lo (b <<< 16)).isLt
    rw [RDesc.revised_readers hop, RDesc.masked, if_pos h, mask_shiftLeft]
    simp only [RDesc.cores, RDesc.withGen, bits]
    omega
  have clusters (h : d.kind = 2) (hb : b.toNat / 2 ^ 24 = 0) : (d.revised op b 0).clusters = (op.mask d.hi b).toNat % 2 ^ 24 := by
    have small : b.toNat < 2 ^ 24 := (Nat.div_eq_zero_iff_lt (by positivity)).1 hb
    rw [RDesc.revised_readers hop, RDesc.masked, if_neg (by rw [h]; decide), mask_below small, RDesc.clusters_withGen]
  rw [RDesc.reviseOk_readers hop]
  simp only [Bool.or_eq_true, Bool.and_eq_true, beq_iff_eq, bne_iff_ne, and_assoc]
  refine or_congr (and_congr_right fun h => ?_) (and_congr_right fun h => ?_)
  · rw [cores h, Nat.div_eq_zero_iff_lt (by positivity)]
  · rw [lt_two_pow_min, and_assoc]
    exact and_congr_right fun hb => by rw [clusters h hb]

/-- The entry that a mask which passes the check makes. -/
theorem RDesc.revised_masked {n : Nat} (h : d.reviseOk op b 0 n = true) : d.revised op b 0 =
    ⟨if d.kind = 1 then op.mask d.lo (b <<< 16) else d.lo,
      BitVec.ofNat 64 ((if d.kind = 1 then d.hi else op.mask d.hi b).toNat % 2 ^ 32 + (d.gen + 1) % 2 ^ 16 * 2 ^ 32)⟩ := by
  rw [RDesc.revised_readers hop, RDesc.masked]
  rcases (RDesc.reviseOk_iff hop d b n).1 h with ⟨k, -⟩ | ⟨k, hb, -⟩
  · rw [if_pos k, if_pos k, if_pos k, mask_shiftLeft]
    rfl
  · have other : ¬ d.kind = 1 := by rw [k]; decide
    rw [if_neg other, if_neg other, if_neg other, mask_below ((Nat.div_eq_zero_iff_lt (by positivity)).1 (lt_two_pow_min.1 hb).1)]
    rfl

end readers

/-! ### The table's bytes -/

/-- The bytes of an entry, each at its place. -/
theorem devBytes_entry (a : Nat) (y : RDesc) : devBytes a y.bytes =
    (List.range 16).map (fun j => (.dev (a + j), BitVec.ofNat 8 ((if j < 8 then y.lo else y.hi).toNat / 2 ^ (8 * (j % 8))))) := by
  rw [RDesc.bytes, leBytes_eq_map, leBytes_eq_map]
  rfl

end Sys2Proof.Machine
end

section
/-! SUPPORT. What queries, `unpark` and the cache words leave of the memories, the directory and the copies (R204, R225, R226, R230). -/

namespace Sys2Proof.Machine

/-! ### Memories under traffic -/

theorem State.SameMemories.ccOut (s : State) (q : Nat) (pay : Payer) (c : Nat) (x : CcLine) : s.SameMemories (s.ccOut q pay c x) := by
  have logged : s.SameMemories (if x.bad = 0 then s else s.logBits q x.line (x.bad &&& ~~~x.dirty)) := by
    split
    · exact .refl s
    · exact State.logBits_memories s q _ _
  exact (logged.trans (State.writeBack_memories _ q pay x 15)).trans (.modPart _ q _)

theorem State.SameMemories.ccFill (s : State) (q : Nat) (pay : Payer) (c : Nat) (x : Fill) : s.SameMemories (s.ccFill q pay c x) := by
  have left (v : Option CcLine) : s.SameMemories (match v with | some v => s.ccOut q pay c v | none => s) := by
    cases v with
    | none => exact .refl s
    | some v => exact .ccOut s q pay c v
  unfold State.ccFill
  dsimp only
  split
  · exact (State.SameMemories.modPart s q _).trans (.modPart _ q _)
  · split
    · split
      · exact (State.SameMemories.ccOut s q pay c _).trans (.modPart _ q _)
      · exact .refl s
    · split
      · exact .modPart s q _
      · exact (left _).trans (.modPart _ q _)

theorem State.SameMemories.cwbLine (s : State) (q : Nat) (pay : Payer) (c : Nat) (host : Bool) (line : Nat) : s.SameMemories (s.cwbLine q pay c host line) := by
  unfold State.cwbLine
  split
  · exact .refl s
  · exact State.SameMemories.trans (State.writeBack_memories s q pay _ 15) (.modPart _ q _)

theorem State.SameMemories.prefSector (s : State) (q g : Nat) (pay : Payer) (host : Bool) (sec : Nat) (l : Leaf) (hint : Nat) :
    s.SameMemories (s.prefSector q g pay host sec l hint) := by
  unfold State.prefSector
  by_cases bad : s.ueBelow q (some (cluOf g)) (if host then .host (sec * 32) else .dev (sec * 32)) = true
  · rw [if_pos bad]
    exact .modPart s q _
  · rw [if_neg bad]
    dsimp only
    refine State.SameMemories.trans (.ccFill s q pay (cluOf g) ⟨host, sec * 32, l.cls, l.grain, hint == 2, false⟩) ?_
    by_cases near : hint = 0 ∨ hint = 2
    · rw [if_pos near]
      split <;> exact .modPart _ q _
    · rw [if_neg near]
      exact .refl _

theorem State.SameMemories.cacheLine (s : State) (q g : Nat) (pay : Payer) (op : CacheOp) (host : Bool) (line : Nat) (l : Leaf) (hint : Nat) :
    s.SameMemories (s.cacheLine q g pay op host line l hint) := by
  cases op with
  | pref =>
    unfold State.cacheLine
    dsimp only
    split
    · exact .refl s
    · exact .foldl (fun s i => .prefSector s q g pay host _ l hint) _ s
  | cwb => exact .cwbLine s q pay (cluOf g) host line
  | cinv => exact (State.SameMemories.cwbLine s q pay (cluOf g) host line).trans (.modPart _ q _)

theorem State.SameMemories.doCache (s : State) (q : Nat) (w : WRef) (plan : Plan) (op : CacheOp) (ps : List Piece) (m : MAttr) :
    s.SameMemories (s.doCache q w plan op ps m) := by
  unfold State.doCache
  refine .foldl (fun s x => ?_) _ s
  dsimp only
  split
  · split
    · exact .refl s
    · exact .cacheLine s q w.core _ op false _ _ m.hint
  · exact .cacheLine s q w.core _ op true _ _ m.hint
  · exact .refl s

/-! ### Bytes written -/

section translated

variable (s : State) (q : Nat) (w : WRef) (l : List Leaf)

theorem State.translated_dramKey (pa : Nat) : (s.translated q w l).dramKey q pa = s.dramKey q pa :=
  List.foldlRecOn l _ (motive := fun t : State => t.dramKey q pa = s.dramKey q pa) rfl fun _ e _ _ => e

/-- Register files and scratchpads. -/
theorem State.translated_data (g : Nat) : (((s.translated q w l).part q).core g).rf = ((s.part q).core g).rf ∧
    (((s.translated q w l).part q).core g).scratch = ((s.part q).core g).scratch :=
  Prod.mk.injEq .. ▸ (Part.data_ignoresCaches g).translated s q w l q

end translated

/-- An unparked line's bytes go home, and no other byte is written. -/
theorem Wrote.unpark {s : State} {q line : Nat} {k : Parked} (h : (s.part q).dir.find? (fun k => k.line == line) = some k) (pay : Payer) :
    Wrote s (s.unpark q pay line) q (devBytes (line * 128) k.data) := by
  let freed : State := s.modPart q (fun p => { p with dir := p.dir.filter (fun x => x.line != line) })
  let home : State := (freed.wrDramL q (line * 128) k.data).logLine q line
  have moved : s.unpark q pay line = (home.owe q pay 128 128).modPart q (fun p => p.retable line (home.tableOf q line)) := by
    unfold State.unpark
    rw [h]
  obtain ⟨logDram, logHost⟩ := State.logLine_memories (freed.wrDramL q (line * 128) k.data) q line
  have dram : (s.unpark q pay line).dram = (freed.wrDramL q (line * 128) k.data).dram := (congrArg State.dram moved).trans logDram
  have host : (s.unpark q pay line).hostMem = (freed.wrDramL q (line * 128) k.data).hostMem := (congrArg State.hostMem moved).trans logHost
  exact
    { dram := fun n => by rw [dram, State.rd_dram_wrDramL]; exact dramAfter_congr (fun _ => rfl) ..
      host := fun n => by rw [host, State.wrDramL_hostMem, hostAfter_devBytes]; rfl
      scratch := fun g n => by
        rw [scratchAfter_devBytes]
        exact congrArg (fun x => Sparse.rd x.2 n) ((Part.data_ignoresMoves g).unpark s q pay line q) }

theorem State.unpark_of_missing {s : State} {q line : Nat} (h : (s.part q).dir.find? (fun k => k.line == line) = none) (pay : Payer) : s.unpark q pay line = s := by
  unfold State.unpark
  rw [h]

/-- Where no parked store is on its way, none to a line is performed. -/
theorem State.drainLine_nil {s : State} {q : Nat} (h : (s.part q).placeQ = []) (line : Nat) : s.drainLine q line = s := by
  unfold State.drainLine
  dsimp only
  rw [h]
  refine (congrArg (fun p => s.setPart q p) ?_).trans (State.setPart_self s q)
  dsimp only
  rw [h, List.filter_nil, ← h]

/-! ### A lone word's registers, bytes, directory and copies -/

/-- What such a word leaves where its effects before the registers' leave `u`: its registers written, the bytes that they write, and the directory and the copies of `u`. -/
structure Leaves (s t u : State) (iss : Issue) (c : Ctx) (regs : List Act) (l : List (Loc × Byte)) : Prop where
  loaded : Loaded s t iss c regs
  wrote : Wrote s t iss.q l
  dir : (t.part iss.q).dir = (u.part iss.q).dir
  l1 : ∀ g, ((t.part iss.q).core g).l1 = ((u.part iss.q).core g).l1
  clu : ∀ j, (t.part iss.q).clu j = (u.part iss.q).clu j

theorem Lone.settles {s : State} {i : Instr} {iss : Issue} {c : Ctx} (h : Lone s i iss c) {w : Word} (hs : Settled s iss c w) {u : State} {ls : List Leaf} {l regs : List Act}
    {bs : List (Loc × Byte)} (hpath : c.x.path ≠ 0) (ht : w.term = .none) (hw : w.acts = ls.map Act.tlb ++ (l ++ regs)) (hl : ∀ a ∈ l, a.inPlace = true)
    (hreg : ∀ a ∈ regs, a.isReg = true)
    (hu : l.foldl (fun t a => t.doAct iss.q c.w (s.runWith iss c w) [] a) ((s.queued iss c w).translated iss.q c.w ls) = u)
    (still : State.SameView Part.still ((s.queued iss c w).translated iss.q c.w ls) u)
    (files : ∀ g, ((u.part iss.q).core g).rf = ((((s.queued iss c w).translated iss.q c.w ls).part iss.q).core g).rf)
    (wrote : Wrote ((s.queued iss c w).translated iss.q c.w ls) u iss.q bs) : Leaves s (s.issued iss c w) u iss c regs bs := by
  have stands : State.SameView Part.still (s.queued iss c w) u := (Part.still_ignoresCaches.translated _ _ _ _).trans still
  obtain ⟨ds, left, file⟩ := h.leaves_regs hs hpath ht hw hl hreg hu stands
  have part := h.queued_part (w := w)
  have warps : (u.part iss.q).warps = AMap.wr (s.part iss.q).warps (wkey c.w) (c.x.queued s.now (s.runWith iss c w)) :=
    (congrArg (fun x => x.1.1) (stands iss.q)).trans (congrArg Part.warps part)
  have after := State.leaves_part left
  have l1 (g : Nat) : (AMap.rd Core.reset ds g).l1 = ((u.part iss.q).core g).l1 := by
    by_cases hg : g = c.w.core
    · rw [hg]
      exact (congrArg Core.l1 file.same :)
    · exact congrArg Core.l1 (file.other g hg)
  exact
    { loaded := Loaded.of_held left file (fun k hk => by rw [warps]; exact AMap.find_wr_other _ _ (Ne.symm hk)) fun g => by
        rw [files, (State.translated_data _ iss.q c.w ls g).1, part]
        rfl
      wrote := Wrote.of_queued h (w := w) (Wrote.after (State.translated_memories ..) (fun g => (State.translated_data _ iss.q c.w ls g).2) (State.translated_dramKey _ _ _ _)
        (Wrote.of_held left file wrote))
      dir := by rw [after]; rfl
      l1 := fun g => by rw [after]; exact l1 g
      clu := fun j => by rw [after]; rfl }

end Sys2Proof.Machine
end

section
/-! SUPPORT. What `cinv` leaves of the copies of the lines that its lanes name (R230). -/

namespace Sys2Proof.Machine

/-! ### Copies under a write-back -/

/-- The copies that a core's L1 and its cluster's cache hold. -/
def Part.copies (g : Nat) (p : Part) := ((p.core g).l1, (p.clu (cluOf g)).cc)

section writeBack

variable {g : Nat} (s : State) (q : Nat) (pay : Payer)

theorem State.owe_copies (hbm fab : Nat) : State.SameView (Part.copies g) s (s.owe q pay hbm fab) :=
  .modPart s q fun p => by
    have l1 (i : Nat) (u : Core) (hu : u.l1 = (p.core i).l1) : Part.copies g (p.setCore i u) = Part.copies g p := by
      unfold Part.copies
      rw [Part.core_setCore]
      split
      case isTrue e => rw [hu, e]; rfl
      case isFalse => rfl
    unfold Part.debt
    split
    · exact l1 _ _ rfl
    · rfl

theorem State.logBits_copies (line : Nat) (mask : BitVec 4) : State.SameView (Part.copies g) s (s.logBits q line mask) :=
  .foldl (fun s i => by
    split
    · exact .modPart s q fun _ => rfl
    · exact .refl s) _ s

theorem State.writeBack_copies (x : CcLine) (mask : BitVec 4) : State.SameView (Part.copies g) s (s.writeBack q pay x mask) := by
  have logged (d : BitVec 4) : State.SameView (Part.copies g) s (if x.bad = 0 then s else s.logBits q x.line (x.bad &&& d)) := by
    split
    · exact .refl s
    · exact State.logBits_copies s q _ _
  have marked (t : State) (d : BitVec 4) : State.SameView (Part.copies g) t (if x.host then t else t.markHome q x.line d x.bad) := by
    split
    · exact .refl t
    · exact .markHome t q _ _ _
  unfold State.writeBack
  dsimp only
  split
  · exact .refl s
  · exact ((logged _).trans (marked _ _)).trans (State.owe_copies _ q pay _ _)

end writeBack

/-! ### A line without copies -/

/-- No copy of a line of device memory stands in the L1 of core `g` or in its cluster's cache. -/
def Part.Dropped (p : Part) (g line : Nat) : Prop :=
  (∀ k ∈ (p.core g).l1, k.host = true ∨ k.sector / 4 ≠ line) ∧ ∀ k ∈ (p.clu (cluOf g)).cc, k.host = true ∨ k.line ≠ line

/-- A partition whose copies are among another's, dirty or not, has no more of a line. -/
theorem Part.Dropped.of_subset {p r : Part} {g line : Nat} (h : p.Dropped g line) (l1 : ∀ k ∈ (r.core g).l1, k ∈ (p.core g).l1)
    (cc : ∀ k ∈ (r.clu (cluOf g)).cc, ∃ j ∈ (p.clu (cluOf g)).cc, j.host = k.host ∧ j.line = k.line) : r.Dropped g line :=
  ⟨fun k hk => h.1 k (l1 k hk), fun k hk => by
    obtain ⟨j, hj, host, same⟩ := cc k hk
    rw [← host, ← same]
    exact h.2 j hj⟩

theorem Part.Dropped.of_copies {p r : Part} {g line : Nat} (h : p.Dropped g line) (e : Part.copies g r = Part.copies g p) : r.Dropped g line := by
  simp only [Part.copies, Prod.mk.injEq] at e
  unfold Part.Dropped
  rw [e.1, e.2]
  exact h

/-- `cwb` on a line brings no copy. -/
theorem Part.Dropped.cwbLine {s : State} {q g n line : Nat} (h : (s.part q).Dropped g n) (pay : Payer) (host : Bool) :
    ((s.cwbLine q pay (cluOf g) host line).part q).Dropped g n := by
  unfold State.cwbLine
  split
  · exact h
  case h_2 x _ =>
    have written := h.of_copies (State.writeBack_copies (g := g) s q pay x 15 q)
    rw [State.modPart_part]
    refine written.of_subset (fun k hk => hk) fun k hk => ?_
    rw [Part.setClu_clu] at hk
    obtain ⟨j, hj, rfl⟩ := List.mem_map.1 hk
    refine ⟨j, hj, ?_⟩
    split <;> exact ⟨rfl, rfl⟩

/-- The copies of a line leave a core's L1 and its cluster's cache. -/
def Part.dropLine (p : Part) (g : Nat) (host : Bool) (line : Nat) : Part := (p.setCore g ((p.core g).l1DropLine host line)).ccDrop (cluOf g) host line

theorem Part.dropLine_copies (p : Part) (g : Nat) (host : Bool) (line : Nat) : Part.copies g (p.dropLine g host line) =
    ((p.core g).l1.filter (fun x => !(x.host == host && x.sector / 4 == line)), (p.clu (cluOf g)).cc.filter (fun x => !(x.host == host && x.line == line))) := by
  have core : (p.dropLine g host line).core g = (p.core g).l1DropLine host line := (Part.core_setCore p g _ g).trans (if_pos rfl)
  have clu : (p.dropLine g host line).clu (cluOf g) = { p.clu (cluOf g) with cc := (p.clu (cluOf g)).cc.filter (fun x => !(x.host == host && x.line == line)) } :=
    Part.setClu_clu ..
  unfold Part.copies
  rw [core, clu]
  rfl

theorem Part.Dropped.dropLine {p : Part} {g n line : Nat} (h : p.Dropped g n) (host : Bool) : (p.dropLine g host line).Dropped g n := by
  have e := p.dropLine_copies g host line
  simp only [Part.copies, Prod.mk.injEq] at e
  refine h.of_subset (fun k hk => ?_) fun k hk => ⟨k, ?_, rfl, rfl⟩
  · rw [e.1] at hk
    exact (List.mem_filter.1 hk).1
  · rw [e.2] at hk
    exact (List.mem_filter.1 hk).1

theorem Part.dropped_dropLine (p : Part) (g line : Nat) : (p.dropLine g false line).Dropped g line := by
  have e := p.dropLine_copies g false line
  simp only [Part.copies, Prod.mk.injEq] at e
  refine ⟨fun k hk => ?_, fun k hk => ?_⟩
  · rw [e.1] at hk
    by_cases host : k.host = true
    · exact .inl host
    · exact .inr fun line => by simpa [host, line] using (List.mem_filter.1 hk).2
  · rw [e.2] at hk
    by_cases host : k.host = true
    · exact .inl host
    · exact .inr fun line => by simpa [host, line] using (List.mem_filter.1 hk).2

theorem State.cacheLine_cinv (s : State) (q g : Nat) (pay : Payer) (host : Bool) (line : Nat) (l : Leaf) (hint : Nat) :
    s.cacheLine q g pay .cinv host line l hint = (s.cwbLine q pay (cluOf g) host line).modPart q (fun p => p.dropLine g host line) := rfl

/-! ### Lines, one for each -/

/-- The line of a piece. -/
def Piece.lineLoc (x : Piece) : Loc := match x.loc with | .dev pa => .dev (pa / 128) | .host pa => .host (pa / 128) | l => l

/-- A piece joins pieces of other lines. -/
def joinLines (l : List Piece) (x : Piece) : List Piece := if l.any (fun y => y.lineLoc == x.lineLoc) then l else l ++ [x]

/-- The pieces of a word, of those in one line the first. -/
def firstOfLines (ps l : List Piece) : List Piece := ps.foldl joinLines l

theorem mem_joinLines {y x : Piece} {l : List Piece} (h : y ∈ joinLines l x) : y ∈ l ∨ y = x := by
  unfold joinLines at h
  split at h
  · exact .inl h
  · exact (List.mem_append.1 h).imp_right List.mem_singleton.1

theorem joinLines_keeps {y : Piece} {l : List Piece} (h : y ∈ l) (x : Piece) : y ∈ joinLines l x := by
  unfold joinLines
  split
  · exact h
  · exact List.mem_append_left _ h

theorem joinLines_covers (l : List Piece) (x : Piece) : ∃ y ∈ joinLines l x, y.lineLoc = x.lineLoc := by
  unfold joinLines
  split
  case isTrue seen =>
    obtain ⟨y, hy, same⟩ := List.any_eq_true.1 seen
    exact ⟨y, hy, by simpa using same⟩
  case isFalse => exact ⟨x, by simp, rfl⟩

theorem mem_firstOfLines {y : Piece} : ∀ {ps l : List Piece}, y ∈ firstOfLines ps l → y ∈ l ∨ y ∈ ps
  | [], _, h => .inl h
  | x :: ps, l, h => by
    rcases mem_firstOfLines (ps := ps) h with e | e
    · exact (mem_joinLines e).imp_right fun e => by simp [e]
    · exact .inr (by simp [e])

theorem firstOfLines_keeps {y : Piece} : ∀ {ps l : List Piece}, y ∈ l → y ∈ firstOfLines ps l
  | [], _, h => h
  | x :: ps, _, h => firstOfLines_keeps (ps := ps) (joinLines_keeps h x)

/-- Each piece's line has its first piece. -/
theorem firstOfLines_covers {x : Piece} : ∀ {ps l : List Piece}, x ∈ ps → ∃ y ∈ firstOfLines ps l, y.lineLoc = x.lineLoc
  | z :: ps, l, h => by
    rcases List.mem_cons.1 h with rfl | e
    · obtain ⟨y, hy, same⟩ := joinLines_covers l x
      exact ⟨y, firstOfLines_keeps (ps := ps) hy, same⟩
    · exact firstOfLines_covers (ps := ps) e

/-! ### The word on its lines -/

/-- A cache word on one line of a run that places none. -/
def State.cacheStep (s : State) (q : Nat) (w : WRef) (op : CacheOp) (m : MAttr) (x : Piece) : State :=
  match x.loc, x.leaf with
  | .dev pa, some l =>
    if ((s.part q).parked pa).isSome || (s.part q).placeQ.any (fun y => y.line == pa / 128) || false then s
    else s.cacheLine q w.core ((s.part q).payerOf w) op false (pa / 128) l m.hint
  | .host pa, some l => s.cacheLine q w.core ((s.part q).payerOf w) op true (pa / 128) l m.hint
  | _, _ => s

theorem State.doCache_eq (s : State) (q : Nat) (w : WRef) (op : CacheOp) (ps : List Piece) (m : MAttr) :
    s.doCache q w [] op ps m = (firstOfLines ps []).foldl (fun s x => s.cacheStep q w op m x) s := rfl

section cacheStep

variable {s : State} {q : Nat} {w : WRef} {m : MAttr}

theorem Part.IgnoresCaches.cacheStep {α : Type} {f : Part → α} (hf : Part.IgnoresCaches f) (s : State) (q : Nat) (w : WRef) (op : CacheOp) (m : MAttr) (x : Piece) :
    State.SameView f s (s.cacheStep q w op m x) := by
  unfold State.cacheStep
  split
  · split
    · exact .refl s
    · exact hf.cacheLine s q w.core _ op false _ _ m.hint
  · exact hf.cacheLine s q w.core _ op true _ _ m.hint
  · exact .refl s

theorem Part.Dropped.cacheStep {n : Nat} (h : (s.part q).Dropped w.core n) (x : Piece) : ((s.cacheStep q w .cinv m x).part q).Dropped w.core n := by
  have line (host : Bool) (line : Nat) (l : Leaf) : ((s.cacheLine q w.core ((s.part q).payerOf w) .cinv host line l m.hint).part q).Dropped w.core n := by
    rw [State.cacheLine_cinv, State.modPart_part]
    exact (h.cwbLine _ host).dropLine host
  unfold State.cacheStep
  split
  · split
    · exact h
    · exact line false _ _
  · exact line true _ _
  · exact h

/-- `cinv` on a line of device memory that is not parked leaves no copy of it. -/
theorem Part.dropped_cacheStep {x : Piece} {pa : Nat} (hx : x.loc = .dev pa) (hl : x.leaf.isSome = true) (hp : (s.part q).parked pa = none) (hq : (s.part q).placeQ = []) :
    ((s.cacheStep q w .cinv m x).part q).Dropped w.core (pa / 128) := by
  obtain ⟨l, leaf⟩ := Option.isSome_iff_exists.1 hl
  unfold State.cacheStep
  rw [hx, leaf]
  dsimp only
  rw [hp, hq, if_neg (by simp), State.cacheLine_cinv, State.modPart_part]
  exact Part.dropped_dropLine _ _ _

/-- `cinv` leaves no copy of a line that one of its pieces names and that is not parked. -/
theorem Part.dropped_doCache {ps : List Piece} {x : Piece} {pa : Nat} (hx : x ∈ ps) (hloc : x.loc = .dev pa)
    (hl : ∀ y ∈ ps, ∀ a, y.loc = .dev a → y.leaf.isSome = true) (hp : (s.part q).parked pa = none) (hq : (s.part q).placeQ = []) :
    ((s.doCache q w [] .cinv ps m).part q).Dropped w.core (pa / 128) := by
  obtain ⟨y, hy, line⟩ := firstOfLines_covers (l := []) hx
  obtain ⟨a, yloc, same⟩ : ∃ a, y.loc = .dev a ∧ a / 128 = pa / 128 := by
    unfold Piece.lineLoc at line
    rw [hloc] at line
    cases h : y.loc with
    | dev a => exact ⟨a, rfl, by rw [h] at line; exact Loc.dev.inj line⟩
    | host a => rw [h] at line; cases line
    | scratch g o => rw [h] at line; cases line
  have member : y ∈ ps := (mem_firstOfLines hy).resolve_left (by simp)
  obtain ⟨before, after, parts⟩ := List.append_of_mem hy
  rw [State.doCache_eq, parts, List.foldl_append, List.foldl_cons]
  have stands := State.SameView.foldl (Part.still_ignoresCaches.cacheStep · q w .cinv m ·) before s q
  have dir := State.SameView.foldl (Part.dir_ignoresCaches.cacheStep · q w .cinv m ·) before s q
  have dropped := Part.dropped_cacheStep (w := w) (m := m) yloc (hl y member a yloc) (by unfold Part.parked at hp ⊢; rw [dir, same]; exact hp)
    ((congrArg (fun z => z.2.2.2) stands).trans hq)
  rw [← same]
  exact List.foldlRecOn after _ (motive := fun t : State => (t.part q).Dropped w.core (a / 128)) dropped fun _ h x _ => h.cacheStep x

end cacheStep

end Sys2Proof.Machine
end

section
/-! SUPPORT. The words of R222-R226 and R230 as they issue, and the family of the memory words. -/

namespace Sys2Proof.Machine

/-! ### Revisions (R222-R224) -/

theorem State.rsetWord_ok {s : State} {e : Env} {op : RsOp} {d a : Reg} {b0 b1 : W64} (hen : (s.part e.q).csr.rsEn = true) (hid : (e.srcS a).toNat ≤ 1023)
    (hok : (s.rdescAfter e (e.srcS a).toNat).reviseOk op b0 b1 (s.nclu e.q) = true) : s.rsetWord e op d a b0 b1 = .ofRset op d (e.srcS a) b0 b1 := by
  unfold State.rsetWord
  dsimp only
  rw [hen, hok, if_neg (by simpa using hid)]
  rfl

theorem State.rsetWord_bad {s : State} {e : Env} {op : RsOp} {d a : Reg} {b0 b1 : W64}
    (h : ¬ ((s.part e.q).csr.rsEn = true ∧ (e.srcS a).toNat ≤ 1023 ∧ (s.rdescAfter e (e.srcS a).toNat).reviseOk op b0 b1 (s.nclu e.q) = true)) :
    s.rsetWord e op d a b0 b1 = e.operand := by
  unfold State.rsetWord
  refine if_pos ?_
  by_contra fine
  simp only [Bool.or_eq_true, not_or, Bool.not_eq_true', Bool.not_eq_false, decide_eq_true_eq, not_lt] at fine
  obtain ⟨⟨hen, hid⟩, hok⟩ := fine
  exact h ⟨hen, hid, hok⟩

/-- A lone word finds the entries as the partition has them. -/
theorem Lone.rdescAfter {s : State} {i : Instr} {iss : Issue} {c : Ctx} (h : Lone s i iss c) (rsid : Nat) :
    (s.begun iss c).rdescAfter (s.env iss c) rsid = (s.part iss.q).rdesc rsid := by
  have acts : (s.env iss c).run.acts = [] := by
    change (s.runAt iss c).acts = []
    rw [h.runAt]
    rfl
  unfold State.rdescAfter Part.entryAfter
  rw [acts, h.begun]
  rfl

/-- A lone word that queues nothing but an OPERAND aborts its run. -/
theorem Lone.operand {s : State} {i : Instr} {iss : Issue} {c : Ctx} (h : Lone s i iss c) {f : State → Env → Word} (hx : ∀ s, exec i s = withWord s i f)
    (hf : f (s.begun iss c) (s.env iss c) = (s.env iss c).operand) :
    ∃ t, exec i s = .next t ∧ FaultStep s t iss c ((s.env iss c).cond .operand 0 iss.detail) :=
  ⟨_, by rw [hx, withWord_issues h.toIssues], h.faults (by rw [hf]; rfl) rfl Cause.noConfusion (by rw [hf]; nofun) (by rw [hf]; nofun)⟩

/-- The GEN of an entry, above its image. -/
theorem RDesc.gen_mk {lo : W64} {hi gen : Nat} (hhi : hi < 2 ^ 32) (hg : gen < 2 ^ 16) : RDesc.gen ⟨lo, BitVec.ofNat 64 (hi + gen * 2 ^ 32)⟩ = gen := by
  simp only [RDesc.gen, bits, BitVec.toNat_ofNat]
  omega

/-- A lone word that passes its checks revises its entry. -/
theorem Lone.revised {s : State} {i : Instr} {iss : Issue} {c : Ctx} (h : Lone s i iss c) (hr : i ≠ .refill) {f : State → Env → Word} (hx : ∀ s, exec i s = withWord s i f)
    {op : RsOp} {d : Reg} {n b0 b1 : W64} (hf : f (s.begun iss c) (s.env iss c) = .ofRset op d n b0 b1) {lo : W64} {hi gen : Nat}
    (hy : ((s.part iss.q).rdesc n.toNat).revised op b0 b1 = ⟨lo, BitVec.ofNat 64 (hi + gen * 2 ^ 32)⟩) (hhi : hi < 2 ^ 32) (hg : gen < 2 ^ 16) :
    ∃ t, exec i s = .next t ∧
      (∀ k, (t.part iss.q).rdesc k = if k = n.toNat then ⟨lo, BitVec.ofNat 64 (hi + gen * 2 ^ 32)⟩ else (s.part iss.q).rdesc k) ∧
      (t.part iss.q).warp c.w = some ((c.x.passed iss s.now).setS d (BitVec.ofNat 64 gen)) ∧
      ((s.part iss.q).dir = [] → Wrote s t iss.q (if s.paOk iss.q ((s.part iss.q).csr.rsAddr n.toNat + 15) = true then
        devBytes ((s.part iss.q).csr.rsAddr n.toNat) (RDesc.bytes ⟨lo, BitVec.ofNat 64 (hi + gen * 2 ^ 32)⟩) else [])) ∧
      (op = .define → b1.getLsbD 48 = true → ∀ k ∈ (t.part iss.q).dir, k.rsid ≠ n.toNat) := by
  obtain ⟨⟨entry, warp, table⟩, cleared⟩ := h.revises op d n b0 b1 (h.path hr)
  rw [hy] at entry warp table
  rw [RDesc.gen_mk hhi hg] at warp
  exact ⟨_, by rw [hx, withWord_issues h.toIssues, hf], entry, warp, table, cleared⟩

/-! ### Places (R182) -/

/-- A scratchpad aperture leads to no byte of device memory. -/
theorem Part.scratchLoc_ne_dev {p : Part} {b : Block} {cluster : Bool} {va n pa : Nat} : p.scratchLoc b cluster va n ≠ some (.dev pa) := by
  unfold Part.scratchLoc
  dsimp only
  split
  · split
    · split <;> nofun
    · nofun
  · split <;> nofun

/-- A byte of device memory is reached by a global address, under a page. -/
theorem State.resolve_dev {s : State} {q : Nat} {b : Block} {va : W64} {n pa : Nat} {need : Need} {f : Option Leaf} (h : s.resolve q b va n need = .ok (.dev pa, f)) :
    regionOf va = .global ∧ f.isSome = true := by
  unfold State.resolve at h
  split at h
  · cases h
  · split at h
    case h_1 l hl =>
      cases h
      exact absurd hl Part.scratchLoc_ne_dev
    · cases h
  · split at h
    case h_1 l hl =>
      cases h
      exact absurd hl Part.scratchLoc_ne_dev
    · cases h
  · rename_i global
    refine ⟨global, ?_⟩
    split at h
    · cases h
    · split at h
      · obtain ⟨-, rfl⟩ := Prod.mk.inj (Except.ok.inj h)
        rfl
      · cases h

theorem State.uniAccess_resolve {s : State} {e : Env} {va : W64} {acc : Acc} {need : Need} {x : Loc × Option Leaf} (h : s.uniAccess e va acc need = .ok x) :
    s.resolve e.q e.c.blk va 1 need = .ok x := by
  unfold State.uniAccess at h
  split at h
  · rename_i y hy
    cases h
    exact hy
  · cases h

/-! ### `rsqry` (R225) -/

/-- A line's report, or its replicas. -/
def State.lineAnswer (s : State) (q mode pa : Nat) : W64 := if mode = 0 then s.lineReport q pa else s.replicaMask q pa

section rsqry

variable {s : State} {e : Env} {d a b : Reg}

theorem State.rsqry_bad (h : ¬ (s.part e.q).csr.rsEn = true ∨ 3 < (e.srcS b).toNat ∨ ((e.srcS b = 1 ∨ e.srcS b = 2) ∧ 1023 < (e.srcS a).toNat)) : s.rsqry e d a b = e.operand := by
  unfold State.rsqry
  refine if_pos ?_
  rcases h with h | h | ⟨h, k⟩
  · simp [h]
  · simp [h]
  · rcases h with h | h <;> simp [h, k]

section enabled

variable (hen : (s.part e.q).csr.rsEn = true)
include hen

theorem State.rsqry_lo (h : e.srcS b = 1) (hid : (e.srcS a).toNat ≤ 1023) : s.rsqry e d a b = .ofActs (putS d ((s.part e.q).rdesc (e.srcS a).toNat).lo) := by
  unfold State.rsqry
  simp [hen, h, hid]

theorem State.rsqry_hi (h : e.srcS b = 2) (hid : (e.srcS a).toNat ≤ 1023) : s.rsqry e d a b = .ofActs (putS d ((s.part e.q).rdesc (e.srcS a).toNat).hi) := by
  unfold State.rsqry
  simp [hen, h, hid]

theorem State.rsqry_scratch (h : e.srcS b = 0 ∨ e.srcS b = 3) (hr : regionOf (e.srcS a) = .loc ∨ regionOf (e.srcS a) = .cluster) :
    s.rsqry e d a b = .ofActs (putS d (if e.srcS b = 0 then 3 else 0)) := by
  unfold State.rsqry
  rcases h with h | h <;> simp [hen, h, hr]

theorem State.rsqry_dev (h : e.srcS b = 0 ∨ e.srcS b = 3) {pa : Nat} {f : Option Leaf} (ha : s.uniAccess e (e.srcS a) .read ⟨true, false, false⟩ = .ok (.dev pa, f)) :
    s.rsqry e d a b = .ofActs (f.toList.map Act.tlb ++ putS d (s.lineAnswer e.q (e.srcS b).toNat pa)) := by
  have global := (State.resolve_dev (State.uniAccess_resolve ha)).1
  unfold State.rsqry
  rcases h with h | h <;> simp [hen, h, global, ha, State.lineAnswer]

end enabled

end rsqry

/-- A uniform result is a register effect. -/
theorem putS_isReg {d : Reg} {v : W64} : ∀ a ∈ putS d v, a.isReg = true := by
  intro a ha
  unfold putS at ha
  split at ha
  · obtain rfl := List.mem_singleton.1 ha
    rfl
  · cases ha

/-- A line that is not parked is at home, without replicas. -/
theorem State.lineAnswer_unparked {s : State} {q pa mode : Nat} (h : (s.part q).parked pa = none) :
    s.lineAnswer q mode pa = BitVec.ofNat 64 (if mode = 0 then 3 + s.homeOf q pa * 2 ^ 48 else 0) := by
  unfold State.lineAnswer State.lineReport State.replicaMask
  rw [h]
  split <;> rfl

theorem State.lineAnswer_parked {s : State} {q pa mode : Nat} {k : Parked} (h : (s.part q).parked pa = some k) :
    s.lineAnswer q mode pa = BitVec.ofNat 64 (if mode = 0 then
      k.level + (if k.fell then 4 else 0) + (if k.gen ≠ ((s.part q).rdesc k.rsid).gen then 8 else 0) + k.rsid * 2 ^ 4 + k.gen * 2 ^ 16 +
        (if k.level = 0 then k.unit % 48 * 2 ^ 32 + cluOf k.unit * 2 ^ 40 else if k.level = 1 then k.unit * 2 ^ 40 else 0) + s.homeOf q pa * 2 ^ 48
      else (k.replicas.map (fun c => 2 ^ c)).sum) := by
  unfold State.lineAnswer State.lineReport State.replicaMask
  rw [h]
  split
  · refine congrArg (BitVec.ofNat 64) ?_
    have fell : b2n k.fell * 4 = if k.fell then 4 else 0 := by cases k.fell <;> rfl
    have stale : b2n (k.gen != ((s.part q).rdesc k.rsid).gen) * 8 = if k.gen ≠ ((s.part q).rdesc k.rsid).gen then 8 else 0 := by
      by_cases e : k.gen = ((s.part q).rdesc k.rsid).gen <;> simp [e, b2n]
    rw [fell, stale]
    by_cases near : k.level = 0
    · simp only [near, if_true]
      omega
    · by_cases cluster : k.level = 1 <;> simp [near, cluster]
  · rw [List.sum_eq_foldl]

/-- A lone word that accesses no bytes, on a page that its core can reach, settles. -/
theorem Lone.settled_paged {s : State} {i : Instr} {iss : Issue} {c : Ctx} (h : Lone s i iss c) {f : Option Leaf} {l : List Act}
    (hl : ∀ a ∈ l, a.light = true ∧ a.inPlace = true) (routed : ∀ x, f = some x → s.barredWalk iss.q c.w.core (BitVec.ofNat 64 x.va) = [])
    (home : ∀ pa, .unpark (.dev pa) ∈ l → s.barred iss.q c.w.core pa = false) : Settled s iss c (.ofActs (f.toList.map Act.tlb ++ l)) := by
  refine h.settled_light rfl rfl rfl (fun a ha => ?_) (fun x hx => ?_) fun pa hpa => ?_
  · rcases List.mem_append.1 ha with e | e
    · obtain ⟨x, -, rfl⟩ := List.mem_map.1 e
      rfl
    · exact (hl a e).1
  · rcases List.mem_append.1 hx with e | e
    · obtain ⟨y, hy, same⟩ := List.mem_map.1 e
      cases same
      exact routed _ (Option.mem_toList.1 hy)
    · exact absurd (hl _ e).2 Bool.false_ne_true
  · rcases List.mem_append.1 hpa with e | e
    · obtain ⟨x, -, same⟩ := List.mem_map.1 e
      cases same
    · exact home pa e

/-- A settled query of a line answers and changes no byte. -/
theorem Lone.queries {s : State} {i : Instr} {iss : Issue} {c : Ctx} (h : Lone s i iss c) (hr : i ≠ .refill) {f : Option Leaf} {regs : List Act} (hreg : ∀ a ∈ regs, a.isReg = true)
    (routed : ∀ l, f = some l → s.barredWalk iss.q c.w.core (BitVec.ofNat 64 l.va) = []) :
    Loaded s (s.issued iss c (.ofActs (f.toList.map Act.tlb ++ regs))) iss c regs ∧ Wrote s (s.issued iss c (.ofActs (f.toList.map Act.tlb ++ regs))) iss.q [] := by
  have settled : Settled s iss c (.ofActs (f.toList.map Act.tlb ++ regs)) :=
    h.settled_paged (fun a ha => ⟨Act.light_of_isReg (hreg a ha), Act.inPlace_of_isReg (hreg a ha)⟩) routed fun pa hpa => absurd (hreg _ hpa) Bool.false_ne_true
  obtain ⟨loaded, wrote, -, -, -⟩ := h.settles settled (h.path hr) rfl (l := []) (regs := regs) rfl nofun hreg rfl (.refl _) (fun _ => rfl) (Wrote.nil_of (.refl _) fun _ => rfl)
  exact ⟨loaded, wrote⟩

end Sys2Proof.Machine
end

section
/-! SUPPORT. `unpark` and the cache words as they issue, and the family of the memory words. -/

namespace Sys2Proof.Machine

/-! ### `unpark` (R226) -/

theorem State.unparkWord_dev {s : State} {e : Env} {a : Reg} {pa : Nat} {f : Option Leaf} (hen : (s.part e.q).csr.rsEn = true)
    (ha : s.uniAccess e (e.srcS a) .write ⟨false, true, false⟩ = .ok (.dev pa, f)) : s.unparkWord e a = .ofActs (f.toList.map Act.tlb ++ [.unpark (.dev pa)]) := by
  unfold State.unparkWord
  rw [hen, ha]
  rfl

/-- A settled `unpark` frees its line's entry and writes its bytes home. -/
theorem Lone.unparks {s : State} {i : Instr} {iss : Issue} {c : Ctx} (h : Lone s i iss c) (hr : i ≠ .refill) {f : Option Leaf} {pa : Nat}
    (routed : ∀ l, f = some l → s.barredWalk iss.q c.w.core (BitVec.ofNat 64 l.va) = []) (home : s.barred iss.q c.w.core pa = false) {bs : List (Loc × Byte)}
    (bytes : ∀ (t : State) pay, (t.part iss.q).dir = (s.part iss.q).dir → Wrote t (t.unpark iss.q pay (pa / 128)) iss.q bs) :
    let t := s.issued iss c (.ofActs (f.toList.map Act.tlb ++ [.unpark (.dev pa)]))
    Loaded s t iss c [] ∧ (t.part iss.q).dir = (s.part iss.q).dir.filter (fun k => k.line != pa / 128) ∧ Wrote s t iss.q bs := by
  let w : Word := .ofActs (f.toList.map Act.tlb ++ [.unpark (.dev pa)])
  let filled : State := (s.queued iss c w).translated iss.q c.w f.toList
  let u : State := filled.unpark iss.q ((filled.part iss.q).payerOf c.w) (pa / 128)
  have settled : Settled s iss c w := h.settled_paged (fun a ha => by obtain rfl := List.mem_singleton.1 ha; exact ⟨rfl, rfl⟩) routed fun pa' hpa => by
    cases List.mem_singleton.1 hpa
    exact home
  have part := h.queued_part (w := w)
  have dir : (filled.part iss.q).dir = (s.part iss.q).dir := (Part.dir_ignoresCaches.translated _ _ _ _ iss.q).trans (by rw [part]; rfl)
  have placed : (filled.part iss.q).placeQ = [] :=
    (congrArg (fun z => z.2.2.2) (Part.still_ignoresCaches.translated _ iss.q c.w f.toList iss.q)).trans (by rw [part]; exact h.placed)
  have effect : [Act.unpark (.dev pa)].foldl (fun t a => t.doAct iss.q c.w (s.runWith iss c w) [] a) filled = u := by
    change (filled.drainLine iss.q (pa / 128)).unpark iss.q (((filled.part iss.q)).payerOf c.w) (pa / 128) = u
    rw [State.drainLine_nil placed]
  have left := h.settles settled (h.path hr) rfl (l := [.unpark (.dev pa)]) (regs := []) rfl (fun a ha => by obtain rfl := List.mem_singleton.1 ha; rfl) nofun effect
    (Part.still_ignoresMoves.unpark _ _ _ _) (fun g => congrArg (fun z => z.1) ((Part.data_ignoresMoves g).unpark filled iss.q _ _ iss.q)) (bytes filled _ dir)
  exact ⟨left.loaded, left.dir.trans ((State.unpark_dir ..).trans (by rw [dir])), left.wrote⟩

/-! ### Cache words (R230) -/

/-- The pieces of a cache word: the lanes whose accesses resolve. -/
def State.cachePieces (s : State) (e : Env) (op : CacheOp) (a b : Reg) : List Piece :=
  (e.lanes.map (fun l => s.access e l (e.addr 0 a b 1 l) 1 1 (if op = .pref then ⟨true, false, false⟩ else ⟨false, true, false⟩))).filterMap (fun t => t.2)

/-- A cache word without a condition acts on its pieces' lines. -/
theorem State.cacheWord_clear {s : State} {e : Env} {op : CacheOp} {a b : Reg} (h : (s.cacheWord e op a b).cond = none) :
    s.cacheWord e op a b = if (s.cachePieces e op a b).isEmpty then .nil else .ofActs (tlbActs (s.cachePieces e op a b) ++ [.cache op (s.cachePieces e op a b) e.mattr]) := by
  unfold State.cacheWord at h ⊢
  dsimp only at h ⊢
  split at h
  · cases h
  · rfl

/-- A piece in device memory has its page. -/
theorem State.cachePieces_leaf {s : State} {e : Env} {op : CacheOp} {a b : Reg} {x : Piece} (h : x ∈ s.cachePieces e op a b) {pa : Nat} (hx : x.loc = .dev pa) :
    x.leaf.isSome = true := by
  obtain ⟨t, ht, piece⟩ := List.mem_filterMap.1 h
  obtain ⟨l, -, rfl⟩ := List.mem_map.1 ht
  unfold State.access at piece
  dsimp only at piece
  split at piece
  · cases piece
  · rename_i loc leaf resolved
    cases piece
    obtain rfl : loc = .dev pa := hx
    exact (State.resolve_dev resolved).2

/-- A settled cache word changes no byte and no parked line, and `cinv` leaves no copy of a line that it names and that is not parked. -/
theorem Lone.caches {s : State} {i : Instr} {iss : Issue} {c : Ctx} (h : Lone s i iss c) (hr : i ≠ .refill) {op : CacheOp} {a b : Reg}
    (settled : Settled s iss c ((s.begun iss c).cacheWord (s.env iss c) op a b)) :
    let t := s.issued iss c ((s.begun iss c).cacheWord (s.env iss c) op a b)
    Loaded s t iss c [] ∧ Wrote s t iss.q [] ∧ (t.part iss.q).dir = (s.part iss.q).dir ∧
      (op = .cinv → ∀ x ∈ (s.begun iss c).cachePieces (s.env iss c) op a b, ∀ pa, x.loc = .dev pa → (s.part iss.q).parked pa = none →
        (t.part iss.q).Dropped c.w.core (pa / 128)) := by
  have word := State.cacheWord_clear settled.clear
  by_cases empty : ((s.begun iss c).cachePieces (s.env iss c) op a b).isEmpty = true
  · rw [if_pos empty] at word
    rw [word] at settled ⊢
    have left := h.settles settled (h.path hr) rfl (ls := []) (l := []) (regs := []) rfl nofun nofun (u := s.queued iss c .nil) rfl (.refl _) (fun _ => rfl)
      (Wrote.nil_of (.refl _) fun _ => rfl)
    refine ⟨left.loaded, left.wrote, left.dir.trans ((congrArg Part.dir h.queued_part).trans rfl), fun _ x hx => ?_⟩
    rw [List.isEmpty_iff.1 empty] at hx
    cases hx
  · rw [if_neg empty] at word
    rw [word] at settled ⊢
    let ps := (s.begun iss c).cachePieces (s.env iss c) op a b
    let w : Word := .ofActs (tlbActs ps ++ [.cache op ps (s.env iss c).mattr])
    let leaves := (ps.filterMap (fun x => x.leaf)).dedup
    let filled : State := (s.queued iss c w).translated iss.q c.w leaves
    have left := h.settles settled (h.path hr) rfl (ls := leaves) (l := [.cache op ps (s.env iss c).mattr]) (regs := []) rfl
      (fun a ha => by obtain rfl := List.mem_singleton.1 ha; rfl) nofun (u := filled.doCache iss.q c.w [] op ps (s.env iss c).mattr) rfl
      (Part.still_ignoresCaches.doCache filled iss.q c.w [] op ps _) (fun g => congrArg (fun z => z.1) ((Part.data_ignoresCaches g).doCache filled iss.q c.w [] op ps _ iss.q))
      (Wrote.nil_of (.doCache ..) fun g => congrArg (fun z => z.2) ((Part.data_ignoresCaches g).doCache filled iss.q c.w [] op ps _ iss.q))
    have part := h.queued_part (w := w)
    have dir : (filled.part iss.q).dir = (s.part iss.q).dir := (Part.dir_ignoresCaches.translated _ _ _ _ iss.q).trans (by rw [part]; rfl)
    have placed : (filled.part iss.q).placeQ = [] :=
      (congrArg (fun z => z.2.2.2) (Part.still_ignoresCaches.translated _ iss.q c.w leaves iss.q)).trans (by rw [part]; exact h.placed)
    refine ⟨left.loaded, left.wrote, left.dir.trans ((Part.dir_ignoresCaches.doCache filled iss.q c.w [] op ps _ iss.q).trans dir), fun hop x hx pa hloc hp => ?_⟩
    subst hop
    have dropped := Part.dropped_doCache (s := filled) (q := iss.q) (w := c.w) (m := (s.env iss c).mattr) hx hloc (fun y hy a ha => State.cachePieces_leaf hy ha)
      (by unfold Part.parked at hp ⊢; rw [dir]; exact hp) placed
    exact dropped.of_copies (Prod.ext (left.l1 c.w.core) (congrArg Cluster.cc (left.clu (cluOf c.w.core))))

end Sys2Proof.Machine
end

section
/-! SUPPORT. The family of the memory words. -/

namespace Sys2Proof.Machine

/-! ### `rsdef` (R223) -/

section rsdef

variable {s : State} {e : Env} {d a b : Reg}

theorem State.rsdef_allowed (h : (e.srcS1 b).getLsbD 48 = true → e.sup = true) : s.rsdef e d a b = s.rsetWord e .define d a (e.srcS b) (e.srcS1 b) := by
  refine if_neg fun k => ?_
  simp only [Bool.and_eq_true, Bool.not_eq_true'] at k
  rw [h k.1] at k
  exact Bool.noConfusion k.2

theorem State.rsdef_priv (h : (e.srcS1 b).getLsbD 48 = true ∧ e.sup = false) : s.rsdef e d a b = e.priv 0 := if_pos (by simp [h])

end rsdef

/-! ### A cache word by its operation -/

theorem cacheWord_exec {op : CacheOp} {i : Instr} {a b : Reg} (h : (op, i) ∈ [(CacheOp.pref, Instr.pref a b), (.cwb, .cwb a b), (.cinv, .cinv a b)]) :
    i ≠ .refill ∧ ∀ s, exec i s = withWord s i (fun s e => s.cacheWord e op a b) := by
  simp only [List.mem_cons, Prod.mk.injEq, List.not_mem_nil, or_false] at h
  rcases h with ⟨rfl, rfl⟩ | ⟨rfl, rfl⟩ | ⟨rfl, rfl⟩ <;> exact ⟨nofun, fun _ => rfl⟩

/-- A lone word that issues what its meaning gives. -/
theorem Lone.exec_eq {s : State} {i : Instr} {iss : Issue} {c : Ctx} (h : Lone s i iss c) {f : State → Env → Word} (hx : ∀ s, exec i s = withWord s i f) {w : Word}
    (hf : f (s.begun iss c) (s.env iss c) = w) : exec i s = .next (s.issued iss c w) := by
  rw [hx, withWord_issues h.toIssues, hf]

/-- Settles O29: a reader-set word, `rsqry`, `unpark` and the cache words have the effects of one queued act on a partition in which only the warp has moved, whose walks and
homes no router bars; the rest are the frame around their meanings. -/
theorem memoryWordsCommit : Obligations.MemoryWordsCommit := by
  intro z i d a b bad id entry on bits_ init defines masks or_ less revised routed gen1
  have checks (s : State) (e : Env) {op : RsOp} (hop : op.readers) : masks s e op.mask ↔ on s e ∧ id e ≤ 1023 ∧ (entry s e).reviseOk op (e.srcS b) 0 (s.nclu e.q) = true :=
    and_congr_right fun _ => and_congr_right fun _ => (RDesc.reviseOk_iff hop _ _ _).symm
  have readers {i : Instr} {op : RsOp} (hop : op.readers) (hx : ∀ s, exec i s = withWord s i (fun s e => s.rsetWord e op d a (e.srcS b) 0)) (hr : i ≠ .refill)
      (hd : i ≠ .rsdef d a b) (s : State) (iss : Issue) (c : Ctx) (h : Lone s i iss c) : let e := s.env iss c; let x := entry s e; masks s e op.mask →
      revised s iss c i (if x.kind = 1 then op.mask x.lo (bits_ e <<< 16) else x.lo) ((if x.kind = 1 then x.hi else op.mask x.hi (bits_ e)).toNat % 2 ^ 32) (gen1 s e) := by
    intro e x hm
    obtain ⟨hon, hid, hok⟩ := (checks s e hop).1 hm
    have word : (s.begun iss c).rsetWord e op d a (e.srcS b) 0 = .ofRset op d (e.srcS a) (e.srcS b) 0 := by
      refine State.rsetWord_ok ?_ hid ?_
      · rw [h.begun]; exact hon
      · rw [h.rdescAfter, h.begun]; exact hok
    obtain ⟨t, step, rdesc, warp, table, -⟩ := h.revised hr hx word (RDesc.revised_masked hop _ _ hok) (Nat.mod_lt _ (by decide)) (Nat.mod_lt _ (by decide))
    exact ⟨t, step, rdesc, warp, fun empty => by rw [← devBytes_entry]; exact table empty, fun k => absurd k.1 hd⟩
  refine ⟨?defines, ?adds, ?dels, ?defineBad, ?addBad, ?delBad, ?lo, ?hi, ?scratch, ?queryBad, ?query, ?unpark, ?cache, ?commits⟩
  case defines =>
    intro s iss c h e hdef hsup
    obtain ⟨hon, hid, htop, hok⟩ := hdef
    have checked : ((s.part iss.q).rdesc (id e)).reviseOk .define (e.srcS b) (e.srcS1 b) (s.nclu iss.q) = true := (RDesc.reviseOk_define ..).2 ⟨htop, hok⟩
    have word : (s.begun iss c).rsdef e d a b = .ofRset .define d (e.srcS a) (e.srcS b) (e.srcS1 b) := by
      rw [State.rsdef_allowed hsup]
      refine State.rsetWord_ok ?_ hid ?_
      · rw [h.begun]; exact hon
      · rw [h.rdescAfter, h.begun]; exact checked
    obtain ⟨t, step, rdesc, warp, table, cleared⟩ := h.revised nofun (fun _ => rfl) word (RDesc.revised_define ..) (Nat.mod_lt _ (by decide)) (by split <;> omega)
    exact ⟨t, step, rdesc, warp, fun hd => by rw [← devBytes_entry]; exact table hd, fun hi => cleared rfl hi.2⟩
  case adds => exact readers (.inl rfl) (fun _ => rfl) nofun nofun
  case dels => exact readers (.inr rfl) (fun _ => rfl) nofun nofun
  case defineBad =>
    intro s iss c h ⟨hsup, hbad⟩
    refine h.operand (fun _ => rfl) ((State.rsdef_allowed hsup).trans (State.rsetWord_bad fun ⟨hon, hid, hok⟩ => hbad ?_))
    rw [h.rdescAfter, RDesc.reviseOk_define] at hok
    exact ⟨hon, hid, hok⟩
  case addBad =>
    intro s iss c h hbad
    refine h.operand (fun _ => rfl) (State.rsetWord_bad fun ⟨hon, hid, hok⟩ => hbad ((checks _ _ (.inl rfl)).2 ⟨hon, hid, ?_⟩))
    rw [h.rdescAfter] at hok
    rw [h.begun] at hok ⊢
    exact hok
  case delBad =>
    intro s iss c h hbad
    refine h.operand (fun _ => rfl) (State.rsetWord_bad fun ⟨hon, hid, hok⟩ => hbad ((checks _ _ (.inr rfl)).2 ⟨hon, hid, ?_⟩))
    rw [h.rdescAfter] at hok
    rw [h.begun] at hok ⊢
    exact hok
  case lo => exact Writes.of nofun (fun _ => rfl) (fun s e ⟨hon, hb, hid⟩ => State.rsqry_lo hon hb hid) fun _ _ _ => putS_isReg
  case hi => exact Writes.of nofun (fun _ => rfl) (fun s e ⟨hon, hb, hid⟩ => State.rsqry_hi hon hb hid) fun _ _ _ => putS_isReg
  case scratch => exact Writes.of nofun (fun _ => rfl) (fun s e ⟨hon, hb, hr⟩ => State.rsqry_scratch hon hb hr) fun _ _ _ => putS_isReg
  case queryBad =>
    exact Faults.of (fun _ => rfl) (fun s e h => by rw [State.rsqry_bad h]; exact ⟨rfl, rfl, rfl⟩) fun s e => ⟨rfl, Cause.noConfusion⟩
  case query =>
    intro s iss c pa f h e hon hb ha hrouted home r
    have on' : ((s.begun iss c).part e.q).csr.rsEn = true := by rw [h.begun]; exact hon
    have step := h.exec_eq (i := .rsqry d a b) (fun _ => rfl) (State.rsqry_dev on' hb ha)
    have answer : (s.begun iss c).lineAnswer e.q (e.srcS b).toNat pa = BitVec.ofNat 64 r := by
      have mode : (e.srcS b).toNat = 0 ↔ bits_ e = 0 := BitVec.toNat_eq (y := 0) |>.symm
      have same : (s.begun iss c).lineAnswer e.q (e.srcS b).toNat pa = s.lineAnswer iss.q (e.srcS b).toNat pa := by rw [h.begun]; rfl
      rw [same]
      cases hk : (s.part iss.q).parked pa with
      | none => simp only [State.lineAnswer_unparked hk, r, hk, mode]; rfl
      | some k => simp only [State.lineAnswer_parked hk, r, hk, mode]; rfl
    rw [answer] at step
    obtain ⟨loaded, wrote⟩ := h.queries nofun putS_isReg hrouted
    exact ⟨_, step, loaded, wrote⟩
  case unpark =>
    intro s iss c pa f h e hon ha hrouted hhome
    have on' : ((s.begun iss c).part e.q).csr.rsEn = true := by rw [h.begun]; exact hon
    have step := h.exec_eq (i := .unpark a) (fun _ => rfl) (State.unparkWord_dev on' ha)
    cases hk : (s.part iss.q).dir.find? (fun k => k.line == pa / 128) with
    | none =>
      obtain ⟨loaded, dir, wrote⟩ := h.unparks nofun hrouted hhome (bs := []) fun t pay same => by
        rw [State.unpark_of_missing (by rw [same]; exact hk)]
        exact Wrote.nil_of (.refl _) fun _ => rfl
      exact ⟨_, step, loaded, dir, wrote⟩
    | some k =>
      obtain ⟨loaded, dir, wrote⟩ := h.unparks nofun hrouted hhome (bs := devBytes (pa / 128 * 128) k.data) fun t pay same => Wrote.unpark (by rw [same]; exact hk) pay
      exact ⟨_, step, loaded, dir, wrote⟩
  case cache =>
    intro s iss c op i hop h e hs
    obtain ⟨hi, hx⟩ := cacheWord_exec hop
    obtain ⟨loaded, wrote, dir, dropped⟩ := h.caches hi hs
    refine ⟨_, h.exec_eq hx rfl, loaded, wrote, dir, fun hcinv l hl x pa hacc hloc hp => dropped hcinv x ?_ pa hloc hp⟩
    subst hcinv
    exact List.mem_filterMap.2 ⟨_, List.mem_map.2 ⟨l, hl, rfl⟩, hacc⟩
  case commits =>
    refine ⟨?_, ?_, ?_, ?_, ?_, ?_, ?_, ?define, ?priv, ?_, ?_, ?_, ?_, ?_, ?_, ?_, ?_, ?_, ?_, ?_, ?_, ?_, ?_, ?_, ?_, ?_, ?_, ?_, ?_, ?_, ?_⟩
    case define => exact Commits.of (fun _ => rfl) fun s e h => State.rsdef_allowed fun hi => h.resolve_left (by simp [hi])
    case priv => exact Faults.of (fun _ => rfl) (fun s e h => by rw [State.rsdef_priv h]; exact ⟨rfl, rfl, rfl⟩) fun s e => ⟨rfl, Cause.noConfusion⟩
    all_goals exact Commits.of (fun _ => rfl) fun _ _ _ => rfl

end Sys2Proof.Machine
end

section
/-! SUPPORT. Values rounded to whole numbers (R62, R64): the decision of each mode, and the model's rounding of a quotient. -/

namespace Sys2Proof.Machine

/-! ### A value between two whole numbers -/

/-- An integer rounds to itself. -/
theorem rounded_intCast (rm draw : Nat) (z : Int) : rounded rm draw (z : Rat) = z := by
  unfold rounded
  split
  · unfold roundSR
    have whole : |(z : Rat)| = ((|z| : Int) : Rat) := by push_cast; rfl
    rw [whole, Int.floor_intCast, sub_self, zero_mul, Int.floor_zero]
    simp only [Int.toNat_zero, Nat.not_lt_zero, if_false, add_zero, Int.cast_lt_zero]
    split
    · rw [abs_of_neg ‹_›, neg_neg]
    · exact abs_of_nonneg (not_lt.1 ‹_›)
  · have half : ⌊(z : Rat) + 1 / 2⌋ = z := by
      rw [Int.floor_eq_iff]; constructor <;> linarith
    have half' : ⌊-(z : Rat) + 1 / 2⌋ = -z := by
      rw [Int.floor_eq_iff]; push_cast; constructor <;> linarith
    unfold roundTo
    split
    · simp
    · simp
    · simp
    · simp only [half, half', neg_neg, ite_self]
    · simp only [Int.floor_intCast, sub_self, half]
      norm_num

/-- Whether a magnitude with fraction `f` above an integer of parity `odd` goes up to the next under a mode (R62, R64). -/
def goesUp (rm : Nat) (neg odd : Bool) (f : Rat) (draw : Nat) : Bool :=
  match rm with
  | 1 => false
  | 2 => !neg
  | 3 => neg
  | 4 => decide (1 / 2 ≤ f)
  | 5 => decide (draw < ⌊f * 2 ^ 24⌋.toNat)
  | _ => decide (1 / 2 < f) || (decide (f = 1 / 2) && odd)

theorem goesUp_nearest {rm : Nat} (h : rm ≠ 1 ∧ rm ≠ 2 ∧ rm ≠ 3 ∧ rm ≠ 4 ∧ rm ≠ 5) (neg odd : Bool) (f : Rat) (draw : Nat) :
    goesUp rm neg odd f draw = (decide (1 / 2 < f) || (decide (f = 1 / 2) && odd)) := by
  obtain ⟨h1, h2, h3, h4, h5⟩ := h
  unfold goesUp
  split
  case h_6 => rfl
  all_goals contradiction

section between

variable {k : Nat} {f : Rat} (h0 : 0 < f) (h1 : f < 1)
include h0 h1

theorem floor_between : ⌊(k : Rat) + f⌋ = k := by
  rw [Int.floor_eq_iff]
  push_cast
  constructor <;> linarith

theorem floor_neg_between : ⌊-((k : Rat) + f)⌋ = -(k : Int) - 1 := by
  rw [Int.floor_eq_iff]
  push_cast
  constructor <;> linarith

theorem floor_half_between : ⌊(k : Rat) + f + 1 / 2⌋ = if 1 / 2 ≤ f then (k : Int) + 1 else k := by
  rw [Int.floor_eq_iff]
  split <;> push_cast <;> constructor <;> linarith

theorem floor_neg_half_between : ⌊-((k : Rat) + f) + 1 / 2⌋ = if 1 / 2 < f then -(k : Int) - 1 else -k := by
  rw [Int.floor_eq_iff]
  split <;> push_cast <;> constructor <;> linarith

theorem ceil_between : ⌈(k : Rat) + f⌉ = k + 1 := by
  have below := floor_neg_between (k := k) h0 h1
  rw [Int.floor_neg] at below
  omega

theorem roundSR_between (draw : Nat) (neg odd : Bool) :
    roundSR draw ((if neg then -1 else 1) * ((k : Rat) + f)) = sgn neg (k + b2n (goesUp 5 neg odd f draw)) := by
  have pos : 0 < (k : Rat) + f := by positivity
  have frac : (k : Rat) + f - ((k : Int) : Rat) = f := by push_cast; ring
  have size : |(if neg then -1 else 1) * ((k : Rat) + f)| = k + f := by
    rw [abs_mul, abs_of_pos pos]
    cases neg <;> norm_num
  have sign : (if neg then -1 else 1) * ((k : Rat) + f) < 0 ↔ neg = true := by
    cases neg
    · simp [pos.le]
    · simp only [if_true, iff_true]; linarith
  unfold roundSR
  simp only [size, sign, floor_between h0 h1, frac, sgn, goesUp, b2n, decide_eq_true_eq, Nat.cast_add, Nat.cast_ite, Nat.cast_one, Nat.cast_zero]

theorem roundTo_between {rm : Nat} (hrm : rm ≠ 5) (draw : Nat) : roundTo rm ((k : Rat) + f) = k + b2n (goesUp rm false (k % 2 == 1) f draw) := by
  have pos : ¬ (k : Rat) + f < 0 := by linarith [Nat.cast_nonneg (α := Rat) k]
  have frac : (k : Rat) + f - ((k : Int) : Rat) = f := by push_cast; ring
  unfold roundTo
  simp only [if_neg pos, ceil_between h0 h1, floor_between h0 h1, floor_half_between h0 h1, frac]
  split
  · rfl
  · rfl
  · rfl
  · by_cases h : 1 / 2 ≤ f <;> simp only [goesUp, h, if_true, if_false, decide_true, decide_false] <;> rfl
  · rename_i h1 h2 h3 h4
    rw [goesUp_nearest ⟨h1, h2, h3, h4, hrm⟩]
    have even : ((k : Int) % 2 = 0) ↔ ¬ (k % 2 == 1) = true := by simp; omega
    rcases lt_trichotomy f (1 / 2) with h | h | h
    · simp only [h.ne, h.not_ge, h.not_gt, if_false, decide_false, Bool.false_or, Bool.false_and]
      rfl
    · simp only [h, if_true, even, le_refl, lt_irrefl, decide_false, decide_true, Bool.false_or, Bool.true_and]
      cases k % 2 == 1 <;> rfl
    · simp only [h.ne', h.le, h, if_true, if_false, decide_true, Bool.true_or]
      rfl

theorem roundTo_neg_between {rm : Nat} (hrm : rm ≠ 5) (draw : Nat) : roundTo rm (-((k : Rat) + f)) = -(k + b2n (goesUp rm true (k % 2 == 1) f draw) : Int) := by
  have neg : -((k : Rat) + f) < 0 := by linarith [Nat.cast_nonneg (α := Rat) k]
  have frac : -((k : Rat) + f) - ((-(k : Int) - 1 : Int) : Rat) = 1 - f := by push_cast; ring
  unfold roundTo
  simp only [if_pos neg, Int.ceil_neg, floor_between h0 h1, floor_neg_between h0 h1, floor_neg_half_between h0 h1, neg_neg, floor_half_between h0 h1, frac]
  split
  · rfl
  · rfl
  · simp only [goesUp, b2n, if_true]; omega
  · by_cases h : 1 / 2 ≤ f <;> simp only [goesUp, h, if_true, if_false, decide_true, decide_false] <;> rfl
  · rename_i h1 h2 h3 h4
    rw [goesUp_nearest ⟨h1, h2, h3, h4, hrm⟩]
    have even : ((-(k : Int) - 1) % 2 = 0) ↔ (k % 2 == 1) = true := by simp; omega
    have middle : 1 - f = 1 / 2 ↔ f = 1 / 2 := by constructor <;> intro e <;> linarith
    rcases lt_trichotomy f (1 / 2) with h | h | h
    · simp only [middle, h.ne, h.not_gt, if_false, decide_false, Bool.false_or, Bool.false_and]
      rfl
    · rw [if_pos (middle.2 h), h]
      simp only [even, lt_irrefl, decide_false, decide_true, Bool.false_or, Bool.true_and]
      cases k % 2 == 1 <;> simp only [b2n, Bool.false_eq_true, if_true, if_false] <;> omega
    · simp only [middle, h.ne', h, if_true, if_false, decide_true, Bool.true_or, b2n]
      omega

/-- A value between two integers rounds to the one or the other. -/
theorem rounded_between (rm draw : Nat) (neg : Bool) :
    rounded rm draw ((if neg then -1 else 1) * ((k : Rat) + f)) = sgn neg (k + b2n (goesUp rm neg (k % 2 == 1) f draw)) := by
  unfold rounded
  split
  case isTrue sr => rw [sr]; exact roundSR_between h0 h1 draw neg _
  case isFalse sr =>
    cases neg
    · rw [if_neg Bool.false_ne_true, one_mul, roundTo_between h0 h1 sr draw]
      rfl
    · rw [if_pos rfl, neg_one_mul, roundTo_neg_between h0 h1 sr draw]
      rfl

end between

/-- The modes' decision on a quotient is that on its fraction. -/
theorem roundsUp_eq (rm : Nat) (neg : Bool) (m s draw : Nat) :
    roundsUp rm neg m s draw = goesUp rm neg (m / 2 ^ s % 2 == 1) (((m % 2 ^ s : Nat) : Rat) / ((2 ^ s : Nat) : Rat)) draw := by
  have pos : (0 : Rat) < ((2 ^ s : Nat) : Rat) := by positivity
  generalize hd : 2 ^ s = d at *
  have low : (1 : Rat) / 2 < ((m % d : Nat) : Rat) / (d : Rat) ↔ d < 2 * (m % d) := by
    rw [div_lt_div_iff₀ two_pos pos, ← Nat.cast_lt (α := Rat)]; push_cast; rw [one_mul, mul_comm]
  have at_ : (1 : Rat) / 2 ≤ ((m % d : Nat) : Rat) / (d : Rat) ↔ d ≤ 2 * (m % d) := by
    rw [div_le_div_iff₀ two_pos pos, ← Nat.cast_le (α := Rat)]; push_cast; rw [one_mul, mul_comm]
  have half : ((m % d : Nat) : Rat) / (d : Rat) = 1 / 2 ↔ 2 * (m % d) = d := by
    rw [div_eq_div_iff pos.ne' two_ne_zero, ← Nat.cast_inj (R := Rat)]; push_cast; rw [one_mul, mul_comm]
  have draws : ⌊((m % d : Nat) : Rat) / (d : Rat) * 2 ^ 24⌋.toNat = m % d * 2 ^ 24 / d := by
    have : ((m % d : Nat) : Rat) / (d : Rat) * 2 ^ 24 = ((m % d * 2 ^ 24 : Nat) : Rat) / (d : Rat) := by push_cast; ring
    rw [this, Int.floor_toNat, Nat.floor_div_eq_div]
  unfold roundsUp goesUp
  simp only [hd, low, at_, half, draws] <;> rfl

/-- A significand over a power of two, by quotient and remainder. -/
theorem quotient_eq (m s : Nat) : (m : Rat) * (2 : Rat) ^ (-(s : Int)) = ((m / 2 ^ s : Nat) : Rat) + ((m % 2 ^ s : Nat) : Rat) / ((2 ^ s : Nat) : Rat) := by
  have pos : ((2 ^ s : Nat) : Rat) ≠ 0 := by positivity
  rw [zpow_neg, zpow_natCast, ← div_eq_mul_inv]
  conv_lhs => rw [← Nat.div_add_mod m (2 ^ s)]
  push_cast at pos ⊢
  field_simp

/-! ### Rounding to a multiple of a power of two -/

theorem sgn_cast (neg : Bool) (m : Nat) : ((sgn neg m : Int) : Rat) = (if neg then -1 else 1) * (m : Rat) := by
  cases neg <;> simp [sgn]

theorem roundQ_of_le {q e : Int} (h : q ≤ e) (rm : Nat) (neg : Bool) (m draw : Nat) : roundQ rm neg m e q draw = (m * 2 ^ (e - q).toNat, true) := if_pos h

theorem roundQ_of_lt {q e : Int} {s : Nat} (h : q - e = s) (hs : 0 < s) (rm : Nat) (neg : Bool) (m draw : Nat) :
    roundQ rm neg m e q draw = if m % 2 ^ s = 0 then (m / 2 ^ s, true) else (m / 2 ^ s + b2n (roundsUp rm neg m s draw), false) := by
  unfold roundQ
  rw [if_neg (by omega), h]
  rfl

/-- A quotient is a whole number, which the rounding gives, or it stands between two of them, one of which the rounding takes as its mode says. -/
theorem roundQ_cases (rm : Nat) (neg : Bool) (m : Nat) (e q : Int) (draw : Nat) :
    (∃ n : Nat, (m : Rat) * (2 : Rat) ^ (e - q) = n ∧ roundQ rm neg m e q draw = (n, true)) ∨
      ∃ (k : Nat) (f : Rat), 0 < f ∧ f < 1 ∧ (m : Rat) * (2 : Rat) ^ (e - q) = k + f ∧ roundQ rm neg m e q draw = (k + b2n (goesUp rm neg (k % 2 == 1) f draw), false) := by
  rcases le_or_gt q e with h | h
  · refine .inl ⟨m * 2 ^ (e - q).toNat, ?_, roundQ_of_le h ..⟩
    conv_lhs => rw [← Int.toNat_of_nonneg (sub_nonneg.2 h)]
    push_cast
    rfl
  · obtain ⟨s, hs⟩ := Int.eq_ofNat_of_zero_le (sub_nonneg.2 h.le)
    have exponent : e - q = -(s : Int) := by omega
    rw [roundQ_of_lt hs (by omega), exponent, quotient_eq]
    by_cases none : m % 2 ^ s = 0
    · exact .inl ⟨m / 2 ^ s, by rw [none, Nat.cast_zero, zero_div, add_zero], if_pos none⟩
    · have pos : (0 : Rat) < ((2 ^ s : Nat) : Rat) := by positivity
      refine .inr ⟨m / 2 ^ s, _, div_pos (Nat.cast_pos.2 (Nat.pos_of_ne_zero none)) pos, (div_lt_one pos).2 (Nat.cast_lt.2 (Nat.mod_lt _ (by positivity))), rfl, ?_⟩
      rw [if_neg none, roundsUp_eq]

/-- A quotient rounds as its mode says, and is exact where nothing is lost. -/
theorem roundQ_spec (rm : Nat) (neg : Bool) (m : Nat) (e q : Int) (draw : Nat) :
    sgn neg (roundQ rm neg m e q draw).1 = rounded rm draw ((if neg then -1 else 1) * ((m : Rat) * (2 : Rat) ^ (e - q))) ∧
      ((roundQ rm neg m e q draw).2 = true ↔ ((roundQ rm neg m e q draw).1 : Rat) = (m : Rat) * (2 : Rat) ^ (e - q)) := by
  rcases roundQ_cases rm neg m e q draw with ⟨n, value, r⟩ | ⟨k, f, above, below, value, r⟩
  · rw [r, value, ← sgn_cast, rounded_intCast]
    exact ⟨rfl, iff_of_true rfl rfl⟩
  · rw [r, value, rounded_between above below]
    refine ⟨rfl, iff_of_false Bool.false_ne_true fun same => ?_⟩
    rw [Nat.cast_add, add_right_inj] at same
    rw [← same] at above below
    have := Nat.cast_pos.1 above
    have := Nat.cast_lt_one.1 below
    omega

/-- The rounded multiple stands within one of the quotient. -/
theorem roundQ_near (rm : Nat) (neg : Bool) (m : Nat) (e q : Int) (draw : Nat) :
    |((roundQ rm neg m e q draw).1 : Rat) - (m : Rat) * (2 : Rat) ^ (e - q)| < 1 := by
  rcases roundQ_cases rm neg m e q draw with ⟨n, value, r⟩ | ⟨k, f, above, below, value, r⟩
  · rw [r, value, sub_self, abs_zero]
    exact one_pos
  · rw [r, value, Nat.cast_add, add_sub_add_left_eq_sub, abs_lt]
    cases goesUp rm neg (k % 2 == 1) f draw <;> simp only [b2n, Bool.false_eq_true, if_true, if_false, Nat.cast_one, Nat.cast_zero] <;> constructor <;> linarith

/-- Rounding passes no integer. -/
theorem le_roundQ {rm : Nat} {neg : Bool} {m : Nat} {e q : Int} {draw n : Nat} (h : (n : Rat) ≤ (m : Rat) * (2 : Rat) ^ (e - q)) : n ≤ (roundQ rm neg m e q draw).1 := by
  have near := (abs_lt.1 (roundQ_near rm neg m e q draw)).1
  have : (n : Rat) < ((roundQ rm neg m e q draw).1 + 1 : Nat) := by push_cast; linarith
  exact Nat.lt_succ_iff.1 (Nat.cast_lt.1 this)

theorem roundQ_le {rm : Nat} {neg : Bool} {m : Nat} {e q : Int} {draw n : Nat} (h : (m : Rat) * (2 : Rat) ^ (e - q) ≤ n) : (roundQ rm neg m e q draw).1 ≤ n := by
  have near := (abs_lt.1 (roundQ_near rm neg m e q draw)).2
  have : ((roundQ rm neg m e q draw).1 : Rat) < (n + 1 : Nat) := by push_cast; linarith
  exact Nat.lt_succ_iff.1 (Nat.cast_lt.1 this)

/-- An exact quotient draws nothing. -/
theorem roundQ_of_eq {rm : Nat} {neg : Bool} {m n : Nat} {e q : Int} {draw : Nat} (h : (m : Rat) * (2 : Rat) ^ (e - q) = n) : roundQ rm neg m e q draw = (n, true) := by
  have same : (roundQ rm neg m e q draw).1 = n := le_antisymm (roundQ_le h.le) (le_roundQ h.ge)
  exact Prod.ext same ((roundQ_spec rm neg m e q draw).2.2 (by rw [same, h]))

end Sys2Proof.Machine
end

section
/-! SUPPORT. The codes of a format (R56-R58). -/

namespace Sys2Proof.Machine

/-- A format with a mantissa and at least two exponent bits; one with infinities has NaNs. -/
structure Fmt.Sound (f : Fmt) : Prop where
  mantissa : 1 ≤ f.m
  exponent : 2 ≤ f.e
  nans : f.inf = true → f.nan = true

theorem fmtOf_sound (k : Nat) : (fmtOf k).Sound := by
  unfold fmtOf
  split <;> exact ⟨by decide, by decide, by decide⟩

/-- A significand and an exponent that a finite code holds: normal, or subnormal at the lowest exponent, and not above the largest finite value. -/
structure Fmt.Holds (f : Fmt) (n : Nat) (q : Int) : Prop where
  width : n < 2 ^ (f.m + 1)
  normal : q = f.emin - f.m ∨ 2 ^ f.m ≤ n
  low : f.emin - f.m ≤ q
  high : q ≤ f.maxExp
  top : q = f.maxExp → n ≤ f.maxSig

/-- The code without its sign of a significand and an exponent. -/
def Fmt.place (f : Fmt) (n : Nat) (q : Int) : Nat := if n < 2 ^ f.m then n else (q + f.m + f.bias).toNat * 2 ^ f.m + (n - 2 ^ f.m)

/-- Whether an exponent field and a mantissa are those of a finite code. -/
def Fmt.finite (f : Fmt) (E F : Nat) : Prop := E < 2 ^ f.e ∧ F < 2 ^ f.m ∧ (f.inf = true → E ≠ 2 ^ f.e - 1) ∧ (f.inf = false → f.nan = true → E = 2 ^ f.e - 1 → F ≠ 2 ^ f.m - 1)

section fields

variable {f : Fmt} {E F : Nat} (hE : E < 2 ^ f.e) (hF : F < 2 ^ f.m) (neg : Bool)
include hE hF

theorem Fmt.fields_lt : E * 2 ^ f.m + F < 2 ^ (f.w - 1) := by
  have width : f.w - 1 = f.e + f.m := by unfold Fmt.w; omega
  rw [width, Nat.pow_add]
  calc E * 2 ^ f.m + F < (E + 1) * 2 ^ f.m := by rw [Nat.add_mul, Nat.one_mul]; omega
    _ ≤ 2 ^ f.e * 2 ^ f.m := Nat.mul_le_mul_right _ hE

theorem Fmt.signed_sign : bitN (f.signed neg (E * 2 ^ f.m + F)) (f.w - 1) = neg := by
  unfold bitN Fmt.signed
  rw [Nat.add_mul_div_right _ _ (by positivity), Nat.div_eq_of_lt (Fmt.fields_lt hE hF)]
  cases neg <;> rfl

omit hE in
theorem Fmt.signed_mantissa : f.signed neg (E * 2 ^ f.m + F) % 2 ^ f.m = F := by
  have width : f.w - 1 = f.e + f.m := by unfold Fmt.w; omega
  unfold Fmt.signed
  rw [width, Nat.pow_add, ← Nat.mul_assoc, Nat.add_mul_mod_self_right, Nat.add_comm, Nat.add_mul_mod_self_right, Nat.mod_eq_of_lt hF]

theorem Fmt.signed_exponent (he : 2 ≤ f.e) : bits (f.signed neg (E * 2 ^ f.m + F)) (f.w - 2) f.m = E := by
  have width : f.w - 1 = f.e + f.m := by unfold Fmt.w; omega
  have range : f.w - 2 + 1 - f.m = f.e := by unfold Fmt.w; omega
  have split_ : f.signed neg (E * 2 ^ f.m + F) = F + (E + b2n neg * 2 ^ f.e) * 2 ^ f.m := by
    unfold Fmt.signed
    rw [width, Nat.pow_add]
    ring
  unfold bits
  rw [range, split_, Nat.add_mul_div_right _ _ (by positivity), Nat.div_eq_of_lt hF, Nat.zero_add, Nat.add_mul_mod_self_right, Nat.mod_eq_of_lt hE]

/-- A code by its fields. -/
theorem Fmt.decode_fields (he : 2 ≤ f.e) : f.decode (f.signed neg (E * 2 ^ f.m + F)) =
    if f.inf = true ∧ E = 2 ^ f.e - 1 then (if F = 0 then .inf neg else .nan (decide (F < 2 ^ (f.m - 1))))
    else if f.inf = false ∧ f.nan = true ∧ E = 2 ^ f.e - 1 ∧ F = 2 ^ f.m - 1 then .nan false
    else if E = 0 then .fin neg F (f.emin - f.m)
    else .fin neg (2 ^ f.m + F) ((E : Int) - f.bias - f.m) := by
  unfold Fmt.decode
  simp only [Fmt.signed_sign hE hF, Fmt.signed_mantissa hF, Fmt.signed_exponent hE hF neg he, Bool.not_eq_true']

end fields

/-- Every code is a sign over two fields. -/
theorem Fmt.code_fields (f : Fmt) {code : Nat} (h : code < 2 ^ f.w) : ∃ neg E F, E < 2 ^ f.e ∧ F < 2 ^ f.m ∧ code = f.signed neg (E * 2 ^ f.m + F) := by
  have width : f.w = 1 + (f.e + f.m) := by unfold Fmt.w; omega
  have low : code % 2 ^ (f.e + f.m) < 2 ^ f.e * 2 ^ f.m := by rw [← Nat.pow_add]; exact Nat.mod_lt _ (by positivity)
  refine ⟨decide (code / 2 ^ (f.e + f.m) = 1), code % 2 ^ (f.e + f.m) / 2 ^ f.m, code % 2 ^ (f.e + f.m) % 2 ^ f.m, Nat.div_lt_of_lt_mul (by rwa [Nat.mul_comm]),
    Nat.mod_lt _ (by positivity), ?_⟩
  have sign : code / 2 ^ (f.e + f.m) < 2 := Nat.div_lt_of_lt_mul (by rwa [width, Nat.add_comm, Nat.pow_succ] at h)
  have top : b2n (decide (code / 2 ^ (f.e + f.m) = 1)) = code / 2 ^ (f.e + f.m) := by
    rcases Nat.lt_succ_iff_lt_or_eq.1 sign with e | e
    · rw [Nat.lt_one_iff.1 e]; rfl
    · rw [e]; rfl
  unfold Fmt.signed
  rw [top, show f.w - 1 = f.e + f.m by omega, Nat.mul_comm _ (2 ^ f.m), Nat.div_add_mod, Nat.mul_comm, Nat.add_comm, Nat.div_add_mod]

theorem Fmt.maxExp_eq (f : Fmt) : f.maxExp = ((2 ^ f.e - (if f.inf then 2 else 1) : Int)) - f.bias - f.m := by
  unfold Fmt.maxExp
  push_cast
  split <;> rfl

theorem Fmt.maxSig_reserved (f : Fmt) (h : f.inf = false ∧ f.nan = true) : f.maxSig = 2 ^ (f.m + 1) - 2 := if_pos (by simp [h])
theorem Fmt.maxSig_whole (f : Fmt) (h : ¬ (f.inf = false ∧ f.nan = true)) : f.maxSig = 2 ^ (f.m + 1) - 1 := if_neg (by simpa [and_comm] using h)

theorem Fmt.maxSig_ge (f : Fmt) : 2 ^ (f.m + 1) - 2 ≤ f.maxSig := by
  by_cases h : f.inf = false ∧ f.nan = true
  · exact (f.maxSig_reserved h).ge
  · rw [f.maxSig_whole h]; omega

/-- What a finite code holds, and its fields. -/
theorem Fmt.holds_place {f : Fmt} (hf : f.Sound) {n : Nat} {q : Int} (h : f.Holds n q) :
    ∃ E F, f.finite E F ∧ f.place n q = E * 2 ^ f.m + F ∧ (if E = 0 then (F, f.emin - f.m) else (2 ^ f.m + F, (E : Int) - f.bias - f.m)) = (n, q) := by
  obtain ⟨width, normal, low, high, top⟩ := h
  obtain ⟨hm, he, -⟩ := hf
  have four : 4 ≤ 2 ^ f.e := Nat.pow_le_pow_right (n := 2) (by decide) he
  have double : 2 ^ (f.m + 1) = 2 * 2 ^ f.m := by rw [Nat.pow_succ, Nat.mul_comm]
  have sub : (2 ^ f.e : Int) = ((2 ^ f.e : Nat) : Int) := by push_cast; rfl
  unfold Fmt.emin at normal low
  rw [Fmt.maxExp_eq, sub] at high top
  unfold Fmt.place
  by_cases small : n < 2 ^ f.m
  · rw [if_pos small]
    refine ⟨0, n, ⟨by omega, small, by omega, by omega⟩, by omega, ?_⟩
    rw [if_pos rfl]
    unfold Fmt.emin
    exact Prod.ext rfl (normal.resolve_right (by omega)).symm
  · rw [if_neg small]
    refine ⟨(q + f.m + f.bias).toNat, n - 2 ^ f.m, ⟨?_, by omega, fun hi => ?_, fun hi hn hE => ?_⟩, rfl, ?_⟩
    · split at high <;> omega
    · rw [if_pos hi] at high
      omega
    · rw [hi, if_neg Bool.false_ne_true] at high top
      have := top (by omega)
      rw [f.maxSig_reserved ⟨hi, hn⟩] at this
      omega
    · rw [if_neg (by omega)]
      exact Prod.ext (by dsimp only; omega) (by dsimp only; omega)

theorem Fmt.decode_finite {f : Fmt} (he : 2 ≤ f.e) {E F : Nat} (h : f.finite E F) (neg : Bool) : f.decode (f.signed neg (E * 2 ^ f.m + F)) =
    .fin neg (if E = 0 then (F, f.emin - f.m) else (2 ^ f.m + F, (E : Int) - f.bias - f.m)).1 (if E = 0 then (F, f.emin - f.m) else (2 ^ f.m + F, (E : Int) - f.bias - f.m)).2 := by
  obtain ⟨hE, hF, hi, hn⟩ := h
  rw [Fmt.decode_fields hE hF neg he, if_neg (fun k => hi k.1 k.2), if_neg (fun ⟨k, l, m, n⟩ => hn k l m n)]
  split <;> rfl

/-- A code reads as what it holds. -/
theorem Fmt.decode_place {f : Fmt} (hf : f.Sound) {n : Nat} {q : Int} (h : f.Holds n q) (neg : Bool) : f.decode (f.signed neg (f.place n q)) = .fin neg n q := by
  obtain ⟨E, F, finite, place, value⟩ := Fmt.holds_place hf h
  rw [place, Fmt.decode_finite hf.exponent finite, value]

/-- A code that reads as a finite value is the code of what it holds. -/
theorem Fmt.place_decode {f : Fmt} (hf : f.Sound) {code n : Nat} {q : Int} {neg : Bool} (hc : code < 2 ^ f.w) (h : f.decode code = .fin neg n q) :
    f.Holds n q ∧ code = f.signed neg (f.place n q) := by
  obtain ⟨s, E, F, hE, hF, rfl⟩ := f.code_fields hc
  obtain ⟨hm, he, -⟩ := hf
  have four : 4 ≤ 2 ^ f.e := Nat.pow_le_pow_right (n := 2) (by decide) he
  have double : 2 ^ (f.m + 1) = 2 * 2 ^ f.m := by rw [Nat.pow_succ, Nat.mul_comm]
  have two : 2 ≤ 2 ^ f.m := Nat.pow_le_pow_right (n := 2) (i := 1) (by decide) hm
  have sub : (2 ^ f.e : Int) = ((2 ^ f.e : Nat) : Int) := by push_cast; rfl
  have most := Fmt.maxExp_eq f
  rw [sub] at most
  rw [Fmt.decode_fields hE hF s he] at h
  split at h
  case isTrue => split at h <;> cases h
  case isFalse noInf =>
    split at h
    case isTrue => cases h
    case isFalse noNan =>
      split at h
      case isTrue zero =>
        cases h
        refine ⟨⟨by omega, .inl rfl, le_rfl, ?_, fun _ => ?_⟩, ?_⟩
        · unfold Fmt.emin
          split at most <;> omega
        · exact (Nat.le_sub_of_add_le (by omega)).trans f.maxSig_ge
        · unfold Fmt.place
          rw [if_pos hF, zero, Nat.zero_mul, Nat.zero_add]
      case isFalse positive =>
        cases h
        refine ⟨⟨by omega, .inr (by omega), ?_, ?_, fun top => ?_⟩, ?_⟩
        · unfold Fmt.emin
          omega
        · have : f.inf = true → E ≠ 2 ^ f.e - 1 := fun k e => noInf ⟨k, e⟩
          split at most
          case isTrue k => have := this k; omega
          case isFalse => omega
        · by_cases reserved : f.inf = false ∧ f.nan = true
          · rw [f.maxSig_reserved reserved]
            rw [reserved.1, if_neg Bool.false_ne_true] at most
            have : F ≠ 2 ^ f.m - 1 := fun e => noNan ⟨reserved.1, reserved.2, by omega, e⟩
            omega
          · rw [f.maxSig_whole reserved]
            omega
        · unfold Fmt.place
          rw [if_neg (by omega), show ((E : Int) - f.bias - f.m + f.m + f.bias).toNat = E by omega, Nat.add_sub_cancel_left]

end Sys2Proof.Machine
end

section
/-! SUPPORT. Finite values rounded into a format (R61-R63). -/

namespace Sys2Proof.Machine

/-- The largest finite value of a format. -/
def Fmt.most (f : Fmt) : Rat := (f.maxSig : Rat) * (2 : Rat) ^ f.maxExp

theorem Fmt.maxSig_lt (f : Fmt) : f.maxSig < 2 ^ (f.m + 1) := by
  have := Nat.pow_pos (n := f.m + 1) (show 0 < 2 by decide)
  unfold Fmt.maxSig
  split <;> omega

/-- A significand times a power of two, at another power. -/
theorem shift_zpow (n : Nat) {q p : Int} (h : p ≤ q) : (n : Rat) * (2 : Rat) ^ q = ((n * 2 ^ (q - p).toNat : Nat) : Rat) * (2 : Rat) ^ p := by
  have whole : ((q - p).toNat : Int) = q - p := Int.toNat_of_nonneg (sub_nonneg.2 h)
  push_cast
  rw [mul_assoc, ← zpow_natCast (2 : Rat), whole, ← zpow_add₀ two_ne_zero, sub_add_cancel]

theorem two_zpow_pos (q : Int) : (0 : Rat) < (2 : Rat) ^ q := zpow_pos two_pos q

/-- The overflow test compares the rounded value with the largest finite one. -/
theorem Fmt.overflows_iff {f : Fmt} (hf : f.Sound) {n : Nat} (hn : n ≤ 2 ^ (f.m + 1)) (q : Int) :
    (f.maxExp ≤ q ∧ f.maxSig < n * 2 ^ (q - f.maxExp).toNat) ↔ f.most < (n : Rat) * (2 : Rat) ^ q := by
  rcases le_or_gt f.maxExp q with h | h
  · rw [shift_zpow n h, Fmt.most, mul_lt_mul_iff_left₀ (two_zpow_pos _), Nat.cast_lt]
    exact and_iff_right h
  · refine iff_of_false (fun k => absurd k.1 (not_le.2 h)) (not_lt.2 ?_)
    have two : 2 ≤ 2 ^ f.m := Nat.pow_le_pow_right (n := 2) (i := 1) (by decide) hf.mantissa
    have big := f.maxSig_ge
    have most : n ≤ f.maxSig * 2 ^ (f.maxExp - q).toNat := by
      have : 2 ≤ 2 ^ (f.maxExp - q).toNat := Nat.pow_le_pow_right (n := 2) (i := 1) (by decide) (by omega)
      calc n ≤ f.maxSig * 2 := by rw [Nat.pow_succ] at hn big; omega
        _ ≤ _ := Nat.mul_le_mul_left _ this
    rw [Fmt.most, shift_zpow _ h.le]
    exact mul_le_mul_of_nonneg_right (Nat.cast_le.2 most) (two_zpow_pos _).le

theorem Fmt.emin_le_maxExp {f : Fmt} (hf : f.Sound) : f.emin - f.m ≤ f.maxExp := by
  have four : 4 ≤ 2 ^ f.e := Nat.pow_le_pow_right (n := 2) (by decide) hf.exponent
  have sub : (2 ^ f.e : Int) = ((2 ^ f.e : Nat) : Int) := by push_cast; rfl
  rw [Fmt.maxExp_eq, sub]
  unfold Fmt.emin
  split <;> omega

/-- A value that the format's widths hold and that is not above its largest. -/
theorem Fmt.Holds.of_le {f : Fmt} (hf : f.Sound) {n : Nat} {q : Int} (width : n < 2 ^ (f.m + 1)) (normal : q = f.emin - f.m ∨ 2 ^ f.m ≤ n) (low : f.emin - f.m ≤ q)
    (most : (n : Rat) * (2 : Rat) ^ q ≤ f.most) : f.Holds n q := by
  refine ⟨width, normal, low, ?_, ?_⟩
  · rcases normal with rfl | normal
    · exact Fmt.emin_le_maxExp hf
    · by_contra above
      rw [Fmt.most, shift_zpow n (not_le.1 above).le, mul_le_mul_iff_left₀ (two_zpow_pos _), Nat.cast_le] at most
      have double : 2 ≤ 2 ^ (q - f.maxExp).toNat := Nat.pow_le_pow_right (n := 2) (i := 1) (by decide) (by omega)
      have := Nat.mul_le_mul normal double
      have := f.maxSig_lt
      rw [Nat.pow_succ] at this
      omega
  · rintro rfl
    rw [Fmt.most, mul_le_mul_iff_left₀ (two_zpow_pos _), Nat.cast_le] at most
    exact most

/-- What a format holds is not above its largest value. -/
theorem Fmt.Holds.le_most {f : Fmt} (hf : f.Sound) {n : Nat} {q : Int} (h : f.Holds n q) : (n : Rat) * (2 : Rat) ^ q ≤ f.most := by
  have small : n ≤ f.maxSig * 2 ^ (f.maxExp - q).toNat := by
    rcases h.high.lt_or_eq with lower | top
    · have double : 2 ≤ 2 ^ (f.maxExp - q).toNat := Nat.pow_le_pow_right (n := 2) (i := 1) (by decide) (by omega)
      have := Nat.mul_le_mul_left f.maxSig double
      have := f.maxSig_ge
      have := h.width
      have two : 2 ≤ 2 ^ f.m := Nat.pow_le_pow_right (n := 2) (i := 1) (by decide) hf.mantissa
      rw [Nat.pow_succ] at *
      omega
    · rw [top, sub_self]
      simpa using h.top top
  rw [Fmt.most, shift_zpow _ h.high]
  exact mul_le_mul_of_nonneg_right (Nat.cast_le.2 small) (two_zpow_pos _).le

/-- A significand that the rounding has carried to the next power of two, at the next exponent. -/
def Fmt.carried (f : Fmt) (n : Nat) (q : Int) : Nat × Int := if n = 2 ^ (f.m + 1) then (2 ^ f.m, q + 1) else (n, q)

theorem Fmt.carried_value (f : Fmt) (n : Nat) (q : Int) : ((f.carried n q).1 : Rat) * (2 : Rat) ^ (f.carried n q).2 = (n : Rat) * (2 : Rat) ^ q := by
  unfold Fmt.carried
  split
  case isTrue h =>
    rw [h, zpow_add_one₀ two_ne_zero, pow_succ]
    push_cast
    ring
  case isFalse => rfl

theorem Fmt.holds_carried {f : Fmt} (hf : f.Sound) {n : Nat} {q : Int} (width : n ≤ 2 ^ (f.m + 1)) (normal : q = f.emin - f.m ∨ 2 ^ f.m ≤ n) (low : f.emin - f.m ≤ q)
    (most : (n : Rat) * (2 : Rat) ^ q ≤ f.most) : f.Holds (f.carried n q).1 (f.carried n q).2 := by
  rw [← f.carried_value] at most
  have := Nat.pow_pos (n := f.m) (show 0 < 2 by decide)
  revert most
  unfold Fmt.carried
  split
  case isTrue => exact fun most => .of_le hf (by rw [Nat.pow_succ]; omega) (.inr le_rfl) (low.trans (by omega)) most
  case isFalse h => exact fun most => .of_le hf (by omega) normal low most

/-- The binade of a finite value. -/
theorem log2_zpow {m : Nat} (hm : m ≠ 0) (e : Int) : (2 : Rat) ^ ((Nat.log2 m : Int) + e) ≤ (m : Rat) * (2 : Rat) ^ e ∧
    (m : Rat) * (2 : Rat) ^ e < (2 : Rat) ^ ((Nat.log2 m : Int) + e + 1) := by
  have pos := two_zpow_pos e
  have low : ((2 ^ Nat.log2 m : Nat) : Rat) ≤ m := Nat.cast_le.2 (Nat.log2_self_le hm)
  have high : (m : Rat) < ((2 ^ (Nat.log2 m + 1) : Nat) : Rat) := Nat.cast_lt.2 Nat.lt_log2_self
  rw [add_right_comm, zpow_add₀ two_ne_zero, zpow_add₀ two_ne_zero]
  refine ⟨mul_le_mul_of_nonneg_right ?_ pos.le, mul_lt_mul_of_pos_right ?_ pos⟩
  · rw [zpow_natCast]
    exact_mod_cast low
  · rw [← Nat.cast_succ, zpow_natCast]
    exact_mod_cast high

theorem binade_unique {x : Rat} {s t : Int} (hs : (2 : Rat) ^ s ≤ x) (hs' : x < (2 : Rat) ^ (s + 1)) (ht : (2 : Rat) ^ t ≤ x) (ht' : x < (2 : Rat) ^ (t + 1)) : s = t := by
  have a := (zpow_lt_zpow_iff_right₀ (one_lt_two (α := Rat))).1 (hs.trans_lt ht')
  have b := (zpow_lt_zpow_iff_right₀ (one_lt_two (α := Rat))).1 (ht.trans_lt hs')
  omega

/-- The exponent of the last place that a format keeps of a value in the binade of 2^t. -/
def Fmt.unit (f : Fmt) (t : Int) : Int := max t f.emin - f.m

theorem Fmt.unit_eq (f : Fmt) (t : Int) : f.unit t = max (t - f.m) (f.emin - f.m) := (max_sub_sub_right ..).symm

section finite

variable {f : Fmt} {m : Nat} (hm : m ≠ 0) (e : Int)
include hm

/-- A quotient by a unit not below the last place of a normal significand. -/
theorem scaled_le {q : Int} (h : (Nat.log2 m : Int) + e - f.m ≤ q) : (m : Rat) * (2 : Rat) ^ (e - q) ≤ ((2 ^ (f.m + 1) : Nat) : Rat) := by
  refine (log2_zpow hm (e - q)).2.le.trans ?_
  push_cast
  rw [← zpow_natCast (2 : Rat)]
  refine zpow_le_zpow_right₀ one_le_two ?_
  push_cast
  omega

theorem le_scaled {q : Int} (h : q ≤ (Nat.log2 m : Int) + e - f.m) : ((2 ^ f.m : Nat) : Rat) ≤ (m : Rat) * (2 : Rat) ^ (e - q) := by
  refine le_trans ?_ (log2_zpow hm (e - q)).1
  push_cast
  rw [← zpow_natCast (2 : Rat)]
  exact zpow_le_zpow_right₀ one_le_two (by omega)

end finite

/-- A value rounded with a normal significand's width stands below the smallest normal: the test for tininess. -/
theorem Fmt.tiny_iff {f : Fmt} {u : Nat} (hu : 2 ^ f.m ≤ u) (hu' : u ≤ 2 ^ (f.m + 1)) (t : Int) :
    (t < f.emin ∧ ¬ (t + 1 = f.emin ∧ u = 2 ^ (f.m + 1))) ↔ (u : Rat) * (2 : Rat) ^ (t - f.m) < (2 : Rat) ^ f.emin := by
  have pos := two_zpow_pos (t - f.m)
  have power (j : Nat) : (2 : Rat) ^ (t - f.m + j) = ((2 ^ j : Nat) : Rat) * (2 : Rat) ^ (t - f.m) := by
    rw [add_comm, zpow_add₀ two_ne_zero, zpow_natCast]
    push_cast
    rfl
  have low : (2 : Rat) ^ t ≤ (u : Rat) * (2 : Rat) ^ (t - f.m) := by
    rw [show t = t - f.m + (f.m : Nat) by omega, power f.m, ← show t = t - f.m + (f.m : Nat) by omega]
    exact mul_le_mul_of_nonneg_right (Nat.cast_le.2 hu) pos.le
  have next : (2 : Rat) ^ (t + 1) = ((2 ^ (f.m + 1) : Nat) : Rat) * (2 : Rat) ^ (t - f.m) := by
    rw [← power (f.m + 1)]
    congr 1
    push_cast
    omega
  have high : (u : Rat) * (2 : Rat) ^ (t - f.m) ≤ (2 : Rat) ^ (t + 1) := by
    rw [next]
    exact mul_le_mul_of_nonneg_right (Nat.cast_le.2 hu') pos.le
  rcases lt_trichotomy (t + 1) f.emin with h | h | h
  · exact iff_of_true ⟨by omega, fun k => absurd k.1 h.ne⟩ (high.trans_lt (zpow_lt_zpow_right₀ one_lt_two h))
  · rw [← h, next, mul_lt_mul_iff_left₀ pos, Nat.cast_lt]
    omega
  · refine iff_of_false (fun k => absurd k.1 (by omega)) (not_lt.2 (le_trans ?_ low))
    exact zpow_le_zpow_right₀ one_le_two (by omega)

/-- A finite value rounded into a format: a code that holds the rounded value, with NX where it lost something and UF where it is also tiny, or the overflow's result. -/
theorem Fmt.roundFin_spec {f : Fmt} (hf : f.Sound) (rm : Nat) (neg : Bool) {m : Nat} (hm : m ≠ 0) (e : Int) (draw : Nat) :
    let t : Int := Nat.log2 m + e
    let r (q : Int) := roundQ rm neg m e q draw
    let p := f.carried (r (f.unit t)).1 (f.unit t)
    (((r (f.unit t)).1 : Rat) * (2 : Rat) ^ f.unit t ≤ f.most → f.Holds p.1 p.2 ∧
      f.roundFin rm neg m e draw = (f.signed neg (f.place p.1 p.2), if (r (f.unit t)).2 then 0 else fNX ||| flagIf (decide (((r (t - f.m)).1 : Rat) * (2 : Rat) ^ (t - f.m) < (2 : Rat) ^ f.emin)) fUF)) ∧
    (f.most < ((r (f.unit t)).1 : Rat) * (2 : Rat) ^ f.unit t → f.roundFin rm neg m e draw = f.overflow rm neg) := by
  intro t r p
  have above : t - f.m ≤ f.unit t := by rw [Fmt.unit_eq]; exact le_max_left ..
  have low : f.emin - f.m ≤ f.unit t := by rw [Fmt.unit_eq]; exact le_max_right ..
  have width (q : Int) (h : t - f.m ≤ q) : (r q).1 ≤ 2 ^ (f.m + 1) := roundQ_le (scaled_le hm e h)
  have normal : f.unit t = f.emin - f.m ∨ 2 ^ f.m ≤ (r (f.unit t)).1 := by
    rcases le_total (t - f.m) (f.emin - f.m) with h | h
    · exact .inl (by rw [Fmt.unit_eq, max_eq_right h])
    · exact .inr (le_roundQ (le_scaled hm e (by rw [Fmt.unit_eq, max_eq_left h])))
  have exceeds := Fmt.overflows_iff hf (width _ above) (f.unit t)
  have tiny := Fmt.tiny_iff (f := f) (le_roundQ (le_scaled hm e le_rfl)) (width _ le_rfl) t
  unfold Fmt.roundFin
  rw [if_neg hm]
  dsimp only
  rw [← Fmt.unit_eq]
  refine ⟨fun most => ?_, fun big => if_pos (decide_eq_true (exceeds.2 big))⟩
  refine ⟨Fmt.holds_carried hf (width _ above) normal low most, ?_⟩
  rw [if_neg (by rw [decide_eq_true_eq, exceeds]; exact not_lt.2 most)]
  refine Prod.ext rfl ?_
  dsimp only
  congr 3
  rw [Bool.eq_iff_iff, decide_eq_true_eq, ← tiny]
  simp only [t, Bool.and_eq_true, Bool.not_eq_true', Bool.and_eq_false_iff, decide_eq_true_eq, decide_eq_false_iff_not, beq_eq_false_iff_ne, not_and_or, ne_eq]

/-- An exact rounding draws nothing. -/
theorem Fmt.roundFin_exact {f : Fmt} {rm m n : Nat} {neg : Bool} {e : Int} (hm : m ≠ 0) (h : (m : Rat) * (2 : Rat) ^ (e - f.unit (Nat.log2 m + e)) = n) (draw draw' : Nat) :
    f.roundFin rm neg m e draw = f.roundFin rm neg m e draw' := by
  unfold Fmt.roundFin
  rw [if_neg hm, if_neg hm]
  dsimp only
  rw [← Fmt.unit_eq, roundQ_of_eq h, roundQ_of_eq h]
  simp only [if_true]

/-- What a format holds it rounds to its own code, without a flag. -/
theorem Fmt.Holds.roundFin {f : Fmt} (hf : f.Sound) {n : Nat} {q : Int} (h : f.Holds n q) (rm : Nat) (neg : Bool) (draw : Nat) :
    f.roundFin rm neg n q draw = (f.signed neg (f.place n q), 0) := by
  by_cases zero : n = 0
  · rw [zero]
    unfold Fmt.roundFin Fmt.place
    rw [if_pos rfl, if_pos (by positivity)]
  · have width : Nat.log2 n < f.m + 1 := (Nat.log2_lt zero).2 h.width
    have unit : f.unit (Nat.log2 n + q) = q := by
      have low := h.low
      rw [Fmt.unit_eq]
      rcases h.normal with least | normal
      · omega
      · have := (Nat.le_log2 zero).2 normal
        omega
    have exact_ : roundQ rm neg n q q draw = (n, true) := roundQ_of_eq (by rw [sub_self, zpow_zero, mul_one])
    obtain ⟨held, -⟩ := Fmt.roundFin_spec hf rm neg zero q draw
    have carried : f.carried n q = (n, q) := if_neg h.width.ne
    simp only [unit, exact_, carried, if_true] at held
    exact (held (h.le_most hf)).2

end Sys2Proof.Machine
end

section
/-! SUPPORT. Values rounded into the eight formats (R56-R58, R61-R64). -/

namespace Sys2Proof.Machine

/-- A finite number's value, by its magnitude. -/
theorem Num.Is.fin_iff {neg : Bool} {m : Nat} {e : Int} {v : Rat} : (Num.fin neg m e).Is v ↔ v = (if neg then -1 else 1) * ((m : Rat) * (2 : Rat) ^ e) := by
  rw [← mul_assoc]
  rfl

theorem Num.Is.exists_fin {x : Num} {v : Rat} (h : x.Is v) : ∃ neg m e, x = .fin neg m e ∧ v = (if neg then -1 else 1) * ((m : Rat) * (2 : Rat) ^ e) := by
  cases x with
  | fin neg m e => exact ⟨neg, m, e, rfl, Num.Is.fin_iff.1 h⟩
  | nan s => exact h.elim
  | inf n => exact h.elim

theorem abs_signed (neg : Bool) {x : Rat} (h : 0 ≤ x) : |(if neg then -1 else 1) * x| = x := by
  cases neg <;> simp [abs_of_nonneg h]

/-- A value rounded to a multiple of 2^a. -/
def roundedAt (rm draw : Nat) (v : Rat) (a : Int) : Rat := rounded rm draw (v / (2 : Rat) ^ a) * (2 : Rat) ^ a

theorem roundedAt_eq (rm draw : Nat) (neg : Bool) (m : Nat) (e a : Int) : roundedAt rm draw ((if neg then -1 else 1) * ((m : Rat) * (2 : Rat) ^ e)) a =
    (if neg then -1 else 1) * (((roundQ rm neg m e a draw).1 : Rat) * (2 : Rat) ^ a) := by
  unfold roundedAt
  rw [mul_div_assoc, mul_div_assoc, ← zpow_sub₀ two_ne_zero, ← (roundQ_spec rm neg m e a draw).1, sgn_cast, mul_assoc]

/-- Whether a rounding to a multiple of 2^a loses something. -/
theorem roundQ_exact_iff (rm draw : Nat) (neg : Bool) (m : Nat) (e a : Int) : (roundQ rm neg m e a draw).2 = true ↔
    ((roundQ rm neg m e a draw).1 : Rat) * (2 : Rat) ^ a = (m : Rat) * (2 : Rat) ^ e := by
  rw [(roundQ_spec rm neg m e a draw).2, zpow_sub₀ two_ne_zero, ← mul_div_assoc, eq_div_iff (two_zpow_pos a).ne']

/-- A finite value rounded into a format (R61-R63): the format's multiple of its spacing there and its flags, or beyond the largest finite value the overflow's result. -/
theorem Fmt.encode_spec {f : Fmt} (hf : f.Sound) (rm draw : Nat) {x : Num} {v : Rat} {t : Int} (hx : x.Is v) (low : (2 : Rat) ^ t ≤ |v|) (high : |v| < (2 : Rat) ^ (t + 1)) :
    let y := roundedAt rm draw v (max t f.emin - f.m)
    let z := f.encode rm x draw
    (|y| ≤ f.most → (f.decode z.1).Is y ∧ (f.decode z.1).neg? = x.neg? ∧
      z.2 = if y = v then 0 else fNX ||| flagIf (decide (|roundedAt rm draw v (t - f.m)| < (2 : Rat) ^ f.emin)) fUF) ∧
    (f.most < |y| → z = f.overflow rm x.neg?) := by
  obtain ⟨neg, m, e, rfl, rfl⟩ := hx.exists_fin
  have size : (0 : Rat) ≤ (m : Rat) * (2 : Rat) ^ e := by have := two_zpow_pos e; positivity
  rw [abs_signed neg size] at low high
  have hm : m ≠ 0 := by
    rintro rfl
    rw [Nat.cast_zero, zero_mul] at low
    exact absurd low (not_le.2 (two_zpow_pos t))
  obtain rfl : t = Nat.log2 m + e := binade_unique low high (log2_zpow hm e).1 (log2_zpow hm e).2
  have multiple (a : Int) : |roundedAt rm draw ((if neg then -1 else 1) * ((m : Rat) * (2 : Rat) ^ e)) a| = ((roundQ rm neg m e a draw).1 : Rat) * (2 : Rat) ^ a := by
    rw [roundedAt_eq, abs_signed neg (by have := two_zpow_pos a; positivity)]
  obtain ⟨held, exceeds⟩ := Fmt.roundFin_spec hf rm neg hm e draw
  dsimp only
  rw [multiple, multiple]
  refine ⟨fun most => ?_, exceeds⟩
  obtain ⟨holds, code⟩ := held most
  have encoded : f.encode rm (.fin neg m e) draw = _ := code
  rw [encoded, Fmt.decode_place hf holds]
  refine ⟨Num.Is.fin_iff.2 ?_, rfl, ?_⟩
  · rw [Fmt.carried_value, roundedAt_eq]
    rfl
  · refine if_congr ?_ rfl rfl
    rw [roundQ_exact_iff, roundedAt_eq]
    have nonzero : (if neg then -1 else 1 : Rat) ≠ 0 := by cases neg <;> simp
    exact (mul_right_inj' nonzero).symm

/-- A finite code, read and rounded into its own format, is the same code, without a flag. -/
theorem Fmt.encode_decode {f : Fmt} (hf : f.Sound) (rm draw : Nat) {code : Nat} (hc : code < 2 ^ f.w) {v : Rat} (h : (f.decode code).Is v) :
    f.encode rm (f.decode code) draw = (code, 0) := by
  obtain ⟨neg, n, q, decoded, -⟩ := h.exists_fin
  obtain ⟨holds, placed⟩ := Fmt.place_decode hf hc decoded
  rw [decoded]
  exact (holds.roundFin hf rm neg draw).trans (by rw [← placed])

/-! ### The eight formats (R56) -/

/-- A format of a code by its row of a table. -/
theorem forall_fmtOf {P : Nat → Fmt → Prop} (h0 : P 0 fp32) (h1 : P 1 bf16) (h2 : P 2 fp16) (h3 : P 3 e4m3) (h4 : P 4 e5m2) (h5 : P 5 e2m3) (h6 : P 6 e3m2) (h7 : P 7 e2m1) {k : Nat}
    (hk : k ≤ 7) : P k (fmtOf k) := by
  interval_cases k <;> assumption

/-- A row of the formats' table (R56, R58, R63). -/
structure Fmt.Row (f : Fmt) (w m : Nat) (emin : Int) (most : Rat) (mostCode infCode nanCode : Nat) (inf nan : Prop) : Prop where
  width : f.w = w
  mantissa : (f.m : Int) = m
  least : f.emin = emin
  largest : f.most = most
  maxCode : f.maxCode = mostCode
  infCode : inf → f.infCode = infCode
  canon : nan → f.canon = nanCode
  infs : f.inf = true ↔ inf
  nans : f.nan = true ↔ nan

section row

variable {f : Fmt} {w m : Nat} {emin : Int} {most : Rat} {mostCode infCode nanCode : Nat} {inf nan : Prop} (h : f.Row w m emin most mostCode infCode nanCode inf nan) (rm : Nat) (neg : Bool)
include h

theorem Fmt.Row.signed (c : Nat) : f.signed neg c = c + if neg then 2 ^ (w - 1) else 0 := by
  unfold Fmt.signed
  rw [h.width]
  cases neg <;> simp [b2n]

theorem Fmt.Row.overflow_inf (hi : inf) : f.overflow rm neg =
    ((if rm = 1 ∨ rm = 6 ∨ (rm = 2 ∧ neg = true) ∨ (rm = 3 ∧ neg = false) then mostCode else infCode) + if neg then 2 ^ (w - 1) else 0, fOF ||| fNX) := by
  refine (if_pos (h.infs.2 hi)).trans ?_
  dsimp only
  rw [h.signed, h.maxCode, h.infCode hi]
  simp [or_assoc]

theorem Fmt.Row.overflow_nan (hi : ¬ inf) (hn : nan) : f.overflow rm neg =
    if rm = 6 then (mostCode + if neg then 2 ^ (w - 1) else 0, fOF ||| fNX ||| fSAT) else (nanCode, fOF ||| fNX) := by
  unfold Fmt.overflow
  rw [if_neg (mt h.infs.1 hi), if_pos (h.nans.2 hn), h.signed, h.maxCode, h.canon hn]

theorem Fmt.Row.overflow_none (hi : ¬ inf) (hn : ¬ nan) : f.overflow rm neg = (mostCode + if neg then 2 ^ (w - 1) else 0, fOF ||| fNX ||| fSAT) := by
  unfold Fmt.overflow
  rw [if_neg (mt h.infs.1 hi), if_neg (mt h.nans.1 hn), h.signed, h.maxCode]

theorem Fmt.Row.encode_nan [Decidable nan] (draw : Nat) : f.encode rm (.nan neg) draw = if nan then (nanCode, 0) else (mostCode, fNV) := by
  unfold Fmt.encode
  by_cases hn : nan
  · rw [if_pos (h.nans.2 hn), if_pos hn, h.canon hn]
  · rw [if_neg (mt h.nans.1 hn), if_neg hn, h.maxCode]

theorem Fmt.Row.encode_inf (hi : inf) (draw : Nat) : f.encode rm (.inf neg) draw = (infCode + if neg then 2 ^ (w - 1) else 0, 0) := by
  refine (if_pos (h.infs.2 hi)).trans ?_
  rw [h.signed, h.infCode hi]

theorem Fmt.Row.encode_inf_nan (hi : ¬ inf) (hn : nan) (draw : Nat) : f.encode rm (.inf neg) draw =
    if rm = 6 then (mostCode + if neg then 2 ^ (w - 1) else 0, fSAT) else (nanCode, fNV) := by
  refine (if_neg (mt h.infs.1 hi)).trans ?_
  rw [if_pos (h.nans.2 hn), h.signed, h.maxCode, h.canon hn]

theorem Fmt.Row.encode_inf_none (hi : ¬ inf) (hn : ¬ nan) (draw : Nat) : f.encode rm (.inf neg) draw = (mostCode + if neg then 2 ^ (w - 1) else 0, fSAT) := by
  refine (if_neg (mt h.infs.1 hi)).trans ?_
  rw [if_neg (mt h.nans.1 hn), h.signed, h.maxCode]

end row

/-- The sign of a value other than 0. -/
theorem Num.Is.sign {x : Num} {v : Rat} (h : x.Is v) (hv : v ≠ 0) : (v < 0 ↔ x.neg? = true) ∧ (0 < v ↔ x.neg? = false) := by
  obtain ⟨neg, m, e, rfl, rfl⟩ := h.exists_fin
  have size : (0 : Rat) ≤ (m : Rat) * (2 : Rat) ^ e := by have := two_zpow_pos e; positivity
  have pos : (0 : Rat) < (m : Rat) * (2 : Rat) ^ e := size.lt_of_ne' (right_ne_zero_of_mul hv)
  cases neg <;> simp [Num.neg?, pos, pos.le]

/-- Settles O10, by the rounding of a quotient of a significand and a power of two, the fields of a code, and the table of each format. -/
theorem roundingAndFormats : Obligations.RoundingAndFormats := by
  unfold Obligations.RoundingAndFormats
  intro w m emin most mostCode infCode nanCode sign hasInf
  have row {k : Nat} (hk : k ≤ 7) : (fmtOf k).Row (w k) (m k) (emin k) (most k) (mostCode k) (infCode k) (nanCode k) (k ≤ 2 ∨ k = 4) (k ≤ 4) := by
    refine forall_fmtOf (P := fun k f => f.Row (w k) (m k) (emin k) (most k) (mostCode k) (infCode k) (nanCode k) (k ≤ 2 ∨ k = 4) (k ≤ 4)) ?_ ?_ ?_ ?_ ?_ ?_ ?_ ?_ hk
    all_goals refine ⟨rfl, rfl, rfl, ?_, rfl, ?_, ?_, ?_, ?_⟩
    case refine_1.refine_1 => norm_num [Fmt.most, Fmt.maxSig, Fmt.maxExp, fp32, most]
    case refine_2.refine_1 => norm_num [Fmt.most, Fmt.maxSig, Fmt.maxExp, bf16, most]
    case refine_3.refine_1 => norm_num [Fmt.most, Fmt.maxSig, Fmt.maxExp, fp16, most]
    case refine_4.refine_1 => norm_num [Fmt.most, Fmt.maxSig, Fmt.maxExp, e4m3, most]
    case refine_5.refine_1 => norm_num [Fmt.most, Fmt.maxSig, Fmt.maxExp, e5m2, most]
    case refine_6.refine_1 => norm_num [Fmt.most, Fmt.maxSig, Fmt.maxExp, e2m3, most]
    case refine_7.refine_1 => norm_num [Fmt.most, Fmt.maxSig, Fmt.maxExp, e3m2, most]
    case refine_8.refine_1 => norm_num [Fmt.most, Fmt.maxSig, Fmt.maxExp, e2m1, most]
    all_goals decide
  refine ⟨fun rm neg m e q draw _ => ?quotient, fun k rm draw x v t hk _ hx low high => ?finite, fun k rm draw n hk _ => ?special, fun k rm code draw hk _ hc ⟨v, hv⟩ =>
    Fmt.encode_decode (fmtOf_sound k) rm draw hc hv⟩
  case quotient =>
    intro v r
    obtain ⟨value, exact_⟩ := roundQ_spec rm neg m e q draw
    rw [← mul_assoc] at value
    refine ⟨?_, value⟩
    have nonzero : (if neg then -1 else 1 : Rat) ≠ 0 := by cases neg <;> simp
    rw [sgn_cast]
    exact exact_.trans ((mul_right_inj' nonzero).symm.trans (by rw [← mul_assoc]))
  case finite =>
    intro step y z
    have spec := Fmt.encode_spec (fmtOf_sound k) rm draw hx low high
    have nonzero : v ≠ 0 := by
      rintro rfl
      rw [abs_zero] at low
      exact absurd low (not_le.2 (two_zpow_pos t))
    obtain ⟨negative, positive⟩ := hx.sign nonzero
    have h := row hk
    dsimp only at spec
    rw [h.least, h.largest, h.mantissa] at spec
    obtain ⟨held, exceeds⟩ := spec
    refine ⟨held, fun big => ⟨fun hi => ?_, fun e => ?_, fun e => ?_⟩⟩
    · simp only [negative, positive]
      exact (exceeds big).trans (h.overflow_inf rm x.neg? hi)
    · exact (exceeds big).trans (h.overflow_nan rm x.neg? (by omega) (by omega))
    · exact (exceeds big).trans (h.overflow_none rm x.neg? (by omega) (by omega))
  case special =>
    have h := row hk
    have other (e : k = 3 ∨ 5 ≤ k) : ¬ hasInf k := by simp only [hasInf]; omega
    exact ⟨h.encode_nan rm n draw, fun hi => h.encode_inf rm n hi draw, fun e => h.encode_inf_nan rm n (other (.inl e)) (by omega) draw,
      fun e => h.encode_inf_none rm n (other (.inr e)) (by omega) draw⟩

end Sys2Proof.Machine
end

section
/-! SUPPORT. Exact sums and extremes (R159), and roundings that draw nothing (R64). -/

namespace Sys2Proof.Machine

/-! ### Whole numbers times a power of two -/

theorem numOfInt_is (v e : Int) (z : Bool) : (numOfInt v e z).Is ((v : Rat) * (2 : Rat) ^ e) := by
  unfold numOfInt
  split
  case isTrue h => simp [Num.Is, h]
  case isFalse h =>
    refine Num.Is.fin_iff.2 ?_
    rw [← mul_assoc, ← sgn_cast]
    congr 2
    unfold sgn
    rcases lt_or_gt_of_ne h with lower | upper
    · rw [decide_eq_true lower, if_pos rfl, Int.natCast_natAbs, abs_of_neg lower, neg_neg]
    · rw [decide_eq_false upper.not_gt, if_neg Bool.false_ne_true, Int.natCast_natAbs, abs_of_pos upper]

theorem numOfInt_neg (v e : Int) (z : Bool) : (numOfInt v e z).neg? = if v = 0 then z else decide (v < 0) := by
  unfold numOfInt
  split <;> rfl

theorem numOf_is (v : Int) : (numOf v).Is (v : Rat) := by
  have := numOfInt_is v 0 false
  rwa [zpow_zero, mul_one] at this

theorem numOf_neg (v : Int) : (numOf v).neg? = decide (v < 0) := by
  unfold numOf
  rw [numOfInt_neg]
  split
  case isTrue h => simp [h]
  case isFalse => rfl

/-- A signed significand at a lower exponent. -/
theorem aligned (n : Bool) (m : Nat) {e q : Int} (h : q ≤ e) : ((sgn n (m * 2 ^ (e - q).toNat) : Int) : Rat) * (2 : Rat) ^ q = (if n then -1 else 1) * ((m : Rat) * (2 : Rat) ^ e) := by
  rw [sgn_cast, mul_assoc, ← shift_zpow m h]

theorem signed_eq_zero {n : Bool} {m : Nat} {e : Int} (h : (if n then -1 else 1 : Rat) * ((m : Rat) * (2 : Rat) ^ e) = 0) : m = 0 := by
  have := (two_zpow_pos e).ne'
  cases n <;> simp_all

/-! ### Sums -/

theorem Num.not_nan_of_is {x : Num} {v : Rat} (h : x.Is v) : x.isNan = false ∧ x.isSig = false := by
  obtain ⟨n, m, e, rfl, -⟩ := h.exists_fin
  exact ⟨rfl, rfl⟩

theorem Num.add_fin (rm : Nat) {a b : Num} {u v : Rat} (ha : a.Is u) (hb : b.Is v) : (a.add b rm).1.Is (u + v) ∧ (a.add b rm).2 = 0 ∧
    (u + v = 0 → (a.add b rm).1.neg? = if a.neg? = b.neg? then a.neg? else decide (rm = 3)) := by
  obtain ⟨n, m, e, rfl, rfl⟩ := ha.exists_fin
  obtain ⟨k, l, d, rfl, rfl⟩ := hb.exists_fin
  have left := aligned n m (min_le_left e d)
  have right := aligned k l (min_le_right e d)
  rw [← left, ← right, ← add_mul, ← Int.cast_add]
  refine ⟨numOfInt_is .., rfl, fun zero => ?_⟩
  have pos := (two_zpow_pos (min e d)).ne'
  have total : sgn n (m * 2 ^ (e - min e d).toNat) + sgn k (l * 2 ^ (d - min e d).toNat) = 0 := by
    exact_mod_cast (mul_eq_zero.1 zero).resolve_right pos
  refine (numOfInt_neg ..).trans ((if_pos total).trans ?_)
  change _ = if n = k then n else decide (rm = 3)
  by_cases same : n = k
  · subst same
    have both : m * 2 ^ (e - min e d).toNat = 0 ∧ l * 2 ^ (d - min e d).toNat = 0 := by
      unfold sgn at total
      split at total <;> omega
    have none : m = 0 ∧ l = 0 := by simpa using both
    rw [if_pos ⟨rfl, none⟩, if_pos rfl]
  · rw [if_neg (fun h => same h.1), if_neg same]
    rfl

theorem Num.nan_iff {x : Num} : x.isNan = true ↔ ∃ s, x = .nan s := by
  cases x <;> simp [Num.isNan]

theorem Num.add_nan (rm : Nat) (a b : Num) : NanRule a b (a.add b rm) := by
  intro h
  cases a with
  | nan s => exact ⟨rfl, rfl⟩
  | inf n =>
    obtain ⟨s, rfl⟩ := Num.nan_iff.1 (h.resolve_left Bool.false_ne_true)
    exact ⟨rfl, by cases s <;> rfl⟩
  | fin n m e =>
    obtain ⟨s, rfl⟩ := Num.nan_iff.1 (h.resolve_left Bool.false_ne_true)
    exact ⟨rfl, by cases s <;> rfl⟩

/-- The model's sum is the exact one. -/
theorem Num.add_sum (rm : Nat) (a b : Num) : SumOf rm a b (a.add b rm) := by
  refine ⟨fun u v ha hb => Num.add_fin rm ha hb, fun n k ha hb => ?_, fun n v h => ?_, Num.add_nan rm a b⟩
  · subst ha hb
    have sum : (Num.inf n).add (.inf k) rm = if n = k then (.inf n, 0) else (.nan false, fNV) := rfl
    rw [sum]
    split
    · rfl
    · exact ⟨rfl, rfl⟩
  · rcases h with ⟨rfl, hb⟩ | ⟨ha, rfl⟩
    · obtain ⟨k, m, e, rfl, -⟩ := hb.exists_fin
      rfl
    · obtain ⟨k, m, e, rfl, -⟩ := ha.exists_fin
      rfl

/-! ### Extremes -/

/-- Finite numbers compare by value. -/
theorem Num.cmp_fin {a b : Num} {u v : Rat} (ha : a.Is u) (hb : b.Is v) : (a.cmp b < 0 ↔ u < v) ∧ (0 < a.cmp b ↔ v < u) := by
  obtain ⟨n, m, e, rfl, rfl⟩ := ha.exists_fin
  obtain ⟨k, l, d, rfl, rfl⟩ := hb.exists_fin
  have pos := two_zpow_pos (min e d)
  rw [← aligned n m (min_le_left e d), ← aligned k l (min_le_right e d), mul_lt_mul_iff_left₀ pos, mul_lt_mul_iff_left₀ pos, Int.cast_lt, Int.cast_lt]
  exact ⟨Int.sign_neg_iff.trans sub_neg, Int.sign_pos_iff.trans sub_pos⟩

theorem Num.Below.refl (a : Num) : a.Below a := .inr (.inr (.inl rfl))

/-- Numbers stand in the order in which they compare. -/
theorem Num.below_of_cmp {a b : Num} (ha : a.isNan = false) (hb : b.isNan = false) : (a.cmp b ≤ 0 → a.Below b) ∧ (0 ≤ a.cmp b → b.Below a) := by
  cases a with
  | nan s => cases ha
  | inf n =>
    cases b with
    | nan s => cases hb
    | inf k => cases n <;> cases k <;> simp [Num.cmp, Num.Below]
    | fin k l d => cases n <;> simp [Num.cmp, Num.Below]
  | fin n m e =>
    cases b with
    | nan s => cases hb
    | inf k => cases k <;> simp [Num.cmp, Num.Below]
    | fin k l d =>
      have left : (Num.fin n m e).Is _ := rfl
      have right : (Num.fin k l d).Is _ := rfl
      obtain ⟨below, above⟩ := Num.cmp_fin left right
      refine ⟨fun h => .inr (.inr (.inr ⟨_, _, left, right, not_lt.1 (mt above.2 (not_lt.2 h))⟩)), fun h => .inr (.inr (.inr ⟨_, _, right, left, not_lt.1 (mt below.2 (not_lt.2 h))⟩))⟩

/-- Whether `minmax` takes its first operand. -/
def Num.first (mx : Bool) (a b : Num) : Bool :=
  if a.cmp b = 0 then (if mx then !a.neg? else a.neg?) else if mx then decide (0 < a.cmp b) else decide (a.cmp b < 0)

theorem Num.minmax_eq {a b : Num} (ha : a.isNan = false) (hb : b.isNan = false) (mx : Bool) : a.minmax mx b = (if Num.first mx a b then a else b, 0) :=
  if_neg (by simp [ha, hb])

/-- The operand that `minmax` takes stands on its side of the other. -/
theorem Num.first_cmp (mx : Bool) (a b : Num) : if Num.first mx a b = mx then 0 ≤ a.cmp b else a.cmp b ≤ 0 := by
  unfold Num.first
  by_cases same : a.cmp b = 0
  · simp [same]
  · cases mx
    · simp only [if_neg same, Bool.false_eq_true, if_false, decide_eq_false_iff_not, not_lt]
      split <;> omega
    · simp only [if_neg same, if_true, decide_eq_true_eq]
      split <;> omega

/-- The model's minimum and maximum. -/
theorem Num.minmax_extreme (mx : Bool) (a b : Num) : ExtremeOf mx a b (a.minmax mx b) := by
  refine ⟨fun h => ?_, fun ha hb => ?_⟩
  · unfold Num.minmax
    rw [if_pos h]
    exact ⟨rfl, rfl⟩
  · obtain ⟨below, above⟩ := Num.below_of_cmp ha hb
    have order := Num.first_cmp mx a b
    rw [Num.minmax_eq ha hb]
    refine ⟨rfl, ?_, ?_, fun hu hv => ?_⟩
    · exact (ite_eq_or_eq ..)
    · cases hf : Num.first mx a b <;> cases mx <;> simp only [hf, reduceCtorEq, Bool.false_eq_true, if_true, if_false] at order ⊢
      · exact ⟨above order, .refl b⟩
      · exact ⟨below order, .refl b⟩
      · exact ⟨.refl a, below order⟩
      · exact ⟨.refl a, above order⟩
    · have same : a.cmp b = 0 := by
        obtain ⟨lt, gt⟩ := Num.cmp_fin hu hv
        have := mt lt.1 (lt_irrefl _)
        have := mt gt.1 (lt_irrefl _)
        omega
      unfold Num.first
      rw [if_pos same]
      cases mx <;> cases hn : a.neg? <;> simp [hn]

/-! ### Roundings that draw nothing -/

theorem roundQ_draw {rm : Nat} (h : rm ≠ 5) (neg : Bool) (m : Nat) (e q : Int) (draw draw' : Nat) : roundQ rm neg m e q draw = roundQ rm neg m e q draw' := by
  have same (s : Nat) : roundsUp rm neg m s draw = roundsUp rm neg m s draw' := by
    unfold roundsUp
    split
    case h_5 => contradiction
    all_goals rfl
  unfold roundQ
  simp only [same]

/-- Only SR draws. -/
theorem Fmt.encode_draw (f : Fmt) {rm : Nat} (h : rm ≠ 5) (x : Num) (draw draw' : Nat) : f.encode rm x draw = f.encode rm x draw' := by
  cases x with
  | nan s => rfl
  | inf n => rfl
  | fin n m e =>
    have same (q : Int) := roundQ_draw h n m e q draw draw'
    change f.roundFin rm n m e draw = f.roundFin rm n m e draw'
    unfold Fmt.roundFin
    simp only [same]

theorem Fmt.round_of_ne (f : Fmt) {rm : Nat} (h : rm ≠ 5) (x : Num) (s : W32) : f.round rm x s = ((f.encode rm x 0).1, (f.encode rm x 0).2, s) := by
  unfold Fmt.round
  rw [if_neg h]
  dsimp only
  rw [f.encode_draw h x _ 0]

theorem Fmt.round_sr (f : Fmt) (x : Num) (s : W32) :
    f.round 5 x s = ((f.encode 5 x ((lfsrStep s).toNat % 2 ^ 24)).1, (f.encode 5 x ((lfsrStep s).toNat % 2 ^ 24)).2, lfsrStep s) := rfl

end Sys2Proof.Machine
end

section
/-! SUPPORT. The active lanes of a word, and register effects of words on them. -/

namespace Sys2Proof.Machine

/-! ### The lanes of a mask -/

theorem mem_lanes {m : Mask} {l : Nat} : l ∈ Mask.lanes m ↔ m.getLsbD l = true := by
  simp only [Mask.lanes, List.mem_filter, List.mem_range, and_iff_right_iff_imp]
  intro h
  by_contra beyond
  rw [BitVec.getLsbD_of_ge _ _ (not_lt.1 beyond)] at h
  cases h

theorem lanes_nodup (m : Mask) : (Mask.lanes m).Nodup := List.nodup_range.filter _

theorem lanes_sorted (m : Mask) : (Mask.lanes m).Pairwise (· < ·) := List.pairwise_lt_range.filter _

theorem bitN_eq_testBit (x i : Nat) : bitN x i = x.testBit i := by
  rw [Nat.testBit_eq_decide_div_mod_eq]
  rfl

theorem lowBit_eq (n i x : Nat) : lowBit n i x = ((List.range' i n).filter (fun j => x.testBit j)).head? := by
  induction n generalizing i with
  | zero => rfl
  | succ n ih =>
    unfold lowBit
    rw [bitN_eq_testBit, ih, List.range'_succ, List.filter_cons]
    split <;> rfl

theorem Mask.low_eq (m : Mask) : Mask.low m = (Mask.lanes m).head? := by
  unfold Mask.low Mask.lanes
  rw [lowBit_eq, List.range_eq_range']
  rfl

/-- The first lanes of a mask, up to a bound that all of them are below. -/
theorem range_filter_lanes {m : Mask} {w : Nat} (h : ∀ l ∈ Mask.lanes m, l < w) (hw : w ≤ 128) : (List.range w).filter (fun l => m.getLsbD l) = Mask.lanes m := by
  have rest : (List.range' w (128 - w)).filter (fun l => m.getLsbD l) = [] := List.filter_eq_nil_iff.2 fun l hl on => by
    have := h l (mem_lanes.2 on)
    rw [List.mem_range'_1] at hl
    omega
  have whole : List.range 128 = List.range w ++ List.range' w (128 - w) := by
    have joined := List.range'_append_1 (s := 0) (m := w) (n := 128 - w)
    rw [Nat.zero_add, Nat.add_sub_cancel' hw] at joined
    rw [List.range_eq_range', List.range_eq_range', joined]
  unfold Mask.lanes
  rw [whole, List.filter_append, rest, List.append_nil]

/-! ### The lanes of a word -/

/-- The active lanes stand below the warp's width. -/
def Env.inside (e : Env) : Prop := ∀ l ∈ e.lanes, l < e.c.x.width

theorem Warp.path_below {x : Warp} {l : Nat} (h : x.path.getLsbD l = true) : l < x.width := by
  simp only [Warp.path, Warp.live, BitVec.getLsbD_and, getLsbD_maskOf, Bool.and_eq_true, decide_eq_true_eq] at h
  obtain ⟨-, ⟨below, -⟩, -⟩ := h
  exact below

theorem Warp.active_path {x : Warp} {g : Nat × Bool} {l : Nat} (h : (x.active g).getLsbD l = true) : x.path.getLsbD l = true := by
  unfold Warp.active at h
  split at h
  · exact h
  · rw [BitVec.getLsbD_and, Bool.and_eq_true] at h
    exact h.1

theorem State.env_inside (s : State) (iss : Issue) (c : Ctx) : (s.env iss c).inside := fun _ hl => Warp.path_below (Warp.active_path (mem_lanes.1 hl))

/-- A meaning that is the frame around register effects of lanes below the width. -/
theorem Writes.of_inside {i : Instr} {ok : State → Env → Prop} {f : State → Env → Word} {acts : State → Env → List Act} (hi : i ≠ .refill)
    (hx : ∀ s, exec i s = withWord s i f) (hf : ∀ s e, e.inside → ok s e → f s e = .ofActs (acts s e)) (hr : ∀ s e, ok s e → ∀ a ∈ acts s e, a.isReg = true) :
    Writes i ok acts := by
  have queues : Queues i ok (fun s e => .ofActs (acts s e)) := fun s iss c h hok => by rw [hx, withWord_issues h, hf _ _ (s.env_inside iss c) hok]
  exact ⟨queues, fun s iss c h hok => ⟨_, queues s iss c h.toIssues hok, h.regs (h.path hi) (hr _ _ hok)⟩⟩

/-! ### Writes on registers -/

/-- Effects on registers alone. -/
def regActs (l : List Act) : Prop := ∀ a ∈ l, a.isReg = true

theorem regActs_nil : regActs [] := nofun
theorem regActs_single {a : Act} (h : a.isReg = true) : regActs [a] := fun b hb => by rwa [List.mem_singleton.1 hb]
theorem regActs.append {l k : List Act} (hl : regActs l) (hk : regActs k) : regActs (l ++ k) := fun a ha => (List.mem_append.1 ha).elim (hl a) (hk a)
theorem regActs.flatMap {α : Type} {l : List α} {f : α → List Act} (h : ∀ x, regActs (f x)) : regActs (l.flatMap f) := fun a ha => by
  obtain ⟨x, -, hx⟩ := List.mem_flatMap.1 ha
  exact h x a hx
theorem regActs.ite {p : Prop} [Decidable p] {l k : List Act} (hl : regActs l) (hk : regActs k) : regActs (if p then l else k) := by split <;> assumption

theorem regActs_put (e : Env) (d : Reg) (l : Nat) (m v : W32) : regActs (e.put d l m v) := .ite (regActs_single rfl) regActs_nil
theorem regActs_putFull (e : Env) (d : Reg) (l : Nat) (v : W32) : regActs (e.putFull d l v) := regActs_put e d l _ v
theorem regActs_putAt (e : Env) (d : Reg) (k l : Nat) (v : W32) : regActs (e.putAt d k l v) := .ite (regActs_single rfl) regActs_nil
theorem regActs_putFlt (e : Env) (d : Reg) (l code : Nat) : regActs (e.putFlt d l code) := regActs_put e d l _ _
theorem regActs_putS (d : Reg) (v : W64) : regActs (putS d v) := putS_isReg
theorem regActs_putFlags (f : Flags) : regActs (putFlags f) := .ite regActs_nil (regActs_single rfl)
theorem regActs_putLfsr (e : Env) (l : Nat) (s : W32) : regActs (e.putLfsr l s) := .ite (regActs_single rfl) regActs_nil

theorem regActs_deliver (e : Env) (d : Reg) (signed : Bool) (v : W32) : regActs (e.deliver d signed v) :=
  .ite (regActs_putS d _) (.flatMap fun l => regActs_putFull e d l v)

/-- A rounded result's writes. -/
theorem regActs_fltWord (e : Env) (d : Reg) (f : Nat → Num × Flags) : regActs (e.fltWord d f).acts :=
  .append (.flatMap fun l => .append (regActs_putFlt e d l _) (regActs_putLfsr e l _)) (regActs_putFlags _)

theorem regActs_halfWord (e : Env) (f : Fmt) (d : Reg) (op : Nat → Nat → Num × Flags) : regActs (e.halfWord f d op).acts :=
  .append (.flatMap fun l => .append (regActs_putFull e d l _) (regActs_putLfsr e l _)) (regActs_putFlags _)

end Sys2Proof.Machine
end

section
/-! SUPPORT. Reductions over the active lanes (R177, R178). -/

namespace Sys2Proof.Machine

/-! ### Passes of the tree -/

/-- The LFSR before operation `l` of a pass. -/
def passState (op : RedOp) (k : Nat) (x : List W32) (s : W32) : Nat → W32
  | 0 => s
  | l + 1 => (op (x.getD l 0) (x.getD (l + k) 0) (passState op k x s l)).2.2

/-- Operation `l` of a pass. -/
def passStep (op : RedOp) (k : Nat) (x : List W32) (s : W32) (l : Nat) : W32 × Flags × W32 := op (x.getD l 0) (x.getD (l + k) 0) (passState op k x s l)

theorem redPass_eq (op : RedOp) (k : Nat) (x : List W32) (f : Flags) (s : W32) : redPass op k x f s =
    ((List.range k).map (fun l => (passStep op k x s l).1), (List.range k).foldl (fun (v : Flags) l => v ||| (passStep op k x s l).2.1) f, passState op k x s k) := by
  have upTo (j : Nat) : (List.range j).foldl (fun (t : List W32 × Flags × W32) l =>
      let r := op (x.getD l 0) (x.getD (l + k) 0) t.2.2
      (t.1 ++ [r.1], t.2.1 ||| r.2.1, r.2.2)) ([], f, s) =
      ((List.range j).map (fun l => (passStep op k x s l).1), (List.range j).foldl (fun (v : Flags) l => v ||| (passStep op k x s l).2.1) f, passState op k x s j) := by
    induction j with
    | zero => rfl
    | succ j ih =>
      rw [List.range_succ, List.foldl_append, ih, List.map_append, List.foldl_append]
      rfl
  exact upTo k

/-! ### Reductions without an order -/

/-- An operation whose order does not matter, with its identity. -/
structure Unordered (op : W32 → W32 → W32) (ident : W32) : Prop where
  comm : ∀ x y, op x y = op y x
  assoc : ∀ x y z, op (op x y) z = op x (op y z)
  unit : ∀ x, op ident x = x

section unordered

variable {op : W32 → W32 → W32} {ident : W32} (h : Unordered op ident)
include h

theorem Unordered.foldr_append (l k : List W32) : (l ++ k).foldr op ident = op (l.foldr op ident) (k.foldr op ident) := by
  induction l with
  | nil => exact (h.unit _).symm
  | cons x l ih => rw [List.cons_append, List.foldr_cons, ih, List.foldr_cons, h.assoc]

theorem Unordered.foldr_pairs {α : Type} (a b : α → W32) (l : List α) :
    (l.map (fun i => op (a i) (b i))).foldr op ident = op ((l.map a).foldr op ident) ((l.map b).foldr op ident) := by
  induction l with
  | nil => exact (h.unit _).symm
  | cons x l ih =>
    simp only [List.map_cons, List.foldr_cons, ih]
    rw [h.assoc, h.assoc, ← h.assoc (b x), h.comm (b x), h.assoc]

/-- Values that do not count give the identity. -/
theorem Unordered.foldr_filter {α : Type} (p : α → Bool) (v : α → W32) (l : List α) :
    (l.map (fun i => if p i then v i else ident)).foldr op ident = ((l.filter p).map v).foldr op ident := by
  induction l with
  | nil => rfl
  | cons x l ih =>
    rw [List.map_cons, List.foldr_cons, ih, List.filter_cons]
    split
    · rfl
    · exact h.unit _

/-- The tree reduces all its values. -/
theorem Unordered.redTree_plain (n : Nat) (x : List W32) (f : Flags) (s : W32) :
    redTree (plainOp op) n x f s = (((List.range (2 ^ n)).map (fun l => x.getD l 0)).foldr op ident, f, s) := by
  induction n generalizing x f s with
  | zero => exact Prod.ext ((h.unit _).symm.trans (h.comm _ _)) rfl
  | succ n ih =>
    have states (j : Nat) : passState (plainOp op) (2 ^ n) x s j = s := by
      induction j with
      | zero => rfl
      | succ j ih => exact ih
    have flags : (List.range (2 ^ n)).foldl (fun (v : Flags) l => v ||| (passStep (plainOp op) (2 ^ n) x s l).2.1) f = f :=
      List.foldl_same _ _ f fun _ _ => BitVec.or_zero
    have values : (List.range (2 ^ n)).map (fun l => ((List.range (2 ^ n)).map (fun l => (passStep (plainOp op) (2 ^ n) x s l).1)).getD l 0) =
        (List.range (2 ^ n)).map (fun l => op (x.getD l 0) (x.getD (l + 2 ^ n) 0)) := List.map_congr_left fun l hl => by
      rw [List.getD_eq_getElem?_getD, List.getElem?_map, List.getElem?_range (List.mem_range.1 hl)]
      rfl
    have halves : List.range (2 ^ (n + 1)) = List.range (2 ^ n) ++ (List.range (2 ^ n)).map (fun l => l + 2 ^ n) := by
      rw [Nat.pow_succ, Nat.mul_two, List.range_add]
      simp only [Nat.add_comm]
    unfold redTree
    rw [redPass_eq, ih, values, flags, states, h.foldr_pairs, halves, List.map_append, List.map_map, h.foldr_append]
    rfl

end unordered

/-- An operation that an injection carries to one whose order does not matter. -/
theorem Unordered.of_injective {α : Type} {op : W32 → W32 → W32} {ident : W32} {g : α → α → α} {φ : W32 → α} (inj : Function.Injective φ) (hom : ∀ x y, φ (op x y) = g (φ x) (φ y))
    (comm : ∀ a b, g a b = g b a) (assoc : ∀ a b c, g (g a b) c = g a (g b c)) (unit : ∀ x, g (φ ident) (φ x) = φ x) : Unordered op ident where
  comm x y := inj (by rw [hom, hom, comm])
  assoc x y z := inj (by simp only [hom, assoc])
  unit x := inj (by rw [hom, unit])

theorem foldr_hom {α : Type} {op : W32 → W32 → W32} {ident : W32} {g : α → α → α} {φ : W32 → α} (hom : ∀ x y, φ (op x y) = g (φ x) (φ y)) (l : List W32) :
    φ (l.foldr op ident) = (l.map φ).foldr g (φ ident) := by
  induction l with
  | nil => rfl
  | cons x l ih => rw [List.foldr_cons, hom, ih, List.map_cons, List.foldr_cons]

theorem toInt_minS (x y : W32) : (minS x y).toInt = min x.toInt y.toInt := by unfold minS; split <;> omega
theorem toInt_maxS (x y : W32) : (maxS x y).toInt = max x.toInt y.toInt := by unfold maxS; split <;> omega
theorem toNat_minU (x y : W32) : (minU x y).toNat = min x.toNat y.toNat := by unfold minU; split <;> omega
theorem toNat_maxU (x y : W32) : (maxU x y).toNat = max x.toNat y.toNat := by unfold maxU; split <;> omega

theorem unordered_add : Unordered (fun (x y : W32) => x + y) 0 := ⟨BitVec.add_comm, BitVec.add_assoc, BitVec.zero_add⟩
theorem unordered_minS : Unordered minS 0x7FFFFFFF :=
  .of_injective (φ := BitVec.toInt) (fun _ _ => BitVec.eq_of_toInt_eq) toInt_minS min_comm min_assoc fun x => min_eq_right (by have := x.toInt_lt; simpa using Int.le_of_lt_add_one this)
theorem unordered_maxS : Unordered maxS 0x80000000 :=
  .of_injective (φ := BitVec.toInt) (fun _ _ => BitVec.eq_of_toInt_eq) toInt_maxS max_comm max_assoc fun x => max_eq_right (by have := x.le_toInt; simpa using this)
theorem unordered_minU : Unordered minU 0xFFFFFFFF :=
  .of_injective (φ := BitVec.toNat) (fun _ _ => BitVec.eq_of_toNat_eq) toNat_minU min_comm min_assoc fun x => min_eq_right (by have := x.isLt; simpa using Nat.le_of_lt_succ this)
theorem unordered_maxU : Unordered maxU 0 := .of_injective (φ := BitVec.toNat) (fun _ _ => BitVec.eq_of_toNat_eq) toNat_maxU max_comm max_assoc fun _ => max_eq_right (Nat.zero_le _)

end Sys2Proof.Machine
end

section
/-! SUPPORT. The family of the reductions. -/

namespace Sys2Proof.Machine

/-- A reduction's result goes where R177 puts it. -/
theorem Env.deliver_eq (e : Env) (d : Reg) (signed : Bool) (v : W32) :
    (if 96 ≤ d.toNat ∧ d.toNat < 120 then putS d (if signed then v.signExtend 64 else v.setWidth 64) else e.lanes.flatMap (fun l => e.putFull d l v)) = e.deliver d signed v := by
  have uniform : d.isS = true ↔ 96 ≤ d.toNat ∧ d.toNat < 120 := by simp [Reg.isS]
  have wide : v.setWidth 64 = BitVec.ofNat 64 v.toNat := BitVec.eq_of_toNat_eq (by simp)
  unfold Env.deliver
  rw [wide]
  exact if_congr uniform.symm rfl rfl

/-- A reduction without an active lane gives the identity. -/
theorem Env.reduce_none {e : Env} (h : e.lanes = []) (d a : Reg) (op : RedOp) (ident : W32) (signed : Bool) : e.reduce d a op ident signed = .ofActs (e.deliver d signed ident) := by
  have low : Mask.low e.act = none := by
    rw [Mask.low_eq]
    exact congrArg List.head? h
  unfold Env.reduce
  simp only [Env.deliver_eq, low]

/-- A reduction with active lanes gives what its tree does. -/
theorem Env.reduce_some {e : Env} (h : e.lanes ≠ []) (d a : Reg) (op : RedOp) (ident : W32) (signed : Bool) : e.reduce d a op ident signed =
    let r := redTree op (Nat.log2 e.c.x.width) ((List.range e.c.x.width).map (fun l => if l ∈ e.lanes then e.vreg l a.toNat else ident)) 0 (e.lfsr (e.lanes.headD 0))
    .ofActs (e.deliver d signed r.1 ++ e.putLfsr (e.lanes.headD 0) r.2.2 ++ putFlags r.2.1) := by
  have low : Mask.low e.act = some (e.lanes.headD 0) := by
    rw [Mask.low_eq]
    unfold Env.lanes at h ⊢
    cases hl : Mask.lanes e.act with
    | nil => exact absurd hl h
    | cons x l => rfl
  have active (l : Nat) : (if l ∈ e.lanes then e.vreg l a.toNat else ident) = if e.act.getLsbD l = true then e.vreg l a.toNat else ident := if_congr mem_lanes rfl rfl
  unfold Env.reduce
  simp only [Env.deliver_eq, low, active]

/-- A reduction whose order does not matter, over the active lanes. -/
theorem Env.reduce_plain {e : Env} (inside : e.inside) (legal : e.legal) (hrm : e.rm ≠ 5) {op : W32 → W32 → W32} {ident : W32} (h : Unordered op ident) (d a : Reg) (signed : Bool) :
    e.reduce d a (plainOp op) ident signed = .ofActs (e.deliver d signed ((e.values a).foldr op ident)) := by
  have power : 2 ^ Nat.log2 e.c.x.width = e.c.x.width ∧ e.c.x.width ≤ 128 := by
    unfold Env.legal at legal
    revert legal
    generalize e.c.x.width = w
    simp only [List.mem_cons, List.not_mem_nil, or_false]
    rintro (rfl | rfl | rfl | rfl | rfl) <;> decide
  by_cases none : e.lanes = []
  · rw [Env.reduce_none none, Env.values, none]
    rfl
  · have values : (List.range e.c.x.width).map (fun l => ((List.range e.c.x.width).map (fun l => if l ∈ e.lanes then e.vreg l a.toNat else ident)).getD l 0) =
        (List.range e.c.x.width).map (fun l => if e.act.getLsbD l = true then e.vreg l a.toNat else ident) := List.map_congr_left fun l hl => by
      rw [List.getD_eq_getElem?_getD, List.getElem?_map, List.getElem?_range (List.mem_range.1 hl)]
      exact if_congr mem_lanes rfl rfl
    have tree := h.redTree_plain (Nat.log2 e.c.x.width) ((List.range e.c.x.width).map (fun l => if l ∈ e.lanes then e.vreg l a.toNat else ident)) 0 (e.lfsr (e.lanes.headD 0))
    rw [power.1, values, h.foldr_filter, range_filter_lanes inside power.2] at tree
    rw [Env.reduce_some none]
    dsimp only
    rw [tree]
    simp [Env.putLfsr, hrm, putFlags, Env.values, Env.lanes]

/-- An integer reduction. -/
theorem writes_reduce {i : Instr} {d a : Reg} {op : W32 → W32 → W32} {ident : W32} {signed : Bool} (hi : i ≠ .refill)
    (hx : ∀ s, exec i s = withWord s i (fun _ e => e.reduce d a (plainOp op) ident signed)) (h : Unordered op ident) {v : Env → W32} (hv : ∀ e : Env, v e = (e.values a).foldr op ident) :
    Writes i (fun _ e => e.legal ∧ e.rm ≠ 5) (fun _ e => e.deliver d signed (v e)) :=
  .of_inside hi hx (fun _ e inside ⟨legal, hrm⟩ => by rw [hv, Env.reduce_plain inside legal hrm h]) fun _ e _ => regActs_deliver e d signed _

/-- A floating reduction. -/
theorem writes_tree {i : Instr} {d a : Reg} {op : Env → RedOp} {ident : W32} (hi : i ≠ .refill)
    (hx : ∀ s, exec i s = withWord s i (fun _ e => e.reduce d a (op e) ident false)) :
    Writes i (fun _ e => e.legal ∧ e.lanes = []) (fun _ e => e.deliver d false ident) ∧
    Writes i (fun _ e => e.legal ∧ e.lanes ≠ []) (fun _ e =>
      let r := redTree (op e) (Nat.log2 e.c.x.width) ((List.range e.c.x.width).map (fun l => if l ∈ e.lanes then e.vreg l a.toNat else ident)) 0 (e.lfsr (e.lanes.headD 0))
      e.deliver d false r.1 ++ e.putLfsr (e.lanes.headD 0) r.2.2 ++ putFlags r.2.1) :=
  ⟨.of hi hx (fun _ _ ⟨_, idle⟩ => Env.reduce_none idle ..) fun _ e _ => regActs_deliver e d false _,
    .of hi hx (fun _ _ ⟨_, busy⟩ => Env.reduce_some busy ..) fun _ e _ => ((regActs_deliver e d false _).append (regActs_putLfsr e _ _)).append (regActs_putFlags _)⟩

/-- Settles O21: an unordered operation's tree is the fold over the active lanes, and each pass of a tree runs its operations in order. -/
theorem reductions : Obligations.Reductions := by
  unfold Obligations.Reductions
  intro d a
  refine ⟨?radd, ?rmin, ?rmax, ?rumin, ?rumax, ?floats, ?add, ?extreme, ?addSr, fun _ _ _ _ => rfl, ?pass⟩
  case radd =>
    refine writes_reduce (i := .radd d a) nofun (fun _ => rfl) unordered_add fun e => ?_
    induction e.values a with
    | nil => rfl
    | cons x l ih => rw [List.map_cons, List.sum_cons, List.foldr_cons, ← ih, BitVec.ofNat_add, BitVec.ofNat_toNat, BitVec.setWidth_eq]
  case rmin =>
    refine writes_reduce (i := .rmin d a) nofun (fun _ => rfl) unordered_minS fun e => ?_
    rw [List.foldl_eq_foldr]
    exact (congrArg (BitVec.ofInt 32) (foldr_hom (ident := 0x7FFFFFFF) toInt_minS (e.values a))).symm.trans BitVec.ofInt_toInt
  case rmax =>
    refine writes_reduce (i := .rmax d a) nofun (fun _ => rfl) unordered_maxS fun e => ?_
    rw [List.foldl_eq_foldr]
    exact (congrArg (BitVec.ofInt 32) (foldr_hom (ident := 0x80000000) toInt_maxS (e.values a))).symm.trans BitVec.ofInt_toInt
  case rumin =>
    refine writes_reduce (i := .rumin d a) nofun (fun _ => rfl) unordered_minU fun e => ?_
    rw [List.foldl_eq_foldr]
    exact (congrArg (BitVec.ofNat 32) (foldr_hom (ident := 0xFFFFFFFF) toNat_minU (e.values a))).symm.trans ((BitVec.ofNat_toNat ..).trans (BitVec.setWidth_eq _))
  case rumax =>
    refine writes_reduce (i := .rumax d a) nofun (fun _ => rfl) unordered_maxU fun e => ?_
    rw [List.foldl_eq_foldr]
    exact (congrArg (BitVec.ofNat 32) (foldr_hom (ident := 0) toNat_maxU (e.values a))).symm.trans ((BitVec.ofNat_toNat ..).trans (BitVec.setWidth_eq _))
  case floats =>
    rintro i op ident (⟨rfl, rfl, rfl⟩ | ⟨rfl, rfl, rfl⟩ | ⟨rfl, rfl, rfl⟩) 
    · exact writes_tree (i := .rfadd d a) nofun fun _ => rfl
    · exact writes_tree (i := .rfmin d a) (op := fun _ => minmaxOp false) nofun fun _ => rfl
    · exact writes_tree (i := .rfmax d a) (op := fun _ => minmaxOp true) nofun fun _ => rfl
  case add =>
    intro x y s rm hrm
    exact ⟨_, Num.add_sum rm _ _, by unfold addOp; dsimp only; rw [Fmt.round_of_ne _ hrm]⟩
  case extreme => exact fun x y s mx => ⟨_, Num.minmax_extreme mx _ _, rfl⟩
  case addSr => exact fun x y s => ⟨_, Num.add_sum 5 _ _, rfl⟩
  case pass =>
    intro op n x f s
    refine ⟨passState op (2 ^ n) x s, rfl, fun _ _ => rfl, ?_⟩
    exact congrArg (fun r => redTree op n r.1 r.2.1 r.2.2) (redPass_eq ..)

end Sys2Proof.Machine
end

section
/-! SUPPORT. Conversions between integers and floats, `frnd`, `seed` and the steps of SR (R64, R161, R169, R170, R175). -/

namespace Sys2Proof.Machine

/-! ### Words that round a value -/

theorem GivesFloat.of {i : Instr} {d : Reg} {ok : Env → Nat → Num × Flags → Prop} {r : Env → Nat → Num × Flags} (hi : i ≠ .refill)
    (hx : ∀ s, exec i s = withWord s i (fun _ e => e.fltWord d (r e))) (hok : ∀ e l, ok e l (r e l)) : GivesFloat i d ok :=
  ⟨r, hok, .of hi hx (fun _ _ _ => rfl) fun _ e _ => regActs_fltWord e d _⟩

theorem GivesHalves.of {i : Instr} {f : Fmt} {d : Reg} {ok : Env → Nat → Nat → Num × Flags → Prop} {op : Env → Nat → Nat → Num × Flags} (hi : i ≠ .refill)
    (hx : ∀ s, exec i s = withWord s i (fun _ e => e.halfWord f d (op e))) (hok : ∀ e l j, ok e l j (op e l j)) : GivesHalves i f d ok :=
  ⟨op, hok, .of hi hx (fun _ _ _ => rfl) fun _ e _ => regActs_halfWord e f d _⟩

/-! ### The LFSR (R64) -/

theorem lfsrStep_bits (s : W32) : HasBits (lfsrStep s) (fun j => if j = 0 then s.getLsbD 31 ^^ s.getLsbD 21 ^^ s.getLsbD 1 ^^ s.getLsbD 0 else s.getLsbD (j - 1)) := by
  intro j hj
  unfold lfsrStep
  dsimp only
  generalize (s.getLsbD 31 ^^ s.getLsbD 21 ^^ s.getLsbD 1 ^^ s.getLsbD 0) = b
  have bit : (if b = true then 1 else 0 : W32).getLsbD j = (decide (j = 0) && b) := by
    cases b
    · simp
    · simp [BitVec.getLsbD_one]
  rw [BitVec.getLsbD_or, BitVec.getLsbD_shiftLeft, bit]
  by_cases h : j = 0 <;> simp [h, hj]

/-! ### Integers (R169, R170) -/

/-- The range of an integer destination (R60). -/
theorem Env.range_eq (e : Env) (h : e.pc.dnf.toNat ≤ 6) (lo hi : Int) : rangeI e.pc.dnf.toNat lo hi = e.range lo hi := by
  unfold Env.range
  generalize e.pc.dnf.toNat = k at h ⊢
  interval_cases k <;> rfl

/-- The state of a lane's LFSR that a conversion draws from. -/
def Env.stepped (e : Env) (l : Nat) : W32 := if e.rm = 5 then lfsrStep (e.lfsr l) else e.lfsr l

/-- A lane's conversion to an integer. -/
def Env.converted (e : Env) (a : Reg) (lo hi : Int) (l : Nat) : Int × Flags := (e.fltA a l).1.toInt e.rm ((e.stepped l).toNat % 2 ^ 24) lo hi

theorem Env.toIntWord_eq (e : Env) (a : Reg) (lo hi : Int) (put : Nat → Int → List Act) : e.toIntWord a lo hi put =
    .ofActs (e.lanes.flatMap (fun l => put l (e.converted a lo hi l).1 ++ e.putLfsr l (e.stepped l)) ++
      putFlags (e.lanes.foldl (fun (v : Flags) l => v ||| ((e.fltA a l).2 ||| (e.converted a lo hi l).2)) 0)) := rfl

/-- The halves of a 64-bit result. -/
theorem setWidth_ofInt (v : Int) : (BitVec.ofInt 64 v).setWidth 32 = BitVec.ofInt 32 v := by
  refine BitVec.eq_of_toNat_eq ?_
  simp only [BitVec.toNat_setWidth, BitVec.toNat_ofInt]
  omega

theorem setWidth_ushiftRight_ofInt (v : Int) : (BitVec.ofInt 64 v >>> 32).setWidth 32 = BitVec.ofInt 32 (v / 2 ^ 32) := by
  refine BitVec.eq_of_toNat_eq ?_
  simp only [BitVec.toNat_setWidth, BitVec.toNat_ushiftRight, BitVec.toNat_ofInt, Nat.shiftRight_eq_div_pow]
  omega

/-! ### Integral values (R161) -/

/-- A whole number of a significand's width, times a power of two, draws nothing. -/
theorem Fmt.encode_whole {f : Fmt} (hlow : f.emin ≤ f.m) (rm : Nat) (neg : Bool) {k : Nat} (hk : k ≤ 2 ^ (f.m + 1)) (j draw draw' : Nat) :
    f.encode rm (.fin neg (k * 2 ^ j) 0) draw = f.encode rm (.fin neg (k * 2 ^ j) 0) draw' := by
  have divides {n j : Nat} (hn : n ≠ 0) (width : Nat.log2 n ≤ f.m) : f.encode rm (.fin neg (n * 2 ^ j) 0) draw = f.encode rm (.fin neg (n * 2 ^ j) 0) draw' := by
    have log : Nat.log2 (n * 2 ^ j) = Nat.log2 n + j := by
      rw [Nat.log2_eq_iff (by positivity), Nat.pow_add, Nat.add_right_comm, Nat.pow_add _ _ j]
      exact ⟨Nat.mul_le_mul_right _ (Nat.log2_self_le hn), Nat.mul_lt_mul_of_pos_right Nat.lt_log2_self (by positivity)⟩
    have unit : f.unit (Nat.log2 (n * 2 ^ j) + 0) ≤ j := by
      rw [Fmt.unit_eq, log]
      push_cast
      omega
    refine Fmt.roundFin_exact (n := n * 2 ^ (j - f.unit (Nat.log2 (n * 2 ^ j) + 0)).toNat) (by positivity) ?_ draw draw'
    rw [zero_sub, Nat.cast_mul, Nat.cast_mul, mul_assoc]
    have whole : ((j - f.unit (Nat.log2 (n * 2 ^ j) + 0)).toNat : Int) = j - f.unit (Nat.log2 (n * 2 ^ j) + 0) := Int.toNat_of_nonneg (sub_nonneg.2 unit)
    congr 1
    push_cast
    rw [← zpow_natCast (2 : Rat), ← zpow_natCast (2 : Rat), ← zpow_add₀ two_ne_zero, whole]
    rw [sub_eq_add_neg]
  by_cases zero : k = 0
  · rw [zero, Nat.zero_mul]
    rfl
  · rcases Nat.lt_or_eq_of_le hk with less | full
    · exact divides zero (Nat.lt_succ_iff.1 ((Nat.log2_lt zero).2 less))
    · rw [full, ← Nat.pow_add]
      simpa only [Nat.one_mul] using divides (n := 1) (j := f.m + 1 + j) one_ne_zero ((show Nat.log2 1 = 0 by decide) ▸ Nat.zero_le _)

/-- A finite value below a bound rounds to a whole number that is no longer, times a power of two. -/
theorem roundInt_width (rm : Nat) (neg : Bool) {m b : Nat} (hm : m ≤ 2 ^ b) (e : Int) (draw : Nat) : ∃ k j, k ≤ 2 ^ b ∧ (roundInt rm neg m e draw).1 = k * 2 ^ j := by
  rcases le_or_gt 0 e with h | h
  · refine ⟨m, e.toNat, hm, ?_⟩
    unfold roundInt
    rw [roundQ_of_le h, sub_zero]
  · refine ⟨(roundInt rm neg m e draw).1, 0, ?_, by simp⟩
    refine roundQ_le (le_trans ?_ (Nat.cast_le.2 hm))
    exact mul_le_of_le_one_right (Nat.cast_nonneg _) (zpow_le_one_of_nonpos₀ one_le_two (by omega))

theorem fmtOf_mantissa (k : Nat) : (fmtOf k).m ≤ 23 := by unfold fmtOf; split <;> decide

/-- A finite source has at most 24 significant bits. -/
theorem Env.flt_width {e : Env} {r : Reg} {f p l m : Nat} {neg : Bool} {q : Int} (h : (e.flt r f p l).1 = .fin neg m q) : m < 2 ^ 24 := by
  have decoded : (fmtOf f).decode (e.fltCode r f p l).2 = .fin neg m q := by
    unfold Env.flt at h
    dsimp only at h
    split at h
    · split at h <;> cases h
    · exact h
  have bound : (e.fltCode r f p l).2 < 2 ^ (fmtOf f).w := Nat.mod_lt _ (by positivity)
  exact (Fmt.place_decode (fmtOf_sound f) bound decoded).1.width.trans_le (Nat.pow_le_pow_right (by decide) (by have := fmtOf_mantissa f; omega))

/-- An integral value fits FP32: it draws nothing there. -/
theorem Env.encode_integral (e : Env) (a : Reg) (l rm draw k k' : Nat) : fp32.encode rm ((e.fltA a l).1.integral rm draw).1 k = fp32.encode rm ((e.fltA a l).1.integral rm draw).1 k' := by
  cases h : (e.fltA a l).1 with
  | nan s => rfl
  | inf n => rfl
  | fin n m q =>
    obtain ⟨c, j, hc, value⟩ := roundInt_width rm n (Env.flt_width h).le q draw
    change fp32.encode rm (.fin n (roundInt rm n m q draw).1 0) k = fp32.encode rm (.fin n (roundInt rm n m q draw).1 0) k'
    rw [value]
    exact Fmt.encode_whole (by decide) rm n hc j k k'

section frnd

variable (e : Env) (a : Reg) (l : Nat)

/-- A lane's whole number. -/
def Env.whole : Num × Flags := (e.fltA a l).1.integral e.rm ((e.stepped l).toNat % 2 ^ 24)

/-- A lane's LFSR after `frnd`: a narrow D takes a second step. -/
def Env.stepped2 : W32 := if e.pc.dnf = 0 then e.stepped l else if e.rm = 5 then lfsrStep (e.stepped l) else e.stepped l

/-- A lane's whole number in D's format. -/
def Env.wholeIn : Nat × Flags := (fmtOf e.pc.dnf.toNat).encode e.rm (e.whole a l).1 ((e.stepped2 l).toNat % 2 ^ 24)

/-- The second rounding of `frnd`, which FP32 does without. -/
def Env.wholeRound : Nat × Flags × W32 :=
  if e.pc.dnf = 0 then (((fmtOf e.pc.dnf.toNat).encode e.rm (e.whole a l).1 0).1, 0, e.stepped l) else (fmtOf e.pc.dnf.toNat).round e.rm (e.whole a l).1 (e.stepped l)

theorem Env.wholeRound_eq : e.wholeRound a l = ((e.wholeIn a l).1, if e.pc.dnf = 0 then 0 else (e.wholeIn a l).2, e.stepped2 l) := by
  unfold Env.wholeRound
  by_cases full : e.pc.dnf = 0
  · have zero : e.pc.dnf.toNat = 0 := by rw [full]; rfl
    have same : (fmtOf e.pc.dnf.toNat).encode e.rm (e.whole a l).1 0 = e.wholeIn a l := by
      unfold Env.wholeIn
      rw [zero]
      exact e.encode_integral a l e.rm _ 0 _
    rw [if_pos full, if_pos full, same, Env.stepped2, if_pos full]
  · rw [if_neg full, if_neg full, Env.wholeIn, Env.stepped2, if_neg full]
    rfl

end frnd

/-- `frnd` rounds once to a whole number, and into a narrow D once more. -/
theorem Env.frnd_eq (e : Env) (d a : Reg) : e.frnd d a =
    .ofActs (e.lanes.flatMap (fun l => e.putFlt d l (e.wholeIn a l).1 ++ e.putLfsr l (e.stepped2 l)) ++
      putFlags (e.lanes.foldl (fun (v : Flags) l => v ||| ((e.fltA a l).2 ||| (e.whole a l).2 ||| (if e.pc.dnf = 0 then 0 else (e.wholeIn a l).2))) 0)) := by
  have unfolded : e.frnd d a = .ofActs (e.lanes.flatMap (fun l => e.putFlt d l (e.wholeRound a l).1 ++ e.putLfsr l (e.wholeRound a l).2.2) ++
    putFlags (e.lanes.foldl (fun (v : Flags) l => v ||| ((e.fltA a l).2 ||| (e.whole a l).2 ||| (e.wholeRound a l).2.1)) 0)) := rfl
  simp only [unfolded, Env.wholeRound_eq]

/-- Settles O18: each word is the frame around its lanes' roundings, and a whole number that `frnd` gives fits FP32. -/
theorem floatConversions : Obligations.FloatConversions := by
  unfold Obligations.FloatConversions
  refine ⟨lfsrStep_bits, ?_⟩
  intro d a b next st draw stepped int flags narrow
  have lfsrs (e : Env) (l : Nat) (s : W32) : e.putLfsr l s = stepped e l s := rfl
  have regs (e : Env) (lo hi : Int) {put : Nat → Int → List Act} (h : ∀ l v, regActs (put l v)) :
      regActs (e.lanes.flatMap (fun l => put l (int e lo hi l).1 ++ stepped e l (st e l)) ++ flags e lo hi) :=
    .append (.flatMap fun l => .append (h l _) (regActs_putLfsr e l _)) (regActs_putFlags _)
  have narrows {i : Instr} {lo hi : Int} (h : i ≠ .refill) (hx : ∀ s, exec i s = withWord s i (fun _ e => e.toIntField d a lo hi)) : narrow i lo hi := by
    refine .of h hx (fun _ e he => ?_) fun _ e _ => regs e _ _ fun l v => regActs_put e d l _ _
    unfold Env.toIntField
    dsimp only
    rw [e.range_eq he]
    rfl
  refine ⟨?i2f, ?z2f, ?l2f, ?pkh2, ?pkbf2, ?f2i, ?f2z, ?f2l, ?frnd, ?seed⟩
  case i2f => exact .of nofun (fun _ => rfl) fun e l => ⟨numOf_is _, numOf_neg _, rfl⟩
  case z2f => exact .of nofun (fun _ => rfl) fun e l => ⟨numOf_is _, by rw [numOf_neg]; simp, rfl⟩
  case l2f => exact .of nofun (fun _ => rfl) fun e l => ⟨numOf_is _, numOf_neg _, rfl⟩
  case pkh2 => exact .of nofun (fun _ => rfl) fun e l j => rfl
  case pkbf2 => exact .of nofun (fun _ => rfl) fun e l j => rfl
  case f2i => exact narrows nofun fun _ => rfl
  case f2z => exact narrows nofun fun _ => rfl
  case f2l =>
    refine .of nofun (fun _ => rfl) (fun _ e _ => ?_) fun _ e _ => regs e _ _ fun l v => .append (regActs_putAt e d 0 l _) (regActs_putAt e d 1 l _)
    simp only [setWidth_ofInt, setWidth_ushiftRight_ofInt]
    rfl
  case frnd =>
    refine .of nofun (fun _ => rfl) (fun _ e _ => e.frnd_eq d a) fun _ e _ => ?_
    exact regActs.append (.flatMap fun l => .append (regActs_putFlt e d l _) (regActs_putLfsr e l _)) (regActs_putFlags _)
  case seed =>
    refine .of nofun (fun _ => rfl) (fun _ e _ => rfl) fun _ e _ a ha => ?_
    obtain ⟨l, -, rfl⟩ := List.mem_map.1 ha
    rfl

end Sys2Proof.Machine
end

section
/-! SUPPORT. A run of one word in a quiet partition that raises a user trap (R311, R313), once for all meanings. -/

namespace Sys2Proof.Machine

/-- An abort on a user trap that can be delivered, with no swap under way, enters the handler. -/
theorem State.held_traps {s : State} {q : Nat} {c : Ctx} {cs : AMap Core} {r : Run} {k : Cond} (hu : k.cause.isUser = true) (hd : c.deliverable) (hs : (s.part q).swaps = []) :
    (s.held q c.w (c.x.queued s.now r) cs).abort q { c with x := c.x.queued s.now r } r k = s.held q c.w (c.trapped k r.start s.now) cs := by
  obtain ⟨handler, target, out⟩ := hd
  have other : k.cause ≠ .memue := fun e => by
    rw [e] at hu
    exact absurd hu (by decide)
  have entered : (((s.part q).holding c.w (c.x.queued s.now r) cs).takeCond { c with x := c.x.queued s.now r } k r.start s.now).swapStops s.now =
      (s.part q).holding c.w (c.trapped k r.start s.now) cs := by
    have untaken : ¬ (c.x.trap.thnd = 0 ∨ (!c.grid.k.target c.x.trap.thnd) = true ∨ c.x.trap.inh = true) := by
      simp only [target, out, Bool.not_true, Bool.false_eq_true, or_false]
      exact handler
    unfold Part.takeCond
    rw [if_pos hu]
    unfold Part.userTrap
    refine (congrArg (fun p : Part => p.swapStops s.now) ((if_neg untaken).trans (Part.holding_setWarp ..))).trans ?_
    rw [Part.swapStops_nil (by exact hs)]
    rfl
  unfold State.abort
  rw [if_neg other]
  exact State.held_modPart _ _ _ _ _ _ _ entered

/-- A lone word with a user trap's condition enters the warp's handler. -/
theorem Lone.traps {s : State} {i : Instr} {iss : Issue} {c : Ctx} (h : Lone s i iss c) {w : Word} {k : Cond} (hk : w.cond = some k) (hu : k.cause.isUser = true)
    (hd : c.deliverable) (hacts : w.acts = []) (hterm : w.term = .none) :
    OnlyWarp s (s.issued iss c w) iss.q c.w (c.trapped k iss.addr s.now) (Sparse.rd ((s.part iss.q).core c.w.core).rf) := by
  have hctx := h.ctx
  rw [← (Part.ctx_some hctx).1] at hctx
  have cond : (s.runWith iss c w).cond = some k := by simp [State.runWith, h.runAt, Run.add, openRun, hk, Cond.first]
  have start : (s.runWith iss c w).start = iss.addr := by simp [State.runWith, h.runAt, Run.add, openRun]
  have quiet : (s.runWith iss c w).accesses = [] := Run.quiet (by rw [h.runWith_acts, hacts]; exact nofun) (by rw [h.runWith_term, hterm]; exact nofun)
  have entered : s.issued iss c w = s.held iss.q c.w (c.trapped k iss.addr s.now) (s.part iss.q).cores := by
    unfold State.issued
    have queued : s.queued iss c w = s.held iss.q c.w (c.x.queued s.now (s.runWith iss c w)) (s.part iss.q).cores := h.queued w
    rw [if_pos (by simp [h.bung]), queued, State.held_aborts (x := c.x.queued s.now (s.runWith iss c w)) hctx rfl rfl cond h.noLoop quiet, State.held_traps hu hd h.unswapped, start]
  rw [entered]
  exact State.held_only ⟨fun _ _ => rfl, rfl, fun _ => rfl⟩

/-- A meaning that is the frame around `f` traps where `f` gives a user trap's condition and no effect. -/
theorem Traps.of {i : Instr} {ok : State → Env → Prop} {f : State → Env → Word} {k : State → Env → Cond} (hx : ∀ s, exec i s = withWord s i f)
    (hf : ∀ s e, ok s e → f s e = .ofCond (k s e)) (hk : ∀ s e, (k s e).cause.isUser = true) : Traps i ok k := by
  intro s iss c h hok hd
  exact ⟨_, by rw [hx, withWord_issues h.toIssues, hf _ _ hok], h.traps rfl (hk _ _) hd rfl rfl⟩

end Sys2Proof.Machine
end

section
/-! SUPPORT. Block formats (R66-R69): scale codes, mantissas and block values. -/

namespace Sys2Proof.Machine

/-! ### Mantissas (R67, R68) -/

/-- A mantissa is its scaled element rounded and clamped. -/
theorem quantise_spec {n : Nat} (hn : 2 ≤ n) (c rm draw : Nat) {x : Num} {v : Rat} (hx : x.Is v) :
    let y : Rat := v * (2 : Rat) ^ (127 + ((n : Int) - 2) - (c : Int))
    let r := rounded rm draw y
    quantise x c n rm draw = if r < -(2 ^ (n - 1)) then (-(2 ^ (n - 1)), fSAT ||| fNX) else if 2 ^ (n - 1) - 1 < r then (2 ^ (n - 1) - 1, fSAT ||| fNX)
      else (r, flagIf (decide ((r : Rat) ≠ y)) fNX) := by
  obtain ⟨neg, m, e, rfl, rfl⟩ := hx.exists_fin
  obtain ⟨value, exact_⟩ := roundQ_spec rm neg m (e + 127 + (n - 2 : Nat) - c) 0 draw
  have scaled : (if neg then -1 else 1 : Rat) * ((m : Rat) * (2 : Rat) ^ (e + 127 + (n - 2 : Nat) - c - 0)) =
      (if neg then -1 else 1) * ((m : Rat) * (2 : Rat) ^ e) * (2 : Rat) ^ (127 + ((n : Int) - 2) - (c : Int)) := by
    rw [mul_assoc, mul_assoc, ← zpow_add₀ two_ne_zero]
    congr 3
    omega
  have nonzero : (if neg then -1 else 1 : Rat) ≠ 0 := by cases neg <;> simp
  rw [← mul_right_inj' nonzero, scaled, ← sgn_cast, value, scaled] at exact_
  rw [scaled] at value
  have inexact : (!(roundQ rm neg m (e + 127 + (n - 2 : Nat) - c) 0 draw).2) =
      decide (((rounded rm draw ((if neg then -1 else 1) * ((m : Rat) * (2 : Rat) ^ e) * (2 : Rat) ^ (127 + ((n : Int) - 2) - (c : Int))) : Int) : Rat) ≠
        (if neg then -1 else 1) * ((m : Rat) * (2 : Rat) ^ e) * (2 : Rat) ^ (127 + ((n : Int) - 2) - (c : Int))) := by
    rw [Bool.eq_iff_iff, Bool.not_eq_true', decide_eq_true_eq, Ne, ← exact_, Bool.not_eq_true]
  unfold quantise
  dsimp only
  rw [value, inexact]
  push_cast
  rfl

theorem blockValue_is (m : Int) (c : Nat) {n : Nat} (hn : 2 ≤ n) : (blockValue m c n).Is ((m : Rat) * (2 : Rat) ^ ((c : Int) - 127 - ((n : Int) - 2))) := by
  rw [show (n : Int) - 2 = ((n - 2 : Nat) : Int) by omega]
  exact numOfInt_is ..

/-! ### Scale codes (R68) -/

theorem scaleCode_inf {xs : List Num} {n : Bool} (h : Num.inf n ∈ xs) : scaleCode xs = 255 := by
  unfold scaleCode
  exact if_pos (List.any_eq_true.2 ⟨_, h, rfl⟩)

section noInf

variable {xs : List Num} (h : ∀ n, Num.inf n ∉ xs)
include h

theorem not_any_inf : ¬ (xs.any (fun x => match x with | .inf _ => true | _ => false)) = true := by
  intro any
  obtain ⟨x, hx, inf⟩ := List.any_eq_true.1 any
  cases x with
  | inf n => exact h n hx
  | nan s => cases inf
  | fin n m e => cases inf

theorem scaleCode_of_nil (none : xs.filterMap Num.log2 = []) : scaleCode xs = 0 := by
  refine (if_neg (not_any_inf h)).trans ?_
  rw [none]

/-- The scale code of a block without an infinity is that of its largest exponent. -/
theorem scaleCode_of_cons {l : Int} {ls : List Int} (logs : xs.filterMap Num.log2 = l :: ls) : scaleCode xs = (max 0 (min 255 (ls.foldl max l + 127))).toNat := by
  refine (if_neg (not_any_inf h)).trans ?_
  rw [logs]

end noInf

/-- The exponents of a block are those of its values other than 0. -/
theorem Num.log2_is {x : Num} {l : Int} : x.log2 = some l ↔ ∃ v, x.Is v ∧ (2 : Rat) ^ l ≤ |v| ∧ |v| < (2 : Rat) ^ (l + 1) := by
  cases x with
  | nan s => simp [Num.log2, Num.Is]
  | inf n => simp [Num.log2, Num.Is]
  | fin neg m e =>
    have size : (0 : Rat) ≤ (m : Rat) * (2 : Rat) ^ e := by have := two_zpow_pos e; positivity
    have binade : (∃ v, (Num.fin neg m e).Is v ∧ (2 : Rat) ^ l ≤ |v| ∧ |v| < (2 : Rat) ^ (l + 1)) ↔ (2 : Rat) ^ l ≤ (m : Rat) * (2 : Rat) ^ e ∧ (m : Rat) * (2 : Rat) ^ e < (2 : Rat) ^ (l + 1) := by
      simp only [Num.Is.fin_iff, exists_eq_left, abs_signed neg size]
    rw [binade]
    unfold Num.log2
    dsimp only
    by_cases hm : m = 0
    · rw [if_pos hm, hm, Nat.cast_zero, zero_mul]
      exact iff_of_false nofun fun k => absurd k.1 (not_le.2 (two_zpow_pos l))
    · rw [if_neg hm, Option.some.injEq]
      refine ⟨?_, fun k => binade_unique (log2_zpow hm e).1 (log2_zpow hm e).2 k.1 k.2⟩
      rintro rfl
      exact log2_zpow hm e

theorem scaleCode_zeros {xs : List Num} (h : ∀ n, Num.inf n ∉ xs) (zeros : ∀ x ∈ xs, ∀ v, x.Is v → v = 0) : scaleCode xs = 0 := by
  have none : xs.filterMap Num.log2 = [] := List.filterMap_eq_nil_iff.2 fun x hx => Option.eq_none_iff_forall_ne_some.2 fun l hl => by
    obtain ⟨v, hv, low, -⟩ := Num.log2_is.1 hl
    rw [zeros x hx v hv, abs_zero] at low
    exact absurd low (not_le.2 (two_zpow_pos l))
  exact scaleCode_of_nil h none

/-- The scale code of a block by the binade of its largest magnitude. -/
theorem scaleCode_largest {xs : List Num} {M : Rat} {t : Int} (h : ∀ n, Num.inf n ∉ xs) (most : ∀ x ∈ xs, ∀ v, x.Is v → |v| ≤ M) (has : ∃ x ∈ xs, ∃ v, x.Is v ∧ |v| = M)
    (low : (2 : Rat) ^ t ≤ M) (high : M < (2 : Rat) ^ (t + 1)) : (scaleCode xs : Int) = max 0 (min 255 (t + 127)) := by
  have mem : t ∈ xs.filterMap Num.log2 := by
    obtain ⟨x, hx, v, hv, rfl⟩ := has
    exact List.mem_filterMap.2 ⟨x, hx, Num.log2_is.2 ⟨v, hv, low, high⟩⟩
  have above (l : Int) (hl : l ∈ xs.filterMap Num.log2) : l ≤ t := by
    obtain ⟨x, hx, log⟩ := List.mem_filterMap.1 hl
    obtain ⟨v, hv, least, -⟩ := Num.log2_is.1 log
    exact Int.lt_add_one_iff.1 ((zpow_lt_zpow_iff_right₀ (one_lt_two (α := Rat))).1 ((least.trans (most x hx v hv)).trans_lt high))
  cases logs : xs.filterMap Num.log2 with
  | nil => rw [logs] at mem; cases mem
  | cons l ls =>
    rw [logs] at mem above
    obtain ⟨top, upper⟩ := List.max?_eq_some_iff.1 (List.max?_cons' (x := l) (xs := ls))
    rw [scaleCode_of_cons h logs, le_antisymm (above _ top) (upper t mem)]
    exact Int.toNat_of_nonneg (le_max_left ..)

end Sys2Proof.Machine
end

section
/-! SUPPORT. The block words on groups of 32 lanes (R171-R174). -/

namespace Sys2Proof.Machine

/-! ### Numbers by their bits -/

/-- Bits summed at rising places are the number's bits. -/
theorem testBit_sum (B : Nat → Bool) {l : List Nat} (h : l.Pairwise (· < ·)) (j : Nat) : (l.foldl (fun v k => v + b2n (B k) * 2 ^ k) 0).testBit j = (decide (j ∈ l) && B j) := by
  induction l using List.reverseRecOn generalizing j with
  | nil => simp
  | append_singleton l x ih =>
    obtain ⟨sorted, -, below⟩ := List.pairwise_append.1 h
    have low : l.foldl (fun v k => v + b2n (B k) * 2 ^ k) 0 < 2 ^ x := Nat.lt_pow_two_of_testBit _ fun i hi => by
      rw [ih sorted, decide_eq_false fun m => absurd (below i m x (by simp)) (not_lt.2 hi), Bool.false_and]
    rw [List.foldl_append, List.foldl_cons, List.foldl_nil, Nat.add_comm, Nat.mul_comm, Nat.testBit_two_pow_mul_add _ low, ih sorted]
    split
    case isTrue less => simp [less.ne]
    case isFalse more =>
      have beyond : j ∉ l := fun m => absurd (below j m x (by simp)) more
      have bit : (b2n (B x)).testBit (j - x) = (decide (j = x) && B x) := by
        by_cases e : j = x
        · rw [e]
          cases B x <;> simp [b2n]
        · have above : j - x ≠ 0 := by omega
          have one : Nat.testBit 1 (j - x) = false := Nat.testBit_lt_two_pow (Nat.one_lt_two_pow above)
          cases B x <;> simp [b2n, e, one]
      rw [bit]
      by_cases e : j = x <;> simp [e, beyond]

/-! ### Groups of lanes (R171) -/

theorem filter_append_filter {l : List Nat} (h : l.Pairwise (· < ·)) (t : Nat) : l.filter (fun k => decide (k < t)) ++ l.filter (fun k => decide (t ≤ k)) = l := by
  induction l with
  | nil => rfl
  | cons x l ih =>
    obtain ⟨first, sorted⟩ := List.pairwise_cons.1 h
    by_cases low : x < t
    · simp [low, low.not_ge, ih sorted]
    · have none : l.filter (fun k => decide (k < t)) = [] := List.filter_eq_nil_iff.2 fun k hk => by have := first k hk; simp; omega
      have all : l.filter (fun k => decide (t ≤ k)) = l := List.filter_eq_self.2 fun k hk => by have := first k hk; simp; omega
      simp [low, not_lt.1 low, none, all]

/-- What is done group by group is done lane by lane. -/
theorem flatMap_groups {α : Type} (G : Nat → Nat → List α) (n : Nat) {l : List Nat} (h : l.Pairwise (· < ·)) (bound : ∀ k ∈ l, k < 32 * n) :
    (List.range n).flatMap (fun g => (l.filter (fun k => k / 32 == g)).flatMap (G g)) = l.flatMap (fun k => G (k / 32) k) := by
  induction n generalizing l with
  | zero =>
    have none : l = [] := List.eq_nil_iff_forall_not_mem.2 fun k hk => absurd (bound k hk) (by omega)
    rw [none]
    rfl
  | succ n ih =>
    have before : (List.range n).flatMap (fun g => (l.filter (fun k => k / 32 == g)).flatMap (G g)) =
        (List.range n).flatMap (fun g => ((l.filter (fun k => decide (k < 32 * n))).filter (fun k => k / 32 == g)).flatMap (G g)) := List.flatMap_congr fun g hg => by
      rw [List.filter_filter]
      congr 1
      refine List.filter_congr fun k _ => ?_
      have := List.mem_range.1 hg
      by_cases e : k / 32 = g
      · have : k < 32 * n := by omega
        simp [e, this]
      · simp [e]
    have last : (l.filter (fun k => k / 32 == n)).flatMap (G n) = (l.filter (fun k => decide (32 * n ≤ k))).flatMap (fun k => G (k / 32) k) := by
      have same : l.filter (fun k => k / 32 == n) = l.filter (fun k => decide (32 * n ≤ k)) := List.filter_congr fun k hk => by
        have := bound k hk
        rw [Bool.eq_iff_iff, beq_iff_eq, decide_eq_true_eq]
        omega
      rw [same]
      refine List.flatMap_congr fun k hk => ?_
      obtain ⟨mem, low⟩ := List.mem_filter.1 hk
      have := bound k mem
      rw [decide_eq_true_eq] at low
      rw [show k / 32 = n by omega]
    rw [List.range_succ, List.flatMap_append, before, ih (h.filter _) (fun k hk => by simpa using (List.mem_filter.1 hk).2), List.flatMap_singleton, last, ← List.flatMap_append,
      filter_append_filter h]

/-- The widths of the block words. -/
def Env.blocks (e : Env) : Prop := e.c.x.width = 32 ∨ e.c.x.width = 64 ∨ e.c.x.width = 128

theorem Env.blockWord_eq {e : Env} (h : e.blocks) (w : Word) : e.blockWord w = w := if_neg (by rcases h with h | h | h <;> omega)

theorem Env.blockWord_width {e : Env} (h : e.c.x.width < 32) (w : Word) : e.blockWord w = .ofCond (e.cond .width (BitVec.ofNat 64 e.c.x.width) 0) := if_pos h

/-! ### `bexp` (R172) -/

theorem Env.bexp_eq {e : Env} (inside : e.inside) (h : e.blocks) (d a : Reg) : e.bexp d a = .ofActs (e.lanes.flatMap (fun l =>
    e.putFull d l (BitVec.ofNat 32 (scaleCode ((e.lanes.filter (fun k => decide (k / 32 = l / 32))).map (fun k => (e.fltA a k).1)))))) := by
  have whole : 32 * (e.c.x.width / 32) = e.c.x.width := by rcases h with h | h | h <;> rw [h]
  exact congrArg Word.ofActs (flatMap_groups (fun g l => e.putFull d l (BitVec.ofNat 32 (scaleCode ((e.groupLanes g).map (fun l => (e.fltA a l).1))))) _ (lanes_sorted e.act)
    (fun k hk => by rw [whole]; exact inside k hk))

/-! ### `bq` (R173) -/

section bq

variable (e : Env) (n : Nat) (a b : Reg)

/-- A lane's mantissa with its flags. -/
def Env.quantised (l : Nat) : Int × Flags := quantise (e.fltA a l).1 ((e.src b l).toNat % 256) n e.rm ((e.stepped l).toNat % 2 ^ 24)

/-- Plane `p` of a group's mantissas. -/
def Env.plane (g p : Nat) : Nat :=
  e.lanes.foldl (fun v l => if l / 32 = g then v + b2n ((BitVec.ofInt 8 (e.quantised n a b l).1).getLsbD p) * 2 ^ (l % 32) else v) 0

theorem Env.plane_bits (g p : Nat) : HasBits (BitVec.ofNat 32 (e.plane n a b g p)) (fun k =>
    e.act.getLsbD (32 * g + k) && decide (g < 4) && (BitVec.ofInt 8 (e.quantised n a b (32 * g + k)).1).getLsbD p) := by
  intro k hk
  have sum : e.plane n a b g p = (((e.lanes.filter (fun l => l / 32 = g)).map (fun l => l % 32)).foldl
      (fun v k => v + b2n ((BitVec.ofInt 8 (e.quantised n a b (32 * g + k)).1).getLsbD p) * 2 ^ k) 0) := by
    unfold Env.plane
    rw [List.foldl_map, List.foldl_filter]
    refine List.foldl_ext _ _ _ fun v l _ => ?_
    simp only [decide_eq_true_eq]
    split
    case isTrue e => rw [show 32 * g + l % 32 = l by omega]
    case isFalse => rfl
  have sorted : ((e.lanes.filter (fun l => l / 32 = g)).map (fun l => l % 32)).Pairwise (· < ·) := by
    refine List.pairwise_map.2 (((lanes_sorted e.act).filter _).imp_of_mem fun hx hy less => ?_)
    have := of_decide_eq_true (List.mem_filter.1 hx).2
    have := of_decide_eq_true (List.mem_filter.1 hy).2
    omega
  have mem : k ∈ (e.lanes.filter (fun l => l / 32 = g)).map (fun l => l % 32) ↔ e.act.getLsbD (32 * g + k) = true := by
    simp only [List.mem_map, List.mem_filter, decide_eq_true_eq, Env.lanes, mem_lanes]
    constructor
    · rintro ⟨l, ⟨on, rfl⟩, rfl⟩
      rwa [show 32 * (l / 32) + l % 32 = l by omega]
    · exact fun on => ⟨32 * g + k, ⟨on, by omega⟩, by omega⟩
  rw [BitVec.getLsbD_ofNat, sum, testBit_sum (fun k => (BitVec.ofInt 8 (e.quantised n a b (32 * g + k)).1).getLsbD p) sorted, decide_eq_true hk, Bool.true_and]
  congr 1
  rw [Bool.eq_iff_iff, decide_eq_true_eq, mem, Bool.and_eq_true, decide_eq_true_eq]
  refine ⟨fun on => ⟨on, ?_⟩, fun on => on.1⟩
  by_contra beyond
  rw [BitVec.getLsbD_of_ge _ _ (by omega)] at on
  cases on

/-- The steps that the active lanes' LFSRs take. -/
def Env.steps : List Act := if e.rm = 5 then e.lanes.map (fun l => Act.lfsr l (e.stepped l)) else []

theorem Env.bq_eq (d : Reg) : e.bq n d a b = .ofActs (e.lanes.flatMap (fun l => e.putFull d l (if l % 32 < n then BitVec.ofNat 32 (e.plane n a b (l / 32) (l % 32)) else 0)) ++
    e.steps ++ putFlags (e.lanes.foldl (fun (v : Flags) l => v ||| ((e.fltA a l).2 ||| (e.quantised n a b l).2)) 0)) := by
  have mantissa (l : Nat) : e.mantissa n a b l = ((e.quantised n a b l).1, (e.fltA a l).2 ||| (e.quantised n a b l).2, e.stepped l) := by
    have low : bits (e.src b l).toNat 7 0 = (e.src b l).toNat % 256 := by simp [bits]
    unfold Env.mantissa
    rw [low]
    rfl
  have steps : (e.lanes.map (fun l => (l, e.mantissa n a b l))).flatMap (fun m => e.putLfsr m.1 m.2.2.2) = e.steps := by
    rw [List.flatMap_map]
    unfold Env.putLfsr Env.steps
    simp only [mantissa]
    split
    · exact List.flatMap_pure_eq_map _ _
    · exact List.flatMap_eq_nil_iff.2 fun _ _ => rfl
  unfold Env.bq
  dsimp only
  rw [steps]
  simp only [List.foldl_map, mantissa]
  rfl

theorem regActs_bq (d : Reg) : regActs (e.bq n d a b).acts := by
  rw [Env.bq_eq]
  refine .append (.append (.flatMap fun l => regActs_putFull e d l _) ?_) (regActs_putFlags _)
  refine .ite (fun x hx => ?_) regActs_nil
  obtain ⟨l, -, rfl⟩ := List.mem_map.1 hx
  rfl

end bq

/-! ### `bdq` (R174) -/

/-- The mantissa of a lane, from the planes of its group. -/
def Env.planes (e : Env) (n : Nat) (a : Reg) (l : Nat) : Nat := (List.range n).foldl (fun v p => v + b2n ((e.vreg (32 * (l / 32) + p) a.toNat).getLsbD (l % 32)) * 2 ^ p) 0

theorem Env.planes_bits (e : Env) (n : Nat) (a : Reg) (l : Nat) :
    HasBits (BitVec.ofNat 8 (e.planes n a l)) (fun p => decide (p < n) && (e.vreg (32 * (l / 32) + p) a.toNat).getLsbD (l % 32)) := by
  intro p hp
  have sum := testBit_sum (fun p => (e.vreg (32 * (l / 32) + p) a.toNat).getLsbD (l % 32)) (List.pairwise_lt_range (n := n)) p
  rw [BitVec.getLsbD_ofNat, decide_eq_true hp, Bool.true_and]
  unfold Env.planes
  simp only [sum, List.mem_range]

theorem Env.bdq_eq (e : Env) {n : Nat} (hn : n ≤ 8) (d a b : Reg) :
    e.bdq n d a b = e.fltWord d (fun l => (blockValue (sxt n (BitVec.ofNat 8 (e.planes n a l)).toNat) ((e.src b l).toNat % 256) n, 0)) := by
  have low (l : Nat) : bits (e.src b l).toNat 7 0 = (e.src b l).toNat % 256 := by simp [bits]
  have sign (x : Nat) : sxt n (BitVec.ofNat 8 x).toNat = sxt n x := by
    unfold sxt
    rw [BitVec.toNat_ofNat, Nat.mod_mod_of_dvd _ (Nat.pow_dvd_pow 2 hn)]
  unfold Env.bdq
  dsimp only
  simp only [low, sign]
  rfl

/-! ### The family -/

/-- Settles O19: each word is written as what it puts into its lanes, group by group; its planes are sums of bits at rising places, so their bits are the mantissas'. -/
theorem blockWords : Obligations.BlockWords := by
  unfold Obligations.BlockWords
  intro legal
  refine ⟨fun d a b n hn => ?words, fun xs => ⟨fun ⟨n, hn⟩ => scaleCode_inf hn, scaleCode_zeros, fun M t => scaleCode_largest⟩, fun n c rm draw hn _ => ?values⟩
  case words =>
    have bexp (s : State) : exec (.bexp d a) s = withWord s (.bexp d a) (fun _ e => e.blockWord (e.bexp d a)) := rfl
    have bq (s : State) : exec (bqInstr n d a b) s = withWord s (bqInstr n d a b) (fun _ e => e.blockWord (e.bq n d a b)) := by
      simp only [List.mem_cons, List.not_mem_nil, or_false] at hn
      rcases hn with rfl | rfl | rfl | rfl <;> rfl
    have bdq (s : State) : exec (bdqInstr n d a b) s = withWord s (bdqInstr n d a b) (fun _ e => e.blockWord (e.bdq n d a b)) := by
      simp only [List.mem_cons, List.not_mem_nil, or_false] at hn
      rcases hn with rfl | rfl | rfl | rfl <;> rfl
    have other : bqInstr n d a b ≠ .refill ∧ bdqInstr n d a b ≠ .refill ∧ n ≤ 8 := by
      simp only [List.mem_cons, List.not_mem_nil, or_false] at hn
      rcases hn with rfl | rfl | rfl | rfl <;> exact ⟨nofun, nofun, by decide⟩
    obtain ⟨notRefill, notRefill', small⟩ := other
    refine ⟨.of_inside nofun bexp (fun _ e inside h => by rw [Env.blockWord_eq h, Env.bexp_eq inside h]) fun _ e _ => regActs.flatMap fun l => regActs_putFull e d l _,
      ⟨fun e g j => BitVec.ofNat 32 (e.plane n a b g j), ?quantise, fun e g j => e.plane_bits n a b g j⟩,
      ⟨fun e l => BitVec.ofNat 8 (e.planes n a l), ?_, fun e l => e.planes_bits n a l⟩, .of bexp (fun _ e h => Env.blockWord_width h _) fun _ _ => rfl,
      .of bq (fun _ e h => Env.blockWord_width h _) fun _ _ => rfl, .of bdq (fun _ e h => Env.blockWord_width h _) fun _ _ => rfl⟩
    case quantise => exact .of notRefill bq (fun _ e h => by rw [Env.blockWord_eq h, Env.bq_eq]; rfl) fun _ e _ => by have := regActs_bq e n a b d; rw [Env.bq_eq] at this; exact this
    exact .of notRefill' bdq (fun _ e h => by rw [Env.blockWord_eq h, Env.bdq_eq e small]; rfl) fun _ e _ => regActs_fltWord e d _
  case values =>
    intro lo hi
    have two : 2 ≤ n := by
      simp only [List.mem_cons, List.not_mem_nil, or_false] at hn
      omega
    have limits (s : Bool) : quantise (.inf s) c n rm draw = (if s then lo else hi, fNX) := by
      cases s <;> simp [quantise, lo, hi]
    refine ⟨fun s => ⟨rfl, limits s⟩, fun x v hx => quantise_spec two c rm draw hx, fun m => blockValue_is m c two⟩

end Sys2Proof.Machine
end

section
/-! SUPPORT. What a load that commits leaves where no line of its partition is parked (R188, R190, R296). -/

namespace Sys2Proof.Machine

/-! ### Views in which loads do not show -/

/-- A view of a partition in which neither traffic, cached copies and translations, nor counters, races and the writes that paths may miss show. -/
structure Part.IgnoresLoads {α : Type} (f : Part → α) : Prop extends Part.IgnoresCaches f where
  lag : ∀ (p : Part) (l : List Lag), f { p with lag := l } = f p
  csr : ∀ (p : Part) (c : PCsr), f { p with csr := c } = f p
  races : ∀ (p : Part) (r : List RaceRec), f { p with races := r } = f p

section loads

variable {α : Type} {f : Part → α} (hf : Part.IgnoresLoads f)
include hf

theorem Part.IgnoresLoads.lagRead (p : Part) (ps : List Piece) : f (p.lagRead ps) = f p := by
  unfold Part.lagRead
  split
  · rfl
  · exact hf.lag p _

theorem Part.IgnoresLoads.lagOnce (p : Part) (before : List Lag) : f (p.lagOnce before) = f p := by
  unfold Part.lagOnce
  dsimp only
  split
  · rfl
  · exact hf.lag p _

theorem Part.IgnoresLoads.acquirePoint (p : Part) (g : Nat) (sc : Scope) : f (p.acquirePoint g sc) = f p := by
  have dropped : f (p.dropL1 g) = f p := hf.cache p g _ ⟨rfl, rfl⟩
  cases sc with
  | wrp => rfl
  | blk => rfl
  | gng => exact dropped
  | clu => exact dropped
  | dev => exact dropped
  | sys => exact (hf.setClu _ _ _).trans dropped

theorem Part.IgnoresLoads.raceCommit (s : State) (q : Nat) (c : Ctx) (ps : List Piece) (wr strong : Bool) : State.SameView f s (s.raceCommit q c ps wr strong) := by
  refine .foldl (fun s sec => .modPart s q fun p => ?_) _ s
  have noted := hf.races p (noteRace p.races sec (s.tableOf q (sec / 4)) ⟨c.x.uid, c.x.region, strong⟩ wr).1
  have counted (r : Part) (b e : Bool) : f (if b then r.raceDrop e else r) = f r := by
    split
    · exact hf.csr r _
    · rfl
  exact (counted _ _ true).trans ((counted _ _ false).trans noted)

theorem Part.IgnoresLoads.loadSector (s : State) (q g : Nat) (pay : Payer) (host : Bool) (sector : Nat) (l : Leaf) (m : MAttr) (bytes : List Byte) :
    State.SameView f s (s.loadSector q g pay host sector l m bytes) := by
  have filled (t : State) (x : Fill) : State.SameView f t (if m.hint = 1 then t else t.ccFill q pay (cluOf g) x) := by
    split
    · exact .refl t
    · exact hf.ccFill t q pay _ x
  unfold State.loadSector
  dsimp only
  split
  · exact (State.SameView.modPart s q fun p => hf.cache p g ((p.core g).l1DropSector host sector) ⟨rfl, rfl⟩).trans (filled _ _)
  · split
    · exact .modPart s q fun p => hf.l1Hit p g _ _
    · have missed := (State.SameView.modPart s q fun p => hf.l1Miss p g host sector).trans (filled _ ⟨host, sector * 32, l.cls, l.grain, m.hint == 2, false⟩)
      split
      · exact missed.trans (.modPart _ q fun p => hf.l1Fill p g _ _)
      · exact missed

theorem Part.IgnoresLoads.loadPiece {s : State} {q : Nat} (hd : (s.part q).dir = []) (g : Nat) (pay : Payer) (x : Piece) (m : MAttr) (loc : Bool) :
    State.SameView f s (s.loadPiece q g pay x m loc) := by
  unfold State.loadPiece
  split
  · rw [show (s.part q).parked _ = none by unfold Part.parked; rw [hd]; rfl]
    exact .foldl (fun s i => hf.loadSector s q g pay false i _ m _) _ s
  · exact .foldl (fun s i => hf.loadSector s q g pay true i _ m _) _ s
  · exact .refl s

end loads

/-- The work of a partition, its swaps and its directory. -/
def Part.fixed (p : Part) := (p.roster, p.swaps, p.dir)

theorem Part.fixed_ignoresLoads : Part.IgnoresLoads Part.fixed where
  debt p g cls now hbm fab := by
    unfold Part.debt
    split <;> rfl
  logErr _ _ := rfl
  setClu _ _ _ := rfl
  cache _ _ _ _ := rfl
  lag _ _ := rfl
  csr _ _ := rfl
  races _ _ := rfl

theorem Part.data_ignoresLoads (g : Nat) : Part.IgnoresLoads (fun p => ((p.core g).rf, (p.core g).scratch)) :=
  { Part.data_ignoresCaches g with
    lag := fun _ _ => rfl
    csr := fun _ _ => rfl
    races := fun _ _ => rfl }

/-- A view under which every step leaves the directory is left by the pieces of a load where no line is parked. -/
theorem Part.IgnoresLoads.loadPieces {α : Type} {f : Part → α} (hf : Part.IgnoresLoads f) {q : Nat} (g : Nat) (pay : State → Payer) (m : MAttr) (loc : Bool) (ps : List Piece) (s : State)
    (hd : (s.part q).dir = []) : State.SameView f s (ps.foldl (fun s x => s.loadPiece q g (pay s) x m loc) s) := by
  induction ps generalizing s with
  | nil => exact .refl s
  | cons x ps ih =>
    have dir : ((s.loadPiece q g (pay s) x m loc).part q).dir = [] := (congrArg (fun z => z.2.2) (Part.fixed_ignoresLoads.loadPiece hd g (pay s) x m loc q)).trans hd
    exact (hf.loadPiece hd g (pay s) x m loc).trans (ih _ dir)

/-- Where no line is parked, no piece misses one. -/
theorem State.misses_none {s : State} {q : Nat} (hd : (s.part q).dir = []) (g : Nat) (ps : List Piece) : s.misses q g ps = false := by
  refine List.any_eq_false.2 fun x _ => ?_
  have none : (s.part q).parkedAt x.loc = none := by
    unfold Part.parkedAt Part.parked
    rw [hd]
    cases x.loc <;> rfl
  rw [none]
  exact Bool.false_ne_true

/-- A load that commits where no line is parked. -/
theorem Part.IgnoresLoads.doLoad {α : Type} {f : Part → α} (hf : Part.IgnoresLoads f) {s : State} {q : Nat} (hd : (s.part q).dir = []) (w : WRef) (ps : List Piece) (m : MAttr) (loc : Bool) :
    State.SameView f s (s.doLoad q w ps m loc) := by
  let read : State := s.modPart q (fun p => p.lagRead ps)
  have dir : (read.part q).dir = [] :=
    (congrArg (fun z => z.2.2) (State.SameView.modPart s q (fun p => Part.fixed_ignoresLoads.lagRead p ps) q)).trans hd
  have seen : State.SameView f s read := .modPart s q fun p => hf.lagRead p ps
  have pieces := seen.trans (hf.loadPieces w.core (fun t => (t.part q).payerOf w) m loc ps read dir)
  have acquired (t : State) : State.SameView f t (if m.order.isAcq then t.modPart q (fun p => p.acquirePoint w.core m.scope) else t) := by
    split
    · exact .modPart t q fun p => hf.acquirePoint p _ _
    · exact .refl t
  have raced (t : State) : State.SameView f t (match (t.part q).ctx w with | some c => t.raceCommit q c ps false m.strong | none => t) := by
    split
    · exact hf.raceCommit t q _ ps _ _
    · exact .refl t
  unfold State.doLoad
  dsimp only
  rw [State.misses_none dir, Bool.and_false, if_neg Bool.false_ne_true]
  split
  · exact pieces.trans (acquired _)
  · exact (pieces.trans (acquired _)).trans (raced _)

/-! ### Memories -/

theorem State.SameMemories.loadSector (s : State) (q g : Nat) (pay : Payer) (host : Bool) (sector : Nat) (l : Leaf) (m : MAttr) (bytes : List Byte) :
    s.SameMemories (s.loadSector q g pay host sector l m bytes) := by
  have filled (t : State) (x : Fill) : t.SameMemories (if m.hint = 1 then t else t.ccFill q pay (cluOf g) x) := by
    split
    · exact .refl t
    · exact .ccFill t q pay _ x
  unfold State.loadSector
  dsimp only
  split
  · exact (State.SameMemories.modPart s q _).trans (filled _ _)
  · split
    · exact .modPart s q _
    · have missed := (State.SameMemories.modPart s q (fun p => p.l1Miss g host sector)).trans (filled _ ⟨host, sector * 32, l.cls, l.grain, m.hint == 2, false⟩)
      split
      · exact missed.trans (.modPart _ q _)
      · exact missed

theorem State.SameMemories.loadPiece {s : State} {q : Nat} (hd : (s.part q).dir = []) (g : Nat) (pay : Payer) (x : Piece) (m : MAttr) (loc : Bool) :
    s.SameMemories (s.loadPiece q g pay x m loc) := by
  unfold State.loadPiece
  split
  · rw [show (s.part q).parked _ = none by unfold Part.parked; rw [hd]; rfl]
    exact .foldl (fun s i => .loadSector s q g pay false i _ m _) _ s
  · exact .foldl (fun s i => .loadSector s q g pay true i _ m _) _ s
  · exact .refl s

theorem State.SameMemories.loadPieces {q : Nat} (g : Nat) (pay : State → Payer) (m : MAttr) (loc : Bool) (ps : List Piece) (s : State) (hd : (s.part q).dir = []) :
    s.SameMemories (ps.foldl (fun s x => s.loadPiece q g (pay s) x m loc) s) := by
  induction ps generalizing s with
  | nil => exact .refl s
  | cons x ps ih =>
    have dir : ((s.loadPiece q g (pay s) x m loc).part q).dir = [] := (congrArg (fun z => z.2.2) (Part.fixed_ignoresLoads.loadPiece hd g (pay s) x m loc q)).trans hd
    exact (State.SameMemories.loadPiece hd g (pay s) x m loc).trans (ih _ dir)

theorem State.SameMemories.doLoad {s : State} {q : Nat} (hd : (s.part q).dir = []) (w : WRef) (ps : List Piece) (m : MAttr) (loc : Bool) : s.SameMemories (s.doLoad q w ps m loc) := by
  let read : State := s.modPart q (fun p => p.lagRead ps)
  have dir : (read.part q).dir = [] :=
    (congrArg (fun z => z.2.2) (State.SameView.modPart s q (fun p => Part.fixed_ignoresLoads.lagRead p ps) q)).trans hd
  have pieces : s.SameMemories _ := (State.SameMemories.modPart s q (fun p => p.lagRead ps)).trans
    (.loadPieces w.core (fun t => (t.part q).payerOf w) m loc ps read dir)
  have acquired (t : State) : t.SameMemories (if m.order.isAcq then t.modPart q (fun p => p.acquirePoint w.core m.scope) else t) := by
    split
    · exact .modPart t q _
    · exact .refl t
  have raced (t : State) : t.SameMemories (match (t.part q).ctx w with | some c => t.raceCommit q c ps false m.strong | none => t) := by
    split
    · exact .foldl (fun s sec => .modPart s q _) _ t
    · exact .refl t
  unfold State.doLoad
  dsimp only
  rw [State.misses_none dir, Bool.and_false, if_neg Bool.false_ne_true]
  split
  · exact pieces.trans (acquired _)
  · exact (pieces.trans (acquired _)).trans (raced _)

/-! ### The commit -/

theorem Part.lagOnce_holding (p : Part) (before : List Lag) (w : WRef) (x : Warp) (cs : AMap Core) : (p.holding w x cs).lagOnce before = (p.lagOnce before).holding w x cs := by
  unfold Part.lagOnce Part.holding
  dsimp only
  split <;> rfl

theorem State.lagOnce_held (s : State) (q : Nat) (before : List Lag) (w : WRef) (x : Warp) (cs : AMap Core) :
    (s.held q w x cs).modPart q (fun p => p.lagOnce before) = (s.modPart q (fun p => p.lagOnce before)).held q w x cs := by
  have moved : (s.modPart q (fun p => p.lagOnce before)).held q w x cs =
      (({ s with cur := none } : State).setPart q ((s.part q).lagOnce before)).setPart q (((s.part q).lagOnce before).holding w x cs) :=
    congrArg (State.setPart _ q) (by rw [State.modPart_part])
  rw [moved, State.setPart_setPart, State.held_modPart_eq, ← Part.lagOnce_holding]

/-- A run without an operation commits into what its effects leave, with its warp between runs, and with the first of the values that paths may miss. -/
theorem State.commit_lagging {s u : State} {q : Nat} {c d : Ctx} {r : Run} {y : Warp} {ds : AMap Core} (hp : (s.part q).placeQ = [])
    (done : u.HeldOpen (s.doActs q c r) q c.w y ds) (hctx : (u.part q).ctx c.w = some d) (hb : y.block = d.x.block) (hl : y.levels = []) (hpath : y.path ≠ 0)
    (hw : ∀ l g t, y.wait ≠ .abwait l g t) (hs : (u.part q).swaps = []) (ho : ∀ y ∈ (u.part q).warps, ∀ l g t, y.2.wait ≠ .abwait l g t)
    (ht : r.term = .none) : ({ s.commit q c r with cur := none } : State) =
      (u.modPart q (fun p => p.lagOnce (s.part q).lag)).held q c.w { y with run := none, pc := r.next, refillRun := false } ds := by
  let f (x : Warp) : Warp := { x with run := none, pc := r.next, refillRun := false }
  let z : State := (s.doActs q c r).modW q c.w f
  have held : ({ z with cur := none } : State) = u.held q c.w (f y) ds := done.modW f
  have part : z.part q = (u.part q).holding c.w (f y) ds := (congrArg (fun z : State => z.part q) held).trans (State.held_part ..)
  have ctx := State.held_ctx hctx (x := f y) hb ds
  rw [← part] at ctx
  have objects (x : Nat × Warp) (hx : x ∈ (z.part q).warps) (l : Loc) (g : Bool) (t : Nat) : x.2.wait ≠ .abwait l g t := by
    rw [part, Part.holding_warps] at hx
    rcases AMap.mem_wr hx with rfl | old
    · exact hw l g t
    · exact ho x old l g t
  have following := State.afterCommit_same (r := r) ctx hpath (by rw [part]; exact hs) (by simp [ht]) objects
  have once : ({ z.modPart q (fun p => p.lagOnce (s.part q).lag) with cur := none } : State) = (u.held q c.w (f y) ds).modPart q (fun p => p.lagOnce (s.part q).lag) := by
    rw [← held]
    rfl
  have ctx' : ((z.modPart q (fun p => p.lagOnce (s.part q).lag)).part q).ctx c.w = some { d with x := f y } := by
    rw [State.modPart_part, ← ctx]
    exact Part.ctx_of_roster (congrArg (fun x => x.1) (Part.fixed_ignoresLoads.lagOnce (z.part q) _)) c.w
  have unstuck : (z.modPart q (fun p => p.lagOnce (s.part q).lag)).stuckFail q c.w = none := by
    refine State.stuckFail_none ?_
    unfold State.stuck
    rw [ctx']
    exact if_pos (.inr hpath)
  have result : s.commit q c r = z.modPart q (fun p => p.lagOnce (s.part q).lag) := by
    unfold State.commit
    dsimp only
    rw [State.drainAll_nil hp, State.commitFail_none (by rw [ht]; rfl)]
    dsimp only
    rw [State.endRun_none part rfl ht hl, following, unstuck]
  rw [result, once, State.lagOnce_held]

/-- A run of translations, a load and register effects leaves what the load does, then the effects. -/
theorem State.doActs_load {s : State} {q : Nat} {c : Ctx} {r : Run} {ls : List Leaf} {ps : List Piece} {m : MAttr} {loc : Bool} {regs : List Act}
    (acts : r.acts = ls.map Act.tlb ++ [.load ps m loc] ++ regs) (hreg : ∀ a ∈ regs, a.isReg = true) (term : r.term = .none) :
    s.doActs q c r = regs.foldl (fun t a => t.doAct q c.w r [] a) ((s.translated q c.w ls).doLoad q c.w ps m loc) := by
  have ordered (a : Act) (ha : a ∈ r.acts) : a.inOrder = true := by
    rw [acts, List.mem_append, List.mem_append] at ha
    rcases ha with (tlb | load) | reg
    · obtain ⟨x, -, rfl⟩ := List.mem_map.1 tlb
      rfl
    · obtain rfl := List.mem_singleton.1 load
      rfl
    · exact Act.inOrder_of_isReg (hreg a reg)
  rw [State.doActs_inOrder ordered term, acts]
  simp only [List.foldl_append, List.foldl_cons, List.foldl_nil]
  rw [State.doLoadActs_reg _ _ _ _ hreg, List.foldl_map, List.foldl_map]
  exact congrArg (regs.foldl _) (List.foldl_same _ ls _ fun _ _ => rfl)

section lone

variable {s : State} {i : Instr} {iss : Issue} {c : Ctx} (h : Lone s i iss c) {w : Word} (hs : Settled s iss c w)
include h hs

/-- A settled load leaves its registers written and every byte as it was, where no line is parked. -/
theorem Lone.loads {ls : List Leaf} {ps : List Piece} {m : MAttr} {loc : Bool} {regs : List Act} (hr : i ≠ .refill) (hd : (s.part iss.q).dir = [])
    (hw : w = .ofActs (ls.map Act.tlb ++ [.load ps m loc] ++ regs)) (hreg : ∀ a ∈ regs, a.isReg = true) :
    Loaded s (s.issued iss c w) iss c regs ∧ Wrote s (s.issued iss c w) iss.q [] := by
  let k : State := s.queued iss c w
  let filled : State := k.translated iss.q c.w ls
  let v : State := filled.doLoad iss.q c.w ps m loc
  let u : State := v.modPart iss.q (fun p => p.lagOnce (k.part iss.q).lag)
  have part := h.queued_part (w := w)
  have term : (s.runWith iss c w).term = .none := (h.runWith_term w).trans (by rw [hw]; rfl)
  have acts : (s.runWith iss c w).acts = ls.map Act.tlb ++ [.load ps m loc] ++ regs := h.runWith_acts.trans (by rw [hw]; rfl)
  have dir : (filled.part iss.q).dir = [] := (congrArg (fun z => z.2.2) (Part.fixed_ignoresLoads.translated k iss.q c.w ls iss.q)).trans (by rw [part]; exact hd)
  have view {α : Type} {f : Part → α} (hf : Part.IgnoresLoads f) : State.SameView f k v := (hf.translated k iss.q c.w ls).trans (hf.doLoad dir c.w ps m loc)
  have same := view Part.fixed_ignoresLoads iss.q
  simp only [Part.fixed, Prod.mk.injEq] at same
  obtain ⟨roster, swaps, -⟩ := same
  have warps : (v.part iss.q).warps = AMap.wr (s.part iss.q).warps (wkey c.w) (c.x.queued s.now (s.runWith iss c w)) :=
    (congrArg (fun x => x.1) roster).trans (congrArg Part.warps part)
  have warp : (v.part iss.q).warp c.w = some (c.x.queued s.now (s.runWith iss c w)) := by
    unfold Part.warp
    rw [warps]
    exact AMap.find_wr_same _ _ _
  have ctx : (v.part iss.q).ctx c.w = some (c.queued s.now (s.runWith iss c w)) := (Part.ctx_of_roster roster c.w).trans h.queued_ctx
  have effects : k.doActs iss.q (c.queued s.now (s.runWith iss c w)) (s.runWith iss c w) = regs.foldl (fun t a => t.doAct iss.q c.w (s.runWith iss c w) [] a) v :=
    State.doActs_load acts hreg term
  obtain ⟨ds, done, file⟩ := State.HeldOpen.doActList (s.runWith iss c w) [] (.refl warp) hreg ⟨fun _ _ => rfl, rfl, fun _ => rfl⟩
  obtain ⟨block, levels, wait, path⟩ := Warp.tooks_keep (x := c.x.queued s.now (s.runWith iss c w)) hreg
  have left : ({ s.issued iss c w with cur := none } : State) = u.held iss.q c.w (regs.foldl Warp.took (c.x.passed iss s.now)) ds := by
    rw [h.commits hs, ← Warp.tooks_queued _ _ (s.runWith iss c w)]
    refine State.commit_lagging (c := c.queued s.now (s.runWith iss c w)) (by rw [part]; exact h.placed) (by rw [effects]; exact done) ctx block (levels.trans h.noLoop)
      (by rw [path]; exact h.path hr) (by rw [wait]; exact h.noAbwait) (by rw [swaps, part]; exact h.unswapped) (fun z hz => ?_) term
    rw [warps] at hz
    rcases AMap.mem_wr hz with rfl | old
    · exact h.noAbwait
    · exact h.noObject z old
  have shown {α : Type} {f : Part → α} (hf : Part.IgnoresLoads f) : State.SameView f k u := (view hf).trans (.modPart v iss.q fun p => hf.lagOnce p _)
  have stands := congrArg (fun z => z.1.1) (shown Part.fixed_ignoresLoads iss.q)
  have cores : (u.part iss.q).cores = (v.part iss.q).cores := by
    rw [State.modPart_part]
    unfold Part.lagOnce
    dsimp only
    split <;> rfl
  have memories : k.SameMemories u := (State.SameMemories.trans (State.translated_memories k iss.q c.w ls) (.doLoad dir c.w ps m loc)).trans (.modPart v iss.q _)
  have kept : FileOnly (u.part iss.q).cores ds c.w.core (fun j => regs.foldl (Act.file j) (Sparse.rd ((u.part iss.q).core c.w.core).rf j)) := by
    unfold Part.core
    rw [cores]
    exact file
  refine ⟨Loaded.of_held left kept (fun j hj => ?_) fun g => ?_, Wrote.of_queued h (w := w) (Wrote.of_held left kept (Wrote.nil_of memories fun g => ?_))⟩
  · rw [show (u.part iss.q).warps = _ from stands, part]
    exact AMap.find_wr_other _ _ (Ne.symm hj)
  · exact (congrArg (fun z => z.1) (shown (Part.data_ignoresLoads g) iss.q)).trans (congrArg (fun p : Part => (p.core g).rf) part)
  · exact congrArg (fun z => z.2) (shown (Part.data_ignoresLoads g) iss.q)

end lone

end Sys2Proof.Machine
end

section
/-! SUPPORT. The bytes that a load reads and the values that it makes of them (R183, R188, R214, R219). -/

namespace Sys2Proof.Machine

/-! ### Numbers by their bytes -/

theorem leNat_append (l k : List Byte) : leNat (l ++ k) = leNat l + 2 ^ (8 * l.length) * leNat k := by
  induction l with
  | nil => simp [leNat]
  | cons b l ih =>
    rw [List.cons_append, leNat, leNat, ih, List.length_cons, Nat.mul_succ, Nat.pow_add]
    ring

/-- A number is the sum of its bytes at their places. -/
theorem leNat_eq_sum (bs : List Byte) : leNat bs = ((List.range bs.length).map (fun j => (bs.getD j 0).toNat * 2 ^ (8 * j))).sum := by
  induction bs using List.reverseRecOn with
  | nil => rfl
  | append_singleton l b ih =>
    have before : (List.range l.length).map (fun j => ((l ++ [b]).getD j 0).toNat * 2 ^ (8 * j)) = (List.range l.length).map (fun j => (l.getD j 0).toNat * 2 ^ (8 * j)) :=
      List.map_congr_left fun j hj => by rw [List.getD_append _ _ _ _ (List.mem_range.1 hj)]
    rw [leNat_append, ih, List.length_append, List.length_singleton, List.range_succ, List.map_append, List.sum_append, before]
    simp [leNat, Nat.mul_comm]

theorem leNat_lt (bs : List Byte) : leNat bs < 2 ^ (8 * bs.length) := by
  induction bs with
  | nil => simp [leNat]
  | cons b l ih =>
    have := b.isLt
    rw [leNat, List.length_cons, Nat.mul_succ, Nat.pow_add]
    omega

theorem sxt_of_lt {k m : Nat} (h : m < 2 ^ k) : sxt k m = if 2 ^ (k - 1) ≤ m then (m : Int) - (2 : Int) ^ k else (m : Int) := by
  unfold sxt
  dsimp only
  rw [Nat.mod_eq_of_lt h]
  split <;> split <;> omega

theorem toInt_ofNat_word {m : Nat} (h : m < 2 ^ 64) : (BitVec.ofNat 64 m).toInt = if (2 : Int) ^ 63 ≤ m then (m : Int) - (2 : Int) ^ 64 else (m : Int) := by
  rw [BitVec.toInt_eq_toNat_cond, BitVec.toNat_ofNat, Nat.mod_eq_of_lt h]
  split <;> split <;> omega

/-- The value of a load of up to 8 bytes. -/
theorem toInt_loadVal {z : BitVec 3} {bs : List Byte} (hn : bs.length = sizeBytes z) (hz : z.toNat ≤ 5) {v : Int} (hv : v = (leNat bs : Int)) :
    (loadVal z bs).toInt = if z = 1 ∧ 2 ^ 7 ≤ v then v - 2 ^ 8 else if z = 3 ∧ 2 ^ 15 ≤ v then v - 2 ^ 16 else if z = 5 ∧ 2 ^ 63 ≤ v then v - 2 ^ 64 else v := by
  have below := leNat_lt bs
  have codes : ∀ z : BitVec 3, z.toNat ≤ 5 → z = 0 ∨ z = 1 ∨ z = 2 ∨ z = 3 ∨ z = 4 ∨ z = 5 := by decide
  have plain (small : leNat bs < 2 ^ 63) : (BitVec.ofNat 64 (leNat bs)).toInt = leNat bs := by rw [toInt_ofNat_word (by omega), if_neg (by omega)]
  have signed {k : Nat} (low : leNat bs < 2 ^ k) (hk : k = 8 ∨ k = 16) : (BitVec.ofInt 64 (sxt k (leNat bs))).toInt = sxt k (leNat bs) := by
    rcases hk with rfl | rfl
    all_goals refine BitVec.toInt_ofInt_eq_self (by decide) ?_ ?_ <;> rw [sxt_of_lt low] <;> split <;> omega
  rw [hn] at below
  subst hv
  rcases codes z hz with rfl | rfl | rfl | rfl | rfl | rfl
  · exact (plain (below.trans (by decide))).trans (by simp)
  · exact (signed (k := 8) below (.inl rfl)).trans ((sxt_of_lt (k := 8) below).trans (by simp))
  · exact (plain (below.trans (by decide))).trans (by simp)
  · exact (signed (k := 16) below (.inr rfl)).trans ((sxt_of_lt (k := 16) below).trans (by simp))
  · exact (plain (below.trans (by decide))).trans (by simp)
  · exact (toInt_ofNat_word below).trans (by simp)

theorem toNat_fields {w x y z : Nat} (hw : w < 2 ^ 6) (hx : x < 2 ^ 6) (hy : y < 2 ^ 6) (hz : z < 2 ^ 6) :
    (BitVec.ofNat 32 (w + x * 2 ^ 8 + y * 2 ^ 16 + z * 2 ^ 24)).toNat = w + (x * 2 ^ 8 + (y * 2 ^ 16 + z * 2 ^ 24)) := by
  rw [BitVec.toNat_ofNat, Nat.mod_eq_of_lt (by omega)]
  omega

/-- Four 6-bit fields, one to a byte. -/
theorem toNat_unpack6 (bs : List Byte) : (unpack6 bs).toNat = ((List.range 4).map (fun k => leNat bs / 2 ^ (6 * k) % 2 ^ 6 * 2 ^ (8 * k))).sum := by
  have small (lo : Nat) : leNat bs / 2 ^ lo % 2 ^ 6 < 2 ^ 6 := Nat.mod_lt _ (by decide)
  have word := toNat_fields (small 0) (small 6) (small 12) (small 18)
  have sum : ((List.range 4).map (fun k => leNat bs / 2 ^ (6 * k) % 2 ^ 6 * 2 ^ (8 * k))).sum = leNat bs / 2 ^ (6 * 0) % 2 ^ 6 * 2 ^ (8 * 0) +
      (leNat bs / 2 ^ (6 * 1) % 2 ^ 6 * 2 ^ (8 * 1) + (leNat bs / 2 ^ (6 * 2) % 2 ^ 6 * 2 ^ (8 * 2) + leNat bs / 2 ^ (6 * 3) % 2 ^ 6 * 2 ^ (8 * 3))) := by
    simp only [List.range_succ, List.range_zero, List.nil_append, List.map_append, List.map_cons, List.map_nil, List.sum_append, List.sum_cons, List.sum_nil, Nat.add_zero,
      Nat.add_assoc]
  rw [sum, Nat.mul_zero, Nat.pow_zero, Nat.mul_one]
  unfold unpack6 bits
  exact word

/-! ### The pieces of a lane (R211) -/

/-- An element that alone of a list gives something. -/
theorem flatMap_only {α β : Type} {f : α → List β} {l : List α} {a : α} (once : l.Nodup) (mem : a ∈ l) (other : ∀ b ∈ l, b ≠ a → f b = []) : l.flatMap f = f a := by
  obtain ⟨x, y, rfl⟩ := List.append_of_mem mem
  have before : x.flatMap f = [] := List.flatMap_eq_nil_iff.2 fun b hb => other b (by simp [hb]) fun e => (List.nodup_append.1 once).2.2 _ hb _ (by simp) e
  have after : y.flatMap f = [] := List.flatMap_eq_nil_iff.2 fun b hb => other b (by simp [hb]) fun e => (List.nodup_cons.1 (List.nodup_append.1 once).2.1).1 (e ▸ hb)
  rw [List.flatMap_append, List.flatMap_cons, before, after, List.append_nil, List.nil_append]

theorem cutLines_inside {va : W64} {n : Nat} (h : va.toNat % 128 + n ≤ 128) : cutLines va n = [(va, n)] := if_pos (by omega)

section access

variable {s : State} {e : Env}

/-- An aligned access inside a line that resolves is one piece. -/
theorem State.accessCut_one {l n align : Nat} {va : W64} {need : Need} {loc : Loc} {lf : Option Leaf} (fits : va.toNat % 128 + n ≤ 128) (hr : s.resolve e.q e.c.blk va n need = .ok (loc, lf)) :
    s.accessCut e l va n align need =
      [((if va.toNat % align = 0 then [] else [⟨l, .align, va, BitVec.ofNat 64 (log2Size align), 0⟩], some ⟨l, va, loc, lf, []⟩), n)] := by
  unfold State.accessCut State.access
  rw [cutLines_inside fits]
  simp only [List.map_cons, List.map_nil, hr, Option.map_some]
  split <;> rfl

/-- The pieces of a lane's access name the lane. -/
theorem State.accessCut_lane {l n align : Nat} {va : W64} {need : Need} {t : (List LFail × Option Piece) × Nat} (h : t ∈ s.accessCut e l va n align need) {x : Piece} (hx : t.1.2 = some x) :
    x.lane = l := by
  obtain ⟨k, -, rfl⟩ := List.mem_map.1 h
  unfold State.access at hx
  dsimp only at hx
  split at hx
  · cases hx
  · cases hx
    rfl

/-- The pieces that a lane's load reads. -/
def State.lanePieces (s : State) (e : Env) (addr : Nat → W64) (n align l : Nat) : List Piece :=
  ((s.accessCut e l (addr l) n align ⟨true, false, false⟩).filterMap (fun t => t.1.2.map (fun p => (p, t.2)))).map
    (fun x => { x.1 with bytes := s.loadL e.q e.c.w.core e.mattr.beyond x.1.loc x.2 })

theorem State.loads_pieces (s : State) (e : Env) (lanes : List Nat) (addr : Nat → W64) (n align : Nat) (loc : Bool) :
    (s.loads e lanes addr n align loc).1 = lanes.flatMap (s.lanePieces e addr n align) := by
  unfold State.loads State.lanePieces
  dsimp only
  rw [List.filterMap_flatMap, List.map_flatMap]

theorem State.lanePieces_lane {addr : Nat → W64} {n align l : Nat} {x : Piece} (h : x ∈ s.lanePieces e addr n align l) : x.lane = l := by
  obtain ⟨y, hy, rfl⟩ := List.mem_map.1 h
  obtain ⟨t, ht, found⟩ := List.mem_filterMap.1 hy
  obtain ⟨p, piece, rfl⟩ := Option.map_eq_some_iff.1 found
  have lane : p.lane = l := State.accessCut_lane ht piece
  exact lane

theorem State.lanePieces_one {addr : Nat → W64} {n align l : Nat} {loc : Loc} {lf : Option Leaf} (fits : (addr l).toNat % 128 + n ≤ 128)
    (hr : s.resolve e.q e.c.blk (addr l) n ⟨true, false, false⟩ = .ok (loc, lf)) :
    s.lanePieces e addr n align l = [⟨l, addr l, loc, lf, s.loadL e.q e.c.w.core e.mattr.beyond loc n⟩] := by
  unfold State.lanePieces
  rw [State.accessCut_one fits hr]
  rfl

/-- The bytes of a lane are what it reads at its place. -/
theorem laneBytes_loads {lanes : List Nat} {addr : Nat → W64} {n l : Nat} (align : Nat) (near : Bool) {loc : Loc} {lf : Option Leaf} (once : lanes.Nodup) (mem : l ∈ lanes)
    (fits : (addr l).toNat % 128 + n ≤ 128) (hr : s.resolve e.q e.c.blk (addr l) n ⟨true, false, false⟩ = .ok (loc, lf)) :
    laneBytes (s.loads e lanes addr n align near).1 l = s.loadL e.q e.c.w.core e.mattr.beyond loc n := by
  have mine : (s.loads e lanes addr n align near).1.filter (fun x => x.lane == l) = s.lanePieces e addr n align l := by
    have own (k : Nat) : (s.lanePieces e addr n align k).filter (fun x => x.lane == l) = if k = l then s.lanePieces e addr n align k else [] := by
      split
      case isTrue same => exact List.filter_eq_self.2 fun x hx => by rw [State.lanePieces_lane hx, same, beq_self_eq_true]
      case isFalse other => exact List.filter_eq_nil_iff.2 fun x hx => by rw [State.lanePieces_lane hx]; simpa using other
    rw [State.loads_pieces, List.filter_flatMap]
    exact (flatMap_only once mem fun k _ other => (own k).trans (if_neg other)).trans ((own l).trans (if_pos rfl))
  unfold laneBytes
  rw [mine, State.lanePieces_one fits hr, List.flatMap_singleton]

/-- Where no write on another path is missed, a load reads each byte as it stands. -/
theorem State.loadL_getD {q g n j : Nat} (hlag : (s.part q).lag = []) (beyond : Bool) (loc : Loc) (hj : j < n) : (s.loadL q g beyond loc n).getD j 0 = s.rdLoc q g beyond (loc.add j) := by
  unfold State.loadL State.rdLocL
  dsimp only
  rw [hlag, if_pos (by rfl)]
  simp [hj]

/-- A byte of a page is read from the core's L1, or at home. -/
theorem State.rdLoc_page {q g : Nat} (hd : (s.part q).dir = []) (beyond host : Bool) (pa : Nat) :
    s.rdLoc q g beyond (if host then .host pa else .dev pa) =
      ((if beyond then none else ((s.part q).core g).l1Find host (pa / 32)).map (fun k => k.bytes.getD (pa % 32) 0)).getD (if host then s.rdHost pa else s.rdHome q pa) := by
  have free : (s.part q).parked pa = none := by
    unfold Part.parked
    rw [hd]
    rfl
  cases host <;> cases beyond <;> simp only [State.rdLoc, free, Bool.false_eq_true, if_false, if_true, Bool.true_or, Bool.false_or, Option.isSome_none, Option.map_none, Option.getD_none]
  all_goals split <;> rename_i found <;> rw [found] <;> rfl

end access

end Sys2Proof.Machine
end

section
/-! SUPPORT. A load from the block's scratchpad, and the loads as they issue (R183, R214, R219, R220). -/

namespace Sys2Proof.Machine

/-! ### Places in the scratchpad (R183) -/

theorem sizeBytes_dvd : ∀ z : BitVec 3, sizeBytes z ∣ 128 := by decide

/-- An aligned access of a size code stays inside a line. -/
theorem aligned_inside {a n : Nat} (hn : n ∣ 128) (ha : a % n = 0) : a % 128 + n ≤ 128 := by
  obtain ⟨k, hk⟩ := hn
  obtain ⟨j, hj⟩ : n ∣ a % 128 := (Nat.dvd_mod_iff ⟨k, hk⟩).2 (Nat.dvd_of_mod_eq_zero ha)
  have less : n * j < n * k := by rw [← hj, ← hk]; exact Nat.mod_lt _ (by decide)
  have := Nat.mul_le_mul_left n (Nat.lt_of_mul_lt_mul_left less)
  rw [hj, ← Nat.mul_succ]
  omega

theorem State.resolve_loc {s : State} {q : Nat} {b : Block} {va : W64} {n : Nat} (need : Need) (region : regionOf va = .loc) (inside : va.toNat % 2 ^ 32 + n ≤ b.scrLen) :
    s.resolve q b va n need = .ok (.scratch b.core (b.scrOff + va.toNat % 2 ^ 32), none) := by
  have found : (s.part q).scratchLoc b false va.toNat n = some (.scratch b.core (b.scrOff + va.toNat % 2 ^ 32)) := if_pos inside
  unfold State.resolve
  rw [region]
  dsimp only
  rw [found]

/-- A piece in a scratchpad, under no page. -/
def Piece.inScratch (x : Piece) : Prop := ∃ g o, x.loc = .scratch g o ∧ x.leaf = none

theorem tlbActs_scratch {ps : List Piece} (h : ∀ x ∈ ps, x.inScratch) : tlbActs ps = [] := by
  have none : ps.filterMap (fun x => x.leaf) = [] := List.filterMap_eq_nil_iff.2 fun x hx => by
    obtain ⟨_, _, _, leaf⟩ := h x hx
    exact leaf
  unfold tlbActs
  rw [none]
  rfl

theorem trackedSectors_scratch {ps : List Piece} (h : ∀ x ∈ ps, x.inScratch) (k : KDesc) : trackedSectors ps k = [] := by
  have none : ps.flatMap (fun x => match x.tracked k with | some pa => (List.range x.bytes.length).map (fun i => (pa + i) / 32) | none => []) = [] :=
    List.flatMap_eq_nil_iff.2 fun x hx => by
      obtain ⟨_, _, loc, _⟩ := h x hx
      unfold Piece.tracked
      rw [loc]
  exact congrArg List.dedup none

theorem pieceSectors_scratch {ps : List Piece} (h : ∀ x ∈ ps, x.inScratch) : pieceSectors ps = [] := by
  unfold pieceSectors
  refine (congrArg List.dedup (List.flatMap_eq_nil_iff.2 fun x hx => ?_)).trans List.dedup_nil
  obtain ⟨_, _, loc, _⟩ := h x hx
  rw [loc]

/-- A scratchpad holds no uncorrectable code where nothing does. -/
theorem ueFail_scratch {s : State} {q g : Nat} (beyond : Bool) (hbad : s.anyBad q = false) {x : Piece} (h : x.inScratch) (n : Nat) : ueFail (s.ueLoad q g beyond) x n = [] := by
  obtain ⟨c, o, loc, -⟩ := h
  have good (o : Nat) : s.ueLoad q g beyond (.scratch c o) = false := by
    unfold State.ueLoad
    rw [show s.ueL1 q g (.scratch c o) = none from rfl, ite_self]
    unfold State.ueBelow
    rw [hbad, Bool.false_and]
  unfold ueFail
  rw [loc]
  simp [Loc.add, good]

/-! ### The checks of such a load -/

section loads

variable {s : State} {e : Env} {lanes : List Nat} {addr : Nat → W64} {n : Nat}

/-- The lanes' addresses lie, aligned, in their block's scratchpad. -/
def Env.scratchAt (e : Env) (lanes : List Nat) (addr : Nat → W64) (n : Nat) : Prop :=
  ∀ l ∈ lanes, regionOf (addr l) = .loc ∧ (addr l).toNat % n = 0 ∧ (addr l).toNat % 2 ^ 32 + n ≤ e.c.blk.scrLen

variable (hn : n ∣ 128) (h : e.scratchAt lanes addr n)
include hn h

theorem State.accessCut_scratch {l : Nat} (hl : l ∈ lanes) (need : Need) : s.accessCut e l (addr l) n n need =
    [(([], some ⟨l, addr l, .scratch e.c.blk.core (e.c.blk.scrOff + (addr l).toNat % 2 ^ 32), none, []⟩), n)] := by
  obtain ⟨region, aligned, inside⟩ := h l hl
  rw [State.accessCut_one (aligned_inside hn aligned) (State.resolve_loc need region inside), if_pos aligned]

theorem State.loads_inScratch (near : Bool) : ∀ x ∈ (s.loads e lanes addr n n near).1, x.inScratch := by
  intro x hx
  rw [State.loads_pieces] at hx
  obtain ⟨l, hl, piece⟩ := List.mem_flatMap.1 hx
  unfold State.lanePieces at piece
  rw [State.accessCut_scratch hn h hl] at piece
  obtain rfl := List.mem_singleton.1 piece
  exact ⟨_, _, rfl, rfl⟩

theorem State.loads_clear (near : Bool) (hbad : s.anyBad e.q = false) : (s.loads e lanes addr n n near).2 = none := by
  have tried (t : (List LFail × Option Piece) × Nat) (ht : t ∈ lanes.flatMap (fun l => s.accessCut e l (addr l) n n ⟨true, false, false⟩)) :
      t.1.1 = [] ∧ ∀ p, t.1.2 = some p → p.inScratch := by
    obtain ⟨l, hl, one⟩ := List.mem_flatMap.1 ht
    rw [State.accessCut_scratch hn h hl] at one
    obtain rfl := List.mem_singleton.1 one
    exact ⟨rfl, fun p hp => by obtain rfl := Option.some.inj hp; exact ⟨_, _, rfl, rfl⟩⟩
  have passed : (lanes.flatMap (fun l => s.accessCut e l (addr l) n n ⟨true, false, false⟩)).flatMap (fun t => t.1.1) = [] :=
    List.flatMap_eq_nil_iff.2 fun t ht => (tried t ht).1
  unfold State.loads
  dsimp only
  rw [passed, List.nil_append, List.flatMap_eq_nil_iff.2 fun x hx => ?_]
  · rfl
  obtain ⟨t, ht, found⟩ := List.mem_filterMap.1 hx
  obtain ⟨p, piece, rfl⟩ := Option.map_eq_some_iff.1 found
  have near := (tried t ht).2 p piece
  obtain ⟨g, o, loc, -⟩ := id near
  have located : s.locateFail e p = [] := by
    unfold State.locateFail
    rw [loc]
    rfl
  dsimp only
  rw [ueFail_scratch _ hbad near, List.append_nil, located, ite_self]

end loads

/-! ### Its commit -/

/-- A plain load from a scratchpad leaves nothing behind. -/
theorem State.doLoad_scratch {s : State} {q : Nat} {w : WRef} {ps : List Piece} {m : MAttr} (h : ∀ x ∈ ps, x.inScratch) (hm : m.order = .plain) (hlag : (s.part q).lag = [])
    (loc : Bool) : s.doLoad q w ps m loc = s := by
  have read : s.modPart q (fun p => p.lagRead ps) = s := by
    have : (s.part q).lagRead ps = s.part q := if_pos (by rw [hlag]; rfl)
    unfold State.modPart
    dsimp only
    rw [this, State.setPart_self]
  have missed : s.misses q w.core ps = false := List.any_eq_false.2 fun x hx => by
    obtain ⟨g, o, loc, -⟩ := h x hx
    rw [loc]
    exact Bool.false_ne_true
  have pieces : ps.foldl (fun s x => s.loadPiece q w.core ((s.part q).payerOf w) x m loc) s = s := List.foldl_same _ ps s fun x hx => by
    obtain ⟨g, o, loc, -⟩ := h x hx
    unfold State.loadPiece
    rw [loc]
  have raced (c : Ctx) : s.raceCommit q c ps false m.strong = s := by
    unfold State.raceCommit
    rw [trackedSectors_scratch h]
    rfl
  have plain : m.order.isAcq = false := by rw [hm]; rfl
  unfold State.doLoad
  dsimp only
  rw [read, missed, Bool.and_false, if_neg Bool.false_ne_true, pieces, plain, if_neg Bool.false_ne_true]
  split
  · rfl
  · split
    · exact raced _
    · rfl

theorem Run.accesses_load {r : Run} {ps : List Piece} {m : MAttr} {regs : List Act} (ha : r.acts = .load ps m false :: regs) (hreg : ∀ a ∈ regs, a.isReg = true) (ht : r.term = .none) :
    r.accesses = [(ps, false, m.strong, m)] := by
  have quiet := Run.quiet (r := { r with acts := regs }) hreg (fun _ _ _ _ _ _ e => by rw [show r.term = .none from ht] at e; cases e)
  unfold Run.accesses at quiet ⊢
  rw [List.append_eq_nil_iff, List.append_eq_nil_iff] at quiet
  obtain ⟨⟨loads, stores⟩, ends⟩ := quiet
  rw [ha, List.filterMap_cons, List.filterMap_cons]
  dsimp only at loads stores ends ⊢
  rw [loads, stores, ends]
  rfl

/-- Such a load sends no request to a home slice. -/
theorem State.requests_load {s : State} {q : Nat} {c : Ctx} {r : Run} {ps : List Piece} {m : MAttr} {regs : List Act} (ha : r.acts = .load ps m false :: regs)
    (hps : ∀ x ∈ ps, x.inScratch) (hreg : ∀ a ∈ regs, a.isReg = true) (ht : r.term = .none) : ∀ x ∈ s.requests q c r, x.pa = none := by
  intro x hx
  have spills : (s.spillPieces q c r).1 = [] := State.spillPieces_plain (by rw [ht]; rfl)
  unfold State.requests at hx
  dsimp only at hx
  rw [spills, ht, ha, List.flatMap_cons] at hx
  simp only [pieceSectors_scratch hps, List.filter_nil, List.append_nil, List.mem_append] at hx
  rcases hx with (load | reg) | spilled
  · obtain ⟨y, hy, rfl⟩ := List.mem_map.1 load
    simp only [reqsOf, List.map_nil, List.dedup_nil, List.nil_append] at hy
    obtain ⟨p, hp, sent⟩ := List.mem_filterMap.1 hy
    obtain ⟨g, o, loc, -⟩ := hps p hp
    rw [loc] at sent
    dsimp only at sent
    split at sent
    · cases sent
    · obtain rfl := Option.some.inj sent
      rfl
  · obtain ⟨a, ha, sent⟩ := List.mem_flatMap.1 reg
    have := hreg a ha
    cases a <;> first | exact absurd this Bool.false_ne_true | cases sent
  · cases spilled

/-- No router drops anything of it. -/
theorem State.barred_load {s : State} {q : Nat} {c : Ctx} {r : Run} {ps : List Piece} {m : MAttr} {regs : List Act} (ha : r.acts = .load ps m false :: regs)
    (hps : ∀ x ∈ ps, x.inScratch) (hreg : ∀ a ∈ regs, a.isReg = true) (ht : r.term = .none) : s.runBarred q c r (s.requests q c r) = [] := by
  have spills : (s.spillPieces q c r).1 = [] := State.spillPieces_plain (by rw [ht]; rfl)
  unfold State.runBarred
  rw [spills, List.flatMap_nil, List.append_nil]
  refine List.append_eq_nil_iff.2 ⟨List.flatMap_eq_nil_iff.2 fun a hm => ?walks, List.filterMap_eq_nil_iff.2 fun x hx => ?homes⟩
  case walks =>
    rw [ha] at hm
    rcases List.mem_cons.1 hm with rfl | reg
    · rfl
    · have := hreg a reg
      cases a <;> first | rfl | exact absurd this Bool.false_ne_true
  case homes =>
    rw [State.requests_load ha hps hreg ht x hx]
    rfl

section lone

variable {s : State} {i : Instr} {iss : Issue} {c : Ctx} (h : Lone s i iss c) {ps : List Piece} {m : MAttr} {regs : List Act} (hps : ∀ x ∈ ps, x.inScratch)
  (hreg : ∀ a ∈ regs, a.isReg = true)
include h hps hreg

/-- Nothing keeps such a load from its commit. -/
theorem Lone.settled_scratch : Settled s iss c (.ofActs (.load ps m false :: regs)) := by
  let w : Word := .ofActs (.load ps m false :: regs)
  have acts : (s.runWith iss c w).acts = .load ps m false :: regs := h.runWith_acts
  have term : (s.runWith iss c w).term = .none := h.runWith_term w
  have access := Run.accesses_load acts hreg term
  exact
    { clear := rfl
      unlocked := by
        unfold State.lockCond
        dsimp only
        rw [access]
        split <;> rfl
      raceless := by
        have tracked (x : Piece) (hx : x ∈ ps) (k : KDesc) : trackedSectors [x] k = [] := trackedSectors_scratch (fun y hy => by rw [List.mem_singleton.1 hy]; exact hps x hx) k
        unfold State.raceCond
        rw [access]
        split
        · rfl
        · rw [List.foldl_cons, List.foldl_nil]
          dsimp only
          rw [List.filterMap_eq_nil_iff.2 fun x hx => by rw [tracked x hx]; rfl]
      routed := State.barred_load acts hps hreg term
      ready := by
        unfold Part.runReady
        rw [show ({ s.runWith iss c w with since := s.now } : Run).waits = [] from h.runWith_waits, show ({ s.runWith iss c w with since := s.now } : Run).term = .none from term,
          show ({ s.runWith iss c w with since := s.now } : Run).acts = _ from acts]
        simp only [List.all_nil, Bool.true_and, Part.termReady, Bool.and_true]
        refine List.all_eq_true.2 fun a ha => ?_
        rcases List.mem_cons.1 ha with rfl | reg
        · rfl
        · have := hreg a reg
          cases a <;> first | rfl | exact absurd this Bool.false_ne_true }

/-- A plain load from a scratchpad writes its registers and changes nothing else. -/
theorem Lone.loads_scratch (hr : i ≠ .refill) (hm : m.order = .plain) (hlag : (s.part iss.q).lag = []) : RegStep s (s.issued iss c (.ofActs (.load ps m false :: regs))) iss c regs := by
  let w : Word := .ofActs (.load ps m false :: regs)
  let r : Run := s.runWith iss c w
  have ctx := h.ctx
  rw [← (Part.ctx_some ctx).1] at ctx
  have acts : r.acts = .load ps m false :: regs := h.runWith_acts
  have term : r.term = .none := h.runWith_term w
  have queued : s.queued iss c w = s.held iss.q c.w (c.x.queued s.now r) (s.part iss.q).cores := h.queued w
  obtain ⟨ds, done, file⟩ := State.held_doActList (s := s) (x := c.x.queued s.now r) r [] hreg
    (⟨fun _ _ => rfl, rfl, fun _ => rfl⟩ : FileOnly (s.part iss.q).cores (s.part iss.q).cores c.w.core (Sparse.rd ((s.part iss.q).core c.w.core).rf))
  have effects : (s.queued iss c w).doActs iss.q (c.queued s.now r) r = s.held iss.q c.w (regs.foldl Warp.took (c.x.queued s.now r)) ds := by
    have load : (s.queued iss c w).doLoad iss.q c.w ps m false = s.queued iss c w := State.doLoad_scratch hps hm (by rw [queued, State.held_part]; exact hlag) false
    refine (State.doActs_load (ls := []) acts hreg term).trans ?_
    rw [State.translated, List.foldl_nil, show (c.queued s.now r).w = c.w from rfl, load, queued]
    exact done
  obtain ⟨block, levels, wait, path⟩ := Warp.tooks_keep (x := c.x.passed iss s.now) hreg
  have hpath : (regs.foldl Warp.took (c.x.passed iss s.now)).path ≠ 0 := by rw [path]; exact h.path hr
  have passed : ((s.queued iss c w).doActs iss.q (c.queued s.now r) r).modW iss.q c.w (fun x => { x with run := none, pc := r.next, refillRun := false }) =
      s.held iss.q c.w (regs.foldl Warp.took (c.x.passed iss s.now)) ds := by
    rw [effects, State.held_modW, ← Warp.tooks_queued _ _ r]
    rfl
  have drained : (s.queued iss c w).drainAll iss.q = s.queued iss c w := State.drainAll_nil (by rw [queued, State.held_part]; exact h.placed)
  have empty := levels.trans h.noLoop
  have result : s.issued iss c w = s.held iss.q c.w (regs.foldl Warp.took (c.x.passed iss s.now)) ds := by
    rw [h.commits (h.settled_scratch hps hreg)]
    refine State.commit_done (State.commitFail_none (by rw [term]; rfl) _ _ _) ?_ ?_ (State.held_unstuck ctx block hpath)
    · rw [drained]
      have ended (k : Core) := State.held_endRun (s := s) (q := iss.q) (c := c.queued s.now r) (cs := ds) (ds := ds) (r := r) (k := k) rfl empty empty
        (by unfold State.doTerm; rw [term])
      exact (congrArg (fun t : State => t.afterCommit iss.q c.w r) ((congrArg (fun z : State => z.endRun iss.q (c.queued s.now r) r _) passed).trans (ended _))).trans
        (State.held_afterCommit ctx block hpath h.unswapped (by simp [term]) h.noObject (by rw [wait]; exact h.noAbwait))
    · rw [drained, queued, State.held_part, State.held_part]
      rfl
  rw [result]
  exact State.held_only file

end lone

/-! ### Loads as they issue -/

theorem regActs_putLoad (e : Env) (z : BitVec 3) (d : Reg) (l : Nat) (bs : List Byte) : regActs (e.putLoad z d l bs) :=
  .ite (regActs_putFull e d l _) (regActs.flatMap fun k => regActs_putAt e d k l _)

theorem regActs_putLoadS (z : BitVec 3) (d : Reg) (bs : List Byte) : regActs (putLoadS z d bs) := .ite (regActs_putS d _) (regActs.flatMap fun _ => regActs_putS _ _)

section words

variable {s : State} {e : Env} {lanes : List Nat} {addr : Nat → W64} {n align : Nat} {loc : Bool} {put : Nat → List Byte → List Act}

/-- The registers that a load writes. -/
def State.loadRegs (s : State) (e : Env) (lanes : List Nat) (addr : Nat → W64) (n align : Nat) (loc : Bool) (put : Nat → List Byte → List Act) : List Act :=
  lanes.flatMap (fun l => put l (laneBytes (s.loads e lanes addr n align loc).1 l))

theorem State.loadWord_nil (h : lanes = []) : s.loadWord e lanes addr n align loc put = .nil := by
  unfold State.loadWord
  rw [h]
  rfl

/-- A load whose checks pass: its translations, what it leaves behind, and its registers. -/
theorem State.loadWord_pass (h : lanes ≠ []) (passed : (s.loads e lanes addr n align loc).2 = none) : s.loadWord e lanes addr n align loc put =
    .ofActs (tlbActs (s.loads e lanes addr n align loc).1 ++ [.load (s.loads e lanes addr n align loc).1 e.mattr loc] ++ s.loadRegs e lanes addr n align loc put) := by
  unfold State.loadWord
  rw [if_neg (by simpa using h)]
  dsimp only
  rw [passed]
  rfl

theorem State.loadWord_clear (h : lanes ≠ []) (clear : (s.loadWord e lanes addr n align loc put).cond = none) : (s.loads e lanes addr n align loc).2 = none := by
  unfold State.loadWord at clear
  rw [if_neg (by simpa using h)] at clear
  dsimp only at clear
  cases failed : (s.loads e lanes addr n align loc).2 with
  | none => rfl
  | some k =>
    rw [failed] at clear
    unfold Word.checked at clear
    dsimp only at clear
    split at clear <;> cases clear

end words

section issue

variable {s : State} {i : Instr} {iss : Issue} {c : Ctx} (h : Lone s i iss c) (hr : i ≠ .refill) {lanes : List Nat} {addr : Nat → W64} {n align : Nat} {loc : Bool}
  {put : Nat → List Byte → List Act} (hput : ∀ l bs, regActs (put l bs))
include h hr hput

/-- A settled load gives its lanes the bytes that its checks read. -/
theorem Lone.loadWord {f : State → Env → Word} (hx : ∀ s, exec i s = withWord s i f) (hf : f (s.begun iss c) (s.env iss c) = (s.begun iss c).loadWord (s.env iss c) lanes addr n align loc put)
    (settled : Settled s iss c ((s.begun iss c).loadWord (s.env iss c) lanes addr n align loc put)) (hd : (s.part iss.q).dir = []) :
    ∃ t, exec i s = .next t ∧ Loaded s t iss c ((s.begun iss c).loadRegs (s.env iss c) lanes addr n align loc put) ∧ Wrote s t iss.q [] := by
  refine ⟨_, h.exec_eq hx hf, ?_⟩
  by_cases empty : lanes = []
  case pos =>
    rw [State.loadWord_nil empty] at settled ⊢
    have left := h.settles settled (h.path hr) rfl (ls := []) (l := []) (regs := []) rfl nofun nofun (u := s.queued iss c .nil) rfl (.refl _) (fun _ => rfl)
      (Wrote.nil_of (.refl _) fun _ => rfl)
    rw [empty]
    exact ⟨left.loaded, left.wrote⟩
  case neg =>
    exact h.loads settled hr hd (State.loadWord_pass empty (State.loadWord_clear empty settled.clear)) (regActs.flatMap fun l => hput l _)

/-- A plain load from the block's scratchpad writes its registers and changes nothing else. -/
theorem Lone.loadWord_scratch {f : State → Env → Word} (hx : ∀ s, exec i s = withWord s i f)
    (hf : f (s.begun iss c) (s.env iss c) = (s.begun iss c).loadWord (s.env iss c) lanes addr n n false put) (hn : n ∣ 128) (hat : (s.env iss c).scratchAt lanes addr n)
    (hbad : s.anyBad iss.q = false) (hlag : (s.part iss.q).lag = []) (plain : (s.env iss c).mattr.order = .plain) :
    ∃ t, exec i s = .next t ∧ RegStep s t iss c ((s.begun iss c).loadRegs (s.env iss c) lanes addr n n false put) := by
  refine ⟨_, h.exec_eq hx hf, ?_⟩
  by_cases empty : lanes = []
  case pos =>
    rw [State.loadWord_nil empty, empty]
    exact h.regs (l := []) (h.path hr) nofun
  case neg =>
    have inScratch := State.loads_inScratch (s := s.begun iss c) hn hat false
    have bad : (s.begun iss c).anyBad iss.q = false := by rw [h.begun]; exact hbad
    rw [State.loadWord_pass empty (State.loads_clear hn hat false bad), tlbActs_scratch inScratch]
    exact h.loads_scratch inScratch (regActs.flatMap fun l => hput l _) hr plain hlag

end issue

/-! ### The family -/

theorem Env.lanes_nodup (e : Env) : e.lanes.Nodup := Sys2Proof.Machine.lanes_nodup _

/-- The bytes of a lane's load from its block's scratchpad. -/
theorem laneBytes_scratch {s : State} {e : Env} {lanes : List Nat} {addr : Nat → W64} {n l : Nat} (hn : n ∣ 128) (hat : e.scratchAt lanes addr n) (once : lanes.Nodup) (mem : l ∈ lanes)
    (hlag : (s.part e.q).lag = []) : laneBytes (s.loads e lanes addr n n false).1 l =
      (List.range n).map (fun j => Sparse.rd ((s.part e.q).core e.c.blk.core).scratch (e.c.blk.scrOff + (addr l).toNat % 2 ^ 32 + j)) := by
  obtain ⟨region, aligned, inside⟩ := hat l mem
  rw [laneBytes_loads n false once mem (aligned_inside hn aligned) (State.resolve_loc _ region inside)]
  unfold State.loadL
  dsimp only
  rw [hlag]
  rfl

/-- `ld` loads for its uniform register once, or for its active lanes. -/
theorem State.ld_eq (s : State) (e : Env) (z : BitVec 3) (i : BitVec 1) (d a b : Reg) : s.ld e z i d a b =
    s.loadWord e (if d.isS then [0] else e.lanes) (e.addr i a b (sizeBytes z)) (sizeBytes z) (sizeBytes z) false (fun l bs => if d.isS then putLoadS z d bs else e.putLoad z d l bs) := by
  unfold State.ld
  dsimp only
  cases d.isS <;> rfl

theorem regActs_ld (e : Env) (z : BitVec 3) (d : Reg) (l : Nat) (bs : List Byte) : regActs (if d.isS then putLoadS z d bs else e.putLoad z d l bs) :=
  .ite (regActs_putLoadS z d bs) (regActs_putLoad e z d l bs)

theorem Loc.add_page (host : Bool) (pa j : Nat) : (if host then Loc.host pa else .dev pa).add j = if host then .host (pa + j) else .dev (pa + j) := by cases host <;> rfl

/-- Settles O31: what a load leaves behind shows neither in memory nor in the registers, so its commit is its register writes; a lane's bytes are those of its one piece. -/
theorem loadsReadTheirBytes : Obligations.LoadsReadTheirBytes := by
  unfold Obligations.LoadsReadTheirBytes
  refine ⟨fun z i d a b s iss c h => ?scratch, fun z bs hn hz => ?value, fun bs three => ?packed, fun z i d a b s iss c => ?settled⟩
  case value =>
    refine toInt_loadVal hn hz ?_
    rw [leNat_eq_sum]
    push_cast [Nat.cast_list_sum]
    rw [List.map_map]
    rfl
  case packed =>
    intro v
    rw [toNat_unpack6, leNat_eq_sum, three]
  case scratch =>
    intro e n off bytes lanes hbad hlag plain hat
    have begun : (s.begun iss c).part iss.q = s.part iss.q := by
      rw [h.begun]
      rfl
    have inside : e.scratchAt lanes (e.addr i a b n) n := hat
    have once : lanes.Nodup := by
      dsimp only [lanes]
      split
      · exact List.nodup_singleton 0
      · exact e.lanes_nodup
    obtain ⟨t, ht, step⟩ := h.loadWord_scratch nofun (regActs_ld e z d) (fun _ => rfl) ((s.begun iss c).ld_eq e z i d a b) (sizeBytes_dvd z) inside hbad hlag plain
    refine ⟨t, ht, ?_⟩
    have same : (s.begun iss c).loadRegs e lanes (e.addr i a b n) n n false (fun l bs => if d.isS then putLoadS z d bs else e.putLoad z d l bs) =
        lanes.flatMap (fun l => if d.isS then putLoadS z d (bytes l) else e.putLoad z d l (bytes l)) := List.flatMap_congr fun l hl => by
      have read := laneBytes_scratch (s := s.begun iss c) (sizeBytes_dvd z) inside once hl (by rw [show e.q = iss.q from rfl, begun]; exact hlag)
      rw [show e.q = iss.q from rfl, begun] at read
      rw [read]
      rfl
    rw [← same]
    exact step
  case settled =>
    intro e b0 reads n at_ near
    have local_ {x : Instr} (hr : x ≠ .refill) (z : BitVec 3) (hx : ∀ s, exec x s = withWord s x (fun s e => s.ldloc e z d a b)) : near x z := fun h hs hd =>
      h.loadWord hr (regActs_putLoad e z d) hx rfl hs hd
    refine ⟨fun h hs hd => ?ld, fun h hs hd => h.loadWord nofun (fun l bs => regActs_putFull e d l _) (fun _ => rfl) rfl hs hd, local_ (x := .ldloc_w d a b) nofun 4 fun _ => rfl, local_ (x := .ldloc_d d a b) nofun 5 fun _ => rfl,
      local_ (x := .ldloc_q d a b) nofun 6 fun _ => rfl, fun loc x lanes n al l pa host lf once mem _ fits hr hlag hdir j hj => ?bytes⟩
    case ld =>
      rw [State.ld_eq] at hs
      obtain ⟨t, ht, loaded, wrote⟩ := h.loadWord nofun (regActs_ld e z d) (fun _ => rfl) (b0.ld_eq e z i d a b) hs hd
      refine ⟨t, ht, ?_, wrote⟩
      by_cases uniform : d.isS = true
      · simpa only [State.loadRegs, uniform, if_true, List.flatMap_singleton] using loaded
      · simpa only [State.loadRegs, eq_false_of_ne_true uniform, Bool.false_eq_true, if_false] using loaded
    case bytes =>
      dsimp only [at_]
      rw [laneBytes_loads al loc once mem fits hr]
      refine (State.loadL_getD (q := iss.q) hlag e.mattr.beyond _ hj).trans ?_
      rw [Loc.add_page, State.rdLoc_page hdir, show e.c.w.core = c.w.core from rfl]
      cases (if e.mattr.beyond then none else ((b0.part iss.q).core c.w.core).l1Find host ((pa + j) / 32)) <;> rfl

end Sys2Proof.Machine
end

section
/-! SUPPORT. The matrix products of R70, R74 and R247, R248. -/

namespace Sys2Proof.Machine

/-! ### An element by its planes (R70) -/

/-- The number that the bits of the planes make at a place. -/
def planeSum (n : Nat) (plane : Nat → Nat) (j : Nat) : Nat := (List.range n).foldl (fun v p => v + plane p / 2 ^ j % 2 * 2 ^ p) 0

theorem planeSum_succ (n : Nat) (plane : Nat → Nat) (j : Nat) : planeSum (n + 1) plane j = planeSum n plane j + plane n / 2 ^ j % 2 * 2 ^ n := by
  unfold planeSum
  rw [List.range_succ, List.foldl_append, List.foldl_cons, List.foldl_nil]

theorem planeSum_lt (n : Nat) (plane : Nat → Nat) (j : Nat) : planeSum n plane j < 2 ^ n := by
  induction n with
  | zero => exact Nat.one_pos
  | succ n ih =>
    have bit : plane n / 2 ^ j % 2 * 2 ^ n ≤ 1 * 2 ^ n := Nat.mul_le_mul_right _ (Nat.lt_succ_iff.1 (Nat.mod_lt _ (by decide)))
    rw [planeSum_succ, Nat.pow_succ]
    omega

/-- What a plane adds to an element. -/
def planeBit (plane : Nat → Nat) (j p : Nat) : Int := if plane p / 2 ^ j % 2 = 1 then 2 ^ p else 0

theorem planeBit_eq (plane : Nat → Nat) (j p : Nat) : planeBit plane j p = ((plane p / 2 ^ j % 2 * 2 ^ p : Nat) : Int) := by
  unfold planeBit
  rcases Nat.mod_two_eq_zero_or_one (plane p / 2 ^ j) with bit | bit <;> simp [bit]

theorem planeSum_eq (n : Nat) (plane : Nat → Nat) (j : Nat) : (planeSum n plane j : Int) = ((List.range n).map (planeBit plane j)).sum := by
  induction n with
  | zero => rfl
  | succ n ih =>
    rw [planeSum_succ, List.range_succ, List.map_append, List.sum_append, ← ih, List.map_singleton, List.sum_singleton, planeBit_eq]
    push_cast
    rfl

/-- The highest plane is the sign's. -/
theorem planeElem_succ (n : Nat) (plane : Nat → Nat) (j : Nat) : planeElem (n + 1) plane j = ((List.range n).map (planeBit plane j)).sum - planeBit plane j n := by
  have low := planeSum_lt n plane j
  have whole : planeElem (n + 1) plane j = sxt (n + 1) (planeSum (n + 1) plane j) := rfl
  have twice : (2 : Int) ^ (n + 1) = 2 * 2 ^ n := by rw [pow_succ, mul_comm]
  rw [whole, sxt_of_lt (planeSum_lt (n + 1) plane j), ← planeSum_eq, planeBit_eq, planeSum_succ, Nat.add_sub_cancel, twice]
  rcases Nat.mod_two_eq_zero_or_one (plane n / 2 ^ j) with bit | bit
  · rw [bit, Nat.zero_mul, Nat.add_zero, if_neg (by omega)]
    simp
  · rw [bit, Nat.one_mul, if_pos (by omega)]
    push_cast
    ring

/-! ### An output element (R74) -/

theorem addF32_eq (a b : W32) : (addF32 a b).1 = (addOp 0 a b 0).1 := rfl

theorem dot_eq (l k : List Int) (h : l.length = k.length) : dot l k = ((List.range l.length).map (fun j => l.getD j 0 * k.getD j 0)).sum := by
  induction l generalizing k with
  | nil => rfl
  | cons x l ih =>
    obtain _ | ⟨y, k⟩ := k
    · cases h
    · rw [dot, ih k (Nat.succ.inj h), List.length_cons, List.range_succ_eq_map, List.map_cons, List.sum_cons, List.map_map]
      rfl

/-- The rounded value of a block of an element. -/
def elementTerm (x : Product) (row col : List (List Int × Nat)) (k : Nat) : W32 × Flags :=
  blockTerm (dot (row.getD k ([], 127)).1 (col.getD k ([], 127)).1) (((row.getD k ([], 127)).2 : Int) + (col.getD k ([], 127)).2 - 254 - (x.na - 2 : Nat) - (x.nb - 2 : Nat))

theorem element_eq (x : Product) (row col : List (List Int × Nat)) : element x row col = treeSum (elementTerm x row col) := rfl

/-! ### The accumulator (R248) -/

/-- A register of the accumulator is the core's as it stood. -/
theorem Product.accum_eq {x : Product} {k : Core} (hx : x.acc = k.accOf x.rows x.d) (_ : x.d + 64 ≤ 512) {row n : Nat} (hrow : row ∈ x.rows) (hn : n < 64) :
    x.accum row (x.d + n) = k.reg row (x.d + n) := by
  have mem : (row * 512 + x.d + n, k.reg row (x.d + n)) ∈ x.acc := by
    rw [hx]
    exact List.mem_flatMap.2 ⟨row, hrow, List.mem_map.2 ⟨n, List.mem_range.2 hn, rfl⟩⟩
  unfold Product.accum
  cases found : x.acc.find? (fun o => o.1 == row * 512 + (x.d + n)) with
  | none =>
    have := List.find?_eq_none.1 found _ mem
    simp [Nat.add_assoc] at this
  | some o =>
    have key := List.find?_some found
    have member := List.mem_of_find?_eq_some found
    rw [hx] at member
    obtain ⟨l, -, inner⟩ := List.mem_flatMap.1 member
    obtain ⟨m, hm, rfl⟩ := List.mem_map.1 inner
    have := List.mem_range.1 hm
    rw [beq_iff_eq] at key
    obtain rfl : l = row := by omega
    obtain rfl : m = n := by omega
    rfl

theorem Core.mem_product {k : Core} {x : Product} {row n : Nat} (hrow : row ∈ x.rows) (hn : n < 64) :
    (row, x.d + n, if x.z then (element x (x.row row) (k.column x n)).1 else (addF32 (x.accum row (x.d + n)) (element x (x.row row) (k.column x n)).1).1) ∈ (k.product x).1 := by
  have column : ((List.range 64).map (fun n => k.column x n)).getD n [] = k.column x n := by simp [hn]
  unfold Core.product
  dsimp only
  refine List.mem_map.2 ⟨_, List.mem_flatMap.2 ⟨row, hrow, List.mem_map.2 ⟨n, List.mem_range.2 hn, rfl⟩⟩, ?_⟩
  dsimp only
  rw [column]
  cases x.z <;> rfl

/-! ### `mma` (R247, R248, R250) -/

section mma

variable (e : Env) (z : BitVec 1) (x : BitVec 2) (y : BitVec 1) (d a b : Reg)

/-- The registers that the word reads. -/
def Env.mmaReads : List Nat := (List.range (8 * actWidth x)).map (fun k => physReg e.c.x.wb a.toNat + k) ++ scaleRegs (scaleAt e.c.x.wb e.iss.pfx a (actWidth x))

/-- The operands that R247 and R250 allow. -/
def Env.mmaLegal : Prop :=
  (∀ r ∈ e.mmaReads x a, r < physReg e.c.x.wb d.toNat ∨ physReg e.c.x.wb d.toNat + 64 ≤ r) ∧ (e.srcS b).toNat % 512 = 0 ∧ (e.srcS b).toNat + tileBytes (weightWidth y) ≤ 2 ^ 20 ∧
    ∀ k ∈ e.c.x.strips, (e.core.tuns.rd k).fenced = false ∨ (e.core.tuns.rd (k ^^^ 1)).fenced = false

theorem Env.mmaLegal_iff : e.mmaLegal x y d a b ↔
    ((!(e.mmaReads x a).all (fun r => !decide (physReg e.c.x.wb d.toNat ≤ r ∧ r < physReg e.c.x.wb d.toNat + 64)) || (e.srcS b).toNat % 512 != 0 ||
      decide (2 ^ 20 < (e.srcS b).toNat + tileBytes (weightWidth y)) || e.c.x.strips.any e.core.noTun) = false) := by
  simp only [Env.mmaLegal, Bool.or_eq_false_iff, Bool.not_eq_false', List.all_eq_true, Bool.not_eq_true', decide_eq_false_iff_not, bne_eq_false_iff_eq, List.any_eq_false, Core.noTun,
    Bool.and_eq_true, not_lt, not_and_or, Bool.not_eq_true, not_le, and_assoc]

theorem Env.mmaWord_bad (h : ¬ e.mmaLegal x y d a b) : e.mmaWord z x y d a b = e.operand := by
  rw [Env.mmaLegal_iff, Bool.not_eq_false] at h
  exact if_pos h

theorem Env.mmaWord_narrow (h : e.mmaLegal x y d a b) (hw : e.c.x.width < 32) : e.mmaWord z x y d a b = e.width := by
  rw [Env.mmaLegal_iff] at h
  exact (if_neg (Bool.eq_false_iff.1 h)).trans (if_pos hw)

end mma

theorem actWidth_eq : ∀ x : BitVec 2, [8, 6, 4, 2].getD x.toNat 0 = actWidth x := by decide
theorem weightWidth_eq : ∀ y : BitVec 1, [8, 4].getD y.toNat 0 = weightWidth y := by decide

/-- Settles O39: the checks of `mma` are one Boolean; an element's planes are its binary digits, of which the highest counts negatively; the tree rounds the exact sum of each block. -/
theorem matrixProducts : Obligations.MatrixProducts := by
  unfold Obligations.MatrixProducts
  intro plus
  refine ⟨fun z x y d a b => .of (fun _ => rfl) fun _ _ _ => rfl, fun z x y d a b => ?operands, fun n plane j hn => ?planes, fun x row col hna hnb hrow hcol hlen => ?element,
    fun k x row n hrow hn => ?product⟩
  case operands =>
    dsimp only
    rw [actWidth_eq, weightWidth_eq]
    exact ⟨.of (fun _ => rfl) (fun _ e bad => by rw [e.mmaWord_bad z x y d a b bad]; exact ⟨rfl, rfl, rfl⟩) fun _ _ => ⟨rfl, nofun⟩,
      .of (fun _ => rfl) (fun _ e ok => e.mmaWord_narrow z x y d a b ok.1 ok.2) fun _ _ => rfl⟩
  case planes =>
    obtain ⟨m, rfl⟩ := Nat.exists_eq_succ_of_ne_zero hn.ne'
    exact planeElem_succ m plane j
  case element =>
    intro a b sum
    refine ⟨fun k => (elementTerm x row col k).1, fun k hk => ?_, rfl⟩
    have left : row.getD k ([], 127) = a k := by simp [a, hrow, hk]
    have right : col.getD k ([], 127) = b k := by simp [b, hcol, hk]
    have inRow : a k ∈ row := by
      simp only [a, List.getD_eq_getElem _ _ (hk.trans_eq hrow.symm), List.getElem_mem]
    have inCol : b k ∈ col := by
      simp only [b, List.getD_eq_getElem _ _ (hk.trans_eq hcol.symm), List.getElem_mem]
    have lengths : (a k).1.length = 32 ∧ (b k).1.length = 32 := ⟨hlen _ (List.mem_append_left _ inRow), hlen _ (List.mem_append_right _ inCol)⟩
    have exact_ : dot (a k).1 (b k).1 = sum k := by rw [dot_eq _ _ (lengths.1.trans lengths.2.symm), lengths.1]
    have widths : 2 ≤ x.na ∧ 2 ≤ x.nb := by
      simp only [List.mem_cons, List.not_mem_nil, or_false] at hna hnb
      omega
    refine ⟨numOfInt (sum k) (((a k).2 : Int) + (b k).2 - 254 - (x.na - 2) - (x.nb - 2)) false, numOfInt_is _ _ _, ?_⟩
    dsimp only
    unfold elementTerm
    rw [left, right, exact_, Nat.cast_sub widths.1, Nat.cast_sub widths.2]
    rfl
  case product =>
    intro t
    exact ⟨Core.mem_product hrow hn, fun k0 hacc hd => Product.accum_eq hacc hd hrow hn⟩

end Sys2Proof.Machine
end

section
/-! SUPPORT. Event counters that are written, line locks that are set, and what a warp inherits (R80, R253, R259, R270). -/

namespace Sys2Proof.Machine

/-! ### What the steps answer -/

theorem happens_eventCounterWrite (s : State) (q n : Nat) (v : W64) :
    Happens s q (.event_counter_write n v) (if n < 4096 then s.taken.fromHost q .bar0 (s.taken.modPart q (fun p => p.setEvent n v)) else s.taken) := rfl
theorem happens_gridStart (s : State) (q g : Nat) : Happens s q (.grid_start g) (s.taken.modPart q (fun p => p.startGrid g)) := rfl
theorem happens_sleepExpiry (s : State) (q : Nat) (w : WRef) : Happens s q (.sleep_expiry w)
    (if (s.part q).warpIs w (fun x => x.sleepDue s.now) then s.taken.modW q w (fun x => { x with wait := .none }) else s.taken) := rfl
theorem happens_lockTimeout (s : State) (q : Nat) (w : WRef) : Happens s q (.lock_timeout w)
    (if (s.part q).warpIs w (fun x => (s.part q).lockDue x s.now) then s.taken.modPart q (fun p => p.lockTimeout w) else s.taken) := rfl
theorem happens_inheritHop (s : State) (q : Nat) (w : WRef) :
    Happens s q (.inherit_hop w) (s.taken.modPart q (fun p => p.modWarp w (fun x => { x with linh := p.lockInherit 8 x.uid, binh := p.barInherit w x }))) := rfl

theorem Part.warpIs_some {p : Part} {w : WRef} {x : Warp} (h : p.warp w = some x) (f : Warp → Bool) : p.warpIs w f = f x := by
  unfold Part.warpIs
  rw [h]

theorem Part.modWarp_some {p : Part} {w : WRef} {x : Warp} (h : p.warp w = some x) (f : Warp → Warp) : p.modWarp w f = p.setWarp w (f x) := by
  unfold Part.modWarp
  rw [h]

/-! ### Event counters (R80) -/

/-- Waits in `lwait` that end change no counter and no grid. -/
theorem Part.wakeLwait_grids (p : Part) : p.wakeLwait.events = p.events ∧ p.wakeLwait.grids = p.grids := by
  refine List.foldlRecOn _ _ (motive := fun r : Part => r.events = p.events ∧ r.grids = p.grids) ⟨rfl, rfl⟩ fun r hr x _ => ?_
  unfold Part.endLwait
  split
  · dsimp only
    split
    · exact hr
    · exact hr
  · exact hr

theorem Part.setEvent_events (p : Part) (e : Nat) (v : W64) : (p.setEvent e v).events = Sparse.wr p.events e v := (Part.wakeLwait_grids _).1

theorem Part.setEvent_grids (p : Part) (e : Nat) (v : W64) : (p.setEvent e v).grids = p.grids.map (fun g =>
    { g with held := (g.l.deps.zip g.held).map (fun d => d.2 || decide (d.1.2 ≤ (Sparse.rd (p.setEvent e v).events d.1.1).toNat)) }) := by
  rw [Part.setEvent_events]
  exact (Part.wakeLwait_grids _).2

/-! ### The start of a grid (R76) -/

theorem Part.startGrid_due {p : Part} {g : Nat} {x : Grid} (h : p.grid? g = some x) (hs : x.started = false) (hd : ∀ b ∈ x.held, b = true)
    (he : ∀ y ∈ p.grids, y.queue = x.queue → y.seq < x.seq → y.started = true) : p.startGrid g = p.modGrid g (fun x => { x with started := true }) := by
  have due : p.mayStartGrid x = true := by
    unfold Part.mayStartGrid
    simp only [Bool.and_eq_true, Bool.not_eq_true', List.all_eq_true, Bool.or_eq_true, Bool.and_eq_false_iff, id]
    refine ⟨⟨hs, hd⟩, fun y hy => ?_⟩
    by_cases hq : y.queue = x.queue ∧ y.seq < x.seq
    · exact .inr (he y hy hq.1 hq.2)
    · simp only [beq_eq_false_iff_ne, decide_eq_false_iff_not]
      exact .inl (not_and_or.1 hq)
  unfold Part.startGrid
  rw [h]
  exact if_pos due

/-! ### The locks of lines (R265, R271) -/

theorem Part.lock_line (p : Part) (n : Nat) : (p.lock n).line = n := by
  unfold Part.lock
  cases h : p.locks.find? (fun l => l.line == n) with
  | none => rfl
  | some l => exact beq_iff_eq.1 (List.find?_some (p := fun l : Lock => l.line == n) h)

theorem Part.setLock_lock (p : Part) (l : Lock) : (p.setLock l).lock l.line = l := by
  have gone : (p.locks.filter (fun x => x.line != l.line)).find? (fun x => x.line == l.line) = none :=
    List.find?_eq_none.2 fun x hx => by simpa using (List.mem_filter.1 hx).2
  unfold Part.setLock Part.lock
  dsimp only
  split
  case isTrue free =>
    rw [gone]
    exact free.symm
  case isFalse =>
    rw [List.find?_append, gone]
    simp

/-- A warp that leaves the one queue it waits in. -/
theorem Part.leaveQueues_waits {p : Part} {uid n : Nat} (h : p.waitsOn uid = some n) :
    p.leaveQueues uid = p.setLock { p.lock n with waiters := (p.lock n).waiters.filter (fun y => y.uid != uid) } := by
  unfold Part.leaveQueues
  rw [h]

theorem Part.lockTimeout_llock {p : Part} {w : WRef} {x : Warp} (h : p.warp w = some x) {d : Reg} {n : Nat} {a b : W64} (hw : x.wait = .llock d n a b) :
    p.lockTimeout w = (p.leaveQueues x.uid).setWarp w { x.setS d 1 with wait := .none } := by
  unfold Part.lockTimeout
  rw [h]
  dsimp only
  rw [hw]

theorem Part.lockDue_llock {p : Part} {x : Warp} {now : Nat} (hs : x.stopped = none) {d : Reg} {n : Nat} {a b : W64} (hw : x.wait = .llock d n a b)
    (hl : ∃ y ∈ (p.lock n).waiters, y.uid = x.uid ∧ ∃ u, y.left = some u ∧ u ≤ now) : p.lockDue x now = true := by
  obtain ⟨y, hy, huid, u, hu, hle⟩ := hl
  unfold Part.lockDue
  rw [hw]
  dsimp only
  rw [hs, Option.isNone_none, Bool.true_and]
  refine List.any_eq_true.2 ⟨y, hy, ?_⟩
  rw [hu]
  simp [huid, hle]

/-! ### The end of a `split`'s wait (R108) -/

/-- Outside the end of its innermost loop body, a warp goes on at the next word. -/
theorem Warp.loopEnd_outside {x : Warp} {last : W64} (h : ∀ l ∈ x.levels.head?, l.stop ≠ last) (fuel : Nat) : x.loopEnd last fuel = x := by
  cases fuel with
  | zero => rfl
  | succ fuel =>
    unfold Warp.loopEnd
    split
    · rfl
    case h_2 l rest hl => exact if_pos (h l (by rw [hl]; rfl))

theorem Part.setWarp_ctx {p : Part} {w : WRef} {c : Ctx} (h : p.ctx w = some c) {x : Warp} (hx : x.block = c.x.block) : (p.setWarp w x).ctx w = some { c with x := x } := by
  obtain ⟨hw, -, hb, hg, hr⟩ := Part.ctx_some h
  rw [← hw]
  exact Part.ctx_mk (Part.setWarp_warp p c.w x) (by rw [hx]; exact hb) hg hr

/-- A warp whose engine work has not ended in its time, with lanes on its path and outside the end of a loop body, has its code and goes on at the next word. -/
theorem State.lateSplit_busy {s : State} {q : Nat} {w : WRef} {c : Ctx} (hc : (s.part q).ctx w = some c) (hi : c.x.ifc ≠ 0) (hp : c.x.path ≠ 0) {a : W64}
    (hl : ∀ l ∈ c.x.levels.head?, l.stop ≠ a) (d : Reg) (n : Nat) :
    s.lateSplit q c d n a = s.setPart q ((s.part q).setWarp w { c.x.setS d (BitVec.ofInt 64 (-4)) with wait := .none, pc := a + 4 }) := by
  let x : Warp := { c.x with wait := .none, pc := a + 4 }
  obtain rfl := (Part.ctx_some hc).1
  have coded : x.result d (-4) = { c.x.setS d (BitVec.ofInt 64 (-4)) with wait := .none, pc := a + 4 } := by
    unfold Warp.result Warp.setS
    split <;> rfl
  have tried : (s.modPart q (fun p => p.setWarp c.w x)).trySplit q { c with x := x } d n = .ok (s.setPart q ((s.part q).setWarp c.w (x.result d (-4)))) := by
    unfold State.trySplit
    rw [if_pos hi]
    simp [State.modPart, Part.setWarp_setWarp]
  have outside : (if x.trap.inh || x.live == 0 then x else x.loopEnd a 4) = x := by rw [Warp.loopEnd_outside (x := x) hl, ite_self]
  unfold State.lateSplit
  dsimp only
  rw [outside, tried, coded]
  dsimp only
  refine State.settleWarp_path (c := { c with x := { c.x.setS d (BitVec.ofInt 64 (-4)) with wait := .none, pc := a + 4 } }) ?_ ?_
  · rw [State.setPart_part]
    exact Part.setWarp_ctx hc (Warp.setS_keeps c.x d _).1
  · exact fun h => hp ((Warp.setS_keeps c.x d _).2.2.2.symm.trans h)

/-- Where no swap is under way, no warp stops for one. -/
theorem State.swapStops_none {s : State} {q : Nat} (h : (s.part q).swaps = []) (now : Nat) : s.modPart q (fun p => p.swapStops now) = s := by
  rw [State.modPart, Part.swapStops_nil h, State.setPart_self]

theorem happens_splitTimeout {s : State} {q : Nat} {w : WRef} {c : Ctx} (h : (s.part q).ctx w = some c) {d : Reg} {n u : Nat} {a : W64} (hw : c.x.wait = .split d n u a)
    (hu : u + 8192 ≤ s.now) : Happens s q (.split_timeout w) ((s.taken.lateSplit q c d n a).modPart q (fun p => p.swapStops s.now)) := by
  have due : c.x.splitDue s.now = true := by
    unfold Warp.splitDue
    rw [hw]
    exact decide_eq_true hu
  have answers : Happens s q (.split_timeout w) (match (s.part q).ctx w with
    | some c => (match c.x.wait with
      | .split d v _ a => if c.x.splitDue s.now then (s.taken.lateSplit q c d v a).modPart q (fun p => p.swapStops s.now) else s.taken
      | _ => s.taken)
    | none => s.taken) := rfl
  rw [h] at answers
  dsimp only at answers
  rw [hw] at answers
  simpa only [due, if_true] using answers

/-! ### Inheritance (R253, R259, R270) -/

/-- A fold that takes bounds one by one lies under a bound where each part does. -/
theorem foldl_le_iff {α : Type} {f : Nat → α → Nat} {m : Nat} {P : α → Prop} (l : List α) (h : ∀ n, ∀ a ∈ l, f n a ≤ m ↔ n ≤ m ∧ P a) (n : Nat) :
    l.foldl f n ≤ m ↔ n ≤ m ∧ ∀ a ∈ l, P a := by
  induction l generalizing n with
  | nil => simp
  | cons a l ih =>
    rw [List.foldl_cons, ih (fun n b hb => h n b (List.mem_cons_of_mem a hb)), h n a List.mem_cons_self, List.forall_mem_cons, and_assoc]

/-- What a warp brings to the holder that it waits for: its own priority, and what it inherits at barriers. -/
def Part.brings (p : Part) (u : Nat) : Nat := match p.byUid u with | some x => max x.2.prio x.2.binh | none => 0

theorem Part.brings_le_iff (p : Part) (u m : Nat) : p.brings u ≤ m ↔ ∀ y z, p.byUid u = some (y, z) → z.prio ≤ m ∧ z.binh ≤ m := by
  unfold Part.brings
  cases p.byUid u with
  | none => simp
  | some x => simp [Prod.ext_iff]

theorem Part.lockInherit_succ_le_iff (p : Part) (k u m : Nat) : p.lockInherit (k + 1) u ≤ m ↔
    ∀ l ∈ p.locks, l.holder = some u → ∀ w ∈ l.waiters, p.present w.uid = true → p.brings w.uid ≤ m ∧ p.lockInherit k w.uid ≤ m := by
  have waiter (n : Nat) (w : Waiter) : max n (max (p.brings w.uid) (p.lockInherit k w.uid)) ≤ m ↔ n ≤ m ∧ p.brings w.uid ≤ m ∧ p.lockInherit k w.uid ≤ m := by
    rw [max_le_iff, max_le_iff]
  have line (n : Nat) (l : Lock) := foldl_le_iff (l.waiters.filter (fun w => p.present w.uid)) (fun n w _ => waiter n w) n
  refine (foldl_le_iff (p.locks.filter (fun l => l.holder == some u)) (fun n l _ => line n l) 0).trans ?_
  simp [List.mem_filter]

/-- A bound on what a warp inherits through its locks is one on what every warp brings that waits for them along a chain (R270). -/
theorem Part.lockInherit_le_iff (p : Part) (k u m : Nat) : p.lockInherit k u ≤ m ↔ ∀ v, p.Chain k u v → p.brings v ≤ m := by
  induction k generalizing u with
  | zero => simp [Part.lockInherit, Part.Chain]
  | succ k ih =>
    rw [Part.lockInherit_succ_le_iff]
    constructor
    · rintro h v ⟨l, hl, hu, w, hw, hp, rfl | chain⟩
      · exact (h l hl hu w hw hp).1
      · exact (ih _).1 (h l hl hu w hw hp).2 v chain
    · intro h l hl hu w hw hp
      exact ⟨h _ ⟨l, hl, hu, w, hw, hp, .inl rfl⟩, (ih _).2 fun v chain => h v ⟨l, hl, hu, w, hw, hp, .inr chain⟩⟩

/-- A warp of the gang whose wait raises the priority of warp `x` in context `w` (R259, R343). -/
def Warp.raisedBy (x : Warp) (w u : WRef) (y : Warp) : Prop :=
  u ≠ w ∧ y.stopped = none ∧
    ((∃ k n, y.wait = .nbar k n ∧ y.block = x.block ∧ x.arrivals k = 0) ∨ (∃ n, y.wait = .gbar n ∧ x.arrivals 16 = 0) ∨
      ((∃ d h a b, y.wait = .coll d h a b) ∧ y.block = x.block ∧ ∀ d h a b, x.wait ≠ .coll d h a b))

theorem ite_max_le_iff {c : Bool} {P : Prop} (h : c = true ↔ P) (n k m : Nat) : (if c then max n k else n) ≤ m ↔ n ≤ m ∧ (P → k ≤ m) := by
  rw [← h]
  cases c <;> simp

/-- A bound on what a warp inherits at barriers is one on the priorities of the warps that wait there (R259). -/
theorem Part.barInherit_le_iff {p : Part} {w : WRef} {x : Warp} {b : Block} (hb : p.block? x.block = some b) (m : Nat) :
    p.barInherit w x ≤ m ↔ ∀ u ∈ p.warpsOfGang b.gang, x.raisedBy w u.1 u.2 → u.2.eff ≤ m := by
  unfold Part.barInherit
  rw [hb]
  dsimp only
  refine (foldl_le_iff _ (fun n y _ => ?_) 0).trans (and_iff_right (Nat.zero_le m))
  by_cases away : y.1 = w ∨ y.2.stopped ≠ none
  · rw [if_pos (by simpa [Option.isSome_iff_ne_none] using away)]
    refine (and_iff_left fun raised => ?_).symm
    exact absurd away (not_or.2 ⟨raised.1, not_not.2 raised.2.1⟩)
  · obtain ⟨hw, hs⟩ := not_or.1 away
    rw [if_neg (by simpa [Option.isSome_iff_ne_none] using away)]
    refine ite_max_le_iff ?_ n _ m
    unfold Warp.raisedBy
    rw [and_iff_right hw, and_iff_right (not_not.1 hs)]
    cases y.2.wait
    case coll => cases x.wait <;> simp [-Prod.exists, -Prod.forall]
    all_goals simp

end Sys2Proof.Machine
end

section
/-! SUPPORT. The family of the counters and the waits that end. -/

namespace Sys2Proof.Machine

/-- Settles O47: what a warp inherits through locks and at barriers is a fold of maxima, of which each bound is a bound on every warp that waits. -/
theorem countersAndWaits : Obligations.CountersAndWaits := by
  unfold Obligations.CountersAndWaits
  intro s q p with_
  refine ⟨fun n v hn hr => ?counter, fun g x hx hs hd he => ?start, fun w x hx hs => ⟨fun u hw hu => ?sleep, fun d n a b hw hl hy => ?lock,
    fun c d n u a hc hw hu hi hp hl hsw => ?split, p.lockInherit 8 x.uid, p.barInherit w x, ?hop, fun m => ?chain, fun b hb m => Part.barInherit_le_iff hb m⟩⟩
  case counter =>
    refine ⟨_, (happens_eventCounterWrite s q n v).of_eq ((if_pos hn).trans (State.fromHost_served (s := s.taken) (fun _ => hr) _)), fun m => ?_, ?_⟩
    · rw [State.modPart_part, Part.setEvent_events, Sparse.rd_wr]
      exact if_congr eq_comm rfl rfl
    · rw [State.modPart_part]
      exact Part.setEvent_grids p n v
  case start =>
    exact (happens_gridStart s q g).of_eq (congrArg (State.setPart s.taken q) (Part.startGrid_due hx hs hd he))
  case sleep =>
    have due : p.warpIs w (fun x => x.sleepDue s.now) = true := by
      rw [Part.warpIs_some hx]
      unfold Warp.sleepDue
      rw [hw]
      simp [hs, hu]
    exact (happens_sleepExpiry s q w).of_eq ((if_pos due).trans (congrArg (State.setPart s.taken q) (Part.modWarp_some hx _)))
  case lock =>
    have due : p.warpIs w (fun x => p.lockDue x s.now) = true := by
      rw [Part.warpIs_some hx]
      exact Part.lockDue_llock hs hw hy
    have left : p.lockTimeout w = (p.setLock { p.lock n with waiters := (p.lock n).waiters.filter (fun y => y.uid != x.uid) }).setWarp w { x.setS d 1 with wait := .none } := by
      rw [Part.lockTimeout_llock hx hw, Part.leaveQueues_waits hl]
    refine ⟨_, (happens_lockTimeout s q w).of_eq (if_pos due), ?_, ?_⟩ <;> rw [State.modPart_part]
    · exact (congrArg (fun r : Part => r.warp w) left).trans (Part.setWarp_warp _ w _)
    · refine (congrArg (fun r : Part => r.lock n) left).trans ?_
      have := Part.setLock_lock p { p.lock n with waiters := (p.lock n).waiters.filter (fun y => y.uid != x.uid) }
      rwa [Part.lock_line] at this
  case split =>
    obtain ⟨rfl, found, -⟩ := Part.ctx_some hc
    obtain rfl : c.x = x := Option.some.inj (found.symm.trans hx)
    refine (happens_splitTimeout hc hw hu).of_eq ?_
    rw [State.lateSplit_busy (s := s.taken) hc hi hp hl]
    refine State.swapStops_none ?_ s.now
    rw [State.setPart_part]
    exact hsw
  case hop => exact (happens_inheritHop s q w).of_eq (congrArg (State.setPart s.taken q) (Part.modWarp_some hx _))
  case chain =>
    rw [Part.lockInherit_le_iff]
    simp only [Part.brings_le_iff]
    exact ⟨fun h u y z hc hu => h u hc y z hu, fun h u hc y z hu => h u y z hc hu⟩

end Sys2Proof.Machine
end

section
/-! SUPPORT. A `coll` in a context whose slot number is beyond a core's 64: the warp is taken for its own mate. -/

namespace Sys2Proof.Machine

/-- A context that no core has (R23: slots 0 to 63): its key is the one of context 0 of core 1, under which the lists of a block's warps name it. -/
def strayRef : WRef := ⟨0, 64⟩

/-- The one warp of the fetch state in that context; the tile of its `coll` lies at 64, its handle 0 is not configured. -/
def strayWarp : Warp := { probeWarp 0 with s := [(9, 64)] }

/-- Its `coll`, as a run of its own. -/
def strayIssue : Issue := ⟨0, strayRef, 0x10000, 4, true, .none, 0, 0⟩
def strayColl : Instr := .coll 100 106 104

/-- The state that grants it, with one quarter enabled and everything else as at reset. -/
def strayState : State :=
  { State.reset with
    cur := some strayIssue
    regs := ⟨{ QRegs.reset 0 with state := 2 }, QRegs.reset 1, QRegs.reset 2, QRegs.reset 3⟩
    parts := ⟨{ probePart 0 with warps := [(wkey strayRef, strayWarp)] }, Part.reset, Part.reset, Part.reset⟩ }

/-- The warp with its block, its gang and its grid. -/
def strayCtx : Ctx := ⟨strayRef, strayWarp, ⟨0, 0, 0, 0, 0, 0, 0, 1024, freshBars, true⟩, ⟨0, 0, [0], ⟨0, 0, 0⟩, 1⟩, probeGrid⟩

/-- The word that the `coll` queues. -/
def strayWord : Word :=
  let e := strayState.env strayIssue strayCtx
  (strayState.begun strayIssue strayCtx).collWord e 100 (e.srcS 106).toNat (e.srcS 106) (e.srcS 104, e.srcS1 104)

theorem strayColl_lone : Lone strayState strayColl strayIssue strayCtx where
  cur := rfl
  ctx := by decide +kernel
  takes := by decide +kernel
  room := by decide +kernel
  body := by decide +kernel
  effect := .inl rfl
  bound := by decide +kernel
  fresh := rfl
  bung := rfl
  placed := rfl
  unswapped := rfl
  unreserved := rfl
  noObject := by
    intro y hy l g t
    have hw : y = (wkey strayRef, strayWarp) := List.mem_singleton.1 hy
    rw [hw]
    exact Wait.noConfusion
  noLoop := rfl

theorem strayColl_settled : Settled strayState strayIssue strayCtx strayWord where
  clear := by decide +kernel
  unlocked := by decide +kernel
  raceless := by decide +kernel
  routed := by decide +kernel
  ready := by decide +kernel

/-- The warp is alone in its block, and yet the list of the others holds it, under a name that is not its own. -/
theorem mates_strayState : ((strayState.part 0).warpsOf strayCtx.blk.id).filter (fun u => u.1 != strayRef) = [(⟨1, 0⟩, strayWarp)] := by decide +kernel

/-- What the warp in a context of quarter 0 waits for, after a step. -/
def waitAfter (o : Result) (w : WRef) : Option Wait :=
  match o with
  | .next t => ((t.part 0).warp w).map Warp.wait
  | _ => none

theorem Became.waitAfter_eq {s : State} {i : Instr} {iss : Issue} {c : Ctx} {y : Warp} (h : Became s i iss c y) (hq : iss.q = 0) :
    waitAfter (exec i s) c.w = some y.wait := by
  obtain ⟨t, ht, hy⟩ := h
  have hw := hy.warp
  rw [hq] at hw
  rw [ht]
  simp only [waitAfter, hw, Option.map_some]

/-- The model lets it go on: every warp of its block has arrived. -/
theorem waitAfter_strayColl : waitAfter (exec strayColl strayState) strayRef = some .none := by decide +kernel

/-- The statement has it wait for the other warps: the name in the list is not its own, and no `coll` waits there. -/
theorem strayColl_waits (h : Obligations.WorkWordsCommit) :
    ∃ m a b, Became strayState strayColl strayIssue strayCtx { strayCtx.x.passed strayIssue strayState.now with wait := .coll 100 m a b } := by
  obtain ⟨-, -, -, -, -, -, -, -, -, -, -, -, -, -, -, -, -, -, -, -, h⟩ := h 100 106 104
  obtain ⟨-, -, -, -, -, -, -, hcoll⟩ := h strayState strayIssue strayCtx
  obtain ⟨-, hwait, -⟩ := hcoll strayColl_lone (by decide +kernel) strayColl_settled
  refine ⟨_, _, _, hwait (fun u hu => .inl ?_) ⟨(⟨1, 0⟩, strayWarp), mates_strayState.symm ▸ List.mem_singleton_self _, rfl⟩⟩
  have hu : u = (⟨1, 0⟩, strayWarp) := List.mem_singleton.1 (mates_strayState ▸ hu)
  rw [hu]
  rfl

end Sys2Proof.Machine
end

section
/-! SUPPORT. The statement about the words that shape warps. -/

namespace Sys2Proof.Machine

/-- Refutes O40: a warp in a slot beyond a core's 64 stands in the list of its block's warps under another name, so that a `coll` of the only warp of a block, which the
model completes with status 5, is one that waits for the block's other warps by the statement, which does not bound the slot (R23). -/
theorem not_workWordsCommit : ¬ Obligations.WorkWordsCommit := by
  intro h
  obtain ⟨m, a, b, hwaits⟩ := strayColl_waits h
  have hwait : some Wait.none = some (Wait.coll 100 m a b) := waitAfter_strayColl.symm.trans (hwaits.waitAfter_eq rfl)
  exact Wait.noConfusion (Option.some.inj hwait)

end Sys2Proof.Machine
end

section
/-! SUPPORT. A lone word whose effects a commit performs on its warp and its core's register file: tags, register blocks and registers. -/

namespace Sys2Proof.Machine

/-! ### Effects on what a warp owns -/

/-- An effect on the warp's own tags, register blocks or registers. -/
def Act.own (a : Act) : Bool := match a with | .tclr _ | .racq .. | .rrel .. => true | a => a.isReg

/-- It accesses no bytes, translates nothing, and a commit performs it in its place. -/
theorem Act.inPlace_of_own {a : Act} (h : a.own = true) : a.inPlace = true := by
  cases a <;> first | rfl | exact absurd h Bool.false_ne_true

section own

variable {r : Run} (hl : ∀ a ∈ r.acts, a.own = true) (ht : r.term = .none)
include hl ht

theorem Run.accesses_own : r.accesses = [] := by
  unfold Run.accesses
  rw [ht, List.append_nil]
  refine List.append_eq_nil_iff.2 ⟨List.filterMap_eq_nil_iff.2 fun a ha => ?_, List.filterMap_eq_nil_iff.2 fun a ha => ?_⟩
  all_goals
    have := hl a ha
    cases a <;> first | rfl | exact absurd this Bool.false_ne_true

/-- No router drops anything of such a run, which sends no request. -/
theorem State.barred_own (s : State) (q : Nat) (c : Ctx) : s.runBarred q c r (s.requests q c r) = [] := by
  have spills : (s.spillPieces q c r).1 = [] := State.spillPieces_plain (by rw [ht]; rfl)
  have requests : s.requests q c r = [] := by
    unfold State.requests
    simp only [spills, ht, pieceSectors, reqsOf, List.flatMap_nil, List.dedup_nil, List.map_nil, List.filterMap_nil, List.append_nil]
    refine List.flatMap_eq_nil_iff.2 fun a ha => ?_
    have := hl a ha
    cases a <;> first | rfl | exact absurd this Bool.false_ne_true
  unfold State.runBarred
  rw [requests, spills, List.flatMap_nil, List.filterMap_nil, List.append_nil, List.append_nil]
  refine List.flatMap_eq_nil_iff.2 fun a ha => ?_
  have := hl a ha
  cases a <;> first | rfl | exact absurd this Bool.false_ne_true

end own

/-! ### A lone word of such effects -/

section lone

variable {s : State} {i : Instr} {iss : Issue} {c : Ctx} (h : Lone s i iss c) {w : Word} (ht : w.term = .none)
include h ht

/-- It settles where nothing holds its park. -/
theorem Lone.settled_own (hc : w.cond = none) (hl : ∀ a ∈ w.acts, a.own = true)
    (hr : ((s.part iss.q).holding c.w (c.x.queued s.now (s.runWith iss c w)) (s.part iss.q).cores).runReady (c.queued s.now (s.runWith iss c w))
      { s.runWith iss c w with since := s.now } = true) : Settled s iss c w := by
  have term : (s.runWith iss c w).term = .none := (h.runWith_term w).trans ht
  have own (a : Act) (ha : a ∈ (s.runWith iss c w).acts) : a.own = true := hl a (by rwa [h.runWith_acts] at ha)
  have quiet : (s.runWith iss c w).accesses = [] := Run.accesses_own own term
  exact
    { clear := hc
      unlocked := by simp [State.lockCond, quiet]
      raceless := by simp [State.raceCond, quiet]
      routed := State.barred_own own term _ _ _
      ready := by rw [h.queued_part]; exact hr }

/-- The one effect of its run, on the state with the word queued. -/
theorem Lone.doActs_own {a : Act} (ha : w.acts = [a]) (hown : a.own = true) :
    (s.queued iss c w).doActs iss.q (c.queued s.now (s.runWith iss c w)) (s.runWith iss c w) =
      (s.held iss.q c.w (c.x.queued s.now (s.runWith iss c w)) (s.part iss.q).cores).doAct iss.q c.w (s.runWith iss c w) [] a := by
  have acts : (s.runWith iss c w).acts = [a] := h.runWith_acts.trans ha
  have place := Act.inPlace_of_own hown
  rw [State.doActs_inOrder (fun b hb => by rw [acts] at hb; rw [List.mem_singleton.1 hb]; exact Act.inOrder_of_inPlace place) ((h.runWith_term w).trans ht), acts]
  simp only [List.foldl_cons, List.foldl_nil, State.doLoadAct_inPlace place]
  exact congrArg (fun t : State => t.doAct iss.q c.w (s.runWith iss c w) [] a) (h.queued w)

/-- Settled, it leaves its warp as its effects do, past the word, and its core's file, and nothing else changes. -/
theorem Lone.performs (hs : Settled s iss c w) (hp : c.x.path ≠ 0) {y : Warp} {ds : AMap Core} {rf : Nat → W32}
    (done : (s.queued iss c w).doActs iss.q (c.queued s.now (s.runWith iss c w)) (s.runWith iss c w) = s.held iss.q c.w y ds)
    (hy : y.block = c.x.block ∧ y.levels = c.x.levels ∧ y.wait = c.x.wait ∧ y.path = c.x.path) (file : FileOnly (s.part iss.q).cores ds c.w.core rf) :
    OnlyWarp s (s.issued iss c w) iss.q c.w { y with run := none, pc := iss.addr + BitVec.ofNat 64 iss.len, refillRun := false } rf := by
  obtain ⟨block, levels, wait, path⟩ := hy
  have hctx := h.ctx
  rw [← (Part.ctx_some hctx).1] at hctx
  have term : (s.runWith iss c w).term = .none := (h.runWith_term w).trans ht
  let z := s.held iss.q c.w { y with run := none, pc := iss.addr + BitVec.ofNat 64 iss.len, refillRun := false } ds
  have part : z.part iss.q = _ := State.held_part ..
  have lane : y.path ≠ 0 := by rw [path]; exact hp
  have drained : (s.queued iss c w).drainAll iss.q = s.queued iss c w := State.drainAll_nil (h.queued_placeQ w)
  have left : ((s.queued iss c w).doActs iss.q (c.queued s.now (s.runWith iss c w)) (s.runWith iss c w)).modW iss.q c.w
      (fun x => { x with run := none, pc := (s.runWith iss c w).next, refillRun := false }) = z := by
    rw [done]
    exact State.held_modW ..
  have committed : s.committed iss c w = z := by
    refine State.commit_done ?_ ?_ ?_ (State.held_unstuck hctx block lane)
    · exact State.commitFail_none (by rw [term]; rfl) _ _ _
    · rw [drained]
      refine (congrArg (fun t : State => (t.endRun _ _ _ _).afterCommit _ _ _) left).trans ?_
      rw [State.endRun_none (c := c.queued s.now (s.runWith iss c w)) part rfl term (levels.trans h.noLoop)]
      exact State.held_afterCommit hctx block lane h.unswapped (by rw [term]; nofun) h.noObject (by rw [wait]; exact h.noAbwait)
    · rw [drained, part, h.queued_part]
      rfl
  rw [h.commits hs, committed]
  exact State.held_only file

end lone

end Sys2Proof.Machine
end

section
/-! SUPPORT. Register blocks: what `racq` and `rrel` find and leave (R104, R105). -/

namespace Sys2Proof.Machine

/-! ### The other warps of a core -/

/-- A warp that changes is no other warp of its core. -/
theorem Part.holding_others (p : Part) (w : WRef) (x : Warp) (cs : AMap Core) :
    ((p.holding w x cs).warpsOn w.core).filter (fun y => y.1 != w) = (p.warpsOn w.core).filter (fun y => y.1 != w) := by
  have named : (w.core * 64 + w.slot) / 64 = w.core → keyRef (w.core * 64 + w.slot) = w := fun e => by
    obtain ⟨core, slot⟩ := w
    simp only [keyRef, WRef.mk.injEq] at e ⊢
    omega
  have own : (keyRef (wkey w) != w && wkey w / 64 == w.core) = false := by
    simp only [wkey, Bool.and_eq_false_iff, beq_eq_false_iff_ne, bne_eq_false_iff_eq]
    exact (em _).imp_left named
  unfold Part.warpsOn
  simp only [List.filter_map, List.filter_filter, Part.holding_warps]
  exact congrArg _ (AMap.filter_wr (fun _ => own) p.warps)

/-- Entries above its top are as free as before. -/
theorem Part.holding_racqFree (p : Part) (w : WRef) (x : Warp) (cs : AMap Core) (y : Warp) (n a : Nat) : (p.holding w x cs).racqFree w y n a = p.racqFree w y n a := by
  have others (f : WRef × Warp → Bool) : ((p.holding w x cs).warpsOn w.core).all (fun y => y.1 == w || f y) = (p.warpsOn w.core).all (fun y => y.1 == w || f y) := by
    have same := congrArg (List.all · f) (p.holding_others w x cs)
    simpa only [List.all_filter, bne, Bool.not_not] using same
  unfold Part.racqFree
  rw [others]

/-- As many waiters go first as before. -/
theorem Part.holding_racqBehind (p : Part) (w : WRef) (x : Warp) (cs : AMap Core) (y : Warp) (since a : Nat) :
    (p.holding w x cs).racqBehind w y since a = p.racqBehind w y since a := by
  have others (f : WRef × Warp → Bool) : ((p.holding w x cs).warpsOn w.core).any (fun y => y.1 != w && f y) = (p.warpsOn w.core).any (fun y => y.1 != w && f y) := by
    have same := congrArg (List.any · f) (p.holding_others w x cs)
    simpa only [List.any_filter] using same
  unfold Part.racqBehind
  exact others _

/-! ### What the operations leave -/

section operations

variable {p : Part} {w : WRef} {c : Ctx} (hc : p.ctx w = some c) {x : Warp} (hx : x.block = c.x.block) (cs : AMap Core) (d : Reg) (a : Nat)
include hc hx

theorem Part.holding_ctx : (p.holding w x cs).ctx w = some { c with x := x } := by
  obtain ⟨hw, -, hb, hg, hr⟩ := Part.ctx_some hc
  rw [← hw]
  exact Part.ctx_mk (by simp) (by rw [hx]; exact hb) hg hr

/-- Beyond the kernel's limit `racq` writes 2 (R104). -/
theorem Part.doRacq_beyond (hcap : regCap c.grid.k < x.n + 16 * a) : (p.holding w x cs).doRacq w d a = p.holding w (x.setS d 2) cs := by
  unfold Part.doRacq
  rw [Part.holding_ctx hc hx cs]
  exact (if_pos hcap).trans (Part.holding_setWarp ..)

/-- Where the entries are not free it writes 1. -/
theorem Part.doRacq_taken (hcap : x.n + 16 * a ≤ regCap c.grid.k) (hf : p.racqFree w x x.n a = false) : (p.holding w x cs).doRacq w d a = p.holding w (x.setS d 1) cs := by
  unfold Part.doRacq
  rw [Part.holding_ctx hc hx cs]
  dsimp only
  rw [if_neg (Nat.not_lt.2 hcap), Part.holding_racqFree, hf, if_neg Bool.false_ne_true, Part.holding_setWarp]

/-- Where they are free it takes them, cleared. -/
theorem Part.doRacq_free (hcap : x.n + 16 * a ≤ regCap c.grid.k) (hf : p.racqFree w x x.n a = true) : (p.holding w x cs).doRacq w d a =
    p.holding w ({ x with n := x.n + 16 * a }.setS d 0) (AMap.wr cs w.core ((AMap.rd Core.reset cs w.core).clearRegs x.base x.width (x.fileBase + x.n) (16 * a))) := by
  unfold Part.doRacq
  rw [Part.holding_ctx hc hx cs]
  dsimp only
  rw [if_neg (Nat.not_lt.2 hcap), Part.holding_racqFree, hf, if_pos rfl, Part.holding_core, Part.holding_setCore, Part.holding_setWarp]

/-- `rrel` of blocks above the base block leaves the rest (R105). -/
theorem Part.doRrel_above (hn : 16 * c.grid.k.bregs + 16 * a ≤ x.n) : (p.holding w x cs).doRrel w d a =
    p.holding w ({ x with n := x.n - 16 * a }.setS d (BitVec.ofNat 64 ((x.n - 16 * a) / 16))) cs := by
  have left : max (16 * c.grid.k.bregs) (x.n - 16 * a) = x.n - 16 * a := Nat.max_eq_right (by omega)
  unfold Part.doRrel
  rw [Part.holding_ctx hc hx cs]
  dsimp only
  rw [left, Part.holding_setWarp]

end operations

/-- Of a map whose entries stay or go by their keys, what stays reads as before. -/
theorem Sparse.rd_filter {n : Nat} (f : Nat → Bool) (m : Sparse n) (k : Nat) : Sparse.rd (m.filter (fun x => f x.1)) k = if f k = true then Sparse.rd m k else 0 := by
  induction m with
  | nil => simp [Sparse.rd]
  | cons x m ih =>
    rw [List.filter_cons]
    by_cases hk : x.1 = k
    · subst hk
      by_cases hf : f x.1 = true
      · simp [Sparse.rd, hf]
      · rw [if_neg hf, ih, if_neg hf, if_neg hf]
    · split
      · rw [Sparse.rd, if_neg hk, ih, Sparse.rd, if_neg hk]
      · rw [ih, Sparse.rd, if_neg hk]

/-- Entries that are cleared read 0, the others as before. -/
theorem Core.rd_clearRegs (k : Core) (l w e n j : Nat) : Sparse.rd (k.clearRegs l w e n).rf j =
    if l ≤ j / 512 ∧ j / 512 < l + w ∧ e ≤ j % 512 ∧ j % 512 < e + n then 0 else Sparse.rd k.rf j := by
  refine (Sparse.rd_filter (fun j => !decide (l ≤ j / 512 ∧ j / 512 < l + w ∧ e ≤ j % 512 ∧ j % 512 < e + n)) k.rf j).trans ?_
  simp only [Bool.not_eq_true', decide_eq_false_iff_not, ite_not]

/-- Only the register file moves where entries are cleared. -/
theorem FileOnly.cleared (p : Part) (g l w e n : Nat) : FileOnly p.cores (AMap.wr p.cores g ((p.core g).clearRegs l w e n)) g (fun j =>
    if l ≤ j / 512 ∧ j / 512 < l + w ∧ e ≤ j % 512 ∧ j % 512 < e + n then 0 else Sparse.rd (p.core g).rf j) where
  other h hh := AMap.rd_wr_other _ _ _ (Ne.symm hh)
  same := by
    rw [AMap.rd_wr_same]
    rfl
  file j := by
    rw [AMap.rd_wr_same]
    exact Core.rd_clearRegs ..

/-- Nothing moves in cores that stay. -/
theorem FileOnly.refl (p : Part) (g : Nat) : FileOnly p.cores p.cores g (Sparse.rd (p.core g).rf) := ⟨fun _ _ => rfl, rfl, fun _ => rfl⟩

/-! ### The words -/

/-- The word of one effect. -/
def Word.ofAct (a : Act) : Word := .ofActs [a]

section lone

variable {s : State} {i : Instr} {iss : Issue} {c : Ctx} (h : Lone s i iss c) {a : Act}
include h

/-- A lone word of one effect on what its warp owns, which nothing holds, leaves its warp and its core's file as that effect does. -/
theorem Lone.owns (hp : c.x.path ≠ 0) (ha : a.own = true)
    (hr : ((s.part iss.q).holding c.w (c.x.queued s.now (s.runWith iss c (.ofAct a))) (s.part iss.q).cores).actReady c.w (c.x.queued s.now (s.runWith iss c (.ofAct a)))
      (regCap c.grid.k) s.now a = true) {y : Warp} {ds : AMap Core} {rf : Nat → W32}
    (done : (s.held iss.q c.w (c.x.queued s.now (s.runWith iss c (.ofAct a))) (s.part iss.q).cores).doAct iss.q c.w (s.runWith iss c (.ofAct a)) [] a = s.held iss.q c.w y ds)
    (hy : y.block = c.x.block ∧ y.levels = c.x.levels ∧ y.wait = c.x.wait ∧ y.path = c.x.path) (file : FileOnly (s.part iss.q).cores ds c.w.core rf) :
    OnlyWarp s (s.issued iss c (.ofAct a)) iss.q c.w { y with run := none, pc := iss.addr + BitVec.ofNat 64 iss.len, refillRun := false } rf := by
  refine h.performs rfl (h.settled_own rfl rfl (fun b hb => ?_) ?_) hp ((h.doActs_own rfl rfl ha).trans done) hy file
  · rw [List.mem_singleton.1 hb]
    exact ha
  · have acts : (s.runWith iss c (.ofAct a)).acts = [a] := h.runWith_acts
    have waits : (s.runWith iss c (.ofAct a)).waits = [] := h.runWith_waits
    have term : (s.runWith iss c (.ofAct a)).term = .none := h.runWith_term _
    unfold Part.runReady
    simp only [acts, waits, term, List.all_nil, List.all_cons, Bool.and_true, Bool.true_and, Part.termReady]
    exact hr

end lone

theorem Lone.begun_part {s : State} {i : Instr} {iss : Issue} {c : Ctx} (h : Lone s i iss c) (q : Nat) : (s.begun iss c).part q = s.part q := by
  rw [h.begun]
  rfl

/-- The context of a lone word by its own name. -/
theorem Lone.named {s : State} {i : Instr} {iss : Issue} {c : Ctx} (h : Lone s i iss c) : (s.part iss.q).ctx c.w = some c := by
  have ctx := h.ctx
  rwa [← (Part.ctx_some ctx).1] at ctx

/-- A lone word of one such effect that writes `v` to D and leaves the register file. -/
theorem Lone.owns_setS {s : State} {i : Instr} {iss : Issue} {c : Ctx} (h : Lone s i iss c) (hp : c.x.path ≠ 0) {a : Act} (ha : a.own = true) {n : Nat} {d : Reg} {v : W64}
    (hr : ((s.part iss.q).holding c.w (c.x.queued s.now (s.runWith iss c (.ofAct a))) (s.part iss.q).cores).actReady c.w (c.x.queued s.now (s.runWith iss c (.ofAct a)))
      (regCap c.grid.k) s.now a = true)
    (done : (s.held iss.q c.w (c.x.queued s.now (s.runWith iss c (.ofAct a))) (s.part iss.q).cores).doAct iss.q c.w (s.runWith iss c (.ofAct a)) [] a =
      s.held iss.q c.w (({ c.x with n := n } : Warp).queued s.now (s.runWith iss c (.ofAct a)) |>.setS d v) ds) {rf : Nat → W32}
    (file : FileOnly (s.part iss.q).cores ds c.w.core rf) :
    OnlyWarp s (s.issued iss c (.ofAct a)) iss.q c.w ({ c.x.passed iss s.now with n := n }.setS d v) rf := by
  have only := h.owns hp ha hr done (Warp.setS_keeps _ d v) file
  rwa [Warp.setS_passed] at only

section racq

variable (d a b : Reg)

/-- The operands of `racq` that R104 admits. -/
def Env.racqLegal (e : Env) (a b : Reg) : Prop := 1 ≤ (e.srcS a).toNat ∧ (e.srcS a).toNat ≤ 15 ∧ (e.srcS b).toNat ≤ 1

theorem Env.racqWord_legal {e : Env} (h : e.racqLegal a b) : e.racqWord d a b = .ofAct (.racq d (e.srcS a).toNat ((e.srcS b).toNat == 1)) := by
  obtain ⟨one, fifteen, mode⟩ := h
  exact if_neg (by omega)

theorem Env.racqWord_illegal {e : Env} (h : ¬ e.racqLegal a b) : e.racqWord d a b = e.operand := by
  refine if_pos ?_
  unfold Env.racqLegal at h
  omega

theorem racq_faults : Faults (.racq d a b) (fun _ e => ¬ e.racqLegal a b) (fun _ e => e.cond .operand 0 e.iss.detail) :=
  fun _ _ _ h hok => h.operand (f := fun _ e => e.racqWord d a b) (fun _ => rfl) (Env.racqWord_illegal d a b hok)

/-- A lone `racq` that nothing holds, by what its operation leaves of the partition. -/
theorem Lone.racq {s : State} {iss : Issue} {c : Ctx} (h : Lone s (.racq d a b) iss c) (hok : (s.env iss c).racqLegal a b) {n : Nat} {v : W64} {ds : AMap Core} {rf : Nat → W32}
    (hr : c.x.n + 16 * ((s.env iss c).srcS a).toNat ≤ regCap c.grid.k → (s.env iss c).srcS b ≠ 1 →
      (s.part iss.q).racqFree c.w c.x c.x.n ((s.env iss c).srcS a).toNat = true ∧ (s.part iss.q).racqBehind c.w c.x s.now ((s.env iss c).srcS a).toNat = false)
    (done : ∀ r, ((s.part iss.q).holding c.w (c.x.queued s.now r) (s.part iss.q).cores).doRacq c.w d ((s.env iss c).srcS a).toNat =
      (s.part iss.q).holding c.w ((({ c.x with n := n } : Warp).queued s.now r).setS d v) ds) (file : FileOnly (s.part iss.q).cores ds c.w.core rf) :
    ∃ t, exec (.racq d a b) s = .next t ∧ OnlyWarp s t iss.q c.w ({ c.x.passed iss s.now with n := n }.setS d v) rf := by
  refine ⟨_, h.exec_eq (f := fun _ e => e.racqWord d a b) (fun _ => rfl) (Env.racqWord_legal d a b hok), h.owns_setS (h.path nofun) rfl ?ready ?done file⟩
  case done => exact (State.held_modPart_eq s iss.q c.w _ _ (fun p => p.doRacq c.w d _)).trans (congrArg (State.setPart _ _) (done _))
  case ready =>
    unfold Part.actReady Part.racqHolds
    dsimp only
    rw [Part.holding_racqFree, Part.holding_racqBehind, Bool.not_not]
    by_cases mode : (s.env iss c).srcS b = 1
    · simp [mode]
    by_cases cap : c.x.n + 16 * ((s.env iss c).srcS a).toNat ≤ regCap c.grid.k
    · obtain ⟨free, first⟩ := hr cap mode
      exact Bool.or_eq_true_iff.2 (.inr (Bool.and_eq_true_iff.2 ⟨free, by rw [Bool.not_eq_true']; exact first⟩))
    · exact Bool.or_eq_true_iff.2 (.inl (Bool.or_eq_true_iff.2 (.inr (decide_eq_true (Nat.not_le.1 cap)))))

theorem racq_beyond_turns : Turns (.racq d a b) (fun _ e => e.racqLegal a b ∧ regCap e.c.grid.k < e.c.x.n + 16 * (e.srcS a).toNat) (fun _ _ x => x.setS d 2) :=
  fun s _ c h ⟨legal, beyond⟩ =>
    h.racq d a b legal (n := c.x.n) (fun cap => absurd cap (Nat.not_le.2 beyond)) (fun r => Part.doRacq_beyond h.named (x := c.x.queued s.now r) rfl _ d _ beyond) (.refl _ _)

theorem racq_taken_turns : Turns (.racq d a b) (fun s e => e.racqLegal a b ∧ e.c.x.n + 16 * (e.srcS a).toNat ≤ regCap e.c.grid.k ∧
    ¬ (s.part e.q).racqFree e.c.w e.c.x e.c.x.n (e.srcS a).toNat = true ∧ e.srcS b = 1) (fun _ _ x => x.setS d 1) :=
  fun s _ c h ⟨legal, cap, taken, mode⟩ => by
    rw [h.begun_part, Bool.not_eq_true] at taken
    exact h.racq d a b legal (n := c.x.n) (fun _ other => absurd mode other) (fun r => Part.doRacq_taken h.named (x := c.x.queued s.now r) rfl _ d _ cap taken) (.refl _ _)

theorem Lone.racq_takes {s : State} {iss : Issue} {c : Ctx} (h : Lone s (.racq d a b) iss c) (legal : (s.env iss c).racqLegal a b)
    (cap : c.x.n + 16 * ((s.env iss c).srcS a).toNat ≤ regCap c.grid.k) (free : (s.part iss.q).racqFree c.w c.x c.x.n ((s.env iss c).srcS a).toNat = true)
    (first : (s.env iss c).srcS b = 1 ∨ (s.part iss.q).racqBehind c.w c.x s.now ((s.env iss c).srcS a).toNat = false) :
    ∃ t, exec (.racq d a b) s = .next t ∧
      OnlyWarp s t iss.q c.w ({ c.x.passed iss s.now with n := c.x.n + 16 * ((s.env iss c).srcS a).toNat }.setS d 0) (fun k =>
        if c.x.base ≤ k / 512 ∧ k / 512 < c.x.base + c.x.width ∧ c.x.fileBase + c.x.n ≤ k % 512 ∧ k % 512 < c.x.fileBase + c.x.n + 16 * ((s.env iss c).srcS a).toNat then 0
        else Sparse.rd ((s.part iss.q).core c.w.core).rf k) :=
  h.racq d a b legal (fun _ other => ⟨free, first.resolve_left other⟩) (fun r => Part.doRacq_free h.named (x := c.x.queued s.now r) rfl _ d _ cap free) (.cleared ..)

end racq

/-! ### `rrel` -/

section rrel

variable (d a : Reg)

theorem rrel_turns : Turns (.rrel d a) (fun _ e => 1 ≤ (e.srcS a).toNat ∧ 16 * e.c.grid.k.bregs + 16 * (e.srcS a).toNat ≤ e.c.x.n ∧ e.c.x.ifc = 0)
    (fun _ e x => { x with n := e.c.x.n - 16 * (e.srcS a).toNat }.setS d (BitVec.ofNat 64 ((e.c.x.n - 16 * (e.srcS a).toNat) / 16))) :=
  fun s iss c h ⟨one, above, idle⟩ => by
    have word : (s.env iss c).rrelWord d a = .ofAct (.rrel d ((s.env iss c).srcS a).toNat) := if_neg (not_or.2 ⟨Nat.one_le_iff_ne_zero.1 one, Nat.not_lt.2 above⟩)
    refine ⟨_, h.exec_eq (f := fun _ e => e.rrelWord d a) (fun _ => rfl) word, h.owns_setS (h.path nofun) rfl ?_ ?_ (.refl _ _)⟩
    · exact beq_iff_eq.2 idle
    · exact (State.held_modPart_eq s iss.q c.w _ _ (fun p => p.doRrel c.w d _)).trans
        (congrArg (State.setPart _ _) (Part.doRrel_above h.named (x := c.x.queued s.now (s.runWith iss c (.ofAct (.rrel d _)))) rfl _ d _ above))

theorem rrel_faults : Faults (.rrel d a) (fun _ e => (e.srcS a).toNat = 0 ∨ e.c.x.n < 16 * e.c.grid.k.bregs + 16 * (e.srcS a).toNat) (fun _ e => e.cond .operand 0 e.iss.detail) :=
  fun _ _ _ h hok => h.operand (f := fun _ e => e.rrelWord d a) (fun _ => rfl) (if_pos hok)

end rrel

/-- Settles O42: each word queues one effect, which finds the other warps of its core as they were and leaves its own warp and, where blocks are taken, their entries cleared. -/
theorem registerBlocks : Obligations.RegisterBlocks := fun d a b =>
  ⟨racq_beyond_turns d a b, racq_taken_turns d a b, racq_faults d a b, fun _ _ _ h legal cap free first => h.racq_takes d a b legal cap free first, rrel_turns d a, rrel_faults d a⟩

end Sys2Proof.Machine
end

section
/-! SUPPORT. A restoration whose unwind has to reload a spilled record from an unmapped spill area. -/

namespace Sys2Proof.Machine

/-- The restored unit's one warp: its path is empty, of its two records the on-chip one joins no lane that waits there, and the other one is spilled (R122, R325). -/
def tornImage : List (Nat × List Byte) :=
  [(0, leBytes 8 (0x53574B42 + 2 ^ 32 + 24 * 2 ^ 40 + 2 ^ 48)), (0x100, leBytes 8 0x400), (0x408, leBytes 8 32), (0x528, leBytes 8 0x200), (0x600, leBytes 8 1)]

/-- Where the unit's image stands. -/
def tornArea : Nat := 0x20000

/-- The restoration that the host has asked for. -/
def tornRestore : Restoration := ⟨tornArea, 0, [0], none, 0, 0, none⟩

/-- A partition with no warp, whose grid's spill area is not mapped. -/
def tornPart : Part :=
  { probePart 0 with
    grids := [{ probeGrid with k := { probeKernel with spill := 2, spillBase := 0x40000000 } }]
    gangs := []
    blocks := []
    warps := []
    restores := [tornRestore] }

/-- Its device, with one quarter enabled, the page tables and the image. -/
def tornState : State :=
  let s := { State.reset with
    regs := ⟨{ QRegs.reset 0 with state := 2 }, QRegs.reset 1, QRegs.reset 2, QRegs.reset 3⟩
    rdyPart := 1
    rdyClu := 1
    parts := ⟨tornPart, Part.reset, Part.reset, Part.reset⟩ }
  let s := probeTables.foldl (fun s x => s.wrDramL 0 x.1 (leBytes 8 x.2)) s
  tornImage.foldl (fun s x => s.wrDramL 0 (tornArea + x.1) x.2) s

/-- The restoration may be performed. -/
theorem restoreDue_tornState : tornState.restoreDue 0 = true := by decide +kernel

/-- The kinds of the records that await their place in quarter 0's fault queue after a step. -/
def kindsAfter (o : Result) : List Nat :=
  match o with
  | .next t => (t.part 0).posts.map FaultRec.kind
  | _ => []

/-- The restoration leaves two records: the FAULT of the reload, and RESTORED. -/
theorem kindsAfter_tornState : kindsAfter (exec Event.restore.instr { tornState with ev := some (0, .restore) }) = [0, 4] := by decide +kernel

/-- The statement has it leave one. -/
theorem tornState_posts (h : Obligations.LocksAndSwaps) : ∃ t r, Happens tornState 0 .restore t ∧ (t.part 0).posts = [r] := by
  obtain ⟨-, -, -, -, -, -, hrestore, -⟩ := h tornState 0
  obtain ⟨t, r, happens, -, posts, -⟩ :=
    hrestore tornRestore rfl restoreDue_tornState rfl (by decide) ⟨rfl, fun _ hy => absurd hy List.not_mem_nil⟩ (fun _ ha => absurd ha List.not_mem_nil)
  exact ⟨t, r, happens, posts⟩

/-- Refutes O53: in the unwind of a restored warp whose path is empty, the reload of a spilled record may fail, and posts its FAULT record before the restoration's own, so
that a restoration leaves two records and not one (R122, R325). -/
theorem not_locksAndSwaps : ¬ Obligations.LocksAndSwaps := by
  intro h
  obtain ⟨t, r, happens, posts⟩ := tornState_posts h
  have kinds : [0, 4] = [r.kind] := by
    rw [← kindsAfter_tornState, happens]
    exact congrArg (List.map FaultRec.kind) posts
  exact absurd kinds (by simp)

end Sys2Proof.Machine
end

section
/-! SUPPORT. The words that set a warp's window, clear and await its tags, and report its tuns (R106, R243-R245, R251). -/

namespace Sys2Proof.Machine

/-! ### What `mxst` reports -/

/-- The byte of `mxst` that reports a strip (R251). -/
def Core.stripByte (k : Core) (j : Nat) : Nat :=
  b2n (k.tuns.rd j).fenced + 2 * b2n (k.tuns.rd j).spare + 4 * b2n (k.server j != j && !k.noTun j) + 8 * min 15 (k.tuns.rd (k.server j)).queue.length

theorem b2n_le (b : Bool) : b2n b ≤ 1 := by cases b <;> decide

theorem b2n_eq_one (b : Bool) : decide (b2n b = 1) = b := by cases b <;> rfl

theorem Core.stripByte_lt (k : Core) (j : Nat) : k.stripByte j < 128 := by
  have fenced := b2n_le (k.tuns.rd j).fenced
  have spare := b2n_le (k.tuns.rd j).spare
  have served := b2n_le (k.server j != j && !k.noTun j)
  unfold Core.stripByte
  omega

theorem mxReport_eq (k : Core) (mx : BitVec 4) :
    mxReport k mx = BitVec.ofNat 64 ([0, 1, 2, 3].foldl (fun v j => v + k.stripByte j * 2 ^ (8 * j)) 0 + mx.toNat * 2 ^ 32) := rfl

theorem foldl_add_four (f : Nat → Nat) : [0, 1, 2, 3].foldl (fun v j => v + f j) 0 = f 0 + f 1 + f 2 + f 3 := by
  simp only [List.foldl_cons, List.foldl_nil, Nat.zero_add]

/-- The report is its four bytes and the sticky bits above them. -/
theorem mxReport_toNat (k : Core) (mx : BitVec 4) :
    (mxReport k mx).toNat = k.stripByte 0 + k.stripByte 1 * 2 ^ 8 + k.stripByte 2 * 2 ^ 16 + k.stripByte 3 * 2 ^ 24 + mx.toNat * 2 ^ 32 := by
  have b0 := k.stripByte_lt 0
  have b1 := k.stripByte_lt 1
  have b2 := k.stripByte_lt 2
  have b3 := k.stripByte_lt 3
  rw [mxReport_eq, BitVec.toNat_ofNat, foldl_add_four (fun j => k.stripByte j * 2 ^ (8 * j))]
  omega

theorem mxReport_sticky (k : Core) (mx : BitVec 4) : (mxReport k mx).toNat / 2 ^ 32 = mx.toNat := by
  have b0 := k.stripByte_lt 0
  have b1 := k.stripByte_lt 1
  have b2 := k.stripByte_lt 2
  have b3 := k.stripByte_lt 3
  rw [mxReport_toNat]
  omega

theorem mxReport_byte (k : Core) (mx : BitVec 4) {j : Nat} (hj : j < 4) : (mxReport k mx).toNat / 2 ^ (8 * j) % 2 ^ 8 = k.stripByte j := by
  have b0 := k.stripByte_lt 0
  have b1 := k.stripByte_lt 1
  have b2 := k.stripByte_lt 2
  have b3 := k.stripByte_lt 3
  rw [mxReport_toNat]
  interval_cases j <;> omega

/-- A bit of the report is a bit of its strip's byte. -/
theorem mxReport_bit (k : Core) (mx : BitVec 4) {j i : Nat} (hj : j < 4) (hi : i < 8) : (mxReport k mx).getLsbD (8 * j + i) = (k.stripByte j).testBit i := by
  rw [← mxReport_byte k mx hj, Nat.testBit_mod_two_pow, Nat.testBit_div_two_pow, decide_eq_true hi, Bool.true_and, Nat.add_comm]
  rfl

/-- The partner serves a strip where its own tun is fenced and the partner's is not (R250). -/
theorem Core.server_partner (k : Core) {j : Nat} (hj : j < 4) : (k.server j != j && !k.noTun j) = ((k.tuns.rd j).fenced && !(k.tuns.rd (j ^^^ 1)).fenced) := by
  have other : (j ^^^ 1 != j) = true := by interval_cases j <;> rfl
  unfold Core.server Core.noTun
  cases (k.tuns.rd j).fenced
  · simp
  · simp only [if_true, other, Bool.true_and]

theorem mxReport_strip (k : Core) (mx : BitVec 4) {j : Nat} (hj : j < 4) :
    let r := mxReport k mx
    r.getLsbD (8 * j) = (k.tuns.rd j).fenced ∧ r.getLsbD (8 * j + 1) = (k.tuns.rd j).spare ∧
      r.getLsbD (8 * j + 2) = ((k.tuns.rd j).fenced && !(k.tuns.rd (j ^^^ 1)).fenced) ∧
      r.toNat / 2 ^ (8 * j + 3) % 16 = min 15 (k.tuns.rd (k.server j)).queue.length ∧ r.getLsbD (8 * j + 7) = false := by
  intro r
  have fenced := b2n_le (k.tuns.rd j).fenced
  have spare := b2n_le (k.tuns.rd j).spare
  have served := b2n_le (k.server j != j && !k.noTun j)
  refine ⟨?_, ?_, ?_, ?_, ?_⟩
  · rw [← b2n_eq_one (k.tuns.rd j).fenced]
    refine (mxReport_bit k mx (i := 0) hj (by omega)).trans ?_
    rw [Nat.testBit_eq_decide_div_mod_eq, Core.stripByte]
    exact decide_eq_decide.2 (by omega)
  · rw [mxReport_bit k mx hj (by omega), ← b2n_eq_one (k.tuns.rd j).spare, Nat.testBit_eq_decide_div_mod_eq, Core.stripByte]
    exact decide_eq_decide.2 (by omega)
  · rw [mxReport_bit k mx hj (by omega), ← k.server_partner hj, ← b2n_eq_one (k.server j != j && !k.noTun j), Nat.testBit_eq_decide_div_mod_eq, Core.stripByte]
    exact decide_eq_decide.2 (by omega)
  · have low := mxReport_byte k mx hj
    rw [Core.stripByte] at low
    rw [Nat.pow_add, ← Nat.div_div_eq_div_mul]
    change (mxReport k mx).toNat / 2 ^ (8 * j) / 8 % 16 = _
    omega
  · rw [mxReport_bit k mx hj (by omega)]
    exact Nat.testBit_lt_two_pow (k.stripByte_lt j)

/-! ### Waiting for tags -/

section lone

variable {s : State} {i : Instr} {iss : Issue} {c : Ctx} (h : Lone s i iss c) {k : ParkWait}
include h

/-- A lone word that waits for nothing more leaves its warp past itself. -/
theorem Lone.awaits (hp : c.x.path ≠ 0)
    (ready : ((s.part iss.q).holding c.w (c.x.queued s.now (s.runWith iss c (.ofWait k))) (s.part iss.q).cores).waitOver (c.x.queued s.now (s.runWith iss c (.ofWait k))) k = true) :
    OnlyWarp s (s.issued iss c (.ofWait k)) iss.q c.w (c.x.passed iss s.now) (Sparse.rd ((s.part iss.q).core c.w.core).rf) := by
  have acts : (s.runWith iss c (.ofWait k)).acts = [] := h.runWith_acts
  have waits : (s.runWith iss c (.ofWait k)).waits = [k] := h.runWith_waits
  have term : (s.runWith iss c (.ofWait k)).term = .none := h.runWith_term _
  refine h.performs (y := c.x.queued s.now (s.runWith iss c (.ofWait k))) rfl (h.settled_own (w := .ofWait k) rfl rfl (fun _ ha => absurd ha List.not_mem_nil) ?ready) hp ?done ⟨rfl, rfl, rfl, rfl⟩ (.refl _ _)
  case ready =>
    unfold Part.runReady
    simp only [acts, waits, term, List.all_nil, List.all_cons, Bool.and_true, Part.termReady]
    exact ready
  case done =>
    rw [State.doActs_inOrder (by rw [acts]; nofun) term, acts]
    exact h.queued _

theorem Lone.clears (hp : c.x.path ≠ 0) (m : W64) :
    OnlyWarp s (s.issued iss c (.ofAct (.tclr m))) iss.q c.w
      { c.x.passed iss s.now with trdy := c.x.trdy &&& ~~~(c.x.trdy &&& m), terr := c.x.terr &&& ~~~(c.x.terr &&& m) } (Sparse.rd ((s.part iss.q).core c.w.core).rf) := by
  refine h.owns (y := { c.x.queued s.now (s.runWith iss c (.ofAct (.tclr m))) with
    trdy := c.x.trdy &&& ~~~(c.x.trdy &&& m), terr := c.x.terr &&& ~~~(c.x.terr &&& m) }) hp rfl rfl ?_ ⟨rfl, rfl, rfl, rfl⟩ (.refl _ _)
  have run : s.runWith iss c (.ofAct (.tclr m)) = _ := congrArg (fun r : Run => r.add iss (.ofAct (.tclr m))) h.runAt
  have trdy0 : (s.runWith iss c (.ofAct (.tclr m))).trdy0 = c.x.trdy := by rw [run]; rfl
  have terr0 : (s.runWith iss c (.ofAct (.tclr m))).terr0 = c.x.terr := by rw [run]; rfl
  have done : ~~~(s.runWith iss c (.ofAct (.tclr m))).done = BitVec.allOnes 64 := by rw [run]; exact BitVec.not_zero
  refine (State.held_modWarp ..).trans ?_
  rw [trdy0, terr0, done, BitVec.and_allOnes, BitVec.and_allOnes]
  rfl

end lone

theorem mem_windows {n : Nat} : n ∈ [0, 16, 32, 48, 64, 80, 96, 112, 128, 144, 160] ↔ ¬ (n % 16 ≠ 0 ∨ 160 < n) := by
  simp only [List.mem_cons, List.not_mem_nil, or_false]
  omega

theorem wbase_turns (a : Reg) :
    Turns (.wbase a) (fun _ e => (e.srcS a).toNat ∈ [0, 16, 32, 48, 64, 80, 96, 112, 128, 144, 160]) (fun _ e x => { x with wb := (e.srcS a).toNat }) :=
  Turns.of (w := fun _ e => .ofActs [.wbase (e.srcS a).toNat]) nofun (fun _ => rfl) (fun _ _ hok => if_neg (mem_windows.1 hok)) fun _ _ _ h hp _ =>
    h.regs hp fun _ ha => by rw [List.mem_singleton.1 ha]; rfl

theorem wbase_faults (a : Reg) : Faults (.wbase a) (fun _ e => (e.srcS a).toNat ∉ [0, 16, 32, 48, 64, 80, 96, 112, 128, 144, 160]) (fun _ e => e.cond .operand 0 e.iss.detail) :=
  fun _ _ _ h hok => h.operand (fun _ => rfl) (if_pos (not_not.1 fun hn => hok (mem_windows.2 hn)))

theorem tclr_turns (a : Reg) :
    Turns (.tclr a) always (fun _ e x => { x with trdy := e.c.x.trdy &&& ~~~(e.c.x.trdy &&& e.srcS a), terr := e.c.x.terr &&& ~~~(e.c.x.terr &&& e.srcS a) }) :=
  Turns.of (w := fun _ e => .ofAct (.tclr (e.srcS a))) nofun (fun _ => rfl) (fun _ _ _ => rfl) fun _ _ _ h hp _ => h.clears hp _

/-- What the effects of `mxst` leave of the warp. -/
theorem took_report (d : Reg) (v : W64) (x : Warp) : (putS d v ++ [Act.mxclr (BitVec.ofNat 4 (bits v.toNat 35 32))]).foldl Warp.took x =
    { (if d.isS then { x with s := Sparse.wr x.s (d.toNat - 96) v } else x) with mx := x.mx &&& ~~~(BitVec.ofNat 4 (v.toNat / 2 ^ 32)) } := by
  have sticky : BitVec.ofNat 4 (bits v.toNat 35 32) = BitVec.ofNat 4 (v.toNat / 2 ^ 32) := BitVec.eq_of_toNat_eq (by simp [bits])
  rw [sticky]
  by_cases hd : 96 ≤ d.toNat ∧ d.toNat < 120
  · have isS : d.isS = true := by simpa [Reg.isS] using hd
    rw [isS, putS, if_pos hd]
    rfl
  · have isS : d.isS = false := by simpa [Reg.isS] using hd
    rw [isS, putS, if_neg hd]
    rfl

/-- They leave the register file. -/
theorem file_report (d : Reg) (v : W64) (m : BitVec 4) (k : Nat) (f : W32) : (putS d v ++ [Act.mxclr m]).foldl (Act.file k) f = f := by
  unfold putS
  split <;> rfl

theorem mxst_turns (d : Reg) : Turns (.mxst d) always (fun _ e x =>
    { (if d.isS then { x with s := Sparse.wr x.s (d.toNat - 96) e.run.mx0 } else x) with mx := x.mx &&& ~~~(BitVec.ofNat 4 (e.run.mx0.toNat / 2 ^ 32)) }) :=
  Turns.of (w := fun _ e => .ofActs (putS d e.run.mx0 ++ [.mxclr (BitVec.ofNat 4 (bits e.run.mx0.toNat 35 32))])) nofun (fun _ => rfl) (fun _ _ _ => rfl) fun s iss c h hp _ => by
    have regs : ∀ a ∈ putS d (s.env iss c).run.mx0 ++ [.mxclr (BitVec.ofNat 4 (bits (s.env iss c).run.mx0.toNat 35 32))], a.isReg = true := fun a ha => by
      rcases List.mem_append.1 ha with hs | hx
      · exact putS_isReg a hs
      · rw [List.mem_singleton.1 hx]
        rfl
    have step := h.regs hp regs
    unfold RegStep at step
    simp only [took_report, file_report] at step
    exact step

theorem twall_turns (a : Reg) : Turns (.twall a) (fun _ e => e.c.x.trdy &&& e.srcS a = e.srcS a) (fun _ _ x => x) :=
  Turns.of (w := fun _ e => .ofWait (.twall (e.srcS a))) nofun (fun _ => rfl) (fun _ _ _ => rfl) fun _ _ _ h hp ready => h.awaits hp (beq_iff_eq.2 ready)

theorem twany_turns (a : Reg) : Turns (.twany a) (fun _ e => e.c.x.trdy &&& e.srcS a ≠ 0) (fun _ _ x => x) :=
  Turns.of (w := fun _ e => .ofWait (.twany (e.srcS a))) nofun (fun _ => rfl)
    (fun _ _ ready => if_neg fun zero => ready (by rw [zero]; exact BitVec.and_zero)) fun _ _ _ h hp ready => h.awaits hp (bne_iff_ne.2 ready)

theorem twany_faults (a : Reg) : Faults (.twany a) (fun _ e => e.srcS a = 0) (fun _ e => e.cond .operand 0 e.iss.detail) :=
  fun _ _ _ h hok => h.operand (fun _ => rfl) (if_pos hok)

/-- Settles O24: `wbase` and `mxst` queue register effects, `tclr` clears the tags that its run found, and `twall` and `twany` queue a wait that is over at once; the report of
`mxst` is one byte per strip, each below 128, and the sticky bits above them. -/
theorem warpRegisters : Obligations.WarpRegisters := fun d a => by
  refine ⟨wbase_turns a, wbase_faults a, tclr_turns a, fun s iss c h => ?_, mxst_turns d, twall_turns a, twany_turns a, twany_faults a⟩
  have report : (s.env iss c).run.mx0 = mxReport ((s.part iss.q).core c.w.core) c.x.mx := congrArg Run.mx0 h.runAt
  intro k fen r
  have hr : r = mxReport k c.x.mx := report
  rw [hr]
  exact ⟨fun j hj => mxReport_strip k c.x.mx hj, mxReport_sticky k c.x.mx⟩

end Sys2Proof.Machine
end

section
/-! SUPPORT. Words that end a warp's lanes, count them, or ask for a width that is none (R96-R102, R108). -/

namespace Sys2Proof.Machine

/-! ### A warp without a live lane -/

/-- The lanes that are left live. -/
theorem Warp.exitLanes_live (x : Warp) (m : Mask) (refill : Bool) : (x.exitLanes m refill).live = x.live &&& ~~~m := by
  refine BitVec.eq_of_getLsbD_eq fun j hj => ?_
  have ended : (if refill then LaneSt.vacant else .drained) ≠ .live := by cases refill <;> exact LaneSt.noConfusion
  simp only [Warp.live, BitVec.getLsbD_and, BitVec.getLsbD_not, getLsbD_maskOf, decide_eq_true hj, Bool.true_and, Bool.and_true]
  by_cases hm : m.getLsbD j = true
  · by_cases hl : j < x.lanes.length <;> simp [Warp.exitLanes, hl, hm, ended]
  · rw [Bool.not_eq_true] at hm
    rw [x.exitLanes_lane hm, hm, Bool.not_false, Bool.and_true]
    rfl

/-- The warp with every lane drained, as `exitw` leaves it (R100). -/
def Warp.drained (x : Warp) : Warp := { x with lanes := x.lanes.map (fun l => { l with st := .drained }) }

theorem Warp.drained_live (x : Warp) : x.drained.live = 0 := by
  refine BitVec.eq_of_getLsbD_eq fun j _ => ?_
  simp only [Warp.live, Warp.drained, getLsbD_maskOf, List.getElem?_map]
  cases x.lanes[j]? <;> simp

section held

variable {s : State} {q : Nat} {w : WRef} {c : Ctx} (h : (s.part q).ctx w = some c) {x : Warp} (hb : x.block = c.x.block) (cs : AMap Core)
include h hb

/-- A warp that is to retire stays so. -/
theorem State.held_settled_retire (hw : x.wait = .retire) : (s.held q w x cs).settleWarp q w = s.held q w x cs := by
  unfold State.settleWarp
  rw [State.held_part, State.held_ctx h hb cs]
  simp only [hw, decide_true, Bool.true_or, if_true]

/-- In a kernel without a refill point a warp whose last lane has ended is to retire (R96). -/
theorem State.held_settled_dead (hw : x.wait = .none) (hl : x.live = 0) (hr : x.refillRun = false) (hk : c.grid.k.refill = 0) :
    (s.held q w x cs).settleWarp q w = s.held q w x.retires cs := by
  have going : (decide (x.wait = .retire) || x.splitting) = false := by simp [Warp.splitting, hw]
  unfold State.settleWarp
  rw [State.held_part, State.held_ctx h hb cs]
  simp only [going, hl, hr, Bool.false_eq_true, if_false, if_true, Warp.noLive, hk]
  exact State.held_setWarp ..

/-- It waits for no reload. -/
theorem State.held_unstuck_dead (hl : x.live = 0) : (s.held q w x cs).stuck q w = none := by
  unfold State.stuck
  rw [State.held_part, State.held_ctx h hb cs]
  exact if_pos (.inl hl)

end held

/-- What follows a commit in a quiet partition is what settles its warp. -/
theorem State.held_afterCommit_settled {s : State} {q : Nat} {w : WRef} {x y : Warp} {cs : AMap Core} {r : Run} (settled : (s.held q w x cs).settleWarp q w = s.held q w y cs) (hs : (s.part q).swaps = []) (ht : ∀ a, r.term ≠ .trap a)
    (hw : ∀ y ∈ (s.part q).warps, ∀ l g t, y.2.wait ≠ .abwait l g t) (hy : ∀ l g t, y.wait ≠ .abwait l g t) :
    (s.held q w x cs).afterCommit q w r = s.held q w y cs := by
  have untrapped : (s.held q w x cs).afterTrap q w r = s.held q w x cs := by
    unfold State.afterTrap
    split
    · rename_i a _ e _
      exact absurd e (ht a)
    · rfl
  have going : (s.held q w y cs).modPart q (fun p => (p.boundaryStop w r.safept (s.held q w y cs).now).swapStops (s.held q w y cs).now) = s.held q w y cs := by
    refine State.held_modPart _ _ _ _ _ _ _ ?_
    rw [Part.boundaryStop_nil (by simpa using hs), Part.swapStops_nil (by simpa using hs)]
  unfold State.afterCommit
  rw [untrapped, settled]
  dsimp only
  rw [going]
  refine State.wakeAb_none fun z hz => ?_
  simp only [State.held_part, Part.holding_warps] at hz
  rcases AMap.mem_wr hz with e | e
  · rw [e]
    exact hy
  · exact hw z e

/-! ### Operations that end lanes -/

/-- An operation that ends lanes of its warp. -/
def Term.ending : Term → Bool
  | .exit _ | .exitw => true
  | _ => false

/-- Such an operation makes no access, is always ready and cannot fail. -/
theorem Term.ending_quiet {t : Term} (h : t.ending = true) : (∀ op d ps x y m, t ≠ .atom op d ps x y m) ∧ (∀ a, t ≠ .trap a) ∧ (∀ x, t.plain x = true) ∧
    (∀ p c, Part.termReady p c t = true) ∧ t.unspilled = true := by
  cases t <;> first
    | exact absurd h Bool.false_ne_true
    | exact ⟨nofun, nofun, fun _ => rfl, fun _ _ => rfl, rfl⟩

section lone

variable {s : State} {i : Instr} {iss : Issue} {c : Ctx} (h : Lone s i iss c)
include h

/-- The warp of a word waits for nothing. -/
theorem Lone.idle : c.x.wait = .none := by
  have takes := h.takes
  simp only [Warp.takes, Bool.and_eq_true, decide_eq_true_eq] at takes
  obtain ⟨⟨⟨⟨idle, -⟩, -⟩, -⟩, -⟩ := takes
  exact idle

/-- A lone word whose operation leaves no lane live, and whose warp settles as `y`. -/
theorem Lone.settles_dead {t : Term} (ht : t.ending = true) {x y : Warp}
    (done : ∀ cs r k, r.term = t → (s.held iss.q c.w (c.x.passed iss s.now) cs).doTerm iss.q c.w r (c.x.queued s.now r) k = s.held iss.q c.w x cs)
    (settled : ∀ cs, (s.held iss.q c.w x cs).settleWarp iss.q c.w = s.held iss.q c.w y cs)
    (hx : x.levels = []) (hb : y.block = c.x.block) (hl : y.live = 0) (hw : ∀ l g t, y.wait ≠ .abwait l g t) :
    OnlyWarp s (s.issued iss c (.ofTerm t)) iss.q c.w y (Sparse.rd ((s.part iss.q).core c.w.core).rf) := by
  obtain ⟨hat, htrap, hplain, hready, unspilled⟩ := Term.ending_quiet ht
  have term : (s.runWith iss c (.ofTerm t)).term = t := h.runWith_term _
  obtain ⟨cs, file, ends⟩ := h.issued (w := .ofTerm t) (r := s.runWith iss c (.ofTerm t)) rfl (fun _ ha => absurd ha List.not_mem_nil) rfl rfl hat (hplain _)
    (fun _ => State.commitFail_none (by rw [term]; exact unspilled) _ _ _) (hready _ _)
  have issued : s.issued iss c (.ofTerm t) = s.held iss.q c.w y cs := by
    refine ends _ ?_ (by rw [State.held_part]; rfl) (State.held_unstuck_dead h.named hb cs hl)
    have ended := State.held_endRun (c := c.queued s.now (s.runWith iss c (.ofTerm t))) (x := c.x.passed iss s.now) (y := x) rfl h.noLoop hx
      (done cs (s.runWith iss c (.ofTerm t)) ((s.part iss.q).core c.w.core) term)
    refine (congrArg (fun u : State => u.afterCommit iss.q c.w (s.runWith iss c (.ofTerm t))) ended).trans ?_
    exact State.held_afterCommit_settled (settled cs) h.unswapped (by rw [term]; exact htrap) h.noObject hw
  rw [issued]
  exact State.held_only file

end lone

theorem exitw_turns : Turns .exitw (fun _ e => e.c.x.trap.inh = false)
    (fun _ e x => ({ x with lanes := e.c.x.drained.lanes } : Warp).retires) :=
  Turns.of (w := fun _ _ => .ofTerm .exitw) nofun (fun _ => rfl) (fun _ _ out => if_neg (by rw [out]; exact Bool.false_ne_true)) fun s iss c h _ _ =>
    h.settles_dead (x := (c.x.passed iss s.now).drained.retires) rfl
      (fun cs r k hr => by unfold State.doTerm; rw [hr]; exact State.held_modW ..) (fun cs => State.held_settled_retire h.named (x := (c.x.passed iss s.now).drained.retires) rfl cs rfl) rfl rfl
      (c.x.passed iss s.now).drained_live nofun

theorem exit_last_turns : Turns .exit (fun _ e => e.c.grid.k.refill = 0 ∧ e.act ≠ 0 ∧ e.c.x.live &&& ~~~e.act = 0)
    (fun _ e x => ({ x with lanes := e.c.x.lanes.mapIdx (fun j l => if e.act.getLsbD j then { l with st := .drained } else l) } : Warp).retires) :=
  Turns.of (w := fun _ e => .ofTerm (.exit e.act)) nofun (fun _ => rfl) (fun _ _ ok => if_neg ok.2.1) fun s iss c h _ ⟨classic, _, last⟩ => by
    have classic : c.grid.k.refill = 0 := classic
    have dead : ((c.x.passed iss s.now).exitLanes (s.env iss c).act (c.grid.k.refill != 0)).live = 0 := (Warp.exitLanes_live ..).trans last
    have drained := (c.x.passed iss s.now).exitLanes_eq (s.env iss c).act c.grid.k.refill
    have ends := h.settles_dead (t := .exit (s.env iss c).act) (x := (c.x.passed iss s.now).exitLanes (s.env iss c).act (c.grid.k.refill != 0)) rfl
      (fun cs r k hr => by unfold State.doTerm; rw [hr]; exact h.held_exit _ cs)
      (fun cs => State.held_settled_dead h.named (x := (c.x.passed iss s.now).exitLanes _ _) rfl cs h.idle dead rfl classic) h.noLoop rfl dead nofun
    rw [drained] at ends
    simp only [classic, if_true] at ends
    exact ends

/-! ### `iqry` and `split` -/

/-- A lone word whose operation writes `v` to D. -/
theorem Lone.answers {s : State} {i : Instr} {iss : Issue} {c : Ctx} (h : Lone s i iss c) (hp : c.x.path ≠ 0) {t : Term} {d : Reg} {v : W64}
    (hat : ∀ op d ps x y m, t ≠ .atom op d ps x y m) (htrap : ∀ a, t ≠ .trap a) (hplain : t.plain c.x = true) (hready : ∀ p c, Part.termReady p c t = true)
    (hfail : ∀ cs r, r.term = t → (s.held iss.q c.w (c.x.passed iss s.now) cs).commitFail iss.q (c.queued s.now r) r = none)
    (done : ∀ cs r k, r.term = t → (s.held iss.q c.w (c.x.passed iss s.now) cs).doTerm iss.q c.w r (c.x.queued s.now r) k =
      s.held iss.q c.w ((c.x.passed iss s.now).setS d v) cs) :
    OnlyWarp s (s.issued iss c (.ofTerm t)) iss.q c.w ((c.x.passed iss s.now).setS d v) (Sparse.rd ((s.part iss.q).core c.w.core).rf) := by
  obtain ⟨block, levels, wait, path⟩ := Warp.setS_keeps (c.x.passed iss s.now) d v
  have term : (s.runWith iss c (.ofTerm t)).term = t := h.runWith_term _
  exact h.turns (w := .ofTerm t) (fun _ ha => absurd ha List.not_mem_nil) rfl rfl hat htrap (hready _ _) hplain (fun cs => hfail cs _ term) (fun cs => done cs _ _ term)
    block (by rw [path]; exact hp) (levels.trans h.noLoop) (by rw [wait]; exact h.noAbwait)

theorem iqry_turns (d : Reg) : Turns (.iqry d) always (fun _ e x => x.setS d e.c.items) :=
  Turns.of (w := fun _ _ => .ofTerm (.iqry d)) nofun (fun _ => rfl) (fun _ _ _ => rfl) fun s iss c h hp _ => by
    refine h.answers hp nofun nofun rfl (fun _ _ => rfl) (fun _ _ hr => State.commitFail_none (by rw [hr]; rfl) _ _ _) fun cs r k hr => ?_
    unfold State.doTerm
    rw [hr]
    refine State.held_modPart _ _ _ _ _ _ _ ?_
    rw [State.held_ctx h.named (x := c.x.passed iss s.now) rfl]
    exact Part.holding_setWarp ..

/-- A `split` to a width that is none, or not below the warp's, writes −9 (R108). -/
theorem State.doSplit_illegal (s : State) (q : Nat) {c : Ctx} {v : W64} (hv : v.toNat ∉ [8, 16, 32, 64] ∨ c.x.width ≤ v.toNat) (d : Reg) (a : W64) :
    s.doSplit q c d v a = .ok (s.modPart q (fun p => p.setWarp c.w (c.x.setS d (BitVec.ofInt 64 (-9))))) := by
  unfold State.doSplit
  refine if_neg fun legal => ?_
  obtain ⟨width, below⟩ := Bool.and_eq_true_iff.1 legal
  rcases hv with none | above
  · exact none (List.contains_iff_mem.1 width)
  · exact absurd (of_decide_eq_true below) (Nat.not_lt.2 above)

theorem split_width_turns (d a : Reg) : Turns (.split d a) (fun _ e => e.c.x.trap.inh = false ∧ ((e.srcS a).toNat ∉ [8, 16, 32, 64] ∨ e.c.x.width ≤ (e.srcS a).toNat))
    (fun _ _ x => x.setS d (BitVec.ofInt 64 (-9))) :=
  Turns.of (w := fun _ e => .ofTerm (.split d (e.srcS a))) nofun (fun _ => rfl) (fun _ _ ok => if_neg (by rw [ok.1]; exact Bool.false_ne_true)) fun s iss c h hp ok => by
    have split (cs : AMap Core) (at_ : W64) := State.doSplit_illegal (s.held iss.q c.w (c.x.passed iss s.now) cs) iss.q (c := { c with x := c.x.passed iss s.now }) ok.2 d at_
    have named (cs : AMap Core) := State.held_ctx h.named (x := c.x.passed iss s.now) rfl cs
    have looped (cs : AMap Core) (r : Run) : (s.held iss.q c.w (c.x.passed iss s.now) cs).loopTest iss.q (c.queued s.now r) r = s.held iss.q c.w (c.x.passed iss s.now) cs := by
      have outside : (c.x.passed iss s.now).loopEnd r.last 4 = c.x.passed iss s.now := by
        unfold Warp.loopEnd
        rw [show (c.x.passed iss s.now).levels = [] from h.noLoop]
      unfold State.loopTest
      rw [show (c.queued s.now r).w = c.w from rfl, State.held_modW, outside, ite_self]
    refine h.answers hp nofun nofun rfl (fun _ _ => rfl) (fun cs r hr => ?_) fun cs r k hr => ?_
    · unfold State.commitFail
      rw [hr]
      dsimp only
      rw [looped, State.held_part, show (c.queued s.now r).w = c.w from rfl, named]
      dsimp only
      rw [split]
    · unfold State.doTerm
      rw [hr]
      dsimp only
      rw [State.held_part, named]
      dsimp only
      rw [split]
      exact State.held_setWarp ..

/-- Settles O41: an operation that leaves no lane live turns its warp into one that retires, by itself (`exitw`) or as its commit settles it (`exit`), and `iqry` and a `split`
to a bad width write D. -/
theorem warpEnds : Obligations.WarpEnds := fun d a => by
  refine ⟨exitw_turns, exit_last_turns, ?_, split_width_turns d a⟩
  have exhausted (g : Grid) : b2n g.exhausted * 2 ^ 24 = if g.exhausted then 2 ^ 24 else 0 := by cases g.exhausted <;> rfl
  have turns := iqry_turns d
  simp only [Ctx.items, exhausted] at turns
  exact turns

end Sys2Proof.Machine
end

section
/-! SUPPORT. A branch of length 0, whose last word by the frame stands before it, at the end of a body that it goes back into. -/

namespace Sys2Proof.Machine

/-- A `bra` of no bytes at the second word of the code, to the first (R126); a fetched word has 4 or 8 bytes (R30, R43). -/
def emptyIssue : Issue := ⟨0, ⟨0, 0⟩, 0x10004, 0, true, .none, 0, 0⟩
def emptyBra : Instr := .bra 0 7 0xFFFFF

/-- The one warp of the fetch state with a body of one word open, which is the first of the code, on its last pass. -/
def loopingWarp : Warp := { probeWarp 0 with levels := [⟨0x10000, 0x10000, 0⟩] }

/-- The state that grants the branch to it, with one quarter enabled and everything else as at reset. -/
def loopingState : State :=
  { State.reset with
    cur := some emptyIssue
    regs := ⟨{ QRegs.reset 0 with state := 2 }, QRegs.reset 1, QRegs.reset 2, QRegs.reset 3⟩
    parts := ⟨{ probePart 0 with warps := [(0, loopingWarp)] }, Part.reset, Part.reset, Part.reset⟩ }

/-- The warp with its block, its gang and its grid. -/
def loopingCtx : Ctx := ⟨⟨0, 0⟩, loopingWarp, ⟨0, 0, 0, 0, 0, 0, 0, 1024, freshBars, true⟩, ⟨0, 0, [0], ⟨0, 0, 0⟩, 1⟩, probeGrid⟩

theorem emptyBra_alone : Alone loopingState emptyBra emptyIssue loopingCtx where
  cur := rfl
  ctx := by decide +kernel
  takes := by decide +kernel
  room := by decide +kernel
  body := by decide +kernel
  effect := .inl rfl
  bound := by decide +kernel
  fresh := rfl
  bung := rfl
  placed := rfl
  unswapped := rfl
  unreserved := rfl
  noObject := by
    intro y hy l g t
    have hw : y = (0, loopingWarp) := List.mem_singleton.1 hy
    rw [hw]
    exact Wait.noConfusion

/-- The open levels of the warp in a context of quarter 0, after a step. -/
def levelsAfter (o : Result) (w : WRef) : Option (List Level) :=
  match o with
  | .next t => ((t.part 0).warp w).map Warp.levels
  | _ => none

theorem Became.levelsAfter_eq {s : State} {i : Instr} {iss : Issue} {c : Ctx} {y : Warp} (h : Became s i iss c y) (hq : iss.q = 0) :
    levelsAfter (exec i s) c.w = some y.levels := by
  obtain ⟨t, ht, hy⟩ := h
  have hw := hy.warp
  rw [hq] at hw
  rw [ht]
  simp only [levelsAfter, hw, Option.map_some]

/-- The model ends the level: the body's last word is the one before the branch, where the run ends. -/
theorem levelsAfter_emptyBra : levelsAfter (exec emptyBra loopingState) ⟨0, 0⟩ = some [] := by decide +kernel

/-- The statement keeps it: the body does not end at the branch's own address, and the target lies inside it. -/
theorem emptyBra_keeps (h : Obligations.JumpsAndCalls) :
    ∃ y : Warp, Became loopingState emptyBra emptyIssue loopingCtx y ∧ y.levels = [⟨0x10000, 0x10000, 0⟩] := by
  obtain ⟨-, -, -, -, -, -, -, -, -, hlevels⟩ := h 0 7 0xFFFFF 0 0
  obtain ⟨hbra, -⟩ := hlevels loopingState emptyBra emptyIssue loopingCtx emptyBra_alone (by decide +kernel)
  exact ⟨_, hbra rfl (by decide +kernel) (.inl rfl), by decide +kernel⟩

/-- Refutes O25: the statement asks of a branch inside an open body only that the body does not end at the last word counted from the branch's address by a difference of
natural numbers; of a word shorter than 4 bytes, which no fetch gives, the model counts the word before it, and ends there a level that the statement keeps. -/
theorem not_jumpsAndCalls : ¬ Obligations.JumpsAndCalls := by
  intro h
  obtain ⟨y, became, kept⟩ := emptyBra_keeps h
  have ended : some [] = some y.levels := levelsAfter_emptyBra.symm.trans (became.levelsAfter_eq rfl)
  rw [kept] at ended
  exact absurd (Option.some.inj ended) (List.cons_ne_nil _ _).symm

end Sys2Proof.Machine
end

section
/-! SUPPORT. A control word alone in its partition, inside loop bodies too: how its run closes, commits, ends bodies and settles its path, or aborts (R35, R37, R124, R134). -/

namespace Sys2Proof.Machine

/-! ### The words of R125-R134 -/

/-- The operations of control words. -/
def Term.control : Term → Bool
  | .nop | .jump _ | .call _ | .brv .. | .join | .brxv .. | .loop .. => true
  | _ => false

/-- Such an operation makes no access of its own, enters no handler, is always ready, and orders no parked store. -/
theorem Term.control_quiet {t : Term} (ht : t.control = true) : (∀ op d ps x y m, t ≠ .atom op d ps x y m) ∧ (∀ a, t ≠ .trap a) ∧ (∀ p c, Part.termReady p c t = true) ∧
    (∀ r : Run, r.acts = [] → r.term = t → r.settles = false) := by
  cases t <;> first
    | exact absurd ht Bool.false_ne_true
    | exact ⟨nofun, nofun, fun _ _ => rfl, fun r ha hr => by simp only [Run.settles, ha, hr, List.any_nil, Bool.or_false]⟩

/-- Its run ends with the operation, and then tests for the end of a body. -/
theorem State.endRun_control {r : Run} (ht : r.term.control = true) (s : State) (q : Nat) (c : Ctx) (k : Core) : s.endRun q c r k = (s.doTerm q c.w r c.x k).loopTest q c r := by
  unfold State.endRun
  cases h : r.term <;> first | rfl | (rw [h] at ht; exact absurd ht Bool.false_ne_true)

/-- The test for the end of a body. -/
theorem State.loopTest_control {r : Run} (ht : r.term.control = true) (s : State) (q : Nat) (c : Ctx) :
    s.loopTest q c r = if r.noLoop c.x then s else s.modW q c.w (fun x => x.loopEnd r.last 4) := by
  unfold State.loopTest
  cases h : r.term <;> first | (rw [Bool.or_false]) | (rw [h] at ht; exact absurd ht Bool.false_ne_true)

/-- A run without effects performs none. -/
theorem State.doActs_none {s : State} {q : Nat} {c : Ctx} {r : Run} (ha : r.acts = []) (hp : (s.part q).placeQ = []) : s.doActs q c r = s := by
  unfold State.doActs
  simp only [ha, List.filter_nil, List.foldl_nil]
  rw [State.drainAll_nil hp, ite_self]

/-- A run without effects whose operation accesses no spill area sends no packet that a router could drop. -/
theorem State.barred_control {s : State} {q : Nat} {c : Ctx} {r : Run} (ha : r.acts = []) (ht : r.term.control = true) (hp : (s.spillPieces q c r).1 = []) :
    s.runBarred q c r (s.requests q c r) = [] := by
  have unsent : s.requests q c r = [] := by
    unfold State.requests
    simp only [ha, hp, pieceSectors, reqsOf, List.flatMap_nil, List.dedup_nil, List.map_nil, List.filterMap_nil, List.append_nil, List.nil_append]
    cases h : r.term <;> first | rfl | (rw [h] at ht; exact absurd ht Bool.false_ne_true)
  rw [unsent]
  simp only [State.runBarred, ha, hp, List.flatMap_nil, List.filterMap_nil, List.append_nil]

/-! ### The ends of bodies -/

/-- Where the innermost body does not end at the run's last word, R134 raises nothing. -/
theorem Run.loopCond_outside {r : Run} {x : Warp} (h : ∀ l ∈ x.levels.head?, l.stop ≠ r.last) (g pos : Nat) (d : W64) : r.loopCond x g pos d = none := by
  have good (y : Warp) : loopBad y r.last (r.rdAfter x) x.levels = false := by
    cases hl : x.levels with
    | nil => rfl
    | cons l rest => exact if_pos (h l (by rw [hl]; rfl))
  unfold Run.loopCond
  simp only [good, Bool.and_false, Bool.false_eq_true, if_false]

/-- What the end of a body leaves of a warp. -/
theorem Warp.loopEnd_keeps (last : W64) : ∀ (fuel : Nat) (x : Warp), (x.loopEnd last fuel).block = x.block ∧ (x.loopEnd last fuel).wait = x.wait ∧ (x.loopEnd last fuel).path = x.path
  | 0, _ => ⟨rfl, rfl, rfl⟩
  | fuel + 1, x => by
    unfold Warp.loopEnd
    split
    · exact ⟨rfl, rfl, rfl⟩
    case h_2 l rest _ =>
      split
      · exact ⟨rfl, rfl, rfl⟩
      · dsimp only
        split
        · exact Warp.loopEnd_keeps last fuel { x with levels := rest, pc := last + 4 }
        · unfold Warp.setLc
          split <;> exact ⟨rfl, rfl, rfl⟩

/-! ### A run without accesses closes -/

section closing

variable {s : State} {q : Nat} {w : WRef} {c : Ctx} {x : Warp} {cs : AMap Core} {r : Run} (h : (s.part q).ctx w = some c) (hb : x.block = c.x.block) (hr : x.run = some r)
  (hacc : r.accesses = [])
include h hb hr hacc

/-- Without a condition of its words or of a body's end it commits, in a partition without reservations. -/
theorem State.held_closes {pos : Nat} {d : W64} (hk : Cond.first r.cond (r.loopCond x c.grid.prio pos d) = none) (hu : (s.part q).csr.resv = [])
    (hreq : (s.held q w x cs).runBarred q { c with x := x } r ((s.held q w x cs).requests q { c with x := x } r) = [])
    (hready : ((s.part q).holding w x cs).runReady { c with x := x } { r with since := s.now } = true) :
    (s.held q w x cs).closeRun q w pos d = (s.held q w x cs).commit q { c with x := x } r := by
  have unreserved (cls : Nat) : ((s.held q w x cs).part q).reserves cls = false := by simp [Part.reserves, PCsr.rate, hu, Sparse.rd, bits]
  have injected : (s.held q w x cs).inject q { c with x := x } r = (s.held q w x cs, r) := by
    unfold State.inject
    simp only [hreq, State.logBarred, List.foldl_nil, unreserved, Bool.not_false, if_true, List.isEmpty_nil, List.append_nil]
  have clear : Cond.first r.cond (Cond.first (r.loopCond x c.grid.prio pos d) none) = none := by
    rwa [show Cond.first (r.loopCond x c.grid.prio pos d) none = r.loopCond x c.grid.prio pos d by cases r.loopCond x c.grid.prio pos d <;> rfl]
  have unlocked : (s.held q w x cs).lockCond q { c with x := x } r = none := by simp [State.lockCond, hacc]
  have raceless : (s.held q w x cs).raceCond q { c with x := x } r = none := by simp [State.raceCond, hacc]
  unfold State.closeRun
  simp only [State.held_part, State.held_ctx h hb cs, hr, unlocked, raceless]
  rw [show Cond.first (none : Option Cond) none = none from rfl, clear]
  dsimp only
  rw [injected]
  exact if_pos (by rw [State.held_part]; exact hready)

/-- With such a condition it aborts. -/
theorem State.held_closes_aborts {pos : Nat} {d : W64} {k : Cond} (hk : Cond.first r.cond (r.loopCond x c.grid.prio pos d) = some k) :
    (s.held q w x cs).closeRun q w pos d = (s.held q w x cs).abort q { c with x := x } r k := by
  have first : Cond.first r.cond (Cond.first (r.loopCond x c.grid.prio pos d) none) = some k := by
    rwa [show Cond.first (r.loopCond x c.grid.prio pos d) none = r.loopCond x c.grid.prio pos d by cases r.loopCond x c.grid.prio pos d <;> rfl]
  have unlocked : (s.held q w x cs).lockCond q { c with x := x } r = none := by simp [State.lockCond, hacc]
  have raceless : (s.held q w x cs).raceCond q { c with x := x } r = none := by simp [State.raceCond, hacc]
  unfold State.closeRun
  simp only [State.held_part, State.held_ctx h hb cs, hr, unlocked, raceless]
  rw [show Cond.first (none : Option Cond) none = none from rfl, first]

end closing

/-! ### A word alone -/

/-- The state with the warp of a context as `x`, nothing being issued, and everything else as it is. -/
def State.turned (s : State) (iss : Issue) (c : Ctx) (x : Warp) : State := s.held iss.q c.w x (s.part iss.q).cores

theorem State.turned_modW (s : State) (iss : Issue) (c : Ctx) (x : Warp) (f : Warp → Warp) : (s.turned iss c x).modW iss.q c.w f = s.turned iss c (f x) := State.held_modW ..

theorem State.turned_warp (s : State) (iss : Issue) (c : Ctx) (x : Warp) : ((s.turned iss c x).part iss.q).warp c.w = some x := by
  unfold State.turned
  rw [State.held_part, Part.holding_warp]

theorem State.turned_only (s : State) (iss : Issue) (c : Ctx) (x : Warp) : OnlyWarp s (s.turned iss c x) iss.q c.w x (Sparse.rd ((s.part iss.q).core c.w.core).rf) :=
  State.held_only ⟨fun _ _ => rfl, rfl, fun _ => rfl⟩

/-- Parked on a supervisor's condition, with its record posted. -/
theorem State.turned_faultStep (s : State) (iss : Issue) (c : Ctx) (k : Cond) (r : Run) : FaultStep s ((s.turned iss c ((c.x.queued s.now r).faulted k iss.addr s.now)).modPart iss.q
    (fun p => p.post (faultRec c k iss.addr))) iss c k where
  device := by
    unfold State.turned State.held
    rw [State.modPart_setPart, State.setPart_setPart]
    exact State.setPart_self { s with cur := none } iss.q
  part := by unfold State.turned; rw [State.modPart_part, State.held_part]; rfl
  warp := by unfold State.turned; rw [State.modPart_part, State.held_part, Part.post_warp, Part.holding_warp]; rfl
  others j hj := by unfold State.turned; rw [State.modPart_part, State.held_part]; exact AMap.find_wr_other _ _ (Ne.symm hj)
  posted := by unfold State.turned; rw [State.modPart_part, State.held_part]; rfl
  counted := by unfold State.turned; rw [State.modPart_part, State.held_part]; rfl
  csr := by unfold State.turned; rw [State.modPart_part, State.held_part]; rfl
  bytes v g b l := by
    unfold State.turned
    rw [State.held_modPart_eq, State.rdLoc_setPart (by rfl) (by rfl), State.rdLoc_cur]

section alone

variable {s : State} {i : Instr} {iss : Issue} {c : Ctx} (h : Alone s i iss c)
include h

theorem Alone.begun : s.begun iss c = { s with cur := none } := by
  simp only [State.begun, h.fresh]
  exact State.drainAll_nil h.placed

theorem Alone.named : (s.part iss.q).ctx c.w = some c := by
  have ctx := h.ctx
  rwa [← (Part.ctx_some ctx).1] at ctx

theorem Alone.noAbwait : ∀ l g t, c.x.wait ≠ .abwait l g t := h.noObject _ (AMap.find_mem (Part.ctx_some h.named).2.1)

theorem Alone.effective (hi : i ≠ .refill) : c.x.refillRun = false := h.effect.resolve_right hi

/-- The warp has a lane on its path. -/
theorem Alone.path (hi : i ≠ .refill) : c.x.path ≠ 0 := by
  have takes := h.takes
  simp only [Warp.takes, Bool.and_eq_true, Bool.or_eq_true, bne_iff_ne] at takes
  exact takes.2.resolve_right (by rw [h.effective hi]; exact Bool.false_ne_true)

theorem Alone.idle : c.x.wait = .none := by
  have takes := h.takes
  simp only [Warp.takes, Bool.and_eq_true, decide_eq_true_eq] at takes
  obtain ⟨⟨⟨⟨idle, -⟩, -⟩, -⟩, -⟩ := takes
  exact idle

theorem Alone.turned_ctx {x : Warp} (hb : x.block = c.x.block) : ((s.turned iss c x).part iss.q).ctx c.w = some { c with x := x } := by
  unfold State.turned
  rw [State.held_part]
  exact State.held_ctx h.named hb _

/-- The run that the word opens. -/
theorem Alone.runWith_eq (w : Word) : s.runWith iss c w =
    (openRun c.x ((s.part iss.q).core c.w.core) (s.part iss.q).csr (s.clkc iss.q) s.now iss.addr).add iss w := by
  simp only [State.runWith, State.runAt, h.begun, h.fresh]
  rfl

theorem Alone.runWith_term (t : Term) : (s.runWith iss c (.ofTerm t)).term = t := by
  rw [h.runWith_eq]
  cases t <;> rfl

theorem Alone.runWith_acts (w : Word) : (s.runWith iss c w).acts = w.acts := by rw [h.runWith_eq]; rfl

/-- The run's last word: the word itself, after its prefix. -/
theorem Alone.runWith_last (w : Word) : (s.runWith iss c w).last = (s.env iss c).self := by rw [h.runWith_eq]; rfl

/-- The word as it is issued: queued, and its run closed. -/
theorem Alone.issued_eq (w : Word) : s.issued iss c w = (s.turned iss c (c.x.queued s.now (s.runWith iss c w))).closeRun iss.q c.w (s.runAt iss c).words iss.detail := by
  unfold State.issued
  rw [if_pos (by simp [h.bung])]
  simp only [State.queued, h.begun]
  rfl

/-- A run without spill accesses and without a condition commits at once. -/
theorem Alone.issued_commits {t : Term} (ht : t.control = true) {r : Run} (hr : s.runWith iss c (.ofTerm t) = r)
    (hcond : r.loopCond (c.x.queued s.now r) c.grid.prio (s.runAt iss c).words iss.detail = none)
    (hreq : (s.turned iss c (c.x.queued s.now r)).runBarred iss.q (c.queued s.now r) r ((s.turned iss c (c.x.queued s.now r)).requests iss.q (c.queued s.now r) r) = []) :
    s.issued iss c (.ofTerm t) = (s.turned iss c (c.x.queued s.now r)).commit iss.q (c.queued s.now r) r := by
  have run := (h.runWith_eq (.ofTerm t)).symm.trans hr
  have term : r.term = t := hr ▸ h.runWith_term t
  obtain ⟨unatomic, -, ready, -⟩ := Term.control_quiet ht
  rw [h.issued_eq, hr]
  refine State.held_closes h.named (x := c.x.queued s.now r) rfl rfl ?_ ?_ h.unreserved hreq ?_
  · exact Run.quiet (by rw [← run]; exact nofun) (by rw [term]; exact unatomic)
  · rw [hcond, ← run]
    rfl
  · exact Part.runReady_reg (by rw [← run]; exact nofun) (by rw [← run]; rfl) (by rw [← ready _ _, ← term])

/-- Such a run commits: its operation, the test for the end of a body, and what follows a commit. -/
theorem Alone.commit_ends {t : Term} (ht : t.control = true) {r : Run} (hr : s.runWith iss c (.ofTerm t) = r)
    (hfail : (s.turned iss c (c.x.passed iss s.now)).commitFail iss.q (c.queued s.now r) r = none) {z : State}
    (hend : ∀ k, (((s.turned iss c (c.x.passed iss s.now)).doTerm iss.q c.w r (c.x.queued s.now r) k).loopTest iss.q (c.queued s.now r) r).afterCommit iss.q c.w r = z)
    (hstuck : (z.modPart iss.q (fun p => p.lagOnce (s.part iss.q).lag)).stuck iss.q c.w = none) :
    (s.turned iss c (c.x.queued s.now r)).commit iss.q (c.queued s.now r) r = z.modPart iss.q (fun p => p.lagOnce (s.part iss.q).lag) := by
  have acts : r.acts = [] := hr ▸ h.runWith_acts _
  have term : r.term = t := hr ▸ h.runWith_term t
  have next : r.next = iss.addr + BitVec.ofNat 64 iss.len := by rw [← hr, h.runWith_eq]; rfl
  have unplaced : ((s.turned iss c (c.x.queued s.now r)).part iss.q).placeQ = [] := by
    unfold State.turned
    rw [State.held_part, Part.holding_placeQ]
    exact h.placed
  have lag : ((s.turned iss c (c.x.queued s.now r)).part iss.q).lag = (s.part iss.q).lag := by
    unfold State.turned
    rw [State.held_part]
    rfl
  have past : (s.turned iss c (c.x.queued s.now r)).modW iss.q (c.queued s.now r).w (fun x => { x with run := none, pc := r.next, refillRun := false }) =
      s.turned iss c (c.x.passed iss s.now) := by
    rw [next]
    exact State.turned_modW ..
  unfold State.commit
  dsimp only
  rw [State.drainAll_nil unplaced, State.doActs_none acts unplaced, past, hfail]
  dsimp only
  rw [State.endRun_control (by rw [term]; exact ht), lag]
  refine (congrArg (fun z : State => match (z.modPart iss.q (fun p => p.lagOnce (s.part iss.q).lag)).stuckFail iss.q c.w with
    | some f => (s.turned iss c (c.x.queued s.now r)).abort iss.q (c.queued s.now r) r (f.cond (r.words - 1) c.x.path)
    | none => z.modPart iss.q (fun p => p.lagOnce (s.part iss.q).lag)) (hend _)).trans ?_
  rw [State.stuckFail_none hstuck]

/-- A control word alone that accesses no spill area: its operation, the test for the end of a body, and what settles the warp's path. -/
theorem Alone.settles {t : Term} (ht : t.control = true) {r : Run} (hr : s.runWith iss c (.ofTerm t) = r)
    (hcond : r.loopCond (c.x.queued s.now r) c.grid.prio (s.runAt iss c).words iss.detail = none)
    (hspill : ((s.turned iss c (c.x.queued s.now r)).spillPieces iss.q (c.queued s.now r) r).1 = [])
    (hfail : (s.turned iss c (c.x.passed iss s.now)).commitFail iss.q (c.queued s.now r) r = none)
    {x y : Warp} (hdo : ∀ k, (s.turned iss c (c.x.passed iss s.now)).doTerm iss.q c.w r (c.x.queued s.now r) k = s.turned iss c x)
    (hsettle : (s.turned iss c (if r.noLoop c.x then x else x.loopEnd r.last 4)).settleWarp iss.q c.w = s.turned iss c y)
    (hb : y.block = c.x.block) (hp : y.path ≠ 0) (hw : ∀ l g t, y.wait ≠ .abwait l g t) : s.issued iss c (.ofTerm t) = s.turned iss c y := by
  have term : r.term = t := hr ▸ h.runWith_term t
  have control : r.term.control = true := by rw [term]; exact ht
  obtain ⟨-, untrapped, -, -⟩ := Term.control_quiet ht
  have tested : (s.turned iss c x).loopTest iss.q (c.queued s.now r) r = s.turned iss c (if r.noLoop c.x then x else x.loopEnd r.last 4) := by
    rw [State.loopTest_control control]
    by_cases out : r.noLoop c.x = true
    · rw [if_pos out]
      exact if_pos out
    · rw [if_neg out]
      exact (if_neg out).trans (State.turned_modW ..)
  have same : (s.turned iss c y).modPart iss.q (fun p => p.lagOnce (s.part iss.q).lag) = s.turned iss c y :=
    State.lagOnce_same (by unfold State.turned; rw [State.held_part]; rfl)
  rw [h.issued_commits ht hr hcond (State.barred_control (hr ▸ h.runWith_acts _) control hspill), h.commit_ends ht hr hfail (z := s.turned iss c y) (fun k => ?_) ?_, same]
  · rw [same]
    exact State.held_unstuck h.named hb hp
  · rw [hdo, tested]
    exact State.held_afterCommit_settled hsettle h.unswapped (by rw [term]; exact untrapped) h.noObject hw

/-- The same where the operation and the test leave a lane on the path. -/
theorem Alone.turns {t : Term} (ht : t.control = true) {r : Run} (hr : s.runWith iss c (.ofTerm t) = r)
    (hcond : r.loopCond (c.x.queued s.now r) c.grid.prio (s.runAt iss c).words iss.detail = none)
    (hspill : ((s.turned iss c (c.x.queued s.now r)).spillPieces iss.q (c.queued s.now r) r).1 = [])
    (hfail : (s.turned iss c (c.x.passed iss s.now)).commitFail iss.q (c.queued s.now r) r = none)
    {x : Warp} (hdo : ∀ k, (s.turned iss c (c.x.passed iss s.now)).doTerm iss.q c.w r (c.x.queued s.now r) k = s.turned iss c x)
    (hb : x.block = c.x.block) (hp : x.path ≠ 0) (hw : ∀ l g t, x.wait ≠ .abwait l g t) :
    s.issued iss c (.ofTerm t) = s.turned iss c (if r.noLoop c.x then x else x.loopEnd r.last 4) := by
  obtain ⟨block, wait, path⟩ := Warp.loopEnd_keeps r.last 4 x
  have kept {β : Type} (f : Warp → β) (hf : f (x.loopEnd r.last 4) = f x) : f (if r.noLoop c.x then x else x.loopEnd r.last 4) = f x := by
    split
    · rfl
    · exact hf
  have hb := (kept Warp.block block).trans hb
  have hp : (if r.noLoop c.x then x else x.loopEnd r.last 4).path ≠ 0 := by rwa [kept Warp.path path]
  exact h.settles ht hr hcond hspill hfail hdo (State.settleWarp_path (h.turned_ctx hb) hp) hb hp (by rwa [kept Warp.wait wait])

/-! ### Runs that abort -/

/-- A word whose run holds a supervisor's condition, of its own or of a body's end, aborts it. -/
theorem Alone.aborts {w : Word} {r : Run} (hr : s.runWith iss c w = r) {k : Cond}
    (hk : Cond.first w.cond (r.loopCond (c.x.queued s.now r) c.grid.prio (s.runAt iss c).words iss.detail) = some k)
    (hu : k.cause.isUser = false) (hm : k.cause ≠ .memue) (ha : w.acts = []) (ht : ∀ op d ps x y m, w.term ≠ .atom op d ps x y m) : FaultStep s (s.issued iss c w) iss c k := by
  have run := (h.runWith_eq w).symm.trans hr
  have acts : r.acts = [] := by rw [← hr, h.runWith_acts, ha]
  have term : r.term = w.term := by
    rw [← run]
    simp only [Run.add, openRun]
    split <;> simp_all
  have cond : r.cond = w.cond := by rw [← run]; rfl
  have start : r.start = iss.addr := by rw [← run]; rfl
  have stopped : s.issued iss c w = (s.turned iss c ((c.x.queued s.now r).faulted k iss.addr s.now)).modPart iss.q (fun p => p.post (faultRec c k iss.addr)) := by
    rw [h.issued_eq, hr]
    unfold State.turned
    rw [State.held_closes_aborts h.named (x := c.x.queued s.now r) rfl rfl (Run.quiet (by rw [acts]; exact nofun) (by rw [term]; exact ht)) (by rw [cond]; exact hk),
      State.held_abort hu hm h.unswapped, start]
    rfl
  rw [stopped]
  exact s.turned_faultStep iss c k r

end alone

end Sys2Proof.Machine
end

section
/-! SUPPORT. `loop`, and the ends of bodies on `nop` (R133, R134, R314). -/

namespace Sys2Proof.Machine

/-! ### The test for the end of a body -/

theorem Warp.lc_eq (x : Warp) (k : Nat) : x.lc k = if k = 0 then x.lc0 else if k = 1 then x.lc1 else x.lc2 := by
  match k with
  | 0 => rfl
  | 1 => rfl
  | k + 2 => rfl

theorem Warp.setLc_eq (x : Warp) (k : Nat) (v : W32) :
    x.setLc k v = if k = 0 then { x with lc0 := v } else if k = 1 then { x with lc1 := v } else { x with lc2 := v } := by
  match k with
  | 0 => rfl
  | 1 => rfl
  | k + 2 => rfl

/-- The counts stand apart from the levels and the address. -/
theorem Warp.setLc_levels (x : Warp) (k : Nat) (v : W32) (ls : List Level) (pc before : W64) :
    { ({ x with levels := ls, pc := before } : Warp).setLc k v with pc := pc } = { x.setLc k v with levels := ls, pc := pc } := by
  unfold Warp.setLc
  split <;> rfl

/-- At the end of a body whose count is above 1 the warp goes back to its start. -/
theorem Warp.loopEnd_again {x : Warp} {l : Level} {rest : List Level} {last : W64} (hl : x.levels = l :: rest) (hs : l.stop = last) (hn : 1 < (x.lc rest.length).toNat)
    (fuel : Nat) : x.loopEnd last (fuel + 1) = { x.setLc rest.length (x.lc rest.length - 1) with pc := l.start } := by
  unfold Warp.loopEnd
  rw [hl]
  exact (if_neg (not_not.2 hs)).trans (if_neg (Nat.not_le.2 hn))

/-- At the end of its last pass the level ends, and the test goes on with the enclosing one. -/
theorem Warp.loopEnd_over {x : Warp} {l : Level} {rest : List Level} {last : W64} (hl : x.levels = l :: rest) (hs : l.stop = last) (hn : (x.lc rest.length).toNat ≤ 1)
    (fuel : Nat) : x.loopEnd last (fuel + 1) = ({ x with levels := rest, pc := last + 4 } : Warp).loopEnd last fuel := by
  rw [Warp.loopEnd, hl]
  exact (if_neg (not_not.2 hs)).trans (if_pos hn)

/-- R134 raises nothing at the end of a body that opened with as many records, if it goes round or nothing is raised at the enclosing one. -/
theorem loopBad_cons {x : Warp} {l : Level} {rest : List Level} {last : W64} {rd : Nat} (hd : rd = l.rd0)
    (hrest : (x.lc rest.length).toNat ≤ 1 → loopBad x last rd rest = false) : loopBad x last rd (l :: rest) = false := by
  unfold loopBad
  split
  · rfl
  · rw [if_neg (not_not.2 hd)]
    split
    case isTrue ends => exact hrest ends
    case isFalse => rfl

theorem loopBad_outside {x : Warp} {last : W64} {rd : Nat} {ls : List Level} (h : ∀ l ∈ ls.head?, l.stop ≠ last) : loopBad x last rd ls = false := by
  cases ls with
  | nil => rfl
  | cons l rest => exact if_pos (h l rfl)

/-- A word of 4 bytes has no prefix before it. -/
theorem Env.self_of_len {e : Env} (hlen : e.iss.len = 4) : e.self = e.iss.addr := by
  unfold Env.self
  rw [hlen]
  exact BitVec.add_sub_cancel e.iss.addr _

/-- A body of at least one word, of the lengths that the word can give, does not end at its `loop`. -/
theorem body_stop_ne {n : Nat} (pos : 0 < n) (lt : n < 2 ^ 14) (a : W64) : a + BitVec.ofNat 64 (4 * n) ≠ a := by
  intro same
  have zero : BitVec.ofNat 64 (4 * n) = 0 := by simpa using same
  have lifted : 4 * n % 2 ^ 64 = 0 := by simpa using congrArg BitVec.toNat zero
  omega

theorem body_length_lt (hi lo : BitVec 7) : hi.toNat * 128 + lo.toNat < 2 ^ 14 := by
  have := hi.isLt
  have := lo.isLt
  omega

/-! ### `nop` -/

section nop

variable {s : State} {iss : Issue} {c : Ctx} (h : Alone s .nop iss c)
include h

theorem Alone.exec_nop : exec .nop s = .next (s.issued iss c (.ofTerm .nop)) := withWord_issues h.toIssues _

/-- Outside a handler a `nop` tests for the end of a body. -/
theorem Alone.nop_tests (out : c.x.trap.inh = false) : (s.runWith iss c (.ofTerm .nop)).noLoop c.x = false := by
  simp only [Run.noLoop, Run.transfer, h.runWith_term, out, h.effective nofun]
  split <;> simp_all

variable (hlen : iss.len = 4) (out : c.x.trap.inh = false)
include hlen out

/-- What R134 raises at the end of its run. -/
theorem Alone.nop_loopCond {r : Run} (hr : s.runWith iss c (.ofTerm .nop) = r) : r.loopCond (c.x.queued s.now r) c.grid.prio (s.runAt iss c).words iss.detail =
    if loopBad c.x iss.addr c.x.rd c.x.levels then some ((s.env iss c).cond .operand 0 iss.detail) else none := by
  have last : r.last = iss.addr := hr ▸ (h.runWith_last _).trans (Env.self_of_len hlen)
  have term : r.term = .nop := hr ▸ h.runWith_term _
  have tested : r.noLoop (c.x.queued s.now r) = false := (hr ▸ h.nop_tests out : r.noLoop c.x = false)
  have same (rd : Nat) (ls : List Level) : loopBad (c.x.queued s.now r) iss.addr rd ls = loopBad c.x iss.addr rd ls := by
    induction ls with
    | nil => rfl
    | cons l rest ih => simp only [loopBad, ih]; rfl
  unfold Run.loopCond
  simp only [tested, last, term, Run.rdAfter, Bool.not_false, Bool.true_and, same]
  rfl

/-- Without a record left in a body that it ends it goes on as the test says. -/
theorem Alone.nop_became (good : loopBad c.x iss.addr c.x.rd c.x.levels = false) : Became s .nop iss c ((c.x.passed iss s.now).loopEnd iss.addr 4) := by
  have term := h.runWith_term .nop
  have turned := h.turns (t := .nop) (x := c.x.passed iss s.now) rfl rfl (by rw [h.nop_loopCond hlen out rfl, good]; rfl) (by unfold State.spillPieces; rw [term])
    (State.commitFail_none (by rw [term]; rfl) _ _ _) (fun k => by unfold State.doTerm; rw [term]) rfl (h.path nofun) h.noAbwait
  rw [h.nop_tests out, h.runWith_last, Env.self_of_len hlen] at turned
  exact ⟨_, h.exec_nop, turned ▸ s.turned_only iss c _⟩

/-- With a record left in such a body it aborts. -/
theorem Alone.nop_aborts (bad : loopBad c.x iss.addr c.x.rd c.x.levels = true) :
    ∃ t, exec .nop s = .next t ∧ FaultStep s t iss c ((s.env iss c).cond .operand 0 iss.detail) :=
  ⟨_, h.exec_nop, h.aborts rfl (by rw [h.nop_loopCond hlen out rfl, bad]; rfl) rfl Cause.noConfusion rfl (fun _ _ _ _ _ _ => Term.noConfusion)⟩

section ending

variable {l : Level} {rest : List Level} (hl : c.x.levels = l :: rest) (hs : l.stop = iss.addr)
include hl hs

/-- The end of a body that is to go round. -/
theorem Alone.nop_again (depth : c.x.rd = l.rd0) (more : 1 < (c.x.lc rest.length).toNat) :
    Became s .nop iss c { (c.x.passed iss s.now).setLc rest.length (c.x.lc rest.length - 1) with pc := l.start } := by
  have ended := h.nop_became hlen out (by rw [hl]; exact loopBad_cons depth fun few => absurd more (Nat.not_lt.2 few))
  rwa [Warp.loopEnd_again (x := c.x.passed iss s.now) hl hs more] at ended

/-- The end of a body's last pass, where the enclosing one goes on. -/
theorem Alone.nop_ends (depth : c.x.rd = l.rd0) (few : (c.x.lc rest.length).toNat ≤ 1) (outer : ∀ m ∈ rest.head?, m.stop ≠ iss.addr) :
    Became s .nop iss c { c.x.passed iss s.now with levels := rest, pc := iss.addr + 4 } := by
  have ended := h.nop_became hlen out (by rw [hl]; exact loopBad_cons depth fun _ => loopBad_outside outer)
  rwa [Warp.loopEnd_over (x := c.x.passed iss s.now) hl hs few, Warp.loopEnd_outside (by exact outer)] at ended

/-- The end of a body's last pass at the end of the enclosing one, which is to go round. -/
theorem Alone.nop_ends_again {m : Level} {outs : List Level} (both : rest = m :: outs) (depth : c.x.rd = l.rd0) (few : (c.x.lc rest.length).toNat ≤ 1) (outer : m.stop = iss.addr)
    (depths : m.rd0 = c.x.rd) (more : 1 < (c.x.lc outs.length).toNat) :
    Became s .nop iss c { (c.x.passed iss s.now).setLc outs.length (c.x.lc outs.length - 1) with levels := m :: outs, pc := m.start } := by
  subst both
  have ended := h.nop_became hlen out (by
    rw [hl]
    exact loopBad_cons depth fun _ => loopBad_cons depths.symm fun none => absurd more (Nat.not_lt.2 none))
  rw [Warp.loopEnd_over (x := c.x.passed iss s.now) hl hs few,
    Warp.loopEnd_again (x := { c.x.passed iss s.now with levels := m :: outs, pc := iss.addr + 4 }) rfl outer more] at ended
  rwa [← Warp.setLc_levels (c.x.passed iss s.now) outs.length (c.x.lc outs.length - 1) (m :: outs) m.start (iss.addr + 4)]

/-- The end of a body with another count of records. -/
theorem Alone.nop_unwound (depth : c.x.rd ≠ l.rd0) : ∃ t, exec .nop s = .next t ∧ FaultStep s t iss c ((s.env iss c).cond .operand 0 iss.detail) :=
  h.nop_aborts hlen out (by rw [hl]; exact (if_neg (not_not.2 hs)).trans (if_pos depth))

end ending

end nop

/-! ### `loop` -/

theorem exec_loop (hi lo : BitVec 7) (a : Reg) (s : State) :
    exec (.loop hi a lo) s = withWord s (.loop hi a lo) (fun _ e => e.loopWord ((e.srcS a).setWidth 32) (hi.toNat * 128 + lo.toNat)) := rfl

section loopWord

variable {e : Env} {n : W32} {len : Nat}

theorem Env.loopWord_handler (inh : e.c.x.trap.inh = true) : e.loopWord n len = e.operand := if_pos inh

theorem Env.loopWord_zero (out : e.c.x.trap.inh = false) :
    e.loopWord 0 len = if e.c.grid.k.target (e.iss.addr + 4 + BitVec.ofNat 64 (4 * len)) then .ofTerm (.loop 0 len) else e.operand :=
  (if_neg (by rw [out]; exact Bool.false_ne_true)).trans (if_pos rfl)

/-- No further level can open, or the body reaches beyond the enclosing one (R133). -/
def Env.loopFull (e : Env) (len : Nat) : Prop :=
  3 ≤ e.c.x.levels.length ∨ ∃ l ∈ e.c.x.levels.head?, l.stop.toNat < (e.iss.addr + BitVec.ofNat 64 (4 * len)).toNat

theorem Env.loopWord_full (out : e.c.x.trap.inh = false) (hn : n ≠ 0) (full : e.loopFull len) : e.loopWord n len = e.operand := by
  unfold Env.loopWord
  dsimp only
  rw [if_neg (by rw [out]; exact Bool.false_ne_true), if_neg hn]
  refine if_pos ?_
  revert full
  unfold Env.loopFull
  cases e.c.x.levels <;> simp

theorem Env.loopWord_opens (out : e.c.x.trap.inh = false) (hn : n ≠ 0) (room : ¬ e.loopFull len) : e.loopWord n len = .ofTerm (.loop n len) := by
  unfold Env.loopWord
  dsimp only
  rw [if_neg (by rw [out]; exact Bool.false_ne_true), if_neg hn]
  refine if_neg (mt ?_ room)
  unfold Env.loopFull
  cases e.c.x.levels <;> simp

end loopWord

/-- What a `loop` leaves of a warp. -/
theorem Warp.doLoop_keeps (x : Warp) (a : W64) (n : W32) (e : Nat) : (x.doLoop a n e).block = x.block ∧ (x.doLoop a n e).wait = x.wait ∧ (x.doLoop a n e).path = x.path := by
  unfold Warp.doLoop
  split
  · exact ⟨rfl, rfl, rfl⟩
  · unfold Warp.setLc
    split <;> exact ⟨rfl, rfl, rfl⟩

/-- A `loop` with a count opens a level before those that are open. -/
theorem Warp.doLoop_opens (x : Warp) (a : W64) {n : W32} (hn : n ≠ 0) (e : Nat) : x.doLoop a n e =
    { x.setLc x.levels.length n with levels := ⟨a + 4, a + BitVec.ofNat 64 (4 * e), x.rd⟩ :: x.levels, pc := a + 4 } := if_neg hn

section loop

variable {hi lo : BitVec 7} {a : Reg} {s : State} {iss : Issue} {c : Ctx} (h : Alone s (.loop hi a lo) iss c) (hlen : iss.len = 4)
  (hout : ∀ l ∈ c.x.levels.head?, l.stop ≠ iss.addr)
include h hlen hout

/-- A `loop` alone, where no body ends: the warp as the operation leaves it. -/
theorem Alone.loops {n : W32} {e : Nat} (hx : ∀ l ∈ ((c.x.passed iss s.now).doLoop iss.addr n e).levels.head?, l.stop ≠ iss.addr) :
    s.issued iss c (.ofTerm (.loop n e)) = s.turned iss c ((c.x.passed iss s.now).doLoop iss.addr n e) := by
  obtain ⟨block, wait, path⟩ := (c.x.passed iss s.now).doLoop_keeps iss.addr n e
  have term := h.runWith_term (.loop n e)
  have last : (s.runWith iss c (.ofTerm (.loop n e))).last = iss.addr := (h.runWith_last _).trans (Env.self_of_len hlen)
  have turned := h.turns (t := .loop n e) (x := (c.x.passed iss s.now).doLoop iss.addr n e) rfl rfl (Run.loopCond_outside (by rw [last]; exact hout) _ _ _)
    (by unfold State.spillPieces; rw [term]) (State.commitFail_none (by rw [term]; rfl) _ _ _)
    (fun k => by
      have self : (s.runWith iss c (.ofTerm (.loop n e))).next - 4 = iss.addr := last
      unfold State.doTerm
      rw [term, self]
      exact State.turned_modW ..) block (by rw [path]; exact h.path nofun) (by rw [wait]; exact h.noAbwait)
  rwa [last, Warp.loopEnd_outside hx, ite_self] at turned

/-- It opens a level of a body that does not end at the word itself. -/
theorem Alone.loop_became (out : c.x.trap.inh = false) (hn : ((s.env iss c).srcS a).setWidth 32 ≠ (0 : W32)) (room : ¬ (s.env iss c).loopFull (hi.toNat * 128 + lo.toNat))
    (pos : 0 < hi.toNat * 128 + lo.toNat) :
    Became s (.loop hi a lo) iss c ((c.x.passed iss s.now).doLoop iss.addr (((s.env iss c).srcS a).setWidth 32) (hi.toNat * 128 + lo.toNat)) := by
  have opened : ∀ l ∈ ((c.x.passed iss s.now).doLoop iss.addr (((s.env iss c).srcS a).setWidth 32) (hi.toNat * 128 + lo.toNat)).levels.head?, l.stop ≠ iss.addr := by
    rw [Warp.doLoop_opens _ _ hn]
    intro l hl
    rw [← Option.some.inj hl]
    exact body_stop_ne pos (body_length_lt hi lo) _
  exact ⟨_, by rw [exec_loop, withWord_issues h.toIssues, Env.loopWord_opens out hn room], h.loops hlen hout opened ▸ s.turned_only iss c _⟩

/-- Where no further level can open it aborts. -/
theorem Alone.loop_aborts (out : c.x.trap.inh = false) (hn : ((s.env iss c).srcS a).setWidth 32 ≠ (0 : W32)) (full : (s.env iss c).loopFull (hi.toNat * 128 + lo.toNat)) :
    ∃ t, exec (.loop hi a lo) s = .next t ∧ FaultStep s t iss c ((s.env iss c).cond .operand 0 iss.detail) := by
  refine ⟨_, by rw [exec_loop, withWord_issues h.toIssues, Env.loopWord_full out hn full], h.aborts rfl ?_ rfl Cause.noConfusion rfl (fun _ _ _ _ _ _ => Term.noConfusion)⟩
  rw [Run.loopCond_outside (by rw [h.runWith_last, Env.self_of_len hlen]; exact hout)]
  rfl

end loop

section inner

variable {hi lo : BitVec 7} {a : Reg} {s : State} {iss : Issue} {c : Ctx} (h : Alone s (.loop hi a lo) iss c) (hlen : iss.len = 4) (out : c.x.trap.inh = false)
  (hn : ((s.env iss c).srcS a).setWidth 32 ≠ (0 : W32)) {l : Level} {rest : List Level} (hl : c.x.levels = l :: rest)
include hl

theorem Env.loopFull_inner (len : Nat) : (s.env iss c).loopFull len ↔ 2 ≤ rest.length ∨ l.stop.toNat < (iss.addr + BitVec.ofNat 64 (4 * len)).toNat := by
  unfold Env.loopFull
  rw [show (s.env iss c).c.x.levels = l :: rest from hl]
  simp only [List.length_cons, List.head?_cons, Option.mem_some_iff, exists_eq_left', Nat.succ_le_succ_iff]
  rfl

/-- The level that opens inside one or two others. -/
theorem Warp.doLoop_inner {n : W32} (hn : n ≠ 0) (depth : rest.length ≤ 1) (now e : Nat) : (c.x.passed iss now).doLoop iss.addr n e =
    if rest = [] then { c.x.passed iss now with levels := ⟨iss.addr + 4, iss.addr + BitVec.ofNat 64 (4 * e), c.x.rd⟩ :: l :: rest, pc := iss.addr + 4, lc1 := n }
    else { c.x.passed iss now with levels := ⟨iss.addr + 4, iss.addr + BitVec.ofNat 64 (4 * e), c.x.rd⟩ :: l :: rest, pc := iss.addr + 4, lc2 := n } := by
  have outer : (c.x.passed iss now).levels = l :: rest := hl
  rw [Warp.doLoop_opens _ _ hn, outer, Warp.setLc_eq]
  match rest, depth with
  | [], _ => rfl
  | [_], _ => rfl

end inner

theorem loop_skips (hi lo : BitVec 7) (a : Reg) :
    Turns (.loop hi a lo) (fun _ e => e.iss.len = 4 ∧ ((e.srcS a).setWidth 32 : W32) = 0 ∧ e.c.x.trap.inh = false ∧
      e.c.grid.k.target (e.iss.addr + 4 + BitVec.ofNat 64 (4 * (hi.toNat * 128 + lo.toNat))) = true)
      (fun _ e x => { x with pc := e.iss.addr + 4 + BitVec.ofNat 64 (4 * (hi.toNat * 128 + lo.toNat)) }) :=
  Turns.of (w := fun _ _ => .ofTerm (.loop 0 (hi.toNat * 128 + lo.toNat))) nofun (exec_loop hi lo a)
    (fun s e ⟨_, zero, out, target⟩ => by rw [zero, Env.loopWord_zero out, if_pos target]) fun s iss c h _ ⟨len, _⟩ => by
    have outside {x : Warp} (hx : x.levels = c.x.levels) : ∀ l ∈ x.levels.head?, l.stop ≠ iss.addr := by rw [hx, h.noLoop]; nofun
    exact h.toAlone.loops len (outside rfl) (n := 0) (outside (by rfl)) ▸ s.turned_only iss c _

theorem loop_faults (hi lo : BitVec 7) (a : Reg) :
    Faults (.loop hi a lo) (fun _ e => e.c.x.trap.inh = true ∨ (((e.srcS a).setWidth 32 : W32) = 0 ∧
      e.c.grid.k.target (e.iss.addr + 4 + BitVec.ofNat 64 (4 * (hi.toNat * 128 + lo.toNat))) = false)) (fun _ e => e.cond .operand 0 e.iss.detail) :=
  fun s iss c h bad => h.operand (exec_loop hi lo a) (by
    cases inh : c.x.trap.inh with
    | true => exact Env.loopWord_handler inh
    | false =>
      obtain ⟨zero, target⟩ := bad.resolve_left (by rw [show (s.env iss c).c.x.trap.inh = false from inh]; exact Bool.false_ne_true)
      rw [zero, Env.loopWord_zero inh, target]
      rfl)

/-- A `loop` with a count outside every body opens the first level. -/
theorem Lone.loop_opens {hi lo : BitVec 7} {a : Reg} {s : State} {iss : Issue} {c : Ctx} (h : Lone s (.loop hi a lo) iss c) (hlen : iss.len = 4) (out : c.x.trap.inh = false)
    (hn : ((s.env iss c).srcS a).setWidth 32 ≠ (0 : W32)) (pos : 0 < hi.toNat * 128 + lo.toNat) :
    Became s (.loop hi a lo) iss c { c.x.passed iss s.now with
      lc0 := ((s.env iss c).srcS a).setWidth 32
      levels := [⟨iss.addr + 4, iss.addr + BitVec.ofNat 64 (4 * (hi.toNat * 128 + lo.toNat)), c.x.rd⟩]
      pc := iss.addr + 4 } := by
  have room : ¬ (s.env iss c).loopFull (hi.toNat * 128 + lo.toNat) := by
    unfold Env.loopFull
    rw [show (s.env iss c).c.x.levels = [] from h.noLoop]
    simp
  have first : (c.x.passed iss s.now).levels = [] := h.noLoop
  have opened := h.toAlone.loop_became hlen (by rw [h.noLoop]; nofun) out hn room pos
  rwa [Warp.doLoop_opens _ _ hn, first] at opened

/-- Settles O27: a `loop` leaves the warp as its operation does, because neither a body that is open nor the one that it opens ends at its own word, and the test at the end
of a body is one recursion on the open levels, of which a `nop` shows each outcome. -/
theorem loopsOpen : Obligations.LoopsOpen := by
  refine ⟨fun hi lo a => ⟨loop_skips hi lo a, loop_faults hi lo a, fun pos s iss c h len out count => h.loop_opens len out count pos, ?inner⟩, ?nop⟩
  case inner =>
    intro s iss c l rest h len out count levels ends
    have before : ∀ l ∈ c.x.levels.head?, l.stop ≠ iss.addr := by
      rw [levels]
      intro k hk
      rw [← Option.some.inj hk]
      exact ends
    refine ⟨fun depth fits pos => ?_, fun full => h.loop_aborts len before out count ((Env.loopFull_inner levels _).2 full)⟩
    have opened := h.loop_became len before out count (fun full => ((Env.loopFull_inner levels _).1 full).elim (by omega) (Nat.not_lt.2 fits)) pos
    rwa [Warp.doLoop_inner levels count depth] at opened
  case nop =>
    intro s iss c l rest h len out levels ends lc less x
    have counts : lc = c.x.lc := funext fun k => (c.x.lc_eq k).symm
    have lesser (y : Warp) (k : Nat) : less y k = y.setLc k (lc k - 1) := (y.setLc_eq k (lc k - 1)).symm
    clear_value less lc
    subst counts
    simp only [lesser]
    exact ⟨h.nop_again len out levels ends, h.nop_ends len out levels ends, fun m outs depth few both => h.nop_ends_again len out levels ends both depth few,
      h.nop_unwound len out levels ends⟩

end Sys2Proof.Machine
end

section
/-! SUPPORT. `brv`, `join` and `brxv` on the records that stand on chip (R122, R127, R128, R131). -/

namespace Sys2Proof.Machine

theorem State.turned_setWarp (s : State) (iss : Issue) (c : Ctx) (x y : Warp) : (s.turned iss c x).modPart iss.q (fun p => p.setWarp c.w y) = s.turned iss c y :=
  State.held_setWarp ..

/-! ### Operations on the records on chip -/

/-- The operation has room on chip for a record that it pushes, and leaves one there, or none spilled, where it pops. -/
def Term.onChip (t : Term) (x : Warp) : Prop :=
  match t with
  | .brv .. => x.stack.length < 16
  | .brxv .. => x.resuming = true ∨ x.stack.length < 16
  | .join => ∀ r, x.stack = [r] → r.pmask &&& x.live ≠ 0 ∨ x.spilled = 0
  | _ => True

theorem Term.join_onChip {x : Warp} {r : Rec} {rest : List Rec} (hs : x.stack = r :: rest) (h : r.pmask &&& x.live ≠ 0 ∨ rest ≠ [] ∨ x.spilled = 0) : Term.join.onChip x := by
  intro t one
  obtain ⟨rfl, alone⟩ := List.cons.inj (hs.symm.trans one)
  exact h.imp_right fun left => left.resolve_left (not_not.2 alone)

/-- It then accesses no spill area. -/
theorem State.spillPieces_onChip {s : State} {q : Nat} {c : Ctx} {r : Run} (ht : r.term.onChip c.x) : (s.spillPieces q c r).1 = [] := by
  cases h : r.term <;> rw [h] at ht <;> simp only [State.spillPieces, h]
  case brv => exact if_pos ht
  case brxv =>
    rcases ht with resuming | room
    · exact if_pos resuming
    · rw [if_pos room, ite_self]
  case join =>
    split
    next t one =>
      refine if_neg fun ⟨gone, more⟩ => ?_
      rcases ht t one with waiting | zero
      · exact waiting gone
      · omega
    · rfl

theorem State.pushFail_room {s : State} {q : Nat} {c : Ctx} (h : c.x.stack.length < 16) : s.pushFail q c = none := if_pos h

/-- So none of its accesses fails. -/
theorem State.commitFail_onChip {s : State} {q : Nat} {c : Ctx} {r : Run} (hc : r.term.control = true) (ht : r.term.onChip c.x) {x : Warp}
    (h : (s.part q).ctx c.w = some { c with x := x }) (hx : x.stack = c.x.stack) : s.commitFail q c r = none := by
  cases hr : r.term <;> rw [hr] at ht hc <;> simp only [State.commitFail, hr, h]
  case brv => rw [State.pushFail_room (by rw [hx]; exact ht)]; rfl
  case brxv =>
    rcases ht with resuming | room
    · exact if_pos resuming
    · rw [State.pushFail_room (by rw [hx]; exact room)]
      exact ite_self _
  case split => cases hc

section lone

variable {s : State} {i : Instr} {iss : Issue} {c : Ctx} (h : Lone s i iss c)
include h

/-- R134 raises nothing. -/
theorem Lone.loopCond_none (r : Run) (g pos : Nat) (d : W64) : r.loopCond (c.x.queued s.now r) g pos d = none := by
  have outside : (c.x.queued s.now r).levels = [] := h.noLoop
  exact Run.loopCond_outside (by rw [outside]; nofun) g pos d

/-- A lone control word on the records on chip: its operation, and what settles the warp's path. -/
theorem Lone.controls {t : Term} (ht : t.control = true) (hchip : t.onChip c.x) {x y : Warp}
    (hdo : ∀ r k, r.term = t → r.next = iss.addr + BitVec.ofNat 64 iss.len →
      (s.turned iss c (c.x.passed iss s.now)).doTerm iss.q c.w r (c.x.queued s.now r) k = s.turned iss c x)
    (hl : x.levels = []) (hsettle : (s.turned iss c x).settleWarp iss.q c.w = s.turned iss c y) (hb : y.block = c.x.block) (hp : y.path ≠ 0)
    (hw : y.wait = c.x.wait) : OnlyWarp s (s.issued iss c (.ofTerm t)) iss.q c.w y (Sparse.rd ((s.part iss.q).core c.w.core).rf) := by
  have term := h.toAlone.runWith_term t
  have next : (s.runWith iss c (.ofTerm t)).next = iss.addr + BitVec.ofNat 64 iss.len := by rw [h.toAlone.runWith_eq]; rfl
  have unlooped : (if (s.runWith iss c (.ofTerm t)).noLoop c.x then x else x.loopEnd (s.runWith iss c (.ofTerm t)).last 4) = x := by
    rw [Warp.loopEnd_outside (by rw [hl]; nofun), ite_self]
  have settled := h.toAlone.settles ht rfl (x := x) (y := y) (h.loopCond_none ..)
    (State.spillPieces_onChip (by rw [term]; exact hchip)) (State.commitFail_onChip (by rw [term]; exact ht) (by rw [term]; exact hchip) (h.toAlone.turned_ctx rfl) rfl)
    (fun k => hdo _ k term next) (by rw [unlooped]; exact hsettle) hb hp (by rw [hw]; exact h.noAbwait)
  rw [settled]
  exact s.turned_only iss c y

/-- The same where the operation leaves a lane on the path. -/
theorem Lone.control_turns {t : Term} (ht : t.control = true) (hchip : t.onChip c.x) {x : Warp}
    (hdo : ∀ r k, r.term = t → r.next = iss.addr + BitVec.ofNat 64 iss.len →
      (s.turned iss c (c.x.passed iss s.now)).doTerm iss.q c.w r (c.x.queued s.now r) k = s.turned iss c x)
    (hl : x.levels = []) (hb : x.block = c.x.block) (hp : x.path ≠ 0) (hw : x.wait = c.x.wait) :
    OnlyWarp s (s.issued iss c (.ofTerm t)) iss.q c.w x (Sparse.rd ((s.part iss.q).core c.w.core).rf) :=
  h.controls ht hchip hdo hl (State.settleWarp_path (h.toAlone.turned_ctx hb) hp) hb hp hw

/-- A push with room on chip. -/
theorem Lone.turned_push {x : Warp} (hb : x.block = c.x.block) (room : x.stack.length < 16) (r : Rec) :
    (s.turned iss c x).push iss.q c.w r = s.turned iss c { x with stack := r :: x.stack } := by
  unfold State.push
  rw [h.toAlone.turned_ctx hb]
  exact (if_pos room).trans (State.turned_setWarp ..)

/-- The unwind turns to the lanes that wait at the target of the record of a `brv` (R124). -/
theorem Lone.turned_settles {x : Warp} (hb : x.block = c.x.block) (hw : x.wait = c.x.wait) (hp : x.path = 0) {r : Rec} {rest : List Rec} (hs : x.stack = r :: rest)
    (hk : r.brxv = false) (hr : r.pmask &&& x.live ≠ 0) : (s.turned iss c x).settleWarp iss.q c.w =
      s.turned iss c { x with m := r.pmask &&& x.live, pc := r.tpc, stack := { r with pmask := 0 } :: rest } := by
  have idle : x.wait = .none := hw.trans h.toAlone.idle
  have live : x.live ≠ 0 := fun dead => hr (by rw [dead]; exact BitVec.and_zero)
  have moving : (s.turned iss c x).stuck iss.q c.w = none := by
    unfold State.stuck
    rw [h.toAlone.turned_ctx hb]
    dsimp only
    rw [if_neg (not_or.2 ⟨live, not_not.2 hp⟩), hs]
    exact if_pos hr
  unfold State.settleWarp
  rw [h.toAlone.turned_ctx hb]
  dsimp only
  rw [if_neg (by simp [idle, Warp.splitting]), if_neg live]
  unfold State.unwind
  rw [State.turned_warp]
  dsimp only
  rw [if_neg (by simp [hp, moving]), hs]
  dsimp only
  rw [if_pos hr, hk, State.turned_setWarp]
  simp [Warp.setTop]

end lone

/-! ### Masks of lanes -/

/-- Lanes of the path that pass a test. -/
theorem Warp.path_maskOf {x : Warp} {f : Nat → Bool} {g : Mask} (hg : ∀ l, l < 128 → g.getLsbD l = (x.path.getLsbD l && f l)) : x.path &&& maskOf x.width f = g := by
  refine BitVec.eq_of_getLsbD_eq fun l hl => ?_
  rw [BitVec.getLsbD_and, getLsbD_maskOf, hg l hl]
  cases on : x.path.getLsbD l
  · rfl
  · simp [Warp.path_below on, hl]

/-- A path mask of lanes that are on the path is the path. -/
theorem Warp.path_within {x y : Warp} (hl : y.live = x.live) {g : Mask} (hm : y.m = g) (hg : ∀ l, l < 128 → g.getLsbD l = true → x.path.getLsbD l = true) : y.path = g := by
  refine BitVec.eq_of_getLsbD_eq fun l low => ?_
  rw [Warp.path, hm, hl, BitVec.getLsbD_and]
  cases on : g.getLsbD l
  · rfl
  · have both := hg l low on
    rw [Warp.path, BitVec.getLsbD_and, Bool.and_eq_true] at both
    rw [both.2]
    rfl

theorem Warp.path_and_live (x : Warp) : x.path &&& x.live = x.path := by rw [Warp.path, BitVec.and_assoc, BitVec.and_self]

/-- The lanes that a path loses leave the others. -/
theorem Warp.path_without {x y : Warp} (hl : y.live = x.live) {g : Mask} (hm : y.m = x.path &&& ~~~g) : y.path = x.path &&& ~~~g :=
  Warp.path_within hl hm fun l _ on => by
    rw [BitVec.getLsbD_and, Bool.and_eq_true] at on
    exact on.1

/-- A mask of live lanes is its own path. -/
theorem Warp.path_live {x y : Warp} (hl : y.live = x.live) {g : Mask} (hm : y.m = g &&& x.live) : y.path = g &&& x.live := by
  rw [Warp.path, hm, hl, BitVec.and_assoc, BitVec.and_self]

/-! ### `brv` (R127) -/

theorem exec_brv (n : BitVec 1) (p : BitVec 3) (o : BitVec 20) (s : State) : exec (.brv n p o) s = withWord s (.brv n p o) (fun s e => s.brvWord e n p o) := rfl

theorem State.pushCond_room {s : State} {e : Env} (h : e.c.x.stack.length < 16) : s.pushCond e = none := by
  unfold State.pushCond
  rw [State.pushFail_room h]
  rfl

/-- A `brv` whose push does not fail. -/
theorem State.brvWord_eq {s : State} {e : Env} {n : BitVec 1} {p : BitVec 3} {o : BitVec 20} (ht : e.c.grid.k.target (e.jump o) = true) (hpush : s.pushCond e = none)
    {g : Mask} (hg : ∀ l, l < 128 → g.getLsbD l = (e.c.x.path.getLsbD l && (e.pred l p != decide (n = 1)))) : s.brvWord e n p o = .ofTerm (.brv (e.jump o) g) := by
  have taken : e.c.x.path &&& maskOf e.c.x.width (fun l => e.pred l p != (n == 1)) = g := Warp.path_maskOf hg
  unfold State.brvWord
  rw [ht, hpush, taken]
  rfl

/-- A `brv` pushes a record, and the lanes that are taken leave the path. -/
theorem State.doTerm_brv {s : State} {iss : Issue} {c : Ctx} {x : Warp} {t : W64} {g : Mask} {r : Run} (hr : r.term = .brv t g) (x0 : Warp) (k : Core) :
    (s.turned iss c x).doTerm iss.q c.w r x0 k = ((s.turned iss c x).push iss.q c.w ⟨false, x.path, g, t, false, 0⟩).modW iss.q c.w (fun y => { y with m := y.path &&& ~~~g }) := by
  unfold State.doTerm
  rw [hr]
  dsimp only
  rw [State.turned_warp]

/-- The warp as a `brv` with room on chip leaves it. -/
def Warp.branched (x : Warp) (t : W64) (g : Mask) : Warp := { x with stack := ⟨false, x.path, g, t, false, 0⟩ :: x.stack, m := x.path &&& ~~~g }

section brv

variable {s : State} {i : Instr} {iss : Issue} {c : Ctx} (h : Lone s i iss c) (room : c.x.stack.length < 16) {t : W64}
include h room

theorem Lone.doTerm_brv {g : Mask} {r : Run} (hr : r.term = .brv t g) (x0 : Warp) (k : Core) :
    (s.turned iss c (c.x.passed iss s.now)).doTerm iss.q c.w r x0 k = s.turned iss c ((c.x.passed iss s.now).branched t g) := by
  rw [State.doTerm_brv hr, h.turned_push (x := c.x.passed iss s.now) rfl room, State.turned_modW]
  rfl

/-- With a lane that falls through the path goes on with those. -/
theorem Lone.brv_falls {g : Mask} (hp : c.x.path &&& ~~~g ≠ 0) :
    OnlyWarp s (s.issued iss c (.ofTerm (.brv t g))) iss.q c.w ((c.x.passed iss s.now).branched t g) (Sparse.rd ((s.part iss.q).core c.w.core).rf) := by
  have path : ((c.x.passed iss s.now).branched t g).path = c.x.path &&& ~~~g :=
    Warp.path_without (x := c.x) (y := (c.x.passed iss s.now).branched t g) rfl rfl
  exact h.control_turns (t := .brv t g) rfl room (fun r k hr _ => h.doTerm_brv room hr _ k) h.noLoop rfl (by rw [path]; exact hp) rfl

/-- Without one the unwind turns to those that wait at the target. -/
theorem Lone.brv_taken (hp : c.x.path ≠ 0) : OnlyWarp s (s.issued iss c (.ofTerm (.brv t c.x.path))) iss.q c.w
    { c.x.passed iss s.now with stack := ⟨false, c.x.path, 0, t, false, 0⟩ :: c.x.stack, m := c.x.path, pc := t } (Sparse.rd ((s.part iss.q).core c.w.core).rf) := by
  have path : ((c.x.passed iss s.now).branched t c.x.path).path = 0 := by
    change (c.x.path &&& ~~~c.x.path) &&& c.x.live = 0
    rw [BitVec.and_not_self]
    exact BitVec.zero_and
  have mask : c.x.path &&& ((c.x.passed iss s.now).branched t c.x.path).live = c.x.path := c.x.path_and_live
  have settled := h.turned_settles (x := (c.x.passed iss s.now).branched t c.x.path) rfl rfl path rfl rfl (mask.trans_ne hp)
  rw [mask] at settled
  exact h.controls (t := .brv t c.x.path) rfl room (fun r k hr _ => h.doTerm_brv room hr _ k) h.noLoop settled rfl (c.x.path_and_live.trans_ne hp) rfl

end brv

/-! ### `join` (R128) -/

theorem exec_join (s : State) : exec .join s = withWord s .join (fun s e => s.joinWord e) := rfl

/-- Outside bodies no level ends. -/
theorem Warp.trimLevels_nil {x : Warp} (h : x.levels = []) : x.trimLevels = x := by
  have same (p : Level → Bool) : x.levels.dropWhile p = x.levels := by rw [h]; rfl
  unfold Warp.trimLevels
  rw [same, ite_self]

theorem State.popFail_none {s : State} {q : Nat} {c : Ctx} (h : c.x.stack.length ≠ 1 ∨ c.x.spilled = 0) : s.popFail q c = none := if_neg fun ⟨one, more⟩ => by omega

/-- A `join` with a record whose pending lanes are live. -/
theorem State.joinWord_pending {s : State} {e : Env} {r : Rec} {rest : List Rec} (hs : e.c.x.stack = r :: rest) (hr : r.pmask &&& e.c.x.live ≠ 0) : s.joinWord e = .ofTerm .join := by
  unfold State.joinWord
  rw [hs]
  exact if_pos hr

/-- A `join` that pops a record and leaves one on chip, or has none spilled. -/
theorem State.joinWord_pop {s : State} {e : Env} {r : Rec} {rest : List Rec} (hs : e.c.x.stack = r :: rest) (hr : r.pmask &&& e.c.x.live = 0)
    (left : rest ≠ [] ∨ e.c.x.spilled = 0) : s.joinWord e = .ofTerm .join := by
  have held : s.popFail e.q e.c = none := State.popFail_none (left.imp (fun some => by rw [hs]; simpa using some) id)
  unfold State.joinWord
  rw [hs, held]
  exact if_neg (not_not.2 hr)

section join

variable {s : State} {i : Instr} {iss : Issue} {c : Ctx} {x : Warp} {r : Rec} {rest : List Rec} (hs : x.stack = r :: rest)
include hs

/-- The record of a `brv`, the first time with the address of the `join` in it, has no lanes pending any more. -/
theorem State.doJoin_brv (hk : r.brxv = false) (hr : r.pmask &&& x.live ≠ 0) (a : W64) : (s.turned iss c x).doJoin iss.q c.w a = s.turned iss c
    { x with m := r.pmask &&& x.live, pc := r.tpc, stack := { r with pmask := 0, jpc := if r.jv then r.jpc else a, jv := true } :: rest } := by
  obtain ⟨brxv, rmask, pmask, tpc, jv, jpc⟩ := r
  subst hk
  unfold State.doJoin
  rw [State.turned_warp]
  dsimp only
  rw [hs]
  cases jv <;> exact (if_pos hr).trans ((State.turned_setWarp ..).trans (by simp [Warp.setTop, hs]))

/-- The record of a `brxv` stays for the next index. -/
theorem State.doJoin_brxv (hk : r.brxv = true) (hr : r.pmask &&& x.live ≠ 0) (a : W64) : (s.turned iss c x).doJoin iss.q c.w a = s.turned iss c
    { x with m := r.pmask &&& x.live, pc := r.tpc, resuming := true } := by
  obtain ⟨brxv, rmask, pmask, tpc, jv, jpc⟩ := r
  subst hk
  unfold State.doJoin
  rw [State.turned_warp]
  dsimp only
  rw [hs]
  exact (if_pos hr).trans ((State.turned_setWarp ..).trans (by simp [Warp.setTop, hs]))

variable (h : Lone s i iss c) (hb : x.block = c.x.block) (left : rest ≠ [] ∨ x.spilled = 0)
include h hb left

/-- A pop that leaves a record on chip or in the spill area none. -/
theorem Lone.turned_pop (hl : x.levels = []) : (s.turned iss c x).pop iss.q c.w = s.turned iss c { x with stack := rest } := by
  have gone : ¬ (rest.isEmpty = true ∧ 0 < x.spilled) := fun ⟨empty, more⟩ => left.elim (fun kept => kept (List.isEmpty_iff.1 empty)) more.ne'
  unfold State.pop
  rw [h.toAlone.turned_ctx hb]
  dsimp only
  rw [hs, List.drop_succ_cons, List.drop_zero, if_neg gone, Warp.trimLevels_nil (by exact hl), State.turned_setWarp]

/-- Without pending lanes the record is popped. -/
theorem Lone.doJoin_pop (hl : x.levels = []) (hr : r.pmask &&& x.live = 0) (a : W64) : (s.turned iss c x).doJoin iss.q c.w a = s.turned iss c
    { x with m := r.rmask &&& x.live, pc := a + 4, stack := rest } := by
  obtain ⟨brxv, rmask, pmask, tpc, jv, jpc⟩ := r
  have held : (s.turned iss c x).popFail iss.q { c with x := x } = none := State.popFail_none (left.imp (fun some => by rw [hs]; simpa using some) id)
  unfold State.doJoin
  rw [State.turned_warp, h.toAlone.turned_ctx hb]
  dsimp only
  rw [hs, Option.bind_some, held, h.turned_pop hs hb left hl]
  cases brxv <;> cases jv <;> exact (if_neg (not_not.2 hr)).trans ((if_neg Bool.false_ne_true).trans (State.turned_modW ..))

end join

/-- A lone `join` on records that stand on chip, which leaves live lanes of `g` on the path. -/
theorem Lone.joins {s : State} {i : Instr} {iss : Issue} {c : Ctx} (h : Lone s i iss c) {x : Warp} (hchip : Term.join.onChip c.x)
    (hdo : (s.turned iss c (c.x.passed iss s.now)).doJoin iss.q c.w (s.env iss c).self = s.turned iss c x)
    (hl : x.levels = c.x.levels) (hb : x.block = c.x.block) (hw : x.wait = c.x.wait) (live : x.live = c.x.live) {g : Mask} (hm : x.m = g &&& c.x.live) (hg : g &&& c.x.live ≠ 0) :
    OnlyWarp s (s.issued iss c (.ofTerm .join)) iss.q c.w x (Sparse.rd ((s.part iss.q).core c.w.core).rf) :=
  h.control_turns rfl hchip (fun r _ hr hn => by
    unfold State.doTerm
    rw [hr, hn]
    exact hdo) (hl.trans h.noLoop) hb ((Warp.path_live live hm).trans_ne hg) hw

end Sys2Proof.Machine
end

section
/-! SUPPORT. `brxv`: the tables that a path can use, the lanes of the lowest index, and its record (R130, R131). -/

namespace Sys2Proof.Machine

/-! ### Tables -/

/-- A table's targets are of entries that can be fetched, and its failures of those that cannot. -/
structure Table.Read (s : State) (e : Env) (a : W64) (tb : Table) : Prop where
  targets : ∀ y ∈ tb.targets, ∃ w, s.fetchWord e.q e.c (tableEntry a y.1) = .ok w
  fails : ∀ y ∈ tb.fails, s.fetchWord e.q e.c (tableEntry a y.1) = .error y.2

theorem State.table_read {s : State} {e : Env} {a : W64} {idx : List Nat} {tb : Table} (h : s.table e a idx = .ok tb) : tb.Read s e a := by
  unfold State.table at h
  split at h
  · cases h
  · dsimp only at h
    split at h
    · cases h
    · rw [← Except.ok.inj h]
      refine List.foldlRecOn _ _ (motive := Table.Read s e a) ⟨nofun, nofun⟩ fun t ht i _ => ?_
      split
      next f hf => exact ⟨ht.targets, fun y hy => (List.mem_append.1 hy).elim (ht.fails y) fun last => by rw [List.mem_singleton.1 last]; exact hf⟩
      next w hw => exact ⟨fun y hy => (List.mem_append.1 hy).elim (ht.targets y) fun last => by rw [List.mem_singleton.1 last]; exact ⟨w, hw⟩, ht.fails⟩

/-- An index with a target has not failed. -/
theorem Table.Read.unfailed {s : State} {e : Env} {a : W64} {tb : Table} (h : tb.Read s e a) {i : Nat} {v : W64} (ht : tb.target i = some v) :
    tb.fails.find? (fun x => x.1 == i) = none := by
  obtain ⟨y, found, -⟩ := Option.map_eq_some_iff.1 ht
  obtain ⟨w, fetched⟩ := h.targets y (List.mem_of_find?_eq_some found)
  refine List.find?_eq_none.2 fun f hf same => ?_
  have other : f.1 = y.1 := (beq_iff_eq.1 same).trans (beq_iff_eq.1 (List.find?_some (p := fun x : Nat × W64 => x.1 == i) found)).symm
  have failed := h.fails f hf
  rw [other, fetched] at failed
  cases failed

/-- A lane whose index has a target that R125 admits meets nothing. -/
theorem Table.Read.laneFail {s : State} {e : Env} {a : W64} {tb : Table} (h : tb.Read s e a) {k : KDesc} {l i : Nat} {v : W64} (hj : k.target tb.join = true)
    (ht : tb.target i = some v) (hv : k.target v = true) : tb.laneFail k a true l i = [] := by
  unfold Table.laneFail
  simp only [hj, h.unfailed ht, ht, hv, Bool.not_true, Bool.and_false, Bool.false_eq_true, if_false, if_true]

/-! ### The lowest index -/

theorem foldl_min_eq {f : Nat → Nat} {low : Nat} : ∀ {ls : List Nat} {b : Nat}, low ≤ b → (∀ l ∈ ls, low ≤ f l) → (b = low ∨ ∃ l ∈ ls, f l = low) →
    ls.foldl (fun m l => min m (f l)) b = low
  | [], _, _, _, reached => reached.resolve_right nofun
  | l :: ls, b, hb, hl, reached => by
    have first := hl l List.mem_cons_self
    refine foldl_min_eq (ls := ls) (le_min hb first) (fun k hk => hl k (List.mem_cons_of_mem _ hk)) ?_
    rcases reached with rfl | ⟨k, hk, rfl⟩
    · exact .inl (min_eq_left first)
    · rcases List.mem_cons.1 hk with rfl | later
      · exact .inl (min_eq_right hb)
      · exact .inr ⟨k, later, rfl⟩

/-! ### `brxv` (R131) -/

theorem exec_brxv (a b : Reg) (s : State) : exec (.brxv a b) s = withWord s (.brxv a b) (fun s e => s.brxvWord e a b) := rfl

/-- A `brxv` whose table is usable on every lane of the path, and whose push does not fail: `low` is the lowest index, `g` the lanes that have it. -/
theorem State.brxvWord_eq {s : State} {e : Env} {a b : Reg} {tb : Table} {low : Nat} {v : W64} {g : Mask}
    (table : s.table e (e.srcS a) ((Mask.lanes e.c.x.path).map (fun l => (e.src b l).toNat)) = .ok tb) (routed : s.tableBarred e (e.srcS a) tb.n ((Mask.lanes e.c.x.path).map (fun l => (e.src b l).toNat)) = [])
    (hj : e.c.grid.k.target tb.join = true) (usable : ∀ l ∈ Mask.lanes e.c.x.path, ∃ t, tb.target ((e.src b l).toNat) = some t ∧ e.c.grid.k.target t = true)
    (hpush : e.c.x.resuming = true ∨ e.c.x.stack.length < 16)
    (reached : ∃ l ∈ Mask.lanes e.c.x.path, (e.src b l).toNat = low) (lowest : ∀ l ∈ Mask.lanes e.c.x.path, low ≤ (e.src b l).toNat) (hv : tb.target low = some v)
    (hg : ∀ l, l < 128 → g.getLsbD l = (e.c.x.path.getLsbD l && decide ((e.src b l).toNat = low))) : s.brxvWord e a b = .ofTerm (.brxv g v tb.join) := by
  have clear : (Mask.lanes e.c.x.path).flatMap (fun l => tb.laneFail e.c.grid.k (e.srcS a) true l ((e.src b l).toNat)) = [] := List.flatMap_eq_nil_iff.2 fun l hl => by
    obtain ⟨t, found, admitted⟩ := usable l hl
    exact (State.table_read table).laneFail hj found admitted
  have room : (if e.c.x.resuming then none else s.pushCond e) = none := by
    rcases hpush with resuming | room
    · exact if_pos resuming
    · rw [State.pushCond_room room, ite_self]
  have least : (Mask.lanes e.c.x.path).foldl (fun m l => min m ((e.src b l).toNat)) (2 ^ 32) = low := by
    obtain ⟨l, hl, same⟩ := reached
    exact foldl_min_eq (same ▸ (e.src b l).isLt.le) lowest (.inr ⟨l, hl, same⟩)
  have group : e.c.x.path &&& maskOf e.c.x.width (fun l => (e.src b l).toNat == low) = g := Warp.path_maskOf hg
  unfold State.brxvWord
  dsimp only
  rw [table]
  dsimp only
  rw [clear, room]
  dsimp only [Env.failCond, Cond.first]
  rw [routed, least, group, hv]
  rfl

section brxv

variable {s : State} {i : Instr} {iss : Issue} {c : Ctx} (h : Lone s i iss c) {x : Warp} {g : Mask} {t j : W64}
include h

/-- A first pass pushes the record of the lanes that wait for their index. -/
theorem Lone.doBrxv_push (hb : x.block = c.x.block) (fresh : x.resuming = false) (room : x.stack.length < 16) (a : W64) : (s.turned iss c x).doBrxv iss.q c.w a g t j =
    s.turned iss c { x with stack := ⟨true, x.path, x.path &&& ~~~g, a, true, j⟩ :: x.stack, m := g, pc := t } := by
  unfold State.doBrxv
  rw [State.turned_warp]
  dsimp only
  rw [if_neg (by rw [fresh]; exact Bool.false_ne_true), h.turned_push hb room]
  exact State.turned_modW ..

omit h in
/-- A later pass leaves those that still wait in it. -/
theorem State.doBrxv_resume (more : x.resuming = true) {r : Rec} {rest : List Rec} (hs : x.stack = r :: rest) (a : W64) : (s.turned iss c x).doBrxv iss.q c.w a g t j =
    s.turned iss c { x with stack := { r with pmask := x.path &&& ~~~g } :: rest, resuming := false, m := g, pc := t } := by
  unfold State.doBrxv
  rw [State.turned_warp]
  dsimp only
  rw [if_pos more, hs, State.turned_setWarp]
  refine (State.turned_modW ..).trans ?_
  simp [Warp.setTop, hs]

/-- A lone `brxv` on the records on chip. -/
theorem Lone.brxvs {x : Warp} (hchip : (Term.brxv g t j).onChip c.x) (hdo : (s.turned iss c (c.x.passed iss s.now)).doBrxv iss.q c.w (s.env iss c).self g t j = s.turned iss c x)
    (hl : x.levels = c.x.levels) (hb : x.block = c.x.block) (hp : x.path ≠ 0) (hw : x.wait = c.x.wait) :
    OnlyWarp s (s.issued iss c (.ofTerm (.brxv g t j))) iss.q c.w x (Sparse.rd ((s.part iss.q).core c.w.core).rf) :=
  h.control_turns rfl hchip (fun r _ hr hn => by
    unfold State.doTerm
    rw [hr, hn]
    exact hdo) (hl.trans h.noLoop) hb hp hw

end brxv

end Sys2Proof.Machine
end

section
/-! SUPPORT. `brv`, `join` and `brxv`, as runs of one word. -/

namespace Sys2Proof.Machine

/-! ### `brv` -/

theorem brv_falls (n : BitVec 1) (p : BitVec 3) (o : BitVec 20) (g : Mask) :
    Turns (.brv n p o) (fun _ e => e.c.grid.k.target (e.jump o) = true ∧ e.c.x.stack.length < 16 ∧
      (∀ l, l < 128 → g.getLsbD l = (e.c.x.path.getLsbD l && (e.pred l p != decide (n = 1)))) ∧ e.c.x.path &&& ~~~g ≠ 0)
      (fun _ e x => { x with stack := ⟨false, e.c.x.path, g, e.jump o, false, 0⟩ :: x.stack, m := e.c.x.path &&& ~~~g }) :=
  Turns.of (w := fun _ e => .ofTerm (.brv (e.jump o) g)) nofun (exec_brv n p o) (fun _ _ ⟨target, room, taken, _⟩ => State.brvWord_eq target (State.pushCond_room room) taken)
    fun _ _ _ h _ ⟨_, room, _, left⟩ => h.brv_falls room left

theorem brv_taken (n : BitVec 1) (p : BitVec 3) (o : BitVec 20) :
    Turns (.brv n p o) (fun _ e => e.c.grid.k.target (e.jump o) = true ∧ e.c.x.stack.length < 16 ∧
      ∀ l, l < 128 → e.c.x.path.getLsbD l = (e.c.x.path.getLsbD l && (e.pred l p != decide (n = 1))))
      (fun _ e x => { x with stack := ⟨false, e.c.x.path, 0, e.jump o, false, 0⟩ :: x.stack, m := e.c.x.path, pc := e.jump o }) :=
  Turns.of (w := fun _ e => .ofTerm (.brv (e.jump o) e.c.x.path)) nofun (exec_brv n p o) (fun _ _ ⟨target, room, taken⟩ => State.brvWord_eq target (State.pushCond_room room) taken)
    fun _ _ _ h path ⟨_, room, _⟩ => h.brv_taken room path

theorem brv_overflows (n : BitVec 1) (p : BitVec 3) (o : BitVec 20) :
    Faults (.brv n p o) (fun _ e => e.c.grid.k.target (e.jump o) = true ∧ 16 ≤ e.c.x.stack.length ∧ e.c.grid.k.spill < (e.c.x.spilled + 1) * spillEntries e.c.x.width)
      (fun _ e => e.condOn .stackovf e.c.x.path 0 .write 0 (BitVec.ofNat 64 e.c.grid.k.spill)) := by
  refine Faults.of (exec_brv n p o) (fun s e ⟨target, full, short⟩ => ?_) fun _ _ => ⟨rfl, Cause.noConfusion⟩
  have fails : s.pushFail e.q e.c = some ⟨.stackovf, BitVec.ofNat 64 e.c.grid.k.spill⟩ := (if_neg (Nat.not_lt.2 full)).trans (if_pos short)
  have stops : s.brvWord e n p o = .ofCond (e.condOn .stackovf e.c.x.path 0 .write 0 (BitVec.ofNat 64 e.c.grid.k.spill)) := by
    unfold State.brvWord State.pushCond
    rw [target, fails]
    rfl
  rw [stops]
  exact ⟨rfl, rfl, rfl⟩

/-! ### `join` -/

theorem join_turns : Turns .join (fun _ e => ∃ r rest, e.c.x.stack = r :: rest ∧ r.brxv = false ∧ r.pmask &&& e.c.x.live ≠ 0) (fun _ e x => match e.c.x.stack with
    | r :: rest => { x with m := r.pmask &&& e.c.x.live, pc := r.tpc, stack := { r with pmask := 0, jpc := if r.jv then r.jpc else e.self, jv := true } :: rest }
    | [] => x) :=
  Turns.of (w := fun _ _ => .ofTerm .join) nofun exec_join (fun _ _ ⟨_, _, top, _, pending⟩ => State.joinWord_pending top pending)
    fun s iss c h _ ⟨r, rest, top, kind, pending⟩ => by
      have top : c.x.stack = r :: rest := top
      have stack : (s.env iss c).c.x.stack = r :: rest := top
      rw [stack]
      exact h.joins (Term.join_onChip top (.inl pending)) (State.doJoin_brv (x := c.x.passed iss s.now) top kind pending _) rfl rfl rfl rfl rfl pending

theorem join_resumes : Turns .join (fun _ e => ∃ r rest, e.c.x.stack = r :: rest ∧ r.brxv = true ∧ r.pmask &&& e.c.x.live ≠ 0) (fun _ e x => match e.c.x.stack with
    | r :: _ => { x with m := r.pmask &&& e.c.x.live, pc := r.tpc, resuming := true }
    | [] => x) :=
  Turns.of (w := fun _ _ => .ofTerm .join) nofun exec_join (fun _ _ ⟨_, _, top, _, pending⟩ => State.joinWord_pending top pending)
    fun s iss c h _ ⟨r, rest, top, kind, pending⟩ => by
      have top : c.x.stack = r :: rest := top
      have stack : (s.env iss c).c.x.stack = r :: rest := top
      rw [stack]
      exact h.joins (Term.join_onChip top (.inl pending)) (State.doJoin_brxv (x := c.x.passed iss s.now) top kind pending _) rfl rfl rfl rfl rfl pending

theorem join_pops : Turns .join (fun _ e => ∃ r rest, e.c.x.stack = r :: rest ∧ r.pmask &&& e.c.x.live = 0 ∧ r.rmask &&& e.c.x.live ≠ 0 ∧ (rest ≠ [] ∨ e.c.x.spilled = 0))
    (fun _ e x => match e.c.x.stack with
    | r :: rest => { x with m := r.rmask &&& e.c.x.live, stack := rest }
    | [] => x) :=
  Turns.of (w := fun _ _ => .ofTerm .join) nofun exec_join (fun _ _ ⟨_, _, top, gone, _, left⟩ => State.joinWord_pop top gone left)
    fun s iss c h _ ⟨r, rest, top, gone, waiting, left⟩ => by
      have top : c.x.stack = r :: rest := top
      have stack : (s.env iss c).c.x.stack = r :: rest := top
      have past : (s.env iss c).self + 4 = iss.addr + BitVec.ofNat 64 iss.len := BitVec.sub_add_cancel ..
      have popped := h.doJoin_pop (x := c.x.passed iss s.now) top rfl left h.noLoop gone (s.env iss c).self
      rw [past] at popped
      rw [stack]
      exact h.joins (Term.join_onChip top (.inr left)) popped rfl rfl rfl rfl rfl waiting

theorem join_faults : Faults .join (fun _ e => e.c.x.stack = []) (fun _ e => e.cond .operand 0 e.iss.detail) := fun s iss c h empty => h.operand exec_join (by
  unfold State.joinWord
  rw [empty])

/-! ### `brxv` -/

section brxv

variable (a b : Reg) (tb : Table) (low : Nat) (v : W64) (g : Mask)

/-- A table that every lane of the path can use (R130, R131). -/
def State.usable (s : State) (e : Env) : Prop :=
  s.table e (e.srcS a) ((Mask.lanes e.c.x.path).map (fun l => (e.src b l).toNat)) = .ok tb ∧
    s.tableBarred e (e.srcS a) tb.n ((Mask.lanes e.c.x.path).map (fun l => (e.src b l).toNat)) = [] ∧ e.c.grid.k.target tb.join = true ∧
    ∀ l ∈ Mask.lanes e.c.x.path, ∃ t, tb.target (e.src b l).toNat = some t ∧ e.c.grid.k.target t = true

/-- The lowest index on the path, its target and its lanes. -/
def Env.lowest (e : Env) : Prop :=
  ((∃ l ∈ Mask.lanes e.c.x.path, (e.src b l).toNat = low) ∧ ∀ l ∈ Mask.lanes e.c.x.path, low ≤ (e.src b l).toNat) ∧ tb.target low = some v ∧
    ∀ l, l < 128 → g.getLsbD l = (e.c.x.path.getLsbD l && decide ((e.src b l).toNat = low))

variable {a b tb low v g}

theorem Env.lowest.word {s : State} {e : Env} (h : e.lowest b tb low v g) (usable : s.usable a b tb e) (hpush : e.c.x.resuming = true ∨ e.c.x.stack.length < 16) :
    s.brxvWord e a b = .ofTerm (.brxv g v tb.join) := by
  obtain ⟨⟨reached, least⟩, target, group⟩ := h
  obtain ⟨table, routed, join, targets⟩ := usable
  exact State.brxvWord_eq table routed join targets hpush reached least target group

/-- They are lanes of the path, and there is one. -/
theorem Env.lowest.path {e : Env} (h : e.lowest b tb low v g) {y : Warp} (hl : y.live = e.c.x.live) (hm : y.m = g) : y.path ≠ 0 := by
  obtain ⟨⟨⟨l, on, same⟩, -⟩, -, group⟩ := h
  have lane := mem_lanes.1 on
  have below : l < 128 := by
    by_contra beyond
    rw [BitVec.getLsbD_of_ge _ _ (not_lt.1 beyond)] at lane
    cases lane
  have held : g.getLsbD l = true := by rw [group l below, lane, decide_eq_true same]; rfl
  rw [Warp.path_within (x := e.c.x) hl hm fun k hk on => by rw [group k hk, Bool.and_eq_true] at on; exact on.1]
  intro none
  rw [none] at held
  simp at held

end brxv

theorem brxv_pushes (a b : Reg) (tb : Table) (low : Nat) (v : W64) (g : Mask) :
    Turns (.brxv a b) (fun s e => s.usable a b tb e ∧ e.c.x.resuming = false ∧ e.c.x.stack.length < 16 ∧ e.lowest b tb low v g)
      (fun _ e x => { x with stack := ⟨true, e.c.x.path, e.c.x.path &&& ~~~g, e.self, true, tb.join⟩ :: x.stack, m := g, pc := v }) :=
  Turns.of (w := fun _ _ => .ofTerm (.brxv g v tb.join)) nofun (exec_brxv a b) (fun _ _ ⟨usable, _, room, lowest⟩ => lowest.word usable (.inr room))
    fun s iss c h _ ⟨_, fresh, room, lowest⟩ =>
      h.brxvs (.inr room) (h.doBrxv_push (x := c.x.passed iss s.now) rfl fresh room _) rfl rfl (lowest.path rfl rfl) rfl

theorem brxv_resumes (a b : Reg) (tb : Table) (low : Nat) (v : W64) (g : Mask) (r : Rec) (rest : List Rec) :
    Turns (.brxv a b) (fun s e => s.usable a b tb e ∧ e.c.x.resuming = true ∧ e.c.x.stack = r :: rest ∧ e.lowest b tb low v g)
      (fun _ e x => { x with stack := { r with pmask := e.c.x.path &&& ~~~g } :: rest, resuming := false, m := g, pc := v }) :=
  Turns.of (w := fun _ _ => .ofTerm (.brxv g v tb.join)) nofun (exec_brxv a b) (fun _ _ ⟨usable, more, _, lowest⟩ => lowest.word usable (.inl more))
    fun s iss c h _ ⟨_, more, top, lowest⟩ =>
      h.brxvs (.inl more) (State.doBrxv_resume (x := c.x.passed iss s.now) more top _) rfl rfl (lowest.path rfl rfl) rfl

end Sys2Proof.Machine
end

section
/-! SUPPORT. A record that enters the spill area: the place of its entry, its bytes, and the store that writes it (R122, R123). -/

namespace Sys2Proof.Machine

/-! ### Places, whatever a warp holds -/

section held

variable {s : State} {q : Nat} {w : WRef} {x : Warp}

theorem State.held_walkAt (va fuel level table : Nat) : (s.held q w x (s.part q).cores).walkAt q va fuel level table = s.walkAt q va fuel level table := by
  induction fuel generalizing level table with
  | zero => rfl
  | succ fuel ih =>
    have bytes (pa n : Nat) : (s.held q w x (s.part q).cores).rdHomeL q pa n = s.rdHomeL q pa n := List.map_congr_left fun i _ => State.held_rdHome _
    unfold State.walkAt
    dsimp only
    rw [bytes, State.held_isUe, ih]
    rfl

theorem State.held_walk (va : Nat) : (s.held q w x (s.part q).cores).walk q va = s.walk q va := by
  unfold State.walk
  dsimp only
  rw [State.held_part, State.held_walkAt]
  rfl

theorem State.held_translate (g va : Nat) : (s.held q w x (s.part q).cores).translate q g va = s.translate q g va := by
  unfold State.translate
  rw [State.held_part, State.held_walk]
  rfl

/-- A warp that changes leaves where accesses land. -/
theorem State.held_resolve (b : Block) (va : W64) (n : Nat) (need : Need) : (s.held q w x (s.part q).cores).resolve q b va n need = s.resolve q b va n need := by
  unfold State.resolve
  rw [State.held_part, State.held_translate]
  rfl

theorem State.held_anyBad : (s.held q w x (s.part q).cores).anyBad q = s.anyBad q := by
  unfold State.anyBad
  rw [State.held_part]
  rfl

end held

/-! ### A store where no line is parked -/

section store

variable {s : State} {q : Nat} (hd : (s.part q).dir = [])
include hd

theorem State.wrLoc_unparked (g pa : Nat) (b : Byte) :
    s.wrLoc q g (.dev pa) b = (s.modPart q (fun p => p.setCore g ((p.core g).l1Update false pa b))).wrDram q pa b := by
  have dir : ((s.modPart q (fun p => p.setCore g ((p.core g).l1Update false pa b))).part q).dir = [] := by rw [State.modPart_part]; exact hd
  unfold State.wrLoc Part.parked
  dsimp only
  rw [dir]
  rfl

theorem Part.IgnoresCaches.wrLoc_unparked {α : Type} {f : Part → α} (hf : Part.IgnoresCaches f) (g pa : Nat) (b : Byte) : State.SameView f s (s.wrLoc q g (.dev pa) b) := by
  rw [State.wrLoc_unparked hd]
  exact (State.SameView.modPart s q fun p => hf.cache p g ((p.core g).l1Update false pa b) ⟨rfl, rfl⟩).trans fun _ => rfl

theorem State.wrLoc_dir (g pa : Nat) (b : Byte) : ((s.wrLoc q g (.dev pa) b).part q).dir = [] := (Part.dir_ignoresCaches.wrLoc_unparked hd g pa b q).trans hd

theorem Part.IgnoresCaches.wrLocL_unparked {α : Type} {f : Part → α} (hf : Part.IgnoresCaches f) (g pa : Nat) (bs : List Byte) : State.SameView f s (s.wrLocL q g (.dev pa) bs) := by
  induction bs generalizing s pa with
  | nil => exact .refl s
  | cons b bs ih => exact (hf.wrLoc_unparked hd g pa b).trans (ih (State.wrLoc_dir hd g pa b) (pa + 1))

/-- Its bytes enter DRAM, each at its place. -/
theorem State.rd_dram_wrLocL (g pa : Nat) (bs : List Byte) (k : Nat) : Sparse.rd (s.wrLocL q g (.dev pa) bs).dram k = dramAfter s q (devBytes pa bs) k (Sparse.rd s.dram k) := by
  induction bs generalizing s pa with
  | nil => rfl
  | cons b bs ih =>
    have keys (a : Nat) : (s.wrLoc q g (.dev pa) b).dramKey q a = s.dramKey q a := by rw [State.wrLoc_unparked hd]; rfl
    have written : Sparse.rd (s.wrLoc q g (.dev pa) b).dram k = if s.dramKey q pa = k then b else Sparse.rd s.dram k := by
      rw [State.wrLoc_unparked hd]
      exact Sparse.rd_wr ..
    rw [devBytes_cons, dramAfter_cons_dev]
    exact (ih (State.wrLoc_dir hd g pa b) (pa + 1)).trans (by rw [written, dramAfter_congr keys])

theorem State.wrLocL_hostMem (g pa : Nat) (bs : List Byte) : (s.wrLocL q g (.dev pa) bs).hostMem = s.hostMem := by
  induction bs generalizing s pa with
  | nil => rfl
  | cons b bs ih => exact (ih (State.wrLoc_dir hd g pa b) (pa + 1)).trans (by rw [State.wrLoc_unparked hd]; rfl)

/-- The value that other paths may still see is noted, the bytes are written, and copies elsewhere go. -/
theorem State.store_unparked (g : Nat) (pay : Payer) (pa : Nat) (bs : List Byte) : s.store q g pay (.dev pa) bs =
    ((s.lagging q pathLS none (.dev pa) bs).wrLocL q g (.dev pa) bs).dropCopies q pay (some (cluOf g)) (.dev pa) bs.length := by
  have parked : (linesOf pa bs.length).foldl (fun (s : State) n => s.unpark q pay n) s = s :=
    List.foldlRecOn _ _ (motive := fun t => t = s) rfl fun t e n _ => by rw [e]; exact State.unpark_of_unparked hd pay n
  unfold State.store
  dsimp only
  rw [parked]

theorem State.lagging_dir (by_ : Nat) (cmd : Option (WRef × Nat)) (l : Loc) (bs : List Byte) : ((s.lagging q by_ cmd l bs).part q).dir = [] := by
  unfold State.lagging
  rw [State.modPart_part]
  exact hd

theorem Part.IgnoresLoads.store {α : Type} {f : Part → α} (hf : Part.IgnoresLoads f) (g : Nat) (pay : Payer) (pa : Nat) (bs : List Byte) :
    State.SameView f s (s.store q g pay (.dev pa) bs) := by
  rw [State.store_unparked hd]
  exact ((State.SameView.modPart s q fun p => hf.lag p _).trans (hf.wrLocL_unparked (State.lagging_dir hd ..) g pa bs)).trans (hf.dropCopies _ q pay _ _ _)

theorem Wrote.store (g : Nat) (pay : Payer) (pa : Nat) (bs : List Byte) : Wrote s (s.store q g pay (.dev pa) bs) q (devBytes pa bs) where
  dram k := by
    rw [State.store_unparked hd, (State.dropCopies_memories ..).1, State.rd_dram_wrLocL (State.lagging_dir hd ..)]
    rfl
  host k := by
    rw [State.store_unparked hd, (State.dropCopies_memories ..).2, State.wrLocL_hostMem (State.lagging_dir hd ..), hostAfter_devBytes]
    rfl
  scratch j k := by
    rw [scratchAfter_devBytes]
    exact congrArg (fun z => Sparse.rd z.2 k) ((Part.data_ignoresLoads j).store hd g pay pa bs q)

end store

/-! ### A record of up to 32 lanes -/

/-- The one entry of such a record (R123): its masks, then its addresses as words from the code's base, with KIND and JV. -/
def Rec.entry (r : Rec) (base : W64) : Nat :=
  let words (x : W64) := (x - base).toNat / 4 % 2 ^ 30
  r.rmask.toNat % 2 ^ 32 + r.pmask.toNat % 2 ^ 32 * 2 ^ 32 +
    (words r.tpc + (if r.brxv then 2 ^ 30 else 0) + (if r.jv then 2 ^ 31 else 0)) * 2 ^ 64 + (if r.jv then words r.jpc else 0) * 2 ^ 96

theorem spillEntries_narrow {w : Nat} (h : w ≤ 32) : spillEntries w = 1 := if_pos h

theorem Rec.encode_narrow (r : Rec) {w : Nat} (h : w ≤ 32) (base : W64) : r.encode w base = leBytes 16 (r.entry base) := by
  unfold Rec.encode Rec.entry
  simp only [spillEntries_narrow h]
  cases hk : r.brxv <;> cases hj : r.jv <;> simp [b2n, bits]

theorem length_leBytes (n v : Nat) : (leBytes n v).length = n := by rw [leBytes_eq_map, List.length_map, List.length_range]

theorem devBytes_leBytes (pa n v : Nat) : devBytes pa (leBytes n v) = (List.range n).map (fun j => (.dev (pa + j), BitVec.ofNat 8 (v / 2 ^ (8 * j)))) := by
  unfold devBytes
  rw [length_leBytes]
  refine List.map_congr_left fun j hj => ?_
  rw [leBytes_eq_map, List.getD_eq_getElem?_getD, List.getElem?_map, List.getElem?_range (List.mem_range.1 hj)]
  rfl

theorem spillIdx_narrow {w : Nat} (h : w ≤ 32) (i : Nat) : spillIdx w i = [i] := by
  unfold spillIdx
  rw [spillEntries_narrow h]
  simp

/-! ### The place of its entry -/

/-- A record's entry lands in device memory that can be written, with no error noted anywhere. -/
structure State.SpillsAt (s : State) (q : Nat) (c : Ctx) (pa : Nat) : Prop where
  place : ∃ lf, s.resolve q c.blk (spillAddr c.grid.k c.w c.x.spilled) 16 ⟨false, true, false⟩ = .ok (.dev pa, lf)
  good : s.anyBad q = false

section spills

variable {s : State} {q : Nat} {c : Ctx} {pa : Nat} (h : s.SpillsAt q c pa)

include h

theorem State.SpillsAt.held (x : Warp) : (s.held q c.w x (s.part q).cores).SpillsAt q c pa where
  place := by rw [State.held_resolve]; exact h.place
  good := State.held_anyBad.trans h.good

theorem State.SpillsAt.places (hw : c.x.width ≤ 32) : s.spillPlaces q c c.w ⟨false, true, false⟩ (spillIdx c.x.width c.x.spilled) = .ok [.dev pa] := by
  obtain ⟨lf, place⟩ := h.place
  have good : s.ueStore q c.w.core (.dev pa) = false := by rw [State.ueStore, h.good]; rfl
  rw [spillIdx_narrow hw]
  simp only [State.spillPlaces, place, good, if_true, Bool.false_eq_true, if_false]

theorem State.SpillsAt.write (hw : c.x.width ≤ 32) (r : Rec) : s.spillWrite q c c.w c.x.width c.x.spilled r =
    .ok (s.store q c.w.core ((s.part q).payerOf c.w) (.dev pa) (leBytes 16 (r.entry c.grid.k.codeBase))) := by
  unfold State.spillWrite
  rw [h.places hw, r.encode_narrow hw]
  simp only [List.length_singleton, List.range_one, List.foldl_cons, List.foldl_nil, Nat.mul_zero, List.drop_zero, List.getD_cons_zero]
  rw [List.take_of_length_le (length_leBytes _ _).le]

/-- A push into it does not fail where it has room. -/
theorem State.SpillsAt.pushFail (hw : c.x.width ≤ 32) (room : c.x.spilled + 1 ≤ c.grid.k.spill) : s.pushFail q c = none := by
  unfold State.pushFail
  dsimp only
  rw [spillEntries_narrow hw, Nat.mul_one, if_neg (Nat.not_lt.2 room)]
  split
  · rfl
  · split
    · rfl
    · rw [h.write hw]

end spills

end Sys2Proof.Machine
end

section
/-! SUPPORT. A `brv` that pushes with 16 records on chip, as a run of one word (R122, R127). -/

namespace Sys2Proof.Machine

/-! ### Packets of one access -/

/-- A sector of an access holds one of its bytes. -/
theorem mem_sectorsOf {pa n i : Nat} (h : i ∈ sectorsOf pa n) (hn : 0 < n) : ∃ j, j < n ∧ (pa + j) / 32 = i := by
  obtain ⟨k, hk, rfl⟩ := List.mem_map.1 h
  have below := List.mem_range.1 hk
  exact ⟨32 * k - pa % 32, by omega, by omega⟩

/-- The packets of a line take one route. -/
theorem State.barred_line (s : State) (q g pa : Nat) : s.barred q g (pa / 32 / 4 * 128) = s.barred q g pa := by
  have page : pa / 32 / 4 * 128 / 4096 = pa / 4096 := by omega
  unfold State.barred State.stackOf
  rw [page]

/-- A router drops no request of one access where it drops none for a byte of it. -/
theorem State.routed_piece {s : State} {q g pa : Nat} {x : Piece} (hx : x.loc = .dev pa) (hn : 0 < x.bytes.length) (h : ∀ j, j < x.bytes.length → s.barred q g (pa + j) = false)
    (cost : Nat → Nat × Nat × Nat) : (reqsOf g [x] (pieceSectors [x]) cost).filterMap (fun r => r.pa.filter (s.barred q g)) = [] := by
  refine List.filterMap_eq_nil_iff.2 fun r hr => ?_
  rcases List.mem_append.1 hr with lines | scratch
  · obtain ⟨y, hy, rfl⟩ := List.mem_map.1 lines
    obtain ⟨z, hz, rfl⟩ := List.mem_map.1 (List.mem_dedup.1 hy)
    simp only [pieceSectors, List.flatMap_cons, List.flatMap_nil, List.append_nil, hx, List.mem_dedup] at hz
    obtain ⟨i, hi, rfl⟩ := List.mem_map.1 hz
    obtain ⟨j, hj, rfl⟩ := mem_sectorsOf hi hn
    have passes := (s.barred_line q g (pa + j)).trans (h j hj)
    simp [Option.filter, passes]
  · obtain ⟨y, hy, hr⟩ := List.mem_filterMap.1 scratch
    rw [List.mem_singleton.1 hy, hx] at hr
    cases hr

/-! ### The push -/

section push

variable {s : State} {q : Nat} {c : Ctx} {pa : Nat} (h : s.SpillsAt q c pa) (narrow : c.x.width ≤ 32) (full : c.x.stack.length = 16)
include h narrow full

/-- A run of such a `brv` sends one packet, and walks for one address. -/
theorem State.SpillsAt.routed {r : Run} {t : W64} {g : Mask} (ha : r.acts = []) (ht : r.term = .brv t g) (walk : s.barredWalk q c.w.core (spillAddr c.grid.k c.w c.x.spilled) = [])
    (hr : ∀ j, j < 16 → s.barred q c.w.core (pa + j) = false) : s.runBarred q c r (s.requests q c r) = [] := by
  have pieces : s.spillPieces q c r = ([⟨0, spillAddr c.grid.k c.w c.x.spilled, .dev pa, none, List.replicate 16 0⟩], true) := by
    unfold State.spillPieces
    rw [ht]
    dsimp only
    rw [if_neg (by omega), h.places narrow, spillIdx_narrow narrow]
    rfl
  have sent : s.requests q c r = reqsOf c.w.core [⟨0, spillAddr c.grid.k c.w c.x.spilled, .dev pa, none, List.replicate 16 0⟩]
      (pieceSectors [⟨0, spillAddr c.grid.k c.w c.x.spilled, .dev pa, none, List.replicate 16 0⟩]) writeReq := by
    unfold State.requests
    rw [ha, ht, pieces]
    rfl
  unfold State.runBarred
  rw [sent, pieces, ha, State.routed_piece rfl (by simp) (by simpa using hr)]
  simp [walk]

/-- The oldest record enters the spill area, and the new one is on top. -/
theorem State.SpillsAt.push (hc : (s.part q).ctx c.w = some c) {old : Rec} (ho : c.x.stack.getLast? = some old) (r : Rec) :
    s.push q c.w r = (s.store q c.w.core ((s.part q).payerOf c.w) (.dev pa) (leBytes 16 (old.entry c.grid.k.codeBase))).modW q c.w
      (fun x => { x with stack := r :: x.stack.dropLast, spilled := x.spilled + 1 }) := by
  unfold State.push
  rw [hc]
  dsimp only
  rw [if_neg (by omega), ho]
  dsimp only
  rw [h.write narrow]
  rfl

end push

/-! ### A state after a store -/

theorem State.modW_of_warp {s : State} {q : Nat} {w : WRef} {x : Warp} (h : (s.part q).warp w = some x) (f : Warp → Warp) :
    s.modW q w f = s.modPart q (fun p => p.setWarp w (f x)) := by
  unfold State.modW State.modPart Part.modWarp
  dsimp only
  rw [h]

theorem State.setWarp_modW (s : State) (q : Nat) (w : WRef) (x : Warp) (f : Warp → Warp) :
    (s.modPart q (fun p => p.setWarp w x)).modW q w f = s.modPart q (fun p => p.setWarp w (f x)) := by
  rw [State.modW_of_warp (by rw [State.modPart_part, Part.setWarp_warp]), State.modPart_modPart]
  simp only [Part.setWarp_setWarp]

/-- Outside bodies the test for the end of one changes nothing. -/
theorem State.setWarp_loopTest {s : State} {q : Nat} {c : Ctx} {r : Run} (hr : r.term.control = true) {w : WRef} (hw : c.w = w) {x : Warp} (hl : x.levels = []) :
    (s.modPart q (fun p => p.setWarp w x)).loopTest q c r = s.modPart q (fun p => p.setWarp w x) := by
  subst hw
  rw [State.loopTest_control hr]
  split
  · rfl
  · rw [State.setWarp_modW, Warp.loopEnd_outside (by rw [hl]; nofun)]

/-- Bytes written, and then what writes none. -/
theorem Wrote.before {s s' t : State} {q : Nat} {l : List (Loc × Byte)} (wrote : Wrote s s' q l) (h : s'.SameMemories t)
    (scratch : ∀ g, ((t.part q).core g).scratch = ((s'.part q).core g).scratch) : Wrote s t q l :=
  ⟨fun k => by rw [h.1, wrote.dram], fun k => by rw [h.2, wrote.host], fun g k => by rw [scratch, wrote.scratch]⟩

section stored

variable {s u : State} {i : Instr} {iss : Issue} {c : Ctx} (h : Alone s i iss c) {x : Warp} (same : State.SameView Part.fixed (s.turned iss c x) u) (hb : x.block = c.x.block)
include h same hb

/-- The context of the warp in a state that differs from the turned one in neither the work, the swaps nor the directory. -/
theorem Alone.fixed_ctx {y : Warp} (hy : y.block = c.x.block) : ((u.modPart iss.q (fun p => p.setWarp c.w y)).part iss.q).ctx c.w = some { c with x := y } := by
  have roster : (u.part iss.q).roster = ((s.turned iss c x).part iss.q).roster := congrArg (fun z => z.1) (same iss.q)
  rw [State.modPart_part]
  exact Part.setWarp_ctx ((Part.ctx_of_roster roster c.w).trans (h.turned_ctx hb)) (hy.trans hb.symm)

/-- What follows a commit changes nothing in it where the warp has a lane on its path. -/
theorem Alone.fixed_afterCommit (hx : x.wait = c.x.wait) {y : Warp} (hy : y.block = c.x.block) (hw : y.wait = c.x.wait) (hp : y.path ≠ 0) {r : Run} (hr : r.term.control = true) :
    (u.modPart iss.q (fun p => p.setWarp c.w y)).afterCommit iss.q c.w r = u.modPart iss.q (fun p => p.setWarp c.w y) := by
  obtain ⟨-, untrapped, -, -⟩ := Term.control_quiet hr
  have part : (s.turned iss c x).part iss.q = (s.part iss.q).holding c.w x (s.part iss.q).cores := State.held_part ..
  have swaps : (u.part iss.q).swaps = [] := (congrArg (fun z => z.2.1) (same iss.q)).trans (by rw [part]; exact h.unswapped)
  have warps : (u.part iss.q).warps = AMap.wr (s.part iss.q).warps (wkey c.w) x := (congrArg (fun z => z.1.1) (same iss.q)).trans (by rw [part]; rfl)
  refine State.afterCommit_same (h.fixed_ctx same hb hy) hp (by rw [State.modPart_part]; exact swaps) untrapped fun z hz => ?_
  rw [State.modPart_part, Part.setWarp, warps] at hz
  rcases AMap.mem_wr hz with rfl | old
  · rw [hw]; exact h.noAbwait
  · rcases AMap.mem_wr old with rfl | older
    · rw [hx]; exact h.noAbwait
    · exact h.noObject z older

/-- Nor does it stand still on a reload. -/
theorem Alone.fixed_unstuck {y : Warp} (hy : y.block = c.x.block) (hp : y.path ≠ 0) (before : List Lag) :
    ((u.modPart iss.q (fun p => p.setWarp c.w y)).modPart iss.q (fun p => p.lagOnce before)).stuck iss.q c.w = none := by
  have roster := congrArg (fun z => z.1) (Part.fixed_ignoresLoads.lagOnce ((u.modPart iss.q (fun p => p.setWarp c.w y)).part iss.q) before)
  unfold State.stuck
  rw [State.modPart_part, Part.ctx_of_roster roster c.w, h.fixed_ctx same hb hy]
  exact if_pos (.inr hp)

end stored

/-! ### A `brv` that spills -/

/-- The state with the oldest record's entry stored, the warp being `x`. -/
def State.spilledTo (s : State) (iss : Issue) (c : Ctx) (x : Warp) (pa : Nat) (old : Rec) : State :=
  (s.turned iss c x).store iss.q c.w.core (((s.turned iss c x).part iss.q).payerOf c.w) (.dev pa) (leBytes 16 (old.entry c.grid.k.codeBase))

/-- The warp as such a `brv` leaves it. -/
def Warp.branchedFull (x : Warp) (t : W64) (g : Mask) : Warp :=
  { x with stack := ⟨false, x.path, g, t, false, 0⟩ :: x.stack.dropLast, spilled := x.spilled + 1, m := x.path &&& ~~~g }

/-- … and the whole state. -/
def State.brvSpilled (s : State) (iss : Issue) (c : Ctx) (pa : Nat) (old : Rec) (t : W64) (g : Mask) : State :=
  (s.spilledTo iss c (c.x.passed iss s.now) pa old).modPart iss.q (fun p => p.setWarp c.w ((c.x.passed iss s.now).branchedFull t g))

section unparked

variable {s : State} {iss : Issue} (hd : (s.part iss.q).dir = []) (c : Ctx) (x : Warp) (pa : Nat) (old : Rec)
include hd

theorem State.turned_dir : ((s.turned iss c x).part iss.q).dir = [] := by
  unfold State.turned
  rw [State.held_part]
  exact hd

theorem State.spilledTo_fixed : State.SameView Part.fixed (s.turned iss c x) (s.spilledTo iss c x pa old) :=
  Part.fixed_ignoresLoads.store (State.turned_dir hd c x) c.w.core _ pa _

/-- The entry's bytes enter memory, and nothing else does. -/
theorem State.brvSpilled_wrote (t : W64) (g : Mask) (before : List Lag) : Wrote s ((s.brvSpilled iss c pa old t g).modPart iss.q (fun p => p.lagOnce before)) iss.q
    (devBytes pa (leBytes 16 (old.entry c.grid.k.codeBase))) := by
  have stored := Wrote.store (State.turned_dir hd c (c.x.passed iss s.now)) c.w.core (((s.turned iss c (c.x.passed iss s.now)).part iss.q).payerOf c.w) pa
    (leBytes 16 (old.entry c.grid.k.codeBase))
  have scratch (j : Nat) : (((s.turned iss c (c.x.passed iss s.now)).part iss.q).core j).scratch = ((s.part iss.q).core j).scratch := by
    unfold State.turned
    rw [State.held_part]
    rfl
  refine (Wrote.after (s := s) (s' := s.turned iss c (c.x.passed iss s.now)) ⟨rfl, rfl⟩ scratch (fun _ => rfl) stored).before ⟨rfl, rfl⟩ fun j => ?_
  rw [State.modPart_part]
  refine (congrArg (fun z => z.2) ((Part.data_ignoresLoads j).lagOnce _ before)).trans ?_
  unfold State.brvSpilled
  rw [State.modPart_part]
  rfl

end unparked

theorem Part.warp_of_roster {p r : Part} (h : r.roster = p.roster) (w : WRef) : r.warp w = p.warp w :=
  congrArg (fun z : AMap Warp × List Block × List Gang × List Grid => AMap.find z.1 (wkey w)) h

/-- The warp of a partition after the values that other paths may miss are noted. -/
theorem Part.lagOnce_warp (p : Part) (before : List Lag) (w : WRef) : (p.lagOnce before).warp w = p.warp w :=
  Part.warp_of_roster (congrArg (fun z => z.1) (Part.fixed_ignoresLoads.lagOnce p before)) w

section lone

variable {s : State} {i : Instr} {iss : Issue} {c : Ctx} (h : Lone s i iss c) {pa : Nat} (place : (s.begun iss c).SpillsAt iss.q c pa)
  {old : Rec} {t : W64} {g : Mask} (narrow : c.x.width ≤ 32) (full : c.x.stack.length = 16) (ho : c.x.stack.getLast? = some old) (hd : (s.part iss.q).dir = [])
include h place narrow full

omit narrow full in
theorem Lone.turned_spillsAt (x : Warp) : (s.turned iss c x).SpillsAt iss.q c pa := by
  rw [h.begun] at place
  exact place.held x

section run

variable {r : Run} (hr : s.runWith iss c (.ofTerm (.brv t g)) = r)
include hr

/-- A router drops none of its packets. -/
theorem Lone.brv_routed (walk : s.barredWalk iss.q c.w.core (spillAddr c.grid.k c.w c.x.spilled) = []) (routed : ∀ j, j < 16 → s.barred iss.q c.w.core (pa + j) = false) :
    (s.turned iss c (c.x.queued s.now r)).runBarred iss.q (c.queued s.now r) r ((s.turned iss c (c.x.queued s.now r)).requests iss.q (c.queued s.now r) r) = [] := by
  obtain ⟨land, good⟩ := h.turned_spillsAt place (c.x.queued s.now r)
  exact State.SpillsAt.routed (c := c.queued s.now r) ⟨land, good⟩ narrow full (hr ▸ h.toAlone.runWith_acts _) (hr ▸ h.toAlone.runWith_term _)
    ((State.held_barredWalk ..).trans walk) routed

omit full in
/-- Its push does not fail. -/
theorem Lone.brv_unfailed (room : c.x.spilled + 1 ≤ c.grid.k.spill) : (s.turned iss c (c.x.passed iss s.now)).commitFail iss.q (c.queued s.now r) r = none := by
  obtain ⟨land, good⟩ := h.turned_spillsAt place (c.x.passed iss s.now)
  have fails : (s.turned iss c (c.x.passed iss s.now)).pushFail iss.q { c with x := c.x.passed iss s.now } = none :=
    State.SpillsAt.pushFail (c := { c with x := c.x.passed iss s.now }) ⟨land, good⟩ narrow room
  have ctx : ((s.turned iss c (c.x.passed iss s.now)).part iss.q).ctx (c.queued s.now r).w = some { c with x := c.x.passed iss s.now } := h.toAlone.turned_ctx rfl
  have term : r.term = .brv t g := hr ▸ h.toAlone.runWith_term _
  unfold State.commitFail
  rw [term, ctx]
  dsimp only
  rw [fails]
  rfl

end run

include ho hd

theorem Lone.doTerm_brv_spills {r : Run} (hr : r.term = .brv t g) (x0 : Warp) (k : Core) :
    (s.turned iss c (c.x.passed iss s.now)).doTerm iss.q c.w r x0 k = s.brvSpilled iss c pa old t g := by
  obtain ⟨land, good⟩ := h.turned_spillsAt place (c.x.passed iss s.now)
  have at_ : (s.turned iss c (c.x.passed iss s.now)).SpillsAt iss.q { c with x := c.x.passed iss s.now } pa := ⟨land, good⟩
  have pushed : (s.turned iss c (c.x.passed iss s.now)).push iss.q c.w ⟨false, (c.x.passed iss s.now).path, g, t, false, 0⟩ =
      (s.spilledTo iss c (c.x.passed iss s.now) pa old).modW iss.q c.w
        (fun x => { x with stack := ⟨false, (c.x.passed iss s.now).path, g, t, false, 0⟩ :: x.stack.dropLast, spilled := x.spilled + 1 }) :=
    at_.push narrow full (h.toAlone.turned_ctx rfl) ho _
  have warp : ((s.spilledTo iss c (c.x.passed iss s.now) pa old).part iss.q).warp c.w = some (c.x.passed iss s.now) :=
    (Part.warp_of_roster (congrArg (fun z => z.1) (State.spilledTo_fixed hd c _ pa old iss.q)) c.w).trans (State.turned_warp ..)
  rw [State.doTerm_brv hr, pushed, State.modW_of_warp warp, State.setWarp_modW]
  rfl

/-- A `brv` with lanes that fall through, whose push spills the oldest record. -/
theorem Lone.brv_spills (room : c.x.spilled + 1 ≤ c.grid.k.spill) (hp : c.x.path &&& ~~~g ≠ 0)
    (walk : s.barredWalk iss.q c.w.core (spillAddr c.grid.k c.w c.x.spilled) = []) (routed : ∀ j, j < 16 → s.barred iss.q c.w.core (pa + j) = false) :
    s.issued iss c (.ofTerm (.brv t g)) = (s.brvSpilled iss c pa old t g).modPart iss.q (fun p => p.lagOnce (s.part iss.q).lag) := by
  have control : (s.runWith iss c (.ofTerm (.brv t g))).term.control = true := by rw [h.toAlone.runWith_term]; rfl
  have path : ((c.x.passed iss s.now).branchedFull t g).path ≠ 0 := by
    rw [Warp.path_without (x := c.x) (y := (c.x.passed iss s.now).branchedFull t g) rfl rfl]
    exact hp
  have fixed := State.spilledTo_fixed hd c (c.x.passed iss s.now) pa old
  rw [h.toAlone.issued_commits rfl rfl (h.loopCond_none ..)
    (h.brv_routed place narrow full rfl walk routed)]
  refine h.toAlone.commit_ends rfl rfl (h.brv_unfailed place narrow rfl room) (fun k => ?_)
    (h.toAlone.fixed_unstuck fixed rfl (y := (c.x.passed iss s.now).branchedFull t g) rfl path _)
  rw [h.doTerm_brv_spills place narrow full ho hd (h.toAlone.runWith_term _)]
  unfold State.brvSpilled
  rw [State.setWarp_loopTest (c := c.queued s.now _) (w := c.w) (x := (c.x.passed iss s.now).branchedFull t g) control rfl h.noLoop]
  exact h.toAlone.fixed_afterCommit fixed rfl rfl (y := (c.x.passed iss s.now).branchedFull t g) rfl rfl path control

end lone

end Sys2Proof.Machine
end

section
/-! SUPPORT. Settles O26. -/

namespace Sys2Proof.Machine

/-- Settles O26: each operation of a path on records on chip is one step of its warp, which `turned` states carry through a run's close, commit and unwind; and a push with 16
of them is such a step on the state in which the oldest one's entry has been stored. -/
theorem divergence : Obligations.Divergence := by
  intro n p o a b
  refine ⟨brv_falls n p o, brv_taken n p o, join_turns, join_resumes, join_pops, join_faults, ?pushes, ?resumes, brv_overflows n p o, ?spills⟩
  case pushes =>
    intro tb low v g s iss c h ⟨usable, fresh, room, lowest, target, group⟩
    exact brxv_pushes a b tb low v g s iss c h ⟨usable, fresh, room, lowest, target, group⟩
  case resumes =>
    intro tb low v g r rest s iss c h ⟨usable, more, top, lowest, target, group⟩
    exact brxv_resumes a b tb low v g r rest s iss c h ⟨usable, more, top, lowest, target, group⟩
  case spills =>
    intro s iss c g old pa lf h target taken left full last narrow room hd good at_ land walk routed words entry
    have place : (s.begun iss c).SpillsAt iss.q c pa := ⟨⟨lf, land⟩, by rw [h.begun]; exact good⟩
    have word : (s.begun iss c).brvWord (s.env iss c) n p o = .ofTerm (.brv ((s.env iss c).jump o) g) := by
      have fails : (s.begun iss c).pushFail iss.q c = none := place.pushFail narrow room
      refine State.brvWord_eq target ?_ taken
      unfold State.pushCond
      exact congrArg (Option.map _) fails
    have spilled := h.brv_spills place (t := (s.env iss c).jump o) narrow full last hd room left walk routed
    refine ⟨_, by rw [exec_brv, withWord_issues h.toIssues, word], ?_, ?_⟩
    · rw [spilled, State.modPart_part, Part.lagOnce_warp, State.brvSpilled, State.modPart_part, Part.setWarp_warp]
      rfl
    · rw [spilled]
      have wrote := State.brvSpilled_wrote hd c pa old ((s.env iss c).jump o) g (s.part iss.q).lag
      rwa [devBytes_leBytes] at wrote

end Sys2Proof.Machine
end
